-- ==== Sys2Proof/Word.lean ====
section
/-! DEFINITION. Word.lean: the word types of the VR-960 (R8, R67, R179) and the small finite names that
instructions and events carry. -/

namespace Sys2Proof

/-- A 64-bit scalar value: an x or a register, a main-memory word, a packet operand. -/
abbrev Word := BitVec 64
/-- One byte. -/
abbrev Byte := BitVec 8
/-- One aligned 64-byte row, or a vector register: byte j is bits [8j+7:8j] (R2, R179). -/
abbrev Row := BitVec 512
/-- An element predicate register of 128 bits (R67). -/
abbrev Pred := BitVec 128

/-- The engine classes of a core (R8, R133): AP 0, XP 1, MX 2. -/
inductive Eng where
  | ap | xp | mx
  deriving DecidableEq, Repr, Inhabited

/-- The repeat count of a block header (R51): an immediate, or the x register that holds it. -/
inductive Count where
  | imm (rep : BitVec 10)
  | reg (x : BitVec 5)
  deriving DecidableEq, Repr, Inhabited

/-- Who a bank serves in a BANK_ACCESS (R227): an access a stream has issued, or an admitted drill row. -/
inductive BankSrc where
  | stream (e : Eng)
  | drillRow
  deriving DecidableEq, Repr, Inhabited

/-- The three queues of a copy unit (R254). -/
inductive CopyQueue where
  | ldq | stq | cmq
  deriving DecidableEq, Repr, Inhabited

/-- Where a sample comes from (R102): a source port or the receiving agent of a link. -/
inductive SampleSrc where
  | port (n : Nat)
  | link (l : Nat)
  deriving DecidableEq, Repr, Inhabited

/-- Who asked for a translation that is being walked or served (R309, R314, R315, R334). -/
inductive Requester where
  | ap (pcn : Nat)
  | drill (n : Nat)
  | queue (q : Nat)
  deriving DecidableEq, Repr, Inhabited

/-- What an access to a listed old frame does (R325). -/
inductive RemoteOp where
  | readRow
  | writeRow (data : Row)
  | atomicAdd (add : Word)
  deriving DecidableEq, Repr, Inhabited

/-- An access from any party that reaches a memory-link agent at a device-global physical address (R325). -/
structure RemoteAccess where
  addr : Nat
  op   : RemoteOp
  deriving DecidableEq, Repr, Inhabited

/-- What the helm's meters read over one period (R382, R384): the nanojoules charged to the four rails and to the service
and I/O supply, the all-zero sectors that the memory links elided, the nanojoules of the toggles that inverted words saved,
and the 64 cluster junction temperatures in 1/16 °C. -/
structure PowerMeter where
  rails   : List Nat
  service : Nat
  elided  : Nat
  saved   : Nat
  temps   : List Nat
  deriving DecidableEq, Repr, Inhabited

/-- What of a function the host writes (R368 to R370): its BAR2 and BAR4 addresses, of a physical function BAR0 too, its command
and MSI-X control registers, an entry of its MSI-X table; an IDE stream key change and a link down befall a virtual function
as such a write does. -/
inductive VfReg where
  | bar0
  | bar2
  | bar4
  | command
  | msixControl
  | vector (n : Nat)
  | keyChange
  | linkDown
  deriving DecidableEq, Repr, Inhabited

/-- A write of a register of a function (R368): 64 × port + n virtual function n, 128 + port a physical function. -/
structure VfWrite where
  vf    : Nat
  reg   : VfReg
  value : BitVec 128
  deriving DecidableEq, Repr, Inhabited

/-- A turn of the shootdown (R317): a die's SDCTL is written, or the request under way takes its next step. -/
inductive SdTurn where
  | write (die : Nat) (w : Word)
  | serve
  deriving DecidableEq, Repr, Inhabited

/-- A queue's doorbell as a function of the host reaches it (R368): 0 the physical function, n + 1 virtual function n. -/
structure Bell where
  fn    : Nat
  queue : Nat
  deriving DecidableEq, Repr, Inhabited

/-- A privileged register by its number on the command port (R375), with the die that SDVA and SDCTL are of (R317). -/
structure DieReg where
  die : Nat
  num : BitVec 16
  deriving DecidableEq, Repr, Inhabited

/-- The number of an engine class as `sys.id` reads it (R133). -/
def Eng.num : Eng → Nat
  | .ap => 0
  | .xp => 1
  | .mx => 2

/-- Byte j of a row (R2). -/
def Row.byte (r : Row) (j : Nat) : Byte := (r >>> (8 * j)).setWidth 8

/-- A row from its 64 bytes, byte 0 first; bytes past the 64th are dropped. -/
def Row.ofBytes (f : Nat → Byte) : Row :=
  (List.range 64).foldl (fun acc j => acc ||| ((f j).setWidth 512 <<< (8 * j))) 0

/-- Lane k of width w of a register (R179): bits [w(k+1)−1 : wk]. -/
def Row.lane (w : Nat) (r : Row) (k : Nat) : BitVec w := (r >>> (w * k)).setWidth w

/-- A register from its lanes: lane k of `f` in bits [w(k+1)−1 : wk], for the 512 div w lanes. -/
def Row.ofLanes (w : Nat) (f : Nat → BitVec w) : Row :=
  (List.range (512 / w)).foldl (fun acc k => acc ||| ((f k).setWidth 512 <<< (w * k))) 0

end Sys2Proof
end

