-- ==== Sys2Proof/Syntax.lean ====
section
/-! DEFINITION. Syntax.lean: every operation and event of the opcode table, one constructor each. A constructor of
an instruction word holds the fields of its encoding under the table's own letters (i the issue qualifier IQ of R49;
d, a, b the register fields of R48); a constructor of an event names the unit the event befalls and what the outside
world brings with it. -/

namespace Sys2Proof

/-- The operations and events of the VR-960. -/
inductive Instr where
  /-- BLOCK_PLAIN (R52): Enters a plain block whose repeat count is an immediate, after the entry checks, and runs its body count times. -/
  | blockPlain (l : BitVec 10) (r : BitVec 10)
  /-- BLOCK_PLAIN_REG (R53): Enters a plain block whose repeat count is read from an x register after every earlier write to it. -/
  | blockPlainReg (l : BitVec 10) (x : BitVec 5)
  /-- BLOCK_STRIDED (R57): Enters a strided loop block with its extension word, and applies the register strides at the end of every iteration. -/
  | blockStrided (l : BitVec 10) (c : Count) (ra : BitVec 4) (sa : BitVec 10) (rb : BitVec 4) (sb : BitVec 10)
  /-- BLOCK_PIPELINED (R58): Enters a pipelined loop block of S stages, running count + S - 1 passes with shifting stage predicates in SPW. -/
  | blockPipelined (l : BitVec 10) (c : Count) (sm1 : BitVec 3)
  /-- BLOCK_TIMED (R117): Enters a timed block whose iterations are each held to one frame of the stream's tract. -/
  | blockTimed (l : BitVec 10) (c : Count) (cyc : BitVec 25)
  /-- IA_ADD (R172): Writes the sum of two x registers, modulo 2^64. -/
  | iaAdd (i : BitVec 2) (d : BitVec 5) (a : BitVec 5) (b : BitVec 5)
  /-- IA_SUB (R172): Writes the difference of two x registers, modulo 2^64. -/
  | iaSub (i : BitVec 2) (d : BitVec 5) (a : BitVec 5) (b : BitVec 5)
  /-- IA_AND (R172): Writes the bitwise AND of two x registers. -/
  | iaAnd (i : BitVec 2) (d : BitVec 5) (a : BitVec 5) (b : BitVec 5)
  /-- IA_OR (R172): Writes the bitwise OR of two x registers. -/
  | iaOr (i : BitVec 2) (d : BitVec 5) (a : BitVec 5) (b : BitVec 5)
  /-- IA_XOR (R172): Writes the bitwise XOR of two x registers. -/
  | iaXor (i : BitVec 2) (d : BitVec 5) (a : BitVec 5) (b : BitVec 5)
  /-- IA_MOV (R172): Copies one x register into another. -/
  | iaMov (i : BitVec 2) (d : BitVec 5) (a : BitVec 5)
  /-- IA_ANDN (R172): Writes x[a] AND NOT x[b]. -/
  | iaAndn (i : BitVec 2) (d : BitVec 5) (a : BitVec 5) (b : BitVec 5)
  /-- IA_ORN (R172): Writes x[a] OR NOT x[b]. -/
  | iaOrn (i : BitVec 2) (d : BitVec 5) (a : BitVec 5) (b : BitVec 5)
  /-- IA_MUL (R172): Writes the low 64 bits of the signed product. -/
  | iaMul (i : BitVec 2) (d : BitVec 5) (a : BitVec 5) (b : BitVec 5)
  /-- IA_MULH (R172): Writes the high 64 bits of the signed product. -/
  | iaMulh (i : BitVec 2) (d : BitVec 5) (a : BitVec 5) (b : BitVec 5)
  /-- IA_MULHU (R172): Writes the high 64 bits of the unsigned product. -/
  | iaMulhu (i : BitVec 2) (d : BitVec 5) (a : BitVec 5) (b : BitVec 5)
  /-- IA_DIV (R173): Writes the signed quotient rounded toward zero, with the fixed results for division by zero and overflow. -/
  | iaDiv (i : BitVec 2) (d : BitVec 5) (a : BitVec 5) (b : BitVec 5)
  /-- IA_DIVU (R173): Writes the unsigned quotient, or all ones for division by zero. -/
  | iaDivu (i : BitVec 2) (d : BitVec 5) (a : BitVec 5) (b : BitVec 5)
  /-- IA_REM (R173): Writes the signed remainder, whose sign follows the dividend. -/
  | iaRem (i : BitVec 2) (d : BitVec 5) (a : BitVec 5) (b : BitVec 5)
  /-- IA_REMU (R173): Writes the unsigned remainder. -/
  | iaRemu (i : BitVec 2) (d : BitVec 5) (a : BitVec 5) (b : BitVec 5)
  /-- IA_MIN (R172): Writes the signed minimum of two x registers. -/
  | iaMin (i : BitVec 2) (d : BitVec 5) (a : BitVec 5) (b : BitVec 5)
  /-- IA_MAX (R172): Writes the signed maximum of two x registers. -/
  | iaMax (i : BitVec 2) (d : BitVec 5) (a : BitVec 5) (b : BitVec 5)
  /-- IA_MINU (R172): Writes the unsigned minimum of two x registers. -/
  | iaMinu (i : BitVec 2) (d : BitVec 5) (a : BitVec 5) (b : BitVec 5)
  /-- IA_MAXU (R172): Writes the unsigned maximum of two x registers. -/
  | iaMaxu (i : BitVec 2) (d : BitVec 5) (a : BitVec 5) (b : BitVec 5)
  /-- IA_ADDCO (R174): Adds two x registers and starts a carry chain in c3. -/
  | iaAddco (i : BitVec 2) (d : BitVec 5) (a : BitVec 5) (b : BitVec 5)
  /-- IA_ADDC (R174): Adds two x registers and c3, and leaves the carry in c3. -/
  | iaAddc (i : BitVec 2) (d : BitVec 5) (a : BitVec 5) (b : BitVec 5)
  /-- IA_SUBBO (R174): Subtracts and starts a borrow chain in c3. -/
  | iaSubbo (i : BitVec 2) (d : BitVec 5) (a : BitVec 5) (b : BitVec 5)
  /-- IA_SUBB (R174): Subtracts with the borrow in c3, and leaves the new borrow in c3. -/
  | iaSubb (i : BitVec 2) (d : BitVec 5) (a : BitVec 5) (b : BitVec 5)
  /-- IA_ADDS (R172): Writes the signed sum saturated to INT64. -/
  | iaAdds (i : BitVec 2) (d : BitVec 5) (a : BitVec 5) (b : BitVec 5)
  /-- IA_SUBS (R172): Writes the signed difference saturated to INT64. -/
  | iaSubs (i : BitVec 2) (d : BitVec 5) (a : BitVec 5) (b : BitVec 5)
  /-- IA_SXT (R172): Sign-extends x[a] from 8, 16 or 32 bits. -/
  | iaSxt (i : BitVec 2) (d : BitVec 5) (a : BitVec 5) (w : BitVec 2)
  /-- IA_ZXT (R172): Zero-extends x[a] from 8, 16 or 32 bits. -/
  | iaZxt (i : BitVec 2) (d : BitVec 5) (a : BitVec 5) (w : BitVec 2)
  /-- IA_AMOV (R172): Copies an x register into an AP address register. -/
  | iaAmov (i : BitVec 2) (d : BitVec 5) (a : BitVec 5)
  /-- IA_XMOV (R172): Copies an AP address register into an x register. -/
  | iaXmov (i : BitVec 2) (d : BitVec 5) (a : BitVec 5)
  /-- IA_AADD (R172): Adds an x register to an address register. -/
  | iaAadd (i : BitVec 2) (d : BitVec 5) (a : BitVec 5) (b : BitVec 5)
  /-- IA_AROW (R172): Adds an x register times 64 bytes to an address register. -/
  | iaArow (i : BitVec 2) (d : BitVec 5) (a : BitVec 5) (b : BitVec 5)
  /-- COMPACT_ADD (R64): Compact 16-bit form of ia.add, in place on x(D). -/
  | compactAdd (d : BitVec 5) (a : BitVec 5)
  /-- COMPACT_SUB (R64): Compact 16-bit form of ia.sub, in place on x(D). -/
  | compactSub (d : BitVec 5) (a : BitVec 5)
  /-- COMPACT_AND (R64): Compact 16-bit form of ia.and, in place on x(D). -/
  | compactAnd (d : BitVec 5) (a : BitVec 5)
  /-- COMPACT_OR (R64): Compact 16-bit form of ia.or, in place on x(D). -/
  | compactOr (d : BitVec 5) (a : BitVec 5)
  /-- COMPACT_XOR (R64): Compact 16-bit form of ia.xor, in place on x(D). -/
  | compactXor (d : BitVec 5) (a : BitVec 5)
  /-- COMPACT_MOV (R64): Compact 16-bit form of ia.mov. -/
  | compactMov (d : BitVec 5) (a : BitVec 5)
  /-- COMPACT_SLL (R64): Compact 16-bit form of bf.sll, in place on x(D). -/
  | compactSll (d : BitVec 5) (a : BitVec 5)
  /-- COMPACT_SRL (R64): Compact 16-bit form of bf.srl, in place on x(D). -/
  | compactSrl (d : BitVec 5) (a : BitVec 5)
  /-- II_ADD (R175): Adds a sign-extended 11-bit immediate to an x register. -/
  | iiAdd (i : BitVec 2) (d : BitVec 5) (a : BitVec 5) (k : BitVec 11)
  /-- COMPACT_LOAD_IMMEDIATE (R65): Compact form of ii.add from x0 with a sign-extended 8-bit immediate. -/
  | compactLoadImmediate (d : BitVec 5) (k : BitVec 8)
  /-- IW_INS (R176): Shifts x[d] left by 16 bits and inserts a 16-bit immediate. -/
  | iwIns (i : BitVec 2) (d : BitVec 5) (k : BitVec 16)
  /-- BF_SLL (R177): Shifts left by the amount in x[b][5:0]. -/
  | bfSll (i : BitVec 2) (d : BitVec 5) (a : BitVec 5) (b : BitVec 5)
  /-- BF_SRL (R177): Shifts right logically by the amount in x[b][5:0]. -/
  | bfSrl (i : BitVec 2) (d : BitVec 5) (a : BitVec 5) (b : BitVec 5)
  /-- BF_SRA (R177): Shifts right arithmetically by the amount in x[b][5:0]. -/
  | bfSra (i : BitVec 2) (d : BitVec 5) (a : BitVec 5) (b : BitVec 5)
  /-- BF_ROL (R177): Rotates left by the amount in x[b][5:0]. -/
  | bfRol (i : BitVec 2) (d : BitVec 5) (a : BitVec 5) (b : BitVec 5)
  /-- BF_ROR (R177): Rotates right by the amount in x[b][5:0]. -/
  | bfRor (i : BitVec 2) (d : BitVec 5) (a : BitVec 5) (b : BitVec 5)
  /-- BF_BFX (R177): Extracts and zero-extends a bit field whose position and length are in x[b]. -/
  | bfBfx (i : BitVec 2) (d : BitVec 5) (a : BitVec 5) (b : BitVec 5)
  /-- BF_BFXS (R177): Extracts and sign-extends a bit field whose position and length are in x[b]. -/
  | bfBfxs (i : BitVec 2) (d : BitVec 5) (a : BitVec 5) (b : BitVec 5)
  /-- BF_BFI (R177): Inserts the low bits of x[a] into a field of x[d]. -/
  | bfBfi (i : BitVec 2) (d : BitVec 5) (a : BitVec 5) (b : BitVec 5)
  /-- BF_FSH (R177): Funnel-shifts x[d] left, filling from the top bits of x[a]. -/
  | bfFsh (i : BitVec 2) (d : BitVec 5) (a : BitVec 5) (b : BitVec 5)
  /-- BF_POP (R177): Counts the 1 bits of x[a]. -/
  | bfPop (i : BitVec 2) (d : BitVec 5) (a : BitVec 5)
  /-- BF_CLZ (R177): Counts the leading zeros of x[a]. -/
  | bfClz (i : BitVec 2) (d : BitVec 5) (a : BitVec 5)
  /-- BF_CTZ (R177): Counts the trailing zeros of x[a]. -/
  | bfCtz (i : BitVec 2) (d : BitVec 5) (a : BitVec 5)
  /-- BF_REV (R177): Reverses the bit order of x[a]. -/
  | bfRev (i : BitVec 2) (d : BitVec 5) (a : BitVec 5)
  /-- BF_REVB (R177): Reverses the byte order of x[a]. -/
  | bfRevb (i : BitVec 2) (d : BitVec 5) (a : BitVec 5)
  /-- BF_SLLI (R177): Shifts left by an immediate amount. -/
  | bfSlli (i : BitVec 2) (d : BitVec 5) (a : BitVec 5) (s : BitVec 5) (h : BitVec 1)
  /-- BF_SRLI (R177): Shifts right logically by an immediate amount. -/
  | bfSrli (i : BitVec 2) (d : BitVec 5) (a : BitVec 5) (s : BitVec 5) (h : BitVec 1)
  /-- BF_SRAI (R177): Shifts right arithmetically by an immediate amount. -/
  | bfSrai (i : BitVec 2) (d : BitVec 5) (a : BitVec 5) (s : BitVec 5) (h : BitVec 1)
  /-- BF_ROLI (R177): Rotates left by an immediate amount. -/
  | bfRoli (i : BitVec 2) (d : BitVec 5) (a : BitVec 5) (s : BitVec 5) (h : BitVec 1)
  /-- BF_RORI (R177): Rotates right by an immediate amount. -/
  | bfRori (i : BitVec 2) (d : BitVec 5) (a : BitVec 5) (s : BitVec 5) (h : BitVec 1)
  /-- CMP_EQ (R156): Sets a condition register when two x registers are equal. -/
  | cmpEq (i : BitVec 2) (d : BitVec 5) (a : BitVec 5) (b : BitVec 5)
  /-- CMP_NE (R156): Sets a condition register when two x registers differ. -/
  | cmpNe (i : BitVec 2) (d : BitVec 5) (a : BitVec 5) (b : BitVec 5)
  /-- CMP_LT (R156): Sets a condition register on signed less-than. -/
  | cmpLt (i : BitVec 2) (d : BitVec 5) (a : BitVec 5) (b : BitVec 5)
  /-- CMP_GE (R156): Sets a condition register on signed greater-or-equal. -/
  | cmpGe (i : BitVec 2) (d : BitVec 5) (a : BitVec 5) (b : BitVec 5)
  /-- CMP_LTU (R156): Sets a condition register on unsigned less-than. -/
  | cmpLtu (i : BitVec 2) (d : BitVec 5) (a : BitVec 5) (b : BitVec 5)
  /-- CMP_GEU (R156): Sets a condition register on unsigned greater-or-equal. -/
  | cmpGeu (i : BitVec 2) (d : BitVec 5) (a : BitVec 5) (b : BitVec 5)
  /-- CMP_TST (R156): Sets a condition register when x[a] AND x[b] is non-zero. -/
  | cmpTst (i : BitVec 2) (d : BitVec 5) (a : BitVec 5) (b : BitVec 5)
  /-- CMP_NTST (R156): Sets a condition register when x[a] AND x[b] is zero. -/
  | cmpNtst (i : BitVec 2) (d : BitVec 5) (a : BitVec 5) (b : BitVec 5)
  /-- CMP_AND (R156): ANDs two condition registers. -/
  | cmpAnd (i : BitVec 2) (d : BitVec 5) (a : BitVec 5) (b : BitVec 5)
  /-- CMP_OR (R156): ORs two condition registers. -/
  | cmpOr (i : BitVec 2) (d : BitVec 5) (a : BitVec 5) (b : BitVec 5)
  /-- CMP_ANDN (R156): Writes c[a] AND NOT c[b]. -/
  | cmpAndn (i : BitVec 2) (d : BitVec 5) (a : BitVec 5) (b : BitVec 5)
  /-- CMP_XOR (R156): XORs two condition registers. -/
  | cmpXor (i : BitVec 2) (d : BitVec 5) (a : BitVec 5) (b : BitVec 5)
  /-- CMP_STG (R156): Copies a stage predicate bit of SPW into a condition register. -/
  | cmpStg (i : BitVec 2) (d : BitVec 5) (a : BitVec 5)
  /-- BR_PREP (R157): Loads a target register with a PC-relative code offset. -/
  | brPrep (i : BitVec 2) (t : BitVec 2) (k : BitVec 13)
  /-- BR_PREPX (R157): Loads a target register from an x register. -/
  | brPrepx (i : BitVec 2) (d : BitVec 5) (a : BitVec 5)
  /-- BR_GO (R158): Transfers to a target after two delay slots when a condition holds. -/
  | brGo (i : BitVec 2) (d : BitVec 5) (a : BitVec 5)
  /-- BR_GO_NOT (R158): Transfers to a target after two delay slots when a condition does not hold. -/
  | brGoNot (i : BitVec 2) (d : BitVec 5) (a : BitVec 5)
  /-- BR_GO_ALWAYS (R158): Transfers to a target after two delay slots unconditionally. -/
  | brGoAlways (i : BitVec 2) (d : BitVec 5)
  /-- SHORT_TRANSFER (R65): Compact br.go on a condition that holds. -/
  | shortTransfer (t : BitVec 2) (c : BitVec 2)
  /-- SHORT_TRANSFER_NOT (R65): Compact br.go on a condition that does not hold. -/
  | shortTransferNot (t : BitVec 2) (c : BitVec 2)
  /-- SHORT_TRANSFER_ALWAYS (R65): Compact unconditional br.go. -/
  | shortTransferAlways (t : BitVec 2)
  /-- BR_TGET (R157): Reads a target register into an x register. -/
  | brTget (i : BitVec 2) (d : BitVec 5) (a : BitVec 5)
  /-- REP (R165): Repeats the following 32-bit word n times, stepping its register fields. -/
  | rep (n : BitVec 6) (d : BitVec 2) (a : BitVec 2) (b : BitVec 2)
  /-- NOP (R65): Takes one issue cycle and does nothing. -/
  | nop
  /-- SYS_ID (R133): Reads an identifier of the stream's place in its group or launch. -/
  | sysId (i : BitVec 2) (d : BitVec 5) (s : BitVec 5)
  /-- SYS_RD (R152): Reads a system register named by its ten-bit number. -/
  | sysRd (i : BitVec 2) (d : BitVec 5) (r : BitVec 10)
  /-- SYS_WR (R152): Writes a system register such as a BFMT register or SPW. -/
  | sysWr (i : BitVec 2) (d : BitVec 5) (r : BitVec 10)
  /-- SYS_TRAP (R151): Raises the kernel fault TRAP carrying a code. -/
  | sysTrap (i : BitVec 2) (k : BitVec 10)
  /-- SYS_SCALL (R153): Sends a service call and waits in a named wait for its result. -/
  | sysScall (i : BitVec 2) (d : BitVec 5) (a : BitVec 5) (b : BitVec 5)
  /-- SCALL_RETURN (R153): The answer to a service call arrives and is written to x[d]. -/
  | scallReturn (pcn : Nat) (eng : Eng)
  /-- SYS_FENCE (R269): Orders the stream's accesses of the selected classes at the given scope. -/
  | sysFence (i : BitVec 2) (m : BitVec 15) (s : BitVec 3)
  /-- LD (R178): Loads 8 bytes from a scratchpad row, rotating within the row. -/
  | ld (i : BitVec 2) (d : BitVec 5) (a : BitVec 5) (c : BitVec 4) (o : BitVec 7)
  /-- ST (R178): Stores 8 bytes into a scratchpad row in one atomic step at the bank. -/
  | st (i : BitVec 2) (d : BitVec 5) (a : BitVec 5) (c : BitVec 4) (o : BitVec 7)
  /-- AT_ADD (R231): Atomically adds to a lane at the bank and returns the old value. -/
  | atAdd (i : BitVec 2) (d : BitVec 5) (a : BitVec 5) (c : BitVec 4) (w : BitVec 3)
  /-- AT_AND (R231): Atomically ANDs into a lane and returns the old value. -/
  | atAnd (i : BitVec 2) (d : BitVec 5) (a : BitVec 5) (c : BitVec 4) (w : BitVec 3)
  /-- AT_OR (R231): Atomically ORs into a lane and returns the old value. -/
  | atOr (i : BitVec 2) (d : BitVec 5) (a : BitVec 5) (c : BitVec 4) (w : BitVec 3)
  /-- AT_XOR (R231): Atomically XORs into a lane and returns the old value. -/
  | atXor (i : BitVec 2) (d : BitVec 5) (a : BitVec 5) (c : BitVec 4) (w : BitVec 3)
  /-- AT_MIN (R231): Atomically takes the signed minimum in a lane. -/
  | atMin (i : BitVec 2) (d : BitVec 5) (a : BitVec 5) (c : BitVec 4) (w : BitVec 3)
  /-- AT_MAX (R231): Atomically takes the signed maximum in a lane. -/
  | atMax (i : BitVec 2) (d : BitVec 5) (a : BitVec 5) (c : BitVec 4) (w : BitVec 3)
  /-- AT_MINU (R231): Atomically takes the unsigned minimum in a lane. -/
  | atMinu (i : BitVec 2) (d : BitVec 5) (a : BitVec 5) (c : BitVec 4) (w : BitVec 3)
  /-- AT_MAXU (R231): Atomically takes the unsigned maximum in a lane. -/
  | atMaxu (i : BitVec 2) (d : BitVec 5) (a : BitVec 5) (c : BitVec 4) (w : BitVec 3)
  /-- AT_SWAP (R231): Atomically swaps a lane with the operand. -/
  | atSwap (i : BitVec 2) (d : BitVec 5) (a : BitVec 5) (c : BitVec 4) (w : BitVec 3)
  /-- AT_CAS (R231): Atomically compares a lane with x[d] and writes x[d+1] on a match. -/
  | atCas (i : BitVec 2) (d : BitVec 5) (a : BitVec 5) (c : BitVec 4) (w : BitVec 3)
  /-- AT_FADD (R231): Atomically adds a BF16 or FP32 value with one RNE rounding. -/
  | atFadd (i : BitVec 2) (d : BitVec 5) (a : BitVec 5) (c : BitVec 4) (w : BitVec 3)
  /-- MON_WAITEQ (R233): Waits while a lane equals v, arming a bank monitor. -/
  | monWaiteq (i : BitVec 2) (d : BitVec 5) (a : BitVec 5) (c : BitVec 4) (w : BitVec 3)
  /-- MON_WAITNE (R233): Waits while a lane differs from v. -/
  | monWaitne (i : BitVec 2) (d : BitVec 5) (a : BitVec 5) (c : BitVec 4) (w : BitVec 3)
  /-- MON_WAITGE (R233): Waits while a lane is below v, signed. -/
  | monWaitge (i : BitVec 2) (d : BitVec 5) (a : BitVec 5) (c : BitVec 4) (w : BitVec 3)
  /-- MON_WAITGEU (R233): Waits while a lane is below v, unsigned. -/
  | monWaitgeu (i : BitVec 2) (d : BitVec 5) (a : BitVec 5) (c : BitVec 4) (w : BitVec 3)
  /-- SP_SPILL (R154): Writes an x register to a scalar spill slot. -/
  | spSpill (i : BitVec 2) (a : BitVec 5) (s : BitVec 8)
  /-- SP_FILL (R154): Reads a scalar spill slot into an x register. -/
  | spFill (i : BitVec 2) (d : BitVec 5) (s : BitVec 8)
  /-- SP_VSPILL (R154): Writes a vector register to a vector spill slot. -/
  | spVspill (i : BitVec 2) (a : BitVec 5) (s : BitVec 8)
  /-- SP_VFILL (R154): Reads a vector spill slot into a vector register. -/
  | spVfill (i : BitVec 2) (d : BitVec 5) (s : BitVec 8)
  /-- COMPACT_SPILL (R65): Compact sp.spill to slots 0-127. -/
  | compactSpill (s : BitVec 7) (d : BitVec 5)
  /-- COMPACT_FILL (R65): Compact sp.fill from slots 0-127. -/
  | compactFill (s : BitVec 7) (d : BitVec 5)
  /-- Q_POP (R150): Pops an element from a queue register, blocking while it is empty. -/
  | qPop (i : BitVec 2) (d : BitVec 5) (a : BitVec 5)
  /-- Q_PUSH (R150): Pushes an x register into a queue register, blocking while it is full. -/
  | qPush (i : BitVec 2) (d : BitVec 5) (a : BitVec 5)
  /-- Q_CNT (R150): Reads a queue's occupancy without blocking. -/
  | qCnt (i : BitVec 2) (d : BitVec 5) (a : BitVec 5)
  /-- Q_POPC (R150): Pops a branch outcome bit into a condition register. -/
  | qPopc (i : BitVec 2) (d : BitVec 5) (a : BitVec 5)
  /-- Q_PUSHC (R150): Pushes a condition register as a branch outcome bit. -/
  | qPushc (i : BitVec 2) (d : BitVec 5) (a : BitVec 5)
  /-- COMPACT_POP (R65): Compact q.pop. -/
  | compactPop (q : BitVec 3) (d : BitVec 5)
  /-- COMPACT_PUSH (R65): Compact q.push. -/
  | compactPush (q : BitVec 3) (d : BitVec 5)
  /-- QUEUE_POP_UNBLOCK (R137): A pop blocked on an empty queue completes once an element has been pushed, or faults QUEUE_DEAD once the pusher has ended. -/
  | queuePopUnblock (pcn : Nat) (eng : Eng)
  /-- QUEUE_PUSH_UNBLOCK (R137): A push blocked on a full queue completes once a slot frees, or faults QUEUE_DEAD once the popper has ended. -/
  | queuePushUnblock (pcn : Nat) (eng : Eng)
  /-- BAR_INIT (R300): Configures a named barrier and clears its phase state. -/
  | barInit (i : BitVec 2) (a : BitVec 5) (b : BitVec 5)
  /-- BAR_SYNC (R300): Arrives at a named barrier and waits for the phase to complete. -/
  | barSync (i : BitVec 2) (a : BitVec 5)
  /-- BAR_ARRIVE (R300): Arrives at a named barrier and returns the phase arrived in. -/
  | barArrive (i : BitVec 2) (d : BitVec 5) (a : BitVec 5)
  /-- BAR_WAIT (R300): Waits until a barrier's phase differs from a given one. -/
  | barWait (i : BitVec 2) (a : BitVec 5) (b : BitVec 5)
  /-- BAR_RD (R300): Reads a barrier's configuration or status word. -/
  | barRd (i : BitVec 2) (d : BitVec 5) (a : BitVec 5) (s : BitVec 5)
  /-- BARRIER_RELEASE (R295): A completed barrier phase is released on a member core: PH turns over and waiting streams proceed. -/
  | barrierRelease (pcn n : Nat)
  /-- TAG_WANY (R260): Waits until any masked tag has count zero and returns the masked bits. -/
  | tagWany (i : BitVec 2) (d : BitVec 5) (a : BitVec 5)
  /-- TAG_WALL (R260): Waits until every masked tag has count zero. -/
  | tagWall (i : BitVec 2) (a : BitVec 5)
  /-- TAG_FFR (R260): Waits until a masked tag has count zero and returns the lowest such index. -/
  | tagFfr (i : BitVec 2) (d : BitVec 5) (a : BitVec 5)
  /-- TAG_CNT (R260): Reads one tag's count without waiting. -/
  | tagCnt (i : BitVec 2) (d : BitVec 5) (a : BitVec 5)
  /-- TAG_WAIT_RETURN (R260): A blocked tag wait returns in the cycle after its condition first holds, acquiring the completed rows. -/
  | tagWaitReturn (pcn : Nat) (eng : Eng)
  /-- XL_TR (R313): Translates a virtual page into a read handle. -/
  | xlTr (i : BitVec 2) (d : BitVec 5) (a : BitVec 5)
  /-- XL_TRW (R313): Translates a writable virtual page into a handle that stores may use. -/
  | xlTrw (i : BitVec 2) (d : BitVec 5) (a : BitVec 5)
  /-- XL_INV (R313): Invalidates a handle. -/
  | xlInv (i : BitVec 2) (d : BitVec 5)
  /-- XL_RD (R313): Reads one word of a handle. -/
  | xlRd (i : BitVec 2) (d : BitVec 5) (a : BitVec 5) (s : BitVec 5)
  /-- HANDLE_WRITE (R313): A translation's handle is written 16 tract cycles after it issues or after its walk ends. -/
  | handleWrite (pcn : Nat) (d : BitVec 4)
  /-- CP_LD (R257): Pushes a copy from main memory into local rows onto LDQ. -/
  | cpLd (i : BitVec 2) (a : BitVec 5) (b : BitVec 5)
  /-- CP_ST (R257): Pushes a copy from local rows into main memory onto STQ. -/
  | cpSt (i : BitVec 2) (a : BitVec 5) (b : BitVec 5)
  /-- CP_MV (R257): Pushes a scratchpad-to-scratchpad copy, local or through the window, onto LDQ. -/
  | cpMv (i : BitVec 2) (a : BitVec 5) (b : BitVec 5)
  /-- CP_MX (R257): Pushes a harrow operation with its descriptor row address onto CMQ. -/
  | cpMx (i : BitVec 2) (a : BitVec 5) (b : BitVec 5)
  /-- CP_DRILL (R257): Reads a start row and pushes it to a drill's command FIFO. -/
  | cpDrill (i : BitVec 2) (a : BitVec 5)
  /-- CP_DSTOP (R257): Stops an owned drill at its next row boundary and returns PUSHED. -/
  | cpDstop (i : BitVec 2) (d : BitVec 5) (a : BitVec 5)
  /-- CP_TOK (R257): Adds n tokens to a token FIFO. -/
  | cpTok (i : BitVec 2) (d : BitVec 5) (n : BitVec 5)
  /-- CP_TCNT (R257): Reads a token FIFO's count. -/
  | cpTcnt (i : BitVec 2) (d : BitVec 5) (a : BitVec 5)
  /-- DSTOP_RETURN (R246): The stopped drill reaches IDLE and cp.dstop writes PUSHED. -/
  | dstopReturn (pcn : Nat)
  /-- AB_INIT (R253): Configures an arrival barrier and sets I, A and L. -/
  | abInit (i : BitVec 2) (a : BitVec 5) (b : BitVec 5)
  /-- AB_AWAIT (R253): Waits until an arrival barrier's A has reached n. -/
  | abAwait (i : BitVec 2) (a : BitVec 5) (b : BitVec 5)
  /-- AB_ARET (R253): Releases ring slots by setting L. -/
  | abAret (i : BitVec 2) (a : BitVec 5) (b : BitVec 5)
  /-- AB_RD (R253): Reads an arrival barrier's configuration, I, A or L. -/
  | abRd (i : BitVec 2) (d : BitVec 5) (a : BitVec 5) (s : BitVec 5)
  /-- AB_AWAIT_RETURN (R253): A blocked ab.await returns once A has reached n, acquiring the rows below it. -/
  | abAwaitReturn (pcn : Nat) (eng : Eng)
  /-- TR_TAP (R123): Reads the tract's TAP register. -/
  | trTap (i : BitVec 2) (d : BitVec 5)
  /-- COMPACT_TR_TAP (R65): Compact tr.tap. -/
  | compactTrTap (d : BitVec 5)
  /-- TR_OTAP (R123): Writes the core's OTAP register. -/
  | trOtap (i : BitVec 2) (a : BitVec 5)
  /-- TR_AT (R124): Waits until the next cycle whose cycle-in-sample equals an immediate. -/
  | trAt (i : BitVec 2) (k : BitVec 15)
  /-- COMPACT_TR_AT (R65): Compact tr.at for cycle-in-sample 0-2,047. -/
  | compactTrAt (k : BitVec 11)
  /-- TR_ATX (R124): Waits until the next cycle whose cycle-in-sample equals x[a]. -/
  | trAtx (i : BitVec 2) (a : BitVec 5)
  /-- TR_AT_RELEASE (R124): The cycle with the awaited SCYC arrives and the following word issues. -/
  | trAtRelease (pcn : Nat) (eng : Eng)
  /-- TR_RD (R123): Reads a tract register selected by SEL. -/
  | trRd (i : BitVec 2) (d : BitVec 5) (s : BitVec 5)
  /-- TR_ACK (R123): Clears sticky tract status bits and SLIPC by mask, leaving SLIPPED. -/
  | trAck (i : BitVec 2) (a : BitVec 5)
  /-- STI_PUT (R131): Puts a value into a stile from its source cluster. -/
  | stiPut (i : BitVec 2) (a : BitVec 5) (b : BitVec 5)
  /-- STI_GET (R131): Reads STO, or pops the oldest eligible BOX message, blocking while none is eligible. -/
  | stiGet (i : BitVec 2) (d : BitVec 5) (a : BitVec 5)
  /-- STI_STAT (R131): Reads a stile's status word. -/
  | stiStat (i : BitVec 2) (d : BitVec 5) (a : BitVec 5)
  /-- STI_ACK (R131): Clears stile sticky bits and counters by mask. -/
  | stiAck (i : BitVec 2) (a : BitVec 5) (b : BitVec 5)
  /-- STI_COEF (R131): Writes one INTERP coefficient of a stile. -/
  | stiCoef (i : BitVec 2) (a : BitVec 5) (b : BitVec 5)
  /-- STI_GET_RETURN (R131): A blocked BOX get returns once a message becomes eligible, or with 0 when the stile is unbound. -/
  | stiGetReturn (pcn : Nat) (eng : Eng)
  /-- KN_END (R140): Ends the stream after waiting for its outstanding copies, operators and puts. -/
  | knEnd (i : BitVec 2)
  /-- KN_RDV (R141): Waits until every live declared stream of the core is at a rendezvous. -/
  | knRdv (i : BitVec 2)
  /-- KN_YIELD (R146): Stops a diverted stream after its outstanding work completes. -/
  | knYield (i : BitVec 2)
  /-- KN_PEND (R149): Reads whether a pre-emption request is pending for the kernel. -/
  | knPend (i : BitVec 2) (d : BitVec 5)
  /-- STREAM_END (R140): The waits of kn.end are satisfied and the stream ends, leaving barriers and releasing rendezvous. -/
  | streamEnd (pcn : Nat) (eng : Eng)
  /-- RENDEZVOUS_RELEASE (R141): All live streams of a core are at kn.rdv and proceed together in the next cycle. -/
  | rendezvousRelease (pcn : Nat)
  /-- YIELD_COMPLETE (R146): The waits of kn.yield are satisfied and the stream stops. -/
  | yieldComplete (pcn : Nat) (eng : Eng)
  /-- RG_ECOUNT (R190): Counts tokens per expert into a 16-bit pair. -/
  | rgEcount (i : BitVec 2) (d : BitVec 5) (a : BitVec 5)
  /-- RG_ESCAN (R190): Writes the exclusive prefix sum of expert counts. -/
  | rgEscan (i : BitVec 2) (d : BitVec 5) (a : BitVec 5)
  /-- RG_ESCAT (R191): Gives each token its position in expert order and advances the offsets. -/
  | rgEscat (i : BitVec 2) (d : BitVec 5) (a : BitVec 5) (b : BitVec 5)
  /-- RG_CLAIM (R192): Atomically increments a word at the bank if it is below a limit and returns the old value. -/
  | rgClaim (i : BitVec 2) (d : BitVec 5) (a : BitVec 5) (b : BitVec 5)
  /-- CLAIM_ANSWER (R192): The bank's answer to a claim arrives and is written to x[d]. -/
  | claimAnswer (pcn : Nat)
  /-- VI_ADD (R181): Adds vector integer lanes modulo 2^w. -/
  | viAdd (i : BitVec 2) (d : BitVec 5) (a : BitVec 5) (b : BitVec 5) (t : BitVec 3)
  /-- VI_SUB (R181): Subtracts vector integer lanes modulo 2^w. -/
  | viSub (i : BitVec 2) (d : BitVec 5) (a : BitVec 5) (b : BitVec 5) (t : BitVec 3)
  /-- VI_MUL (R181): Multiplies vector integer lanes modulo 2^w. -/
  | viMul (i : BitVec 2) (d : BitVec 5) (a : BitVec 5) (b : BitVec 5) (t : BitVec 3)
  /-- VI_MIN (R181): Takes the lane-wise minimum. -/
  | viMin (i : BitVec 2) (d : BitVec 5) (a : BitVec 5) (b : BitVec 5) (t : BitVec 3)
  /-- VI_MAX (R181): Takes the lane-wise maximum. -/
  | viMax (i : BitVec 2) (d : BitVec 5) (a : BitVec 5) (b : BitVec 5) (t : BitVec 3)
  /-- VI_ADDS (R181): Adds lanes with saturation. -/
  | viAdds (i : BitVec 2) (d : BitVec 5) (a : BitVec 5) (b : BitVec 5) (t : BitVec 3)
  /-- VI_SLL (R181): Shifts each lane left by the matching lane of v[b]. -/
  | viSll (i : BitVec 2) (d : BitVec 5) (a : BitVec 5) (b : BitVec 5) (w : BitVec 2)
  /-- VI_SRL (R181): Shifts each lane right logically. -/
  | viSrl (i : BitVec 2) (d : BitVec 5) (a : BitVec 5) (b : BitVec 5) (w : BitVec 2)
  /-- VI_SRA (R181): Shifts each lane right arithmetically. -/
  | viSra (i : BitVec 2) (d : BitVec 5) (a : BitVec 5) (b : BitVec 5) (w : BitVec 2)
  /-- VI_AND (R181): Bitwise AND of two vector registers. -/
  | viAnd (i : BitVec 2) (d : BitVec 5) (a : BitVec 5) (b : BitVec 5)
  /-- VI_OR (R181): Bitwise OR of two vector registers. -/
  | viOr (i : BitVec 2) (d : BitVec 5) (a : BitVec 5) (b : BitVec 5)
  /-- VI_XOR (R181): Bitwise XOR of two vector registers. -/
  | viXor (i : BitVec 2) (d : BitVec 5) (a : BitVec 5) (b : BitVec 5)
  /-- VI_ANDN (R181): Bitwise v[a] AND NOT v[b]. -/
  | viAndn (i : BitVec 2) (d : BitVec 5) (a : BitVec 5) (b : BitVec 5)
  /-- VF_ADD (R182): Adds float lanes with one rounding. -/
  | vfAdd (i : BitVec 2) (d : BitVec 5) (a : BitVec 5) (b : BitVec 5) (r : BitVec 1) (f : BitVec 2)
  /-- VF_SUB (R182): Subtracts float lanes with one rounding. -/
  | vfSub (i : BitVec 2) (d : BitVec 5) (a : BitVec 5) (b : BitVec 5) (r : BitVec 1) (f : BitVec 2)
  /-- VF_MUL (R182): Multiplies float lanes with one rounding. -/
  | vfMul (i : BitVec 2) (d : BitVec 5) (a : BitVec 5) (b : BitVec 5) (r : BitVec 1) (f : BitVec 2)
  /-- VF_FMA (R182): Fused multiply-add into the destination lanes with one rounding. -/
  | vfFma (i : BitVec 2) (d : BitVec 5) (a : BitVec 5) (b : BitVec 5) (r : BitVec 1) (f : BitVec 2)
  /-- VF_MIN (R182): Takes the lane-wise float minimum. -/
  | vfMin (i : BitVec 2) (d : BitVec 5) (a : BitVec 5) (b : BitVec 5) (f : BitVec 2)
  /-- VF_MAX (R182): Takes the lane-wise float maximum. -/
  | vfMax (i : BitVec 2) (d : BitVec 5) (a : BitVec 5) (b : BitVec 5) (f : BitVec 2)
  /-- VF_CFMA (R182): Complex multiply-add of lane pairs, including the paired BF16 form. -/
  | vfCfma (i : BitVec 2) (d : BitVec 5) (a : BitVec 5) (b : BitVec 5) (r : BitVec 1) (f : BitVec 2)
  /-- VF_NEG (R182): Negates float lanes. -/
  | vfNeg (i : BitVec 2) (d : BitVec 5) (a : BitVec 5) (f : BitVec 2)
  /-- VF_ABS (R182): Takes the absolute value of float lanes. -/
  | vfAbs (i : BitVec 2) (d : BitVec 5) (a : BitVec 5) (f : BitVec 2)
  /-- VF_SQRT (R182): Takes the square root of float lanes. -/
  | vfSqrt (i : BitVec 2) (d : BitVec 5) (a : BitVec 5) (r : BitVec 1) (f : BitVec 2)
  /-- VF_RCP (R182): Takes the reciprocal of float lanes. -/
  | vfRcp (i : BitVec 2) (d : BitVec 5) (a : BitVec 5) (r : BitVec 1) (f : BitVec 2)
  /-- VC_CVT (R183): Converts lanes between element formats, writing or reading one part of the wider side. -/
  | vcCvt (i : BitVec 2) (d : BitVec 5) (a : BitVec 5) (r : BitVec 1) (p : BitVec 3) (x : BitVec 3) (y : BitVec 3)
  /-- VM_LD (R180): Loads a whole scratchpad row into a vector register. -/
  | vmLd (i : BitVec 2) (d : BitVec 5) (a : BitVec 3) (c : BitVec 4) (o : BitVec 7)
  /-- VM_ST (R180): Stores a vector register as a whole scratchpad row. -/
  | vmSt (i : BitVec 2) (d : BitVec 5) (a : BitVec 3) (c : BitVec 4) (o : BitVec 7)
  /-- VM_RMG (R180): Loads 64 bytes at any offset from two consecutive rows. -/
  | vmRmg (i : BitVec 2) (d : BitVec 5) (a : BitVec 3) (c : BitVec 4) (o : BitVec 7)
  /-- VP_PERM (R184): Permutes lanes by the indices in v[b]. -/
  | vpPerm (i : BitVec 2) (d : BitVec 5) (a : BitVec 5) (b : BitVec 5) (w : BitVec 2)
  /-- VP_BCST (R184): Broadcasts the low bits of x[a] into every lane. -/
  | vpBcst (i : BitVec 2) (d : BitVec 5) (a : BitVec 5) (w : BitVec 2)
  /-- VP_GET (R184): Reads one lane into an x register, sign-extended. -/
  | vpGet (i : BitVec 2) (d : BitVec 5) (a : BitVec 5) (b : BitVec 5) (w : BitVec 2)
  /-- VP_PUT (R184): Writes one lane from an x register. -/
  | vpPut (i : BitVec 2) (d : BitVec 5) (a : BitVec 5) (b : BitVec 5) (w : BitVec 2)
  /-- VP_FIMM (R184): Fills every lane with a BF16 pattern brought to the type by R39. -/
  | vpFimm (i : BitVec 2) (d : BitVec 5) (a : BitVec 5) (t : BitVec 3)
  /-- VP_ROT (R184): Rotates the bytes of a vector register. -/
  | vpRot (i : BitVec 2) (d : BitVec 5) (a : BitVec 5) (b : BitVec 5)
  /-- VP_SEL (R184): Selects lanes from two registers by a predicate. -/
  | vpSel (i : BitVec 2) (d : BitVec 5) (a : BitVec 5) (b : BitVec 5) (w : BitVec 2) (n : BitVec 3)
  /-- VR_SUM (R186): Sums integer lanes into an x register. -/
  | vrSum (i : BitVec 2) (d : BitVec 5) (a : BitVec 5) (t : BitVec 3)
  /-- VR_MIN (R186): Reduces integer lanes to their minimum. -/
  | vrMin (i : BitVec 2) (d : BitVec 5) (a : BitVec 5) (t : BitVec 3)
  /-- VR_MAX (R186): Reduces integer lanes to their maximum. -/
  | vrMax (i : BitVec 2) (d : BitVec 5) (a : BitVec 5) (t : BitVec 3)
  /-- VR_FSUM (R186): Sums float lanes exactly with one rounding. -/
  | vrFsum (i : BitVec 2) (d : BitVec 5) (a : BitVec 5) (f : BitVec 2)
  /-- VR_FMIN (R186): Reduces float lanes to their minimum. -/
  | vrFmin (i : BitVec 2) (d : BitVec 5) (a : BitVec 5) (f : BitVec 2)
  /-- VR_FMAX (R186): Reduces float lanes to their maximum. -/
  | vrFmax (i : BitVec 2) (d : BitVec 5) (a : BitVec 5) (f : BitVec 2)
  /-- VR_ANY (R186): Sets a condition when any predicate bit is set. -/
  | vrAny (i : BitVec 2) (d : BitVec 5) (a : BitVec 5)
  /-- VR_ALL (R186): Sets a condition when every lane's predicate bit is set. -/
  | vrAll (i : BitVec 2) (d : BitVec 5) (a : BitVec 5) (w : BitVec 2)
  /-- VR_PCNT (R186): Counts the set bits of a predicate. -/
  | vrPcnt (i : BitVec 2) (d : BitVec 5) (a : BitVec 5)
  /-- VQ_EQ (R185): Sets predicate bits where integer lanes are equal. -/
  | vqEq (i : BitVec 2) (d : BitVec 5) (a : BitVec 5) (b : BitVec 5) (t : BitVec 3)
  /-- VQ_NE (R185): Sets predicate bits where integer lanes differ. -/
  | vqNe (i : BitVec 2) (d : BitVec 5) (a : BitVec 5) (b : BitVec 5) (t : BitVec 3)
  /-- VQ_LT (R185): Sets predicate bits where lanes are less. -/
  | vqLt (i : BitVec 2) (d : BitVec 5) (a : BitVec 5) (b : BitVec 5) (t : BitVec 3)
  /-- VQ_LE (R185): Sets predicate bits where lanes are less or equal. -/
  | vqLe (i : BitVec 2) (d : BitVec 5) (a : BitVec 5) (b : BitVec 5) (t : BitVec 3)
  /-- VQ_FEQ (R185): Float equality compare into a predicate. -/
  | vqFeq (i : BitVec 2) (d : BitVec 5) (a : BitVec 5) (b : BitVec 5) (f : BitVec 2)
  /-- VQ_FLT (R185): Float less-than compare into a predicate. -/
  | vqFlt (i : BitVec 2) (d : BitVec 5) (a : BitVec 5) (b : BitVec 5) (f : BitVec 2)
  /-- VQ_FLE (R185): Float less-or-equal compare into a predicate. -/
  | vqFle (i : BitVec 2) (d : BitVec 5) (a : BitVec 5) (b : BitVec 5) (f : BitVec 2)
  /-- VQ_FUN (R185): Float unordered compare into a predicate. -/
  | vqFun (i : BitVec 2) (d : BitVec 5) (a : BitVec 5) (b : BitVec 5) (f : BitVec 2)
  /-- VQ_AND (R185): ANDs two predicates. -/
  | vqAnd (i : BitVec 2) (d : BitVec 5) (a : BitVec 5) (b : BitVec 5)
  /-- VQ_OR (R185): ORs two predicates. -/
  | vqOr (i : BitVec 2) (d : BitVec 5) (a : BitVec 5) (b : BitVec 5)
  /-- VQ_XOR (R185): XORs two predicates. -/
  | vqXor (i : BitVec 2) (d : BitVec 5) (a : BitVec 5) (b : BitVec 5)
  /-- VQ_ANDN (R185): Writes p[a] AND NOT p[b]. -/
  | vqAndn (i : BitVec 2) (d : BitVec 5) (a : BitVec 5) (b : BitVec 5)
  /-- VQ_NOT (R185): Inverts a predicate. -/
  | vqNot (i : BitVec 2) (d : BitVec 5) (a : BitVec 5)
  /-- VQ_ONES (R185): Sets all 128 predicate bits. -/
  | vqOnes (i : BitVec 2) (d : BitVec 5)
  /-- VQ_ZERO (R185): Clears all predicate bits. -/
  | vqZero (i : BitVec 2) (d : BitVec 5)
  /-- VQ_LIM (R185): Sets the predicate bits below a count. -/
  | vqLim (i : BitVec 2) (d : BitVec 5) (a : BitVec 5)
  /-- VQ_TOX (R185): Copies one half of a predicate to an x register. -/
  | vqTox (i : BitVec 2) (d : BitVec 5) (a : BitVec 5) (h : BitVec 1)
  /-- VQ_FRX (R185): Copies an x register into one half of a predicate. -/
  | vqFrx (i : BitVec 2) (d : BitVec 5) (a : BitVec 5) (h : BitVec 1)
  /-- VT_INTERP_FP32 (R188): Pushes a table interpolation of 16 FP32 lanes to the table-interpolation unit. -/
  | vtInterpFp32 (i : BitVec 2) (d : BitVec 5) (a : BitVec 5) (b : BitVec 5)
  /-- VT_INTERP_BF16 (R188): Pushes a table interpolation of 32 BF16 lanes to the table-interpolation unit. -/
  | vtInterpBf16 (i : BitVec 2) (d : BitVec 5) (a : BitVec 5) (b : BitVec 5)
  /-- INTERP_COMPLETE (R188): The table-interpolation unit pops a command, reads the table rows and writes the result to v[d]. -/
  | interpComplete (pcn : Nat)
  /-- VT_RMIX (R189): Runs n rounds of the counter-key mix over four groups. -/
  | vtRmix (i : BitVec 2) (d : BitVec 5) (a : BitVec 5) (n : BitVec 5)
  /-- MC_SET (R217): Writes a harrow shadow register, waiting while ARMED. -/
  | mcSet (i : BitVec 2) (d : BitVec 5) (a : BitVec 5)
  /-- MC_GET (R217): Reads a shadow register. -/
  | mcGet (i : BitVec 2) (d : BitVec 5) (a : BitVec 5)
  /-- MC_GETA (R217): Reads an active-bank register. -/
  | mcGeta (i : BitVec 2) (d : BitVec 5) (a : BitVec 5)
  /-- MC_CLR (R217): Resets the shadow bank to its reset values. -/
  | mcClr (i : BitVec 2)
  /-- MG_GO (R213): Arms the shadow bank for swap-in. -/
  | mgGo (i : BitVec 2)
  /-- MG_GO_IND (R215): Loads eight shadow registers from a descriptor row and arms. -/
  | mgGoInd (i : BitVec 2) (a : BitVec 5)
  /-- MG_SWAP (R218): Waits until ARMED is 0. -/
  | mgSwap (i : BitVec 2)
  /-- MG_STAT (R218): Reads HSTAT. -/
  | mgStat (i : BitVec 2) (d : BitVec 5)
  /-- MG_WAIT (R218): Waits until the harrow is IDLE with nothing armed. -/
  | mgWait (i : BitVec 2)
  /-- HARROW_WAIT_END (R213): A harrow named wait (ARMED, IDLE or tile free) ends and the waiting MX word proceeds. -/
  | harrowWaitEnd (pcn : Nat)
  /-- MB_CLR (R219): Clears a bin, and with E also every edge counter. -/
  | mbClr (i : BitVec 2) (a : BitVec 5) (e : BitVec 1)
  /-- MB_COUNT (R219): Runs one count step of a K-block into a bin. -/
  | mbCount (i : BitVec 2) (a : BitVec 5) (b : BitVec 5)
  /-- MB_MERGE (R199): Adds one bin into the other and clears the source. -/
  | mbMerge (i : BitVec 2) (d : BitVec 5) (a : BitVec 5)
  /-- MB_DRAIN (R200): Drains a bin into an accumulator tile by DOT or SQD. -/
  | mbDrain (i : BitVec 2) (d : BitVec 5) (a : BitVec 5) (s : BitVec 1)
  /-- MB_DEPTH (R219): Reads a bin's depth. -/
  | mbDepth (i : BitVec 2) (d : BitVec 5) (a : BitVec 5)
  /-- MB_RDC (R219): Reads one bin counter, edge counter or EDEP. -/
  | mbRdc (i : BitVec 2) (d : BitVec 5) (a : BitVec 5) (b : BitVec 5)
  /-- MW_WB (R221): Writes an accumulator tile back to scratchpad rows, optionally zeroing it. -/
  | mwWb (i : BitVec 2) (d : BitVec 5) (z : BitVec 1) (b : BitVec 5)
  /-- MW_TOPK (R222): Writes the top k entries of each tile row to scratchpad rows. -/
  | mwTopk (i : BitVec 2) (d : BitVec 5) (s : BitVec 1) (k : BitVec 3) (b : BitVec 5)
  /-- MW_ZERO (R221): Sets an accumulator tile to +0. -/
  | mwZero (i : BitVec 2) (d : BitVec 5)
  /-- MW_RD (R221): Reads one accumulator element. -/
  | mwRd (i : BitVec 2) (d : BitVec 5) (a : BitVec 5) (b : BitVec 5)
  /-- MX_RD (R365): Reads SXSTAT, R, P or the command block VA of the Sextant. -/
  | mxRd (i : BitVec 2) (d : BitVec 5) (s : BitVec 5)
  /-- MX_REP (R365): Reports a norm to the Sextant and sets REPD. -/
  | mxRep (i : BitVec 2) (a : BitVec 5)
  /-- BANK_ACCESS (R227): Each tract cycle a bank serves one row access by rank and performs it in the row's order. -/
  | bankAccess (pcn : Nat) (src : BankSrc) (k : Nat)
  /-- HARROW_SWAP_IN (R213): With no operator running, the armed shadow bank is copied into the active bank, checked, and the operator starts. -/
  | harrowSwapIn (pcn : Nat)
  /-- HARROW_COUNT_STEP (R198): A count step folds one K-block into a bin and updates depth, edge counters and tag. -/
  | harrowCountStep (pcn : Nat)
  /-- HARROW_DRAIN (R200): A drain multiplies out a bin exactly into an accumulator element with one rounding. -/
  | harrowDrain (pcn : Nat)
  /-- HARROW_MULTIPLY_BLOCK (R204): A multiply-mode K-block completes and adds its contribution to the tile. -/
  | harrowMultiplyBlock (pcn : Nat)
  /-- HARROW_TILE_STEP (R211): A tile step of the operator's nest completes, with optional write-back. -/
  | harrowTileStep (pcn : Nat)
  /-- HARROW_WRITE_BACK (R220): A tile is converted and written back to bank rows, one row per cycle. -/
  | harrowWriteBack (pcn : Nat)
  /-- HARROW_OPERATOR_DONE (R213): The last tile step completes and the harrow goes IDLE or swaps in the armed operator. -/
  | harrowOperatorDone (pcn : Nat)
  /-- COPY_POP (R254): The copy unit pops the next LDQ or STQ operation, reading its BFMT registers and waiting tokens. -/
  | copyPop (pcn : Nat) (st : Bool)
  /-- CMQ_POP (R254): CMQ's head is popped once its tokens are present and ARMED is 0, reads its descriptor row and arms. -/
  | cmqPop (pcn : Nat)
  /-- COPY_ROW (R254): The copy unit moves one scratchpad row of a copy. -/
  | copyRow (pcn : Nat) (st : Bool) (k : Nat)
  /-- COPY_COMPLETE (R255): A copy or CMQ operation completes, pushing its token and then updating its tag. -/
  | copyComplete (pcn : Nat) (cq : CopyQueue) (k : Nat)
  /-- DRILL_START (R246): A start command reaches the head of a drill's FIFO and the drill reads its start row and runs. -/
  | drillStart (n : Nat)
  /-- DRILL_STREAM (R244): Sets the drill's read pattern, linear or Morton, over main memory or the weight store. -/
  | drillStream (n : Nat)
  /-- DRILL_PUSH (R244): Moves pattern rows, converted, into arrival-barrier rings of one core or of all eight. -/
  | drillPush (n : Nat)
  /-- DRILL_WINDOW (R244): Advances the pattern base and returns the position to row 0. -/
  | drillWindow (n : Nat)
  /-- DRILL_LOOP (R244): Runs the operations up to its ENDL COUNT times. -/
  | drillLoop (n : Nat)
  /-- DRILL_ENDL (R244): Closes the innermost drill loop. -/
  | drillEndl (n : Nat)
  /-- DRILL_CONVERT (R244): Turns quantisation of following pushes on or off with given scales. -/
  | drillConvert (n : Nat)
  /-- DRILL_WAITSIG (R244): Waits until a main-memory word is at least a value. -/
  | drillWaitsig (n : Nat)
  /-- DRILL_SIGNAL (R244): Atomically adds to a main-memory word after all earlier pushed rows are performed. -/
  | drillSignal (n : Nat)
  /-- DRILL_WSWRITE (R244): Writes pattern rows into the weight store between kernels. -/
  | drillWswrite (n : Nat)
  /-- DRILL_FILL (R244): Pushes rows of zero bytes as PUSH places them. -/
  | drillFill (n : Nat)
  /-- DRILL_HALT (R244): Ends the drill's run and returns it to IDLE. -/
  | drillHalt (n : Nat)
  /-- DRILL_NOP (R244): Does nothing. -/
  | drillNop (n : Nat)
  /-- DRILL_ROW_ADMIT (R252): A waiting drill row is admitted by its barrier, takes an index and is written to its ring slot. -/
  | drillRowAdmit (n : Nat)
  /-- DRILL_WAIT_END (R246): A WAITING drill's condition holds and it continues at the same row. -/
  | drillWaitEnd (n : Nat)
  /-- DRILL_STOP (R246): A drill stops at its next row boundary on cp.dstop or its owner leaving RUNNING. -/
  | drillStop (n : Nat)
  /-- SAMPLE_ARRIVAL (R102): A sample arrives at a source port, pace source or link agent and is stamped with the chronometer. -/
  | sampleArrival (src : SampleSrc) (value : BitVec 64)
  /-- PACE_SAMPLE (R103): A pace source generates its next sample at its exact chronometer time. -/
  | paceSample (k : Nat)
  /-- SAMPLE_BOUNDARY (R107): At SCYC 0 of a sample the tract writes TAP, judging lost or repeated samples. -/
  | sampleBoundary (pcl : Nat)
  /-- SINK_TAKE (R110): At the end of a sample's last cycle the sink port takes and transmits OTAP. -/
  | sinkTake (pcl : Nat)
  /-- FRAME_BOUNDARY (R106): A frame of N tract cycles completes, FRAMES advances and frame cycle 0 begins. -/
  | frameBoundary (pcl : Nat)
  /-- LOCK_ACQUIRED (R113): A LOCKING tract has seen 16 edges in range, or a first pace sample, and enters LOCKED. -/
  | lockAcquired (pcl : Nat)
  /-- LOCK_TIMEOUT (R105): LOCKING does not complete within 16,000,000 ticks and the tract returns to FREE. -/
  | lockTimeout (pcl : Nat)
  /-- SOURCE_STOPPED (R112): No edge arrives within two expected periods and the tract enters COAST. -/
  | sourceStopped (pcl : Nat)
  /-- ENTER_BECALMED (R113): At a frame boundary with HOLDLEFT at 0 the clock stops in BECALMED. -/
  | enterBecalmed (pcl : Nat)
  /-- SOURCE_RETURN (R113): Sixteen edges in range return a COAST or BECALMED tract to LOCKED at frame cycle 0. -/
  | sourceReturn (pcl : Nat)
  /-- CHRON_EXCHANGE (R355): Every 1,000,000 ticks linked packages exchange four stamps and correct from the parent. -/
  | chronExchange (l : Nat) (t1 t2 t3 t4 : BitVec 64)
  /-- REFRESH_WINDOW_START (R237): A weight-store subarray's 512-tick refresh window begins and stalls its drill reads. -/
  | refreshWindowStart (die sub : Nat)
  /-- REFRESH_WINDOW_END (R237): A refresh window ends and stalled drill reads proceed. -/
  | refreshWindowEnd (die sub : Nat)
  /-- REFRESH_PERIOD (R238): At each multiple of 16,000,000 ticks a new refresh period begins under the phase then in force. -/
  | refreshPeriod (die : Nat)
  /-- PLACEMENT_PASS (R289): At the end of a tick with acceptances or releases, the placer applies releases and places requests whole. -/
  | placementPass
  /-- KERNEL_STARTING (R135): Once every core's previous operator has retired, row images and BFMT are written and the tract bound or checked. -/
  | kernelStarting (k : Nat)
  /-- KERNEL_RUNNING (R135): Every core is ready and the tract LOCKED, so all streams begin or resume. -/
  | kernelRunning (k : Nat)
  /-- KERNEL_RETIRE (R140): Every stream has ended, stores are performed at system scope and the cores are freed. -/
  | kernelRetire (k : Nat)
  /-- DIVERSION (R144): A stream under pre-emption reaches a covered boundary, saves state and diverts to its drain stub. -/
  | diversion (pcn : Nat) (eng : Eng)
  /-- KERNEL_SAVED (R135): Every stream of a draining kernel has yielded or ended and the kernel is SAVED. -/
  | kernelSaved (k : Nat)
  /-- PAGE_WALK (R309): The walker reads one entry per level and yields a translation or a fault. -/
  | pageWalk (w : Nat)
  /-- WALK_REREAD (R309): Every 1,000 ticks a walk stalled on MIG reads its entry again. -/
  | walkReread (w : Nat)
  /-- WALK_MIGRATING_TIMEOUT (R309): MIG still set 64,000 ticks after the first read ends the walk with MIGRATING. -/
  | walkMigratingTimeout (w : Nat)
  /-- FAULT_SERVICE_DONE (R314): Service of a page or walk fault completes, resuming the halted AP or paused drill or declining it as PAGE_FATAL. -/
  | faultServiceDone (who : Requester) (resume : Bool)
  /-- HANDLE_RETRANSLATE (R315): On a pace tract HANDLE_INVALID halts the AP and the handle is translated again before the cp word reissues. -/
  | handleRetranslate (pcn : Nat)
  /-- SHOOTDOWN (R317): Writing GO in SDCTL removes translations of a page range package-wide and waits for their users. -/
  | shootdown (go : SdTurn)
  /-- DOORBELL (R331): A doorbell write sets a queue's WPTR or faults BADPTR. -/
  | doorbell (q : Bell) (w : BitVec 64)
  /-- NOP_PACKET (R334): A NOP packet has no effect. -/
  | nopPacket (q : Nat)
  /-- LAUNCH (R334): A LAUNCH packet runs a chain of operator records, posted. -/
  | launch (q : Nat)
  /-- IB (R335): An IB packet descends into an indirect buffer. -/
  | ib (q : Nat)
  /-- SIGNAL (R334): A SIGNAL packet atomically adds to a memory word after earlier work completes. -/
  | signal (q : Nat)
  /-- WAIT (R341): A WAIT packet holds the queue until a memory word reaches a value. -/
  | wait (q : Nat)
  /-- WAIT_REEVALUATE (R341): A write to a WAIT's row, a doorbell, or a RESUME re-evaluates a waiting queue. -/
  | waitReevaluate (q : Nat)
  /-- WRITE (R334): A WRITE packet writes data words to memory. -/
  | write (q : Nat)
  /-- FENCE (R334): A FENCE packet completes when all earlier work has completed. -/
  | fence (q : Nat)
  /-- STAMP (R334): A STAMP packet writes the chronometer to memory. -/
  | stamp (q : Nat)
  /-- DRILL (R334): A DRILL packet starts a context-owned drill run. -/
  | drill (q : Nat)
  /-- SEXTANT (R334): A SEXTANT packet launches one SEXTANT record built from its payload. -/
  | sextant (q : Nat)
  /-- WSLOAD (R334): A WSLOAD packet copies rows into a die's weight store between kernels. -/
  | wsload (q : Nat)
  /-- RESET (R343): A RESET packet resets another queue of the partition. -/
  | reset (q : Nat)
  /-- TRACT_BIND (R340): Binds a FREE tract with a TCTL and locks it. -/
  | tractBind (q : Nat)
  /-- TRACT_RELOCK (R340): Re-locks a bound tract with a new TCTL. -/
  | tractRelock (q : Nat)
  /-- TRACT_UNBIND (R340): Unbinds a tract to FREE when no kernel is placed. -/
  | tractUnbind (q : Nat)
  /-- TRACT_SINK (R340): Writes a tract's TSNK sink binding. -/
  | tractSink (q : Nat)
  /-- TRACT_STILE (R340): Writes a stile's STCFG, binding or unbinding it. -/
  | tractStile (q : Nat)
  /-- TRACT_PACE (R340): Starts or stops a pace source at a rate. -/
  | tractPace (q : Nat)
  /-- TRACT_PORT (R340): Writes a source or sink port configuration register. -/
  | tractPort (q : Nat)
  /-- TRACT_LINKCFG (R340): Writes a link's stream configuration register. -/
  | tractLinkcfg (q : Nat)
  /-- KERNEL_RECORD (R336): A KERNEL operator record is read and checked with its program header before placement. -/
  | kernelRecord (q : Nat)
  /-- MXOP_RECORD (R337): An MXOP record's words are loaded into each core's shadow bank and armed as the kernel enters RUNNING. -/
  | mxopRecord (k : Nat)
  /-- COPY_RECORD (R337): A COPY record names an in-copy before RUNNING or an out-copy after the streams end. -/
  | copyRecord (k i : Nat)
  /-- SEXTANT_RECORD (R361): A SEXTANT record starts a Sextant command once the Sextant is IDLE and its checks pass. -/
  | sextantRecord (q : Nat)
  /-- IN_COPY (R337): A COPY record's in-copy moves rows into each core's scratchpad before RUNNING. -/
  | inCopy (k i pcn : Nat)
  /-- OUT_COPY (R366): A COPY record's out-copy moves rows out after every stream has ended. -/
  | outCopy (k i pcn : Nat)
  /-- LAUNCH_END (R338): A LAUNCH ends RETIRED, SAVED or FAULTED and the notification block records it. -/
  | launchEnd (q : Nat)
  /-- COAL_TIMER (R347): A coalescing timer expires and one interrupt is sent if SEQ has changed. -/
  | coalTimer (q : Nat)
  /-- QCTL_ENABLE (R344): Enables a DISABLED queue after checking its capabilities and context. -/
  | qctlEnable (w : BitVec 64)
  /-- QCTL_DISABLE (R343): Disables an IDLE queue with no posted work or saved kernel. -/
  | qctlDisable (w : BitVec 64)
  /-- QCTL_CLEAR (R343): Clears a FAULTED queue, retiring its faulted kernel and resuming fetch. -/
  | qctlClear (w : BitVec 64)
  /-- QCTL_RESET (R343): Resets a queue: stops its kernels and drills, awaits agent acknowledgements and empties the ring. -/
  | qctlReset (w : BitVec 64)
  /-- QCTL_PREEMPT (R344): Requests pre-emption of the queue's current kernel. -/
  | qctlPreempt (w : BitVec 64)
  /-- QCTL_RESTORE (R344): Rebuilds a DISABLED queue's mutable line from the QIMG registers. -/
  | qctlRestore (w : BitVec 64)
  /-- RESET_ACK (R282): An agent acknowledges a reset after performing or discarding the context's posted writes. -/
  | resetAck (q agent : Nat)
  /-- RESET_ACK_TIMEOUT (R343): An agent's 1,000,000-tick acknowledgement limit expires and its unsent writes are discarded. -/
  | resetAckTimeout (q : Nat)
  /-- QUEUE_LINE_WRITE (R328): A write to a queue's read-only line while DISABLED updates a word and its capability tag. -/
  | queueLineWrite (q i : Nat) (w : BitVec 64)
  /-- CTX_ENABLE (R321): Checks a FREE context's record and makes it LIVE. -/
  | ctxEnable (w : BitVec 64)
  /-- CTX_SUSPEND (R322): Stops the context's queues and pre-empts its kernels into saves. -/
  | ctxSuspend (w : BitVec 64)
  /-- CTX_RESUME (R321): Resumes a SUSPENDED context and relaunches its saved kernels. -/
  | ctxResume (w : BitVec 64)
  /-- CTX_PRECOPY (R324): Starts dirty tracking of the listed frames. -/
  | ctxPrecopy (w : BitVec 64)
  /-- CTX_STOPCOPY (R325): Suspends the context and starts holding accesses to its listed frames. -/
  | ctxStopcopy (w : BitVec 64)
  /-- CTX_COMMIT (R326): Forwards held and later accesses to the new frames on the destination package. -/
  | ctxCommit (w : BitVec 64)
  /-- CTX_ABORT (R321): Ends PRECOPY, STOPCOPY before COMMIT, or a pending SUSPEND. -/
  | ctxAbort (w : BitVec 64)
  /-- CTX_DISABLE (R321): Frees a context after a whole-context shootdown. -/
  | ctxDisable (w : BitVec 64)
  /-- CTX_CLEAR (R321): Frees a FAULTED context, discarding its saves. -/
  | ctxClear (w : BitVec 64)
  /-- CTX_IMPORT (R321): Creates a SUSPENDED context from the saves in its save area. -/
  | ctxImport (w : BitVec 64)
  /-- HELD_ACCESS (R325): An access into a listed old frame reaches a source agent during STOPCOPY and is held or forwarded. -/
  | heldAccess (asid : Nat) (acc : RemoteAccess)
  /-- CONTEXT_FAULT (R321): An unrecoverable error in the record or saved state takes the context to FAULTED. -/
  | contextFault (asid : Nat) (code : BitVec 16) (info : BitVec 64)
  /-- SX_FACTOR_RETIRE (R361): The factor kernel retires and the Sextant launches a correction kernel. -/
  | sxFactorRetire (pcl : Nat)
  /-- SX_CORRECT_RETIRE (R361): A correction kernel retires, PASS advances and the Sextant enters TEST. -/
  | sxCorrectRetire (pcl : Nat)
  /-- SX_TEST (R363): The Sextant takes the pass's norm and decides to correct, escalate, trap or end. -/
  | sxTest (pcl : Nat)
  /-- SX_TRAP_RETIRE (R361): The trap kernel retires and the Sextant writes RESULT and goes IDLE. -/
  | sxTrapRetire (pcl : Nat)
  /-- SX_KERNEL_FAULT (R361): A Sextant-launched kernel faults and the Sextant goes IDLE with EXIT 5. -/
  | sxKernelFault (pcl : Nat)
  /-- FLIT_RECEIVE (R352): A link receives a flit, checks its CRC and sequence, and delivers or drops it. -/
  | flitReceive (l : Nat) (flit : BitVec 256) (data : BitVec 512) (crcOk : Bool)
  /-- FLIT_REPLAY (R352): A dropped or unacknowledged flit is replayed with every later flit. -/
  | flitReplay (l : Nat)
  /-- REMOTE_ACK (R357): A home package's acknowledgement of a remote access returns and releases held later accesses. -/
  | remoteAck (l tag : Nat)
  /-- LINK_SAMPLE (R356): A sample flit received on a link is presented to a link-stream tract. -/
  | linkSample (l : Nat)
  /-- LINK_TRAINED (R354): Twelve or more lanes train within the limit and the link enters ALIGN. -/
  | linkTrained (l : Nat) (lanes : BitVec 16) (peer : BitVec 19)
  /-- TRAINING_TIMEOUT (R354): Training does not succeed within 20,000,000 ticks and the link is FAULTED. -/
  | trainingTimeout (l : Nat)
  /-- LANE_FAILURE (R354): A lane of an UP link fails and the link becomes DEGRADED. -/
  | laneFailure (l lane : Nat)
  /-- LINK_FAULT (R354): Sixteen replays of one flit or 64 CRC failures in a period take the link to FAULTED. -/
  | linkFault (l : Nat)
  /-- LINK_ENABLE (R354): Helm LINK command that enables a link into TRAINING. -/
  | linkEnable (w : BitVec 64)
  /-- LINK_RETRAIN (R354): Helm LINK command that retrains a FAULTED link. -/
  | linkRetrain (w : BitVec 64)
  /-- LINK_DISABLE (R354): Helm LINK command that disables a link after replay. -/
  | linkDisable (w : BitVec 64)
  /-- LOCK_INTERFACE_REQUEST (R369): Freezes a function's registers and records a nonce. -/
  | lockInterfaceRequest (vf : Nat) (nonce : BitVec 256)
  /-- START_INTERFACE_REQUEST (R369): Enables the function's DMA and MSI-X with the recorded nonce. -/
  | startInterfaceRequest (vf : Nat) (nonce : BitVec 256)
  /-- STOP_INTERFACE_REQUEST (R369): Returns an interface to CONFIG_UNLOCKED. -/
  | stopInterfaceRequest (vf : Nat)
  /-- GET_DEVICE_INTERFACE_REPORT (R372): Returns the interface report of a locked interface. -/
  | getDeviceInterfaceReport (vf : Nat)
  /-- FROZEN_REGISTER_WRITE (R371): A write to a frozen register, key change or link down takes the interface to ERROR and resets its queues. -/
  | frozenRegisterWrite (vf : VfWrite)
  /-- HEARTBEAT (R373): A service pair writes its heartbeat to the helm. -/
  | heartbeat (die : Nat)
  /-- LOCKSTEP_MISMATCH (R373): A lock-step compare fails, halting the pair and freezing the logbook. -/
  | lockstepMismatch (die : Nat)
  /-- PILOT_TAKEOVER (R374): The pilot misses three beats and the lowest healthy die takes over. -/
  | pilotTakeover
  /-- ZQ_PUSH (R375): Pushes a packet word into the command port for a queue. -/
  | zqPush (b : BitVec 5) (a : BitVec 5)
  /-- ZQ_PUSHW (R375): Writes a privileged register through the command port. -/
  | zqPushw (b : BitVec 5) (a : BitVec 5)
  /-- ZQ_FENCE (R376): Waits until every pushed packet has completed and returns PSTAT. -/
  | zqFence (d : BitVec 5)
  /-- ZQ_STAT (R375): Reads a privileged register through the command port. -/
  | zqStat (a : BitVec 5) (d : BitVec 5)
  /-- PORT_PACKET (R376): A command-port packet is taken at the queue's next packet boundary ahead of the ring. -/
  | portPacket (port : Nat)
  /-- SERVICE_CALL_DISPATCH (R377): A service call reaches the service-pair agent or host driver and is served. -/
  | serviceCallDispatch (i : Nat) (answer : BitVec 64)
  /-- EXTENT_REVOKE (R378): The host revokes or truncates a file extent once calls in flight finish. -/
  | extentRevoke (ext : BitVec 64) (len : Nat)
  /-- VOTE (R381): A partition votes an operating state for a rail. -/
  | vote (w : BitVec 64)
  /-- VOTE_HOLD_EXPIRY (R381): A rail's 4,000,000-tick hold expires and it falls when tract clocks allow. -/
  | voteHoldExpiry (rail : Nat)
  /-- SETMODE (R385): Writes MODE, choosing hardware or host-assisted mode per function. -/
  | setmode (w : BitVec 64)
  /-- LOGREAD (R387): Reads one word of a logbook slot into MBDATA. -/
  | logread (w : BitVec 64)
  /-- LOGTHAW (R387): Unfreezes a die's logbook and clears LOST. -/
  | logthaw (w : BitVec 64)
  /-- STAGE (R388): Copies and verifies a firmware update image into helm flash. -/
  | stage (w : BitVec 64) (image : List Byte)
  /-- SENSOR (R380): Returns a temperature, power or energy reading. -/
  | sensor (w : BitVec 64)
  /-- HARING (R386): Sets the host-assist ring and posts requests held until then. -/
  | haring (w : BitVec 64)
  /-- HANSWER (R386): Answers a pending host-assist request by sequence number. -/
  | hanswer (w : BitVec 64)
  /-- POWER_PERIOD (R382): Every 1,000,000 ticks the helm compares metered power with limits and takes or undoes one protective step. -/
  | powerPeriod (meter : PowerMeter)
  /-- THERMAL_MOVE (R383): A cluster above 95 C moves an eligible pace-tract kernel to cooler clusters. -/
  | thermalMove (k : Nat)
  /-- SOFT_ERROR (R387): An uncorrectable soft error faults its kernel or freezes the logbook. -/
  | softError (die : Nat) (pcn : Option Nat)
  /-- POWER_ON (R389): Power-on reset: the helm verifies its image, raises rails to P6 and releases the service pairs. -/
  | powerOn
  /-- REGISTER_WRITE (R3): A write to a register with no behaviour of its own stores its fields, ignoring reserved bits. -/
  | registerWrite (r : DieReg) (w : BitVec 64)
  /-- UNASSIGNED_ENCODING (R71): A stream fetches a half-word that no instruction assigns (0x0000, an unassigned major or function, or a half-word at or past the end of the code section) and takes a precise ILLEGAL fault. -/
  | unassignedEncoding
  /-- BADTYPE_PACKET (R332): The front end takes a packet header whose TYPE is above 0x0C and faults the queue with BADTYPE. -/
  | badtypePacket (q : Nat)
  /-- UNASSIGNED_DRILL_OPCODE (R243): A drill reaches an operation whose OPC is unassigned (0x00 among them) and faults DRILL_FORM. -/
  | unassignedDrillOpcode (n : Nat)
  /-- WSLOAD_COMPLETE (R333): A posted WSLOAD completes when its last row has been written into the weight store, letting later SIGNAL, WRITE, STAMP and FENCE packets begin. -/
  | wsloadComplete (q : Nat)
  /-- RAIL_RAISE_COMPLETE (R381): A rail that the helm is raising reaches its new voltage, after which the new state's tract ceiling comes into force. -/
  | railRaiseComplete (rail : Nat)
  /-- INSTRUCTION_FETCH_ARRIVAL (R159): A code fetch that missed the loop buffer completes, within 2,000 chronometer ticks, and the stalled stream issues the arrived word. -/
  | instructionFetchArrival (pcn : Nat) (eng : Eng)
  deriving DecidableEq, Repr, Inhabited

end Sys2Proof
end

