-- ==== Sys2Proof/WellFormed.lean ====
section
/-! DEFINITION. WellFormed.lean: which field values of an instruction word are assigned (R68, R71 and the per-major
rules). What a field may hold beyond its width is checked here; the width itself is the type of the field. Events
carry no fields of an encoding. -/

namespace Sys2Proof

/-- A pair operand names an even register (R179). -/
def evenReg (r : BitVec 5) : Bool := r.toNat % 2 = 0

/-- `vc.cvt` (R183): DT and ST differ, q4 stands opposite a float only and is never rounded toward zero, and PART is
below the ratio of the two lane widths. -/
def cvtWidth (code : BitVec 3) : Nat :=
  match code.toNat with
  | 0 => 8 | 1 => 16 | 2 => 32 | 3 => 8 | 4 => 16 | 5 => 16 | 6 => 32 | _ => 4

/-- The number of parts of a conversion between two lane widths (R183). -/
def cvtRatio (x y : BitVec 3) : Nat :=
  max (cvtWidth x) (cvtWidth y) / min (cvtWidth x) (cvtWidth y)

/-- The assigned operand combinations of `vc.cvt` (R183). -/
def cvtOk (r : BitVec 1) (p x y : BitVec 3) : Bool :=
  x != y && !(x.toNat = 7 && y.toNat < 3) && !(y.toNat = 7 && x.toNat < 3) && !(r = 1 && x.toNat = 7)
    && p.toNat < cvtRatio x y

/-- R68, R71: the word names only registers of its files and only assigned values of its fields. Words of the ld, st,
at and mon majors whose address register is an a register in the AP are held to R178 and R230 by `Instr.okFor`. -/
def Instr.wf : Instr → Bool
  | .iaSxt _ _ _ w => w != 0
  | .iaZxt _ _ _ w => w != 3
  | .iaAmov _ d _ => d.toNat < 16
  | .iaXmov _ _ a => a.toNat < 16
  | .iaAadd _ d a _ | .iaArow _ d a _ => d.toNat < 16 && a.toNat < 16
  | .compactAdd d a => !(d = 0 && a = 0)
  | .cmpEq _ d _ _ | .cmpNe _ d _ _ | .cmpLt _ d _ _ | .cmpGe _ d _ _ | .cmpLtu _ d _ _ | .cmpGeu _ d _ _
  | .cmpTst _ d _ _ | .cmpNtst _ d _ _ => d.toNat < 4
  | .cmpAnd _ d a b | .cmpOr _ d a b | .cmpAndn _ d a b | .cmpXor _ d a b =>
      d.toNat < 4 && a.toNat < 4 && b.toNat < 4
  | .cmpStg _ d a => d.toNat < 4 && a.toNat < 8
  | .brPrepx _ d _ => d.toNat < 4
  | .brGo _ d a | .brGoNot _ d a => d.toNat < 4 && a.toNat < 4
  | .brGoAlways _ d => d.toNat < 4
  | .brTget _ _ a => a.toNat < 4
  | .sysId _ _ s => s.toNat < 12
  | .sysRd _ _ r => r.toNat < 0x25
  | .sysWr _ _ r => r.toNat < 0x21
  | .sysFence _ _ s => s.toNat < 6
  | .atAdd _ _ _ _ w | .atAnd _ _ _ _ w | .atOr _ _ _ _ w | .atXor _ _ _ _ w | .atMin _ _ _ _ w
  | .atMax _ _ _ _ w | .atMinu _ _ _ _ w | .atMaxu _ _ _ _ w | .atSwap _ _ _ _ w => w.toNat < 4
  | .atCas _ d _ _ w => w.toNat < 4 && evenReg d
  | .atFadd _ _ _ _ w => w = 4 || w = 5
  | .monWaiteq _ _ _ _ w | .monWaitne _ _ _ _ w | .monWaitge _ _ _ _ w | .monWaitgeu _ _ _ _ w => w.toNat < 4
  | .spVspill _ _ s | .spVfill _ _ s => s.toNat < 64
  | .qPop _ _ a | .qCnt _ _ a => a.toNat < 8
  | .qPush _ d _ => d.toNat < 8
  | .qPopc _ d a => d.toNat < 4 && (a = 6 || a = 7)
  | .qPushc _ d a => (d = 6 || d = 7) && a.toNat < 4
  | .barRd _ _ _ s => s.toNat < 2
  | .xlTr _ d _ | .xlTrw _ d _ | .xlInv _ d => d.toNat < 16
  | .xlRd _ _ a s => a.toNat < 16 && s.toNat < 2
  | .cpLd _ a _ | .cpSt _ a _ => a.toNat < 16
  | .cpTok _ d n => d.toNat < 4 && n.toNat < 9
  | .cpTcnt _ _ a => a.toNat < 4
  | .abInit _ a _ | .abAwait _ a _ | .abAret _ a _ => a.toNat < 16
  | .abRd _ _ a s => a.toNat < 16 && s.toNat < 4
  | .trRd _ _ s => s.toNat < 8
  | .rgEcount _ d _ => evenReg d
  | .rgEscan _ d a => evenReg d && evenReg a
  | .rgEscat _ d _ b => evenReg d && evenReg b && d != b
  | .viAdd _ _ _ _ t | .viSub _ _ _ _ t | .viMul _ _ _ _ t | .viMin _ _ _ _ t | .viMax _ _ _ _ t
  | .viAdds _ _ _ _ t => t != 7
  | .vfAdd _ _ _ _ _ f | .vfSub _ _ _ _ _ f | .vfMul _ _ _ _ _ f | .vfFma _ _ _ _ _ f => f != 3
  | .vfMin _ _ _ _ f | .vfMax _ _ _ _ f => f != 3
  | .vfCfma _ d a b _ f => f != 3 || (evenReg d && evenReg a && evenReg b)
  | .vfNeg _ _ _ f | .vfAbs _ _ _ f => f != 3
  | .vfSqrt _ _ _ _ f | .vfRcp _ _ _ _ f => f != 3
  | .vcCvt _ _ _ r p x y => cvtOk r p x y
  | .vpFimm _ _ _ t => t.toNat < 5
  | .vrSum _ _ _ t | .vrMin _ _ _ t | .vrMax _ _ _ t => t != 7
  | .vrFsum _ _ _ f | .vrFmin _ _ _ f | .vrFmax _ _ _ f => f != 3
  | .vrAny _ d a => d.toNat < 4 && a.toNat < 8
  | .vrAll _ d a _ => d.toNat < 4 && a.toNat < 8
  | .vrPcnt _ _ a => a.toNat < 8
  | .vqEq _ d _ _ t | .vqNe _ d _ _ t | .vqLt _ d _ _ t | .vqLe _ d _ _ t => d.toNat < 8 && t != 7
  | .vqFeq _ d _ _ f | .vqFlt _ d _ _ f | .vqFle _ d _ _ f | .vqFun _ d _ _ f => d.toNat < 8 && f != 3
  | .vqAnd _ d a b | .vqOr _ d a b | .vqXor _ d a b | .vqAndn _ d a b =>
      d.toNat < 8 && a.toNat < 8 && b.toNat < 8
  | .vqNot _ d a => d.toNat < 8 && a.toNat < 8
  | .vqOnes _ d | .vqZero _ d => d.toNat < 8
  | .vqLim _ d _ => d.toNat < 8
  | .vqTox _ _ a _ => a.toNat < 8
  | .vqFrx _ d _ _ => d.toNat < 8
  | .mcSet _ d _ => d.toNat < 12
  | .mcGet _ _ a | .mcGeta _ _ a => a.toNat < 12
  | .mbClr _ a _ => a.toNat < 2
  | .mbCount _ a _ => a.toNat < 2
  | .mbMerge _ d a => d.toNat < 2 && a.toNat < 2 && d != a
  | .mbDrain _ d a _ => d.toNat < 2 && a.toNat < 2
  | .mbDepth _ _ a => a.toNat < 2
  | .mbRdc _ _ a _ => a.toNat < 2
  | .mwWb _ d _ _ => d.toNat < 2
  | .mwTopk _ d _ _ _ => d.toNat < 2
  | .mwZero _ d => d.toNat < 2
  | .mwRd _ _ a _ => a.toNat < 2
  | .mxRd _ _ s => s.toNat < 4
  | _ => true

end Sys2Proof
end

