-- ==== Sys2Proof/Decode.lean ====
section
/-! DEFINITION. Decode.lean: from the bytes of a code section to an instruction (R46 to R48, R51, R57 to R59, R62 to
R66, R70, R71), and the encoder of the same tables. A register file, a MAJ, an FN, an OP or a W that the tables do not
assign, and a field that a table shows as 0 and that is not 0, is refused (ILLEGAL); a malformed header or extension
word is refused as BLOCK_FORM (R55).

Lean's compiled code numbers the constructors of a type in one byte, and the opcode table has 430 rows, so the
definitions that build an instruction past that number carry the word noncomputable. They are plain structural
definitions all the same: the kernel evaluates them on numerals. -/

namespace Sys2Proof

/-- What the bytes at an address read as. -/
inductive Decoded where
  /-- An instruction and its length in bytes. -/
  | ok (i : Instr) (len : Nat)
  /-- An encoding that faults ILLEGAL (R71, R72). -/
  | illegal
  /-- A header or extension word that faults BLOCK_FORM (R55, R72). -/
  | blockForm
  deriving DecidableEq, Repr, Inhabited

/-- What an encoded instruction stands in memory as. -/
inductive Encoded where
  /-- One half-word (R47). -/
  | half (h : BitVec 16)
  /-- One 32-bit word, its half-word at the lower address in [31:16] (R46). -/
  | word (w : BitVec 32)
  /-- A block header followed by its extension word (R52). -/
  | header (w ext : BitVec 32)
  /-- A custom-0 word of a service core (R375). -/
  | riscv (w : BitVec 32)
  deriving DecidableEq, Repr, Inhabited

/-- Major 0x01, ia (R70). -/
def decIa (w : BitVec 32) : Option Instr :=
  match (w.extractLsb' 2 4).toNat with
    | 0x0 => 
      match (w.extractLsb' 0 2).toNat with
        | 0x0 => some (.iaAdd (w.extractLsb' 21 2) (w.extractLsb' 16 5) (w.extractLsb' 11 5) (w.extractLsb' 6 5))
        | 0x1 => some (.iaSub (w.extractLsb' 21 2) (w.extractLsb' 16 5) (w.extractLsb' 11 5) (w.extractLsb' 6 5))
        | 0x2 => some (.iaAnd (w.extractLsb' 21 2) (w.extractLsb' 16 5) (w.extractLsb' 11 5) (w.extractLsb' 6 5))
        | 0x3 => some (.iaOr (w.extractLsb' 21 2) (w.extractLsb' 16 5) (w.extractLsb' 11 5) (w.extractLsb' 6 5))
        | _ => none
    | 0x1 => 
      match (w.extractLsb' 0 2).toNat with
        | 0x0 => some (.iaXor (w.extractLsb' 21 2) (w.extractLsb' 16 5) (w.extractLsb' 11 5) (w.extractLsb' 6 5))
        | 0x1 => if w.extractLsb' 6 5 = 0x0#5 then some (.iaMov (w.extractLsb' 21 2) (w.extractLsb' 16 5) (w.extractLsb' 11 5)) else none
        | 0x2 => some (.iaAndn (w.extractLsb' 21 2) (w.extractLsb' 16 5) (w.extractLsb' 11 5) (w.extractLsb' 6 5))
        | 0x3 => some (.iaOrn (w.extractLsb' 21 2) (w.extractLsb' 16 5) (w.extractLsb' 11 5) (w.extractLsb' 6 5))
        | _ => none
    | 0x2 => 
      match (w.extractLsb' 0 2).toNat with
        | 0x0 => some (.iaMul (w.extractLsb' 21 2) (w.extractLsb' 16 5) (w.extractLsb' 11 5) (w.extractLsb' 6 5))
        | 0x1 => some (.iaMulh (w.extractLsb' 21 2) (w.extractLsb' 16 5) (w.extractLsb' 11 5) (w.extractLsb' 6 5))
        | 0x2 => some (.iaMulhu (w.extractLsb' 21 2) (w.extractLsb' 16 5) (w.extractLsb' 11 5) (w.extractLsb' 6 5))
        | 0x3 => some (.iaDiv (w.extractLsb' 21 2) (w.extractLsb' 16 5) (w.extractLsb' 11 5) (w.extractLsb' 6 5))
        | _ => none
    | 0x3 => 
      match (w.extractLsb' 0 2).toNat with
        | 0x0 => some (.iaDivu (w.extractLsb' 21 2) (w.extractLsb' 16 5) (w.extractLsb' 11 5) (w.extractLsb' 6 5))
        | 0x1 => some (.iaRem (w.extractLsb' 21 2) (w.extractLsb' 16 5) (w.extractLsb' 11 5) (w.extractLsb' 6 5))
        | 0x2 => some (.iaRemu (w.extractLsb' 21 2) (w.extractLsb' 16 5) (w.extractLsb' 11 5) (w.extractLsb' 6 5))
        | 0x3 => some (.iaMin (w.extractLsb' 21 2) (w.extractLsb' 16 5) (w.extractLsb' 11 5) (w.extractLsb' 6 5))
        | _ => none
    | 0x4 => 
      match (w.extractLsb' 0 2).toNat with
        | 0x0 => some (.iaMax (w.extractLsb' 21 2) (w.extractLsb' 16 5) (w.extractLsb' 11 5) (w.extractLsb' 6 5))
        | 0x1 => some (.iaMinu (w.extractLsb' 21 2) (w.extractLsb' 16 5) (w.extractLsb' 11 5) (w.extractLsb' 6 5))
        | 0x2 => some (.iaMaxu (w.extractLsb' 21 2) (w.extractLsb' 16 5) (w.extractLsb' 11 5) (w.extractLsb' 6 5))
        | 0x3 => some (.iaAddco (w.extractLsb' 21 2) (w.extractLsb' 16 5) (w.extractLsb' 11 5) (w.extractLsb' 6 5))
        | _ => none
    | 0x5 => 
      match (w.extractLsb' 0 2).toNat with
        | 0x0 => some (.iaAddc (w.extractLsb' 21 2) (w.extractLsb' 16 5) (w.extractLsb' 11 5) (w.extractLsb' 6 5))
        | 0x1 => some (.iaSubbo (w.extractLsb' 21 2) (w.extractLsb' 16 5) (w.extractLsb' 11 5) (w.extractLsb' 6 5))
        | 0x2 => some (.iaSubb (w.extractLsb' 21 2) (w.extractLsb' 16 5) (w.extractLsb' 11 5) (w.extractLsb' 6 5))
        | 0x3 => some (.iaAdds (w.extractLsb' 21 2) (w.extractLsb' 16 5) (w.extractLsb' 11 5) (w.extractLsb' 6 5))
        | _ => none
    | 0x6 => 
      if w.extractLsb' 0 2 = 0x0#2 then some (.iaSubs (w.extractLsb' 21 2) (w.extractLsb' 16 5) (w.extractLsb' 11 5) (w.extractLsb' 6 5))
        else if w.extractLsb' 6 5 = 0x0#5 then some (.iaSxt (w.extractLsb' 21 2) (w.extractLsb' 16 5) (w.extractLsb' 11 5) (w.extractLsb' 0 2)) else none
    | 0x7 => if w.extractLsb' 6 5 = 0x0#5 then some (.iaZxt (w.extractLsb' 21 2) (w.extractLsb' 16 5) (w.extractLsb' 11 5) (w.extractLsb' 0 2)) else none
    | 0x8 => 
      match (w.extractLsb' 0 2).toNat with
        | 0x0 => if w.extractLsb' 6 5 = 0x0#5 then some (.iaAmov (w.extractLsb' 21 2) (w.extractLsb' 16 5) (w.extractLsb' 11 5)) else none
        | 0x1 => if w.extractLsb' 6 5 = 0x0#5 then some (.iaXmov (w.extractLsb' 21 2) (w.extractLsb' 16 5) (w.extractLsb' 11 5)) else none
        | 0x2 => some (.iaAadd (w.extractLsb' 21 2) (w.extractLsb' 16 5) (w.extractLsb' 11 5) (w.extractLsb' 6 5))
        | 0x3 => some (.iaArow (w.extractLsb' 21 2) (w.extractLsb' 16 5) (w.extractLsb' 11 5) (w.extractLsb' 6 5))
        | _ => none
    | _ => none

/-- Major 0x02, ii (R70). -/
def decIi (w : BitVec 32) : Option Instr :=
  some (.iiAdd (w.extractLsb' 21 2) (w.extractLsb' 16 5) (w.extractLsb' 11 5) (w.extractLsb' 0 11))

/-- Major 0x03, bf (R70). -/
def decBf (w : BitVec 32) : Option Instr :=
  match (w.extractLsb' 1 5).toNat with
    | 0x0 => 
      match (w.extractLsb' 0 1).toNat with
        | 0x0 => some (.bfSll (w.extractLsb' 21 2) (w.extractLsb' 16 5) (w.extractLsb' 11 5) (w.extractLsb' 6 5))
        | 0x1 => some (.bfSrl (w.extractLsb' 21 2) (w.extractLsb' 16 5) (w.extractLsb' 11 5) (w.extractLsb' 6 5))
        | _ => none
    | 0x1 => 
      match (w.extractLsb' 0 1).toNat with
        | 0x0 => some (.bfSra (w.extractLsb' 21 2) (w.extractLsb' 16 5) (w.extractLsb' 11 5) (w.extractLsb' 6 5))
        | 0x1 => some (.bfRol (w.extractLsb' 21 2) (w.extractLsb' 16 5) (w.extractLsb' 11 5) (w.extractLsb' 6 5))
        | _ => none
    | 0x2 => 
      match (w.extractLsb' 0 1).toNat with
        | 0x0 => some (.bfRor (w.extractLsb' 21 2) (w.extractLsb' 16 5) (w.extractLsb' 11 5) (w.extractLsb' 6 5))
        | 0x1 => some (.bfBfx (w.extractLsb' 21 2) (w.extractLsb' 16 5) (w.extractLsb' 11 5) (w.extractLsb' 6 5))
        | _ => none
    | 0x3 => 
      match (w.extractLsb' 0 1).toNat with
        | 0x0 => some (.bfBfxs (w.extractLsb' 21 2) (w.extractLsb' 16 5) (w.extractLsb' 11 5) (w.extractLsb' 6 5))
        | 0x1 => some (.bfBfi (w.extractLsb' 21 2) (w.extractLsb' 16 5) (w.extractLsb' 11 5) (w.extractLsb' 6 5))
        | _ => none
    | 0x4 => 
      match (w.extractLsb' 0 1).toNat with
        | 0x0 => some (.bfFsh (w.extractLsb' 21 2) (w.extractLsb' 16 5) (w.extractLsb' 11 5) (w.extractLsb' 6 5))
        | 0x1 => if w.extractLsb' 6 5 = 0x0#5 then some (.bfPop (w.extractLsb' 21 2) (w.extractLsb' 16 5) (w.extractLsb' 11 5)) else none
        | _ => none
    | 0x5 => 
      match (w.extractLsb' 0 1).toNat with
        | 0x0 => if w.extractLsb' 6 5 = 0x0#5 then some (.bfClz (w.extractLsb' 21 2) (w.extractLsb' 16 5) (w.extractLsb' 11 5)) else none
        | 0x1 => if w.extractLsb' 6 5 = 0x0#5 then some (.bfCtz (w.extractLsb' 21 2) (w.extractLsb' 16 5) (w.extractLsb' 11 5)) else none
        | _ => none
    | 0x6 => 
      match (w.extractLsb' 0 1).toNat with
        | 0x0 => if w.extractLsb' 6 5 = 0x0#5 then some (.bfRev (w.extractLsb' 21 2) (w.extractLsb' 16 5) (w.extractLsb' 11 5)) else none
        | 0x1 => if w.extractLsb' 6 5 = 0x0#5 then some (.bfRevb (w.extractLsb' 21 2) (w.extractLsb' 16 5) (w.extractLsb' 11 5)) else none
        | _ => none
    | 0x10 => some (.bfSlli (w.extractLsb' 21 2) (w.extractLsb' 16 5) (w.extractLsb' 11 5) (w.extractLsb' 6 5) (w.extractLsb' 0 1))
    | 0x11 => some (.bfSrli (w.extractLsb' 21 2) (w.extractLsb' 16 5) (w.extractLsb' 11 5) (w.extractLsb' 6 5) (w.extractLsb' 0 1))
    | 0x12 => some (.bfSrai (w.extractLsb' 21 2) (w.extractLsb' 16 5) (w.extractLsb' 11 5) (w.extractLsb' 6 5) (w.extractLsb' 0 1))
    | 0x13 => some (.bfRoli (w.extractLsb' 21 2) (w.extractLsb' 16 5) (w.extractLsb' 11 5) (w.extractLsb' 6 5) (w.extractLsb' 0 1))
    | 0x14 => some (.bfRori (w.extractLsb' 21 2) (w.extractLsb' 16 5) (w.extractLsb' 11 5) (w.extractLsb' 6 5) (w.extractLsb' 0 1))
    | _ => none

/-- Major 0x04, iw (R70). -/
def decIw (w : BitVec 32) : Option Instr :=
  some (.iwIns (w.extractLsb' 21 2) (w.extractLsb' 16 5) (w.extractLsb' 0 16))

/-- Major 0x05, cmp (R70). -/
def decCmp (w : BitVec 32) : Option Instr :=
  match (w.extractLsb' 0 6).toNat with
    | 0x0 => some (.cmpEq (w.extractLsb' 21 2) (w.extractLsb' 16 5) (w.extractLsb' 11 5) (w.extractLsb' 6 5))
    | 0x1 => some (.cmpNe (w.extractLsb' 21 2) (w.extractLsb' 16 5) (w.extractLsb' 11 5) (w.extractLsb' 6 5))
    | 0x2 => some (.cmpLt (w.extractLsb' 21 2) (w.extractLsb' 16 5) (w.extractLsb' 11 5) (w.extractLsb' 6 5))
    | 0x3 => some (.cmpGe (w.extractLsb' 21 2) (w.extractLsb' 16 5) (w.extractLsb' 11 5) (w.extractLsb' 6 5))
    | 0x4 => some (.cmpLtu (w.extractLsb' 21 2) (w.extractLsb' 16 5) (w.extractLsb' 11 5) (w.extractLsb' 6 5))
    | 0x5 => some (.cmpGeu (w.extractLsb' 21 2) (w.extractLsb' 16 5) (w.extractLsb' 11 5) (w.extractLsb' 6 5))
    | 0x6 => some (.cmpTst (w.extractLsb' 21 2) (w.extractLsb' 16 5) (w.extractLsb' 11 5) (w.extractLsb' 6 5))
    | 0x7 => some (.cmpNtst (w.extractLsb' 21 2) (w.extractLsb' 16 5) (w.extractLsb' 11 5) (w.extractLsb' 6 5))
    | 0x8 => some (.cmpAnd (w.extractLsb' 21 2) (w.extractLsb' 16 5) (w.extractLsb' 11 5) (w.extractLsb' 6 5))
    | 0x9 => some (.cmpOr (w.extractLsb' 21 2) (w.extractLsb' 16 5) (w.extractLsb' 11 5) (w.extractLsb' 6 5))
    | 0xA => some (.cmpAndn (w.extractLsb' 21 2) (w.extractLsb' 16 5) (w.extractLsb' 11 5) (w.extractLsb' 6 5))
    | 0xB => some (.cmpXor (w.extractLsb' 21 2) (w.extractLsb' 16 5) (w.extractLsb' 11 5) (w.extractLsb' 6 5))
    | 0xC => if w.extractLsb' 6 5 = 0x0#5 then some (.cmpStg (w.extractLsb' 21 2) (w.extractLsb' 16 5) (w.extractLsb' 11 5)) else none
    | _ => none

/-- Major 0x06, br (R70). -/
def decBr (w : BitVec 32) : Option Instr :=
  match (w.extractLsb' 0 6).toNat with
    | 0x0 => some (.brPrep (w.extractLsb' 21 2) (w.extractLsb' 19 2) (w.extractLsb' 6 13))
    | 0x1 => if w.extractLsb' 6 5 = 0x0#5 then some (.brPrepx (w.extractLsb' 21 2) (w.extractLsb' 16 5) (w.extractLsb' 11 5)) else none
    | 0x2 => 
      match (w.extractLsb' 6 5).toNat with
        | 0x0 => some (.brGo (w.extractLsb' 21 2) (w.extractLsb' 16 5) (w.extractLsb' 11 5))
        | 0x1 => some (.brGoNot (w.extractLsb' 21 2) (w.extractLsb' 16 5) (w.extractLsb' 11 5))
        | 0x2 => if w.extractLsb' 11 5 = 0x0#5 then some (.brGoAlways (w.extractLsb' 21 2) (w.extractLsb' 16 5)) else none
        | _ => none
    | 0x3 => if w.extractLsb' 6 5 = 0x0#5 then some (.brTget (w.extractLsb' 21 2) (w.extractLsb' 16 5) (w.extractLsb' 11 5)) else none
    | _ => none

/-- Major 0x07, sys (R70). -/
def decSys (w : BitVec 32) : Option Instr :=
  match (w.extractLsb' 3 3).toNat with
    | 0x0 => 
      match (w.extractLsb' 0 3).toNat with
        | 0x0 => if w.extractLsb' 11 5 = 0x0#5 then some (.sysId (w.extractLsb' 21 2) (w.extractLsb' 16 5) (w.extractLsb' 6 5)) else none
        | 0x1 => some (.sysRd (w.extractLsb' 21 2) (w.extractLsb' 16 5) (w.extractLsb' 6 10))
        | 0x2 => some (.sysWr (w.extractLsb' 21 2) (w.extractLsb' 16 5) (w.extractLsb' 6 10))
        | 0x3 => if w.extractLsb' 16 5 = 0x0#5 then some (.sysTrap (w.extractLsb' 21 2) (w.extractLsb' 6 10)) else none
        | 0x4 => some (.sysScall (w.extractLsb' 21 2) (w.extractLsb' 16 5) (w.extractLsb' 11 5) (w.extractLsb' 6 5))
        | _ => none
    | 0x1 => some (.sysFence (w.extractLsb' 21 2) (w.extractLsb' 6 15) (w.extractLsb' 0 3))
    | _ => none

/-- Major 0x08, ld (R70). -/
def decLd (w : BitVec 32) : Option Instr :=
  some (.ld (w.extractLsb' 21 2) (w.extractLsb' 16 5) (w.extractLsb' 11 5) (w.extractLsb' 7 4) (w.extractLsb' 0 7))

/-- Major 0x09, st (R70). -/
def decSt (w : BitVec 32) : Option Instr :=
  some (.st (w.extractLsb' 21 2) (w.extractLsb' 16 5) (w.extractLsb' 11 5) (w.extractLsb' 7 4) (w.extractLsb' 0 7))

/-- Major 0x0A, at (R70). -/
def decAt (w : BitVec 32) : Option Instr :=
  match (w.extractLsb' 3 4).toNat with
    | 0x0 => some (.atAdd (w.extractLsb' 21 2) (w.extractLsb' 16 5) (w.extractLsb' 11 5) (w.extractLsb' 7 4) (w.extractLsb' 0 3))
    | 0x1 => some (.atAnd (w.extractLsb' 21 2) (w.extractLsb' 16 5) (w.extractLsb' 11 5) (w.extractLsb' 7 4) (w.extractLsb' 0 3))
    | 0x2 => some (.atOr (w.extractLsb' 21 2) (w.extractLsb' 16 5) (w.extractLsb' 11 5) (w.extractLsb' 7 4) (w.extractLsb' 0 3))
    | 0x3 => some (.atXor (w.extractLsb' 21 2) (w.extractLsb' 16 5) (w.extractLsb' 11 5) (w.extractLsb' 7 4) (w.extractLsb' 0 3))
    | 0x4 => some (.atMin (w.extractLsb' 21 2) (w.extractLsb' 16 5) (w.extractLsb' 11 5) (w.extractLsb' 7 4) (w.extractLsb' 0 3))
    | 0x5 => some (.atMax (w.extractLsb' 21 2) (w.extractLsb' 16 5) (w.extractLsb' 11 5) (w.extractLsb' 7 4) (w.extractLsb' 0 3))
    | 0x6 => some (.atMinu (w.extractLsb' 21 2) (w.extractLsb' 16 5) (w.extractLsb' 11 5) (w.extractLsb' 7 4) (w.extractLsb' 0 3))
    | 0x7 => some (.atMaxu (w.extractLsb' 21 2) (w.extractLsb' 16 5) (w.extractLsb' 11 5) (w.extractLsb' 7 4) (w.extractLsb' 0 3))
    | 0x8 => some (.atSwap (w.extractLsb' 21 2) (w.extractLsb' 16 5) (w.extractLsb' 11 5) (w.extractLsb' 7 4) (w.extractLsb' 0 3))
    | 0x9 => some (.atCas (w.extractLsb' 21 2) (w.extractLsb' 16 5) (w.extractLsb' 11 5) (w.extractLsb' 7 4) (w.extractLsb' 0 3))
    | 0xA => some (.atFadd (w.extractLsb' 21 2) (w.extractLsb' 16 5) (w.extractLsb' 11 5) (w.extractLsb' 7 4) (w.extractLsb' 0 3))
    | _ => none

/-- Major 0x0B, mon (R70). -/
def decMon (w : BitVec 32) : Option Instr :=
  match (w.extractLsb' 3 4).toNat with
    | 0x0 => some (.monWaiteq (w.extractLsb' 21 2) (w.extractLsb' 16 5) (w.extractLsb' 11 5) (w.extractLsb' 7 4) (w.extractLsb' 0 3))
    | 0x1 => some (.monWaitne (w.extractLsb' 21 2) (w.extractLsb' 16 5) (w.extractLsb' 11 5) (w.extractLsb' 7 4) (w.extractLsb' 0 3))
    | 0x2 => some (.monWaitge (w.extractLsb' 21 2) (w.extractLsb' 16 5) (w.extractLsb' 11 5) (w.extractLsb' 7 4) (w.extractLsb' 0 3))
    | 0x3 => some (.monWaitgeu (w.extractLsb' 21 2) (w.extractLsb' 16 5) (w.extractLsb' 11 5) (w.extractLsb' 7 4) (w.extractLsb' 0 3))
    | _ => none

/-- Major 0x0C, sp (R70). -/
def decSp (w : BitVec 32) : Option Instr :=
  match (w.extractLsb' 8 3).toNat with
    | 0x0 => if w.extractLsb' 16 5 = 0x0#5 then some (.spSpill (w.extractLsb' 21 2) (w.extractLsb' 11 5) (w.extractLsb' 0 8)) else none
    | 0x2 => if w.extractLsb' 11 5 = 0x0#5 then some (.spFill (w.extractLsb' 21 2) (w.extractLsb' 16 5) (w.extractLsb' 0 8)) else none
    | 0x4 => if w.extractLsb' 16 5 = 0x0#5 then some (.spVspill (w.extractLsb' 21 2) (w.extractLsb' 11 5) (w.extractLsb' 0 8)) else none
    | 0x6 => if w.extractLsb' 11 5 = 0x0#5 then some (.spVfill (w.extractLsb' 21 2) (w.extractLsb' 16 5) (w.extractLsb' 0 8)) else none
    | _ => none

/-- Major 0x0D, q (R70). -/
def decQ (w : BitVec 32) : Option Instr :=
  match (w.extractLsb' 0 11).toNat with
    | 0x0 => some (.qPop (w.extractLsb' 21 2) (w.extractLsb' 16 5) (w.extractLsb' 11 5))
    | 0x1 => some (.qPush (w.extractLsb' 21 2) (w.extractLsb' 16 5) (w.extractLsb' 11 5))
    | 0x2 => some (.qCnt (w.extractLsb' 21 2) (w.extractLsb' 16 5) (w.extractLsb' 11 5))
    | 0x3 => some (.qPopc (w.extractLsb' 21 2) (w.extractLsb' 16 5) (w.extractLsb' 11 5))
    | 0x4 => some (.qPushc (w.extractLsb' 21 2) (w.extractLsb' 16 5) (w.extractLsb' 11 5))
    | _ => none

/-- Major 0x0E, bar (R70). -/
def decBar (w : BitVec 32) : Option Instr :=
  match (w.extractLsb' 0 6).toNat with
    | 0x0 => if w.extractLsb' 16 5 = 0x0#5 then some (.barInit (w.extractLsb' 21 2) (w.extractLsb' 11 5) (w.extractLsb' 6 5)) else none
    | 0x1 => if w.extractLsb' 16 5 = 0x0#5 ∧ w.extractLsb' 6 5 = 0x0#5 then some (.barSync (w.extractLsb' 21 2) (w.extractLsb' 11 5)) else none
    | 0x2 => if w.extractLsb' 6 5 = 0x0#5 then some (.barArrive (w.extractLsb' 21 2) (w.extractLsb' 16 5) (w.extractLsb' 11 5)) else none
    | 0x3 => if w.extractLsb' 16 5 = 0x0#5 then some (.barWait (w.extractLsb' 21 2) (w.extractLsb' 11 5) (w.extractLsb' 6 5)) else none
    | 0x4 => some (.barRd (w.extractLsb' 21 2) (w.extractLsb' 16 5) (w.extractLsb' 11 5) (w.extractLsb' 6 5))
    | _ => none

/-- Major 0x0F, tag (R70). -/
def decTag (w : BitVec 32) : Option Instr :=
  match (w.extractLsb' 0 11).toNat with
    | 0x0 => some (.tagWany (w.extractLsb' 21 2) (w.extractLsb' 16 5) (w.extractLsb' 11 5))
    | 0x1 => if w.extractLsb' 16 5 = 0x0#5 then some (.tagWall (w.extractLsb' 21 2) (w.extractLsb' 11 5)) else none
    | 0x2 => some (.tagFfr (w.extractLsb' 21 2) (w.extractLsb' 16 5) (w.extractLsb' 11 5))
    | 0x3 => some (.tagCnt (w.extractLsb' 21 2) (w.extractLsb' 16 5) (w.extractLsb' 11 5))
    | _ => none

/-- Major 0x10, xl (R70). -/
def decXl (w : BitVec 32) : Option Instr :=
  match (w.extractLsb' 0 6).toNat with
    | 0x0 => if w.extractLsb' 6 5 = 0x0#5 then some (.xlTr (w.extractLsb' 21 2) (w.extractLsb' 16 5) (w.extractLsb' 11 5)) else none
    | 0x1 => if w.extractLsb' 6 5 = 0x0#5 then some (.xlTrw (w.extractLsb' 21 2) (w.extractLsb' 16 5) (w.extractLsb' 11 5)) else none
    | 0x2 => if w.extractLsb' 6 10 = 0x0#10 then some (.xlInv (w.extractLsb' 21 2) (w.extractLsb' 16 5)) else none
    | 0x3 => some (.xlRd (w.extractLsb' 21 2) (w.extractLsb' 16 5) (w.extractLsb' 11 5) (w.extractLsb' 6 5))
    | _ => none

/-- Major 0x11, cp (R70). -/
def decCp (w : BitVec 32) : Option Instr :=
  match (w.extractLsb' 0 6).toNat with
    | 0x0 => if w.extractLsb' 16 5 = 0x0#5 then some (.cpLd (w.extractLsb' 21 2) (w.extractLsb' 11 5) (w.extractLsb' 6 5)) else none
    | 0x1 => if w.extractLsb' 16 5 = 0x0#5 then some (.cpSt (w.extractLsb' 21 2) (w.extractLsb' 11 5) (w.extractLsb' 6 5)) else none
    | 0x2 => if w.extractLsb' 16 5 = 0x0#5 then some (.cpMv (w.extractLsb' 21 2) (w.extractLsb' 11 5) (w.extractLsb' 6 5)) else none
    | 0x3 => if w.extractLsb' 16 5 = 0x0#5 then some (.cpMx (w.extractLsb' 21 2) (w.extractLsb' 11 5) (w.extractLsb' 6 5)) else none
    | 0x4 => if w.extractLsb' 16 5 = 0x0#5 ∧ w.extractLsb' 6 5 = 0x0#5 then some (.cpDrill (w.extractLsb' 21 2) (w.extractLsb' 11 5)) else none
    | 0x5 => if w.extractLsb' 6 5 = 0x0#5 then some (.cpDstop (w.extractLsb' 21 2) (w.extractLsb' 16 5) (w.extractLsb' 11 5)) else none
    | 0x6 => if w.extractLsb' 11 5 = 0x0#5 then some (.cpTok (w.extractLsb' 21 2) (w.extractLsb' 16 5) (w.extractLsb' 6 5)) else none
    | 0x7 => if w.extractLsb' 6 5 = 0x0#5 then some (.cpTcnt (w.extractLsb' 21 2) (w.extractLsb' 16 5) (w.extractLsb' 11 5)) else none
    | _ => none

/-- Major 0x12, ab (R70). -/
def decAb (w : BitVec 32) : Option Instr :=
  match (w.extractLsb' 0 6).toNat with
    | 0x0 => if w.extractLsb' 16 5 = 0x0#5 then some (.abInit (w.extractLsb' 21 2) (w.extractLsb' 11 5) (w.extractLsb' 6 5)) else none
    | 0x1 => if w.extractLsb' 16 5 = 0x0#5 then some (.abAwait (w.extractLsb' 21 2) (w.extractLsb' 11 5) (w.extractLsb' 6 5)) else none
    | 0x2 => if w.extractLsb' 16 5 = 0x0#5 then some (.abAret (w.extractLsb' 21 2) (w.extractLsb' 11 5) (w.extractLsb' 6 5)) else none
    | 0x3 => some (.abRd (w.extractLsb' 21 2) (w.extractLsb' 16 5) (w.extractLsb' 11 5) (w.extractLsb' 6 5))
    | _ => none

/-- Major 0x13, tr (R70). -/
def decTr (w : BitVec 32) : Option Instr :=
  match (w.extractLsb' 0 6).toNat with
    | 0x0 => if w.extractLsb' 6 10 = 0x0#10 then some (.trTap (w.extractLsb' 21 2) (w.extractLsb' 16 5)) else none
    | 0x1 => if w.extractLsb' 16 5 = 0x0#5 ∧ w.extractLsb' 6 5 = 0x0#5 then some (.trOtap (w.extractLsb' 21 2) (w.extractLsb' 11 5)) else none
    | 0x2 => some (.trAt (w.extractLsb' 21 2) (w.extractLsb' 6 15))
    | 0x3 => if w.extractLsb' 16 5 = 0x0#5 ∧ w.extractLsb' 6 5 = 0x0#5 then some (.trAtx (w.extractLsb' 21 2) (w.extractLsb' 11 5)) else none
    | 0x4 => if w.extractLsb' 11 5 = 0x0#5 then some (.trRd (w.extractLsb' 21 2) (w.extractLsb' 16 5) (w.extractLsb' 6 5)) else none
    | 0x5 => if w.extractLsb' 16 5 = 0x0#5 ∧ w.extractLsb' 6 5 = 0x0#5 then some (.trAck (w.extractLsb' 21 2) (w.extractLsb' 11 5)) else none
    | _ => none

/-- Major 0x14, sti (R70). -/
def decSti (w : BitVec 32) : Option Instr :=
  match (w.extractLsb' 0 6).toNat with
    | 0x0 => if w.extractLsb' 16 5 = 0x0#5 then some (.stiPut (w.extractLsb' 21 2) (w.extractLsb' 11 5) (w.extractLsb' 6 5)) else none
    | 0x1 => if w.extractLsb' 6 5 = 0x0#5 then some (.stiGet (w.extractLsb' 21 2) (w.extractLsb' 16 5) (w.extractLsb' 11 5)) else none
    | 0x2 => if w.extractLsb' 6 5 = 0x0#5 then some (.stiStat (w.extractLsb' 21 2) (w.extractLsb' 16 5) (w.extractLsb' 11 5)) else none
    | 0x3 => if w.extractLsb' 16 5 = 0x0#5 then some (.stiAck (w.extractLsb' 21 2) (w.extractLsb' 11 5) (w.extractLsb' 6 5)) else none
    | 0x4 => if w.extractLsb' 16 5 = 0x0#5 then some (.stiCoef (w.extractLsb' 21 2) (w.extractLsb' 11 5) (w.extractLsb' 6 5)) else none
    | _ => none

/-- Major 0x15, kn (R70). -/
def decKn (w : BitVec 32) : Option Instr :=
  match (w.extractLsb' 0 16).toNat with
    | 0x0 => if w.extractLsb' 16 5 = 0x0#5 then some (.knEnd (w.extractLsb' 21 2)) else none
    | 0x1 => if w.extractLsb' 16 5 = 0x0#5 then some (.knRdv (w.extractLsb' 21 2)) else none
    | 0x2 => if w.extractLsb' 16 5 = 0x0#5 then some (.knYield (w.extractLsb' 21 2)) else none
    | 0x3 => some (.knPend (w.extractLsb' 21 2) (w.extractLsb' 16 5))
    | _ => none

/-- Major 0x16, rg (R70). -/
def decRg (w : BitVec 32) : Option Instr :=
  match (w.extractLsb' 0 6).toNat with
    | 0x0 => if w.extractLsb' 6 5 = 0x0#5 then some (.rgEcount (w.extractLsb' 21 2) (w.extractLsb' 16 5) (w.extractLsb' 11 5)) else none
    | 0x1 => if w.extractLsb' 6 5 = 0x0#5 then some (.rgEscan (w.extractLsb' 21 2) (w.extractLsb' 16 5) (w.extractLsb' 11 5)) else none
    | 0x2 => some (.rgEscat (w.extractLsb' 21 2) (w.extractLsb' 16 5) (w.extractLsb' 11 5) (w.extractLsb' 6 5))
    | 0x3 => some (.rgClaim (w.extractLsb' 21 2) (w.extractLsb' 16 5) (w.extractLsb' 11 5) (w.extractLsb' 6 5))
    | _ => none

/-- Major 0x18, vi (R70). -/
def decVi (w : BitVec 32) : Option Instr :=
  match (w.extractLsb' 3 3).toNat with
    | 0x0 => some (.viAdd (w.extractLsb' 21 2) (w.extractLsb' 16 5) (w.extractLsb' 11 5) (w.extractLsb' 6 5) (w.extractLsb' 0 3))
    | 0x1 => some (.viSub (w.extractLsb' 21 2) (w.extractLsb' 16 5) (w.extractLsb' 11 5) (w.extractLsb' 6 5) (w.extractLsb' 0 3))
    | 0x2 => some (.viMul (w.extractLsb' 21 2) (w.extractLsb' 16 5) (w.extractLsb' 11 5) (w.extractLsb' 6 5) (w.extractLsb' 0 3))
    | 0x3 => some (.viMin (w.extractLsb' 21 2) (w.extractLsb' 16 5) (w.extractLsb' 11 5) (w.extractLsb' 6 5) (w.extractLsb' 0 3))
    | 0x4 => some (.viMax (w.extractLsb' 21 2) (w.extractLsb' 16 5) (w.extractLsb' 11 5) (w.extractLsb' 6 5) (w.extractLsb' 0 3))
    | 0x5 => some (.viAdds (w.extractLsb' 21 2) (w.extractLsb' 16 5) (w.extractLsb' 11 5) (w.extractLsb' 6 5) (w.extractLsb' 0 3))
    | 0x6 => 
      match (w.extractLsb' 2 1).toNat with
        | 0x0 => some (.viSll (w.extractLsb' 21 2) (w.extractLsb' 16 5) (w.extractLsb' 11 5) (w.extractLsb' 6 5) (w.extractLsb' 0 2))
        | 0x1 => some (.viSrl (w.extractLsb' 21 2) (w.extractLsb' 16 5) (w.extractLsb' 11 5) (w.extractLsb' 6 5) (w.extractLsb' 0 2))
        | _ => none
    | 0x7 => 
      match (w.extractLsb' 2 1).toNat with
        | 0x0 => some (.viSra (w.extractLsb' 21 2) (w.extractLsb' 16 5) (w.extractLsb' 11 5) (w.extractLsb' 6 5) (w.extractLsb' 0 2))
        | 0x1 => 
          match (w.extractLsb' 0 2).toNat with
            | 0x0 => some (.viAnd (w.extractLsb' 21 2) (w.extractLsb' 16 5) (w.extractLsb' 11 5) (w.extractLsb' 6 5))
            | 0x1 => some (.viOr (w.extractLsb' 21 2) (w.extractLsb' 16 5) (w.extractLsb' 11 5) (w.extractLsb' 6 5))
            | 0x2 => some (.viXor (w.extractLsb' 21 2) (w.extractLsb' 16 5) (w.extractLsb' 11 5) (w.extractLsb' 6 5))
            | 0x3 => some (.viAndn (w.extractLsb' 21 2) (w.extractLsb' 16 5) (w.extractLsb' 11 5) (w.extractLsb' 6 5))
            | _ => none
        | _ => none
    | _ => none

/-- Major 0x19, vf (R70). -/
def decVf (w : BitVec 32) : Option Instr :=
  match (w.extractLsb' 3 3).toNat with
    | 0x0 => some (.vfAdd (w.extractLsb' 21 2) (w.extractLsb' 16 5) (w.extractLsb' 11 5) (w.extractLsb' 6 5) (w.extractLsb' 2 1) (w.extractLsb' 0 2))
    | 0x1 => some (.vfSub (w.extractLsb' 21 2) (w.extractLsb' 16 5) (w.extractLsb' 11 5) (w.extractLsb' 6 5) (w.extractLsb' 2 1) (w.extractLsb' 0 2))
    | 0x2 => some (.vfMul (w.extractLsb' 21 2) (w.extractLsb' 16 5) (w.extractLsb' 11 5) (w.extractLsb' 6 5) (w.extractLsb' 2 1) (w.extractLsb' 0 2))
    | 0x3 => some (.vfFma (w.extractLsb' 21 2) (w.extractLsb' 16 5) (w.extractLsb' 11 5) (w.extractLsb' 6 5) (w.extractLsb' 2 1) (w.extractLsb' 0 2))
    | 0x4 => if w.extractLsb' 2 1 = 0x0#1 then some (.vfMin (w.extractLsb' 21 2) (w.extractLsb' 16 5) (w.extractLsb' 11 5) (w.extractLsb' 6 5) (w.extractLsb' 0 2)) else none
    | 0x5 => if w.extractLsb' 2 1 = 0x0#1 then some (.vfMax (w.extractLsb' 21 2) (w.extractLsb' 16 5) (w.extractLsb' 11 5) (w.extractLsb' 6 5) (w.extractLsb' 0 2)) else none
    | 0x6 => some (.vfCfma (w.extractLsb' 21 2) (w.extractLsb' 16 5) (w.extractLsb' 11 5) (w.extractLsb' 6 5) (w.extractLsb' 2 1) (w.extractLsb' 0 2))
    | 0x7 => 
      match (w.extractLsb' 6 5).toNat with
        | 0x0 => if w.extractLsb' 2 1 = 0x0#1 then some (.vfNeg (w.extractLsb' 21 2) (w.extractLsb' 16 5) (w.extractLsb' 11 5) (w.extractLsb' 0 2)) else none
        | 0x1 => if w.extractLsb' 2 1 = 0x0#1 then some (.vfAbs (w.extractLsb' 21 2) (w.extractLsb' 16 5) (w.extractLsb' 11 5) (w.extractLsb' 0 2)) else none
        | 0x2 => some (.vfSqrt (w.extractLsb' 21 2) (w.extractLsb' 16 5) (w.extractLsb' 11 5) (w.extractLsb' 2 1) (w.extractLsb' 0 2))
        | 0x3 => some (.vfRcp (w.extractLsb' 21 2) (w.extractLsb' 16 5) (w.extractLsb' 11 5) (w.extractLsb' 2 1) (w.extractLsb' 0 2))
        | _ => none
    | _ => none

/-- Major 0x1A, vc (R70). -/
def decVc (w : BitVec 32) : Option Instr :=
  if w.extractLsb' 9 1 = 0x0#1 then some (.vcCvt (w.extractLsb' 21 2) (w.extractLsb' 16 5) (w.extractLsb' 11 5) (w.extractLsb' 10 1) (w.extractLsb' 6 3) (w.extractLsb' 3 3) (w.extractLsb' 0 3)) else none

/-- Major 0x1B, vm (R70). -/
def decVm (w : BitVec 32) : Option Instr :=
  match (w.extractLsb' 14 2).toNat with
    | 0x0 => some (.vmLd (w.extractLsb' 21 2) (w.extractLsb' 16 5) (w.extractLsb' 11 3) (w.extractLsb' 7 4) (w.extractLsb' 0 7))
    | 0x1 => some (.vmSt (w.extractLsb' 21 2) (w.extractLsb' 16 5) (w.extractLsb' 11 3) (w.extractLsb' 7 4) (w.extractLsb' 0 7))
    | 0x2 => some (.vmRmg (w.extractLsb' 21 2) (w.extractLsb' 16 5) (w.extractLsb' 11 3) (w.extractLsb' 7 4) (w.extractLsb' 0 7))
    | _ => none

/-- Major 0x1C, vp (R70). -/
def decVp (w : BitVec 32) : Option Instr :=
  match (w.extractLsb' 5 1).toNat with
    | 0x0 => 
      match (w.extractLsb' 3 2).toNat with
        | 0x0 => 
          match (w.extractLsb' 2 1).toNat with
            | 0x0 => some (.vpPerm (w.extractLsb' 21 2) (w.extractLsb' 16 5) (w.extractLsb' 11 5) (w.extractLsb' 6 5) (w.extractLsb' 0 2))
            | 0x1 => if w.extractLsb' 6 5 = 0x0#5 then some (.vpBcst (w.extractLsb' 21 2) (w.extractLsb' 16 5) (w.extractLsb' 11 5) (w.extractLsb' 0 2)) else none
            | _ => none
        | 0x1 => 
          match (w.extractLsb' 2 1).toNat with
            | 0x0 => some (.vpGet (w.extractLsb' 21 2) (w.extractLsb' 16 5) (w.extractLsb' 11 5) (w.extractLsb' 6 5) (w.extractLsb' 0 2))
            | 0x1 => some (.vpPut (w.extractLsb' 21 2) (w.extractLsb' 16 5) (w.extractLsb' 11 5) (w.extractLsb' 6 5) (w.extractLsb' 0 2))
            | _ => none
        | 0x2 => if w.extractLsb' 6 5 = 0x0#5 then some (.vpFimm (w.extractLsb' 21 2) (w.extractLsb' 16 5) (w.extractLsb' 11 5) (w.extractLsb' 0 3)) else none
        | 0x3 => if w.extractLsb' 0 3 = 0x0#3 then some (.vpRot (w.extractLsb' 21 2) (w.extractLsb' 16 5) (w.extractLsb' 11 5) (w.extractLsb' 6 5)) else none
        | _ => none
    | 0x1 => some (.vpSel (w.extractLsb' 21 2) (w.extractLsb' 16 5) (w.extractLsb' 11 5) (w.extractLsb' 6 5) (w.extractLsb' 3 2) (w.extractLsb' 0 3))
    | _ => none

/-- Major 0x1D, vr (R70). -/
def decVr (w : BitVec 32) : Option Instr :=
  match (w.extractLsb' 3 8).toNat with
    | 0x0 => some (.vrSum (w.extractLsb' 21 2) (w.extractLsb' 16 5) (w.extractLsb' 11 5) (w.extractLsb' 0 3))
    | 0x1 => some (.vrMin (w.extractLsb' 21 2) (w.extractLsb' 16 5) (w.extractLsb' 11 5) (w.extractLsb' 0 3))
    | 0x2 => some (.vrMax (w.extractLsb' 21 2) (w.extractLsb' 16 5) (w.extractLsb' 11 5) (w.extractLsb' 0 3))
    | 0x3 => if w.extractLsb' 2 1 = 0x0#1 then some (.vrFsum (w.extractLsb' 21 2) (w.extractLsb' 16 5) (w.extractLsb' 11 5) (w.extractLsb' 0 2)) else none
    | 0x4 => if w.extractLsb' 2 1 = 0x0#1 then some (.vrFmin (w.extractLsb' 21 2) (w.extractLsb' 16 5) (w.extractLsb' 11 5) (w.extractLsb' 0 2)) else none
    | 0x5 => if w.extractLsb' 2 1 = 0x0#1 then some (.vrFmax (w.extractLsb' 21 2) (w.extractLsb' 16 5) (w.extractLsb' 11 5) (w.extractLsb' 0 2)) else none
    | 0x6 => 
      match (w.extractLsb' 2 1).toNat with
        | 0x0 => if w.extractLsb' 0 2 = 0x0#2 then some (.vrAny (w.extractLsb' 21 2) (w.extractLsb' 16 5) (w.extractLsb' 11 5)) else none
        | 0x1 => some (.vrAll (w.extractLsb' 21 2) (w.extractLsb' 16 5) (w.extractLsb' 11 5) (w.extractLsb' 0 2))
        | _ => none
    | 0x7 => if w.extractLsb' 0 3 = 0x0#3 then some (.vrPcnt (w.extractLsb' 21 2) (w.extractLsb' 16 5) (w.extractLsb' 11 5)) else none
    | _ => none

/-- Major 0x1E, vq (R70). -/
noncomputable def decVq (w : BitVec 32) : Option Instr :=
  match (w.extractLsb' 3 3).toNat with
    | 0x0 => some (.vqEq (w.extractLsb' 21 2) (w.extractLsb' 16 5) (w.extractLsb' 11 5) (w.extractLsb' 6 5) (w.extractLsb' 0 3))
    | 0x1 => some (.vqNe (w.extractLsb' 21 2) (w.extractLsb' 16 5) (w.extractLsb' 11 5) (w.extractLsb' 6 5) (w.extractLsb' 0 3))
    | 0x2 => some (.vqLt (w.extractLsb' 21 2) (w.extractLsb' 16 5) (w.extractLsb' 11 5) (w.extractLsb' 6 5) (w.extractLsb' 0 3))
    | 0x3 => some (.vqLe (w.extractLsb' 21 2) (w.extractLsb' 16 5) (w.extractLsb' 11 5) (w.extractLsb' 6 5) (w.extractLsb' 0 3))
    | 0x4 => 
      match (w.extractLsb' 2 1).toNat with
        | 0x0 => some (.vqFeq (w.extractLsb' 21 2) (w.extractLsb' 16 5) (w.extractLsb' 11 5) (w.extractLsb' 6 5) (w.extractLsb' 0 2))
        | 0x1 => some (.vqFlt (w.extractLsb' 21 2) (w.extractLsb' 16 5) (w.extractLsb' 11 5) (w.extractLsb' 6 5) (w.extractLsb' 0 2))
        | _ => none
    | 0x5 => 
      match (w.extractLsb' 2 1).toNat with
        | 0x0 => some (.vqFle (w.extractLsb' 21 2) (w.extractLsb' 16 5) (w.extractLsb' 11 5) (w.extractLsb' 6 5) (w.extractLsb' 0 2))
        | 0x1 => some (.vqFun (w.extractLsb' 21 2) (w.extractLsb' 16 5) (w.extractLsb' 11 5) (w.extractLsb' 6 5) (w.extractLsb' 0 2))
        | _ => none
    | 0x6 => 
      match (w.extractLsb' 0 3).toNat with
        | 0x0 => some (.vqAnd (w.extractLsb' 21 2) (w.extractLsb' 16 5) (w.extractLsb' 11 5) (w.extractLsb' 6 5))
        | 0x1 => some (.vqOr (w.extractLsb' 21 2) (w.extractLsb' 16 5) (w.extractLsb' 11 5) (w.extractLsb' 6 5))
        | 0x2 => some (.vqXor (w.extractLsb' 21 2) (w.extractLsb' 16 5) (w.extractLsb' 11 5) (w.extractLsb' 6 5))
        | 0x3 => some (.vqAndn (w.extractLsb' 21 2) (w.extractLsb' 16 5) (w.extractLsb' 11 5) (w.extractLsb' 6 5))
        | 0x4 => if w.extractLsb' 6 5 = 0x0#5 then some (.vqNot (w.extractLsb' 21 2) (w.extractLsb' 16 5) (w.extractLsb' 11 5)) else none
        | 0x5 => if w.extractLsb' 6 10 = 0x0#10 then some (.vqOnes (w.extractLsb' 21 2) (w.extractLsb' 16 5)) else none
        | 0x6 => if w.extractLsb' 6 10 = 0x0#10 then some (.vqZero (w.extractLsb' 21 2) (w.extractLsb' 16 5)) else none
        | 0x7 => if w.extractLsb' 6 5 = 0x0#5 then some (.vqLim (w.extractLsb' 21 2) (w.extractLsb' 16 5) (w.extractLsb' 11 5)) else none
        | _ => none
    | 0x7 => 
      match (w.extractLsb' 0 3).toNat with
        | 0x0 => if w.extractLsb' 7 4 = 0x0#4 then some (.vqTox (w.extractLsb' 21 2) (w.extractLsb' 16 5) (w.extractLsb' 11 5) (w.extractLsb' 6 1)) else none
        | 0x1 => if w.extractLsb' 7 4 = 0x0#4 then some (.vqFrx (w.extractLsb' 21 2) (w.extractLsb' 16 5) (w.extractLsb' 11 5) (w.extractLsb' 6 1)) else none
        | _ => none
    | _ => none

/-- Major 0x1F, vt (R70). -/
noncomputable def decVt (w : BitVec 32) : Option Instr :=
  match (w.extractLsb' 0 6).toNat with
    | 0x0 => some (.vtInterpFp32 (w.extractLsb' 21 2) (w.extractLsb' 16 5) (w.extractLsb' 11 5) (w.extractLsb' 6 5))
    | 0x1 => some (.vtInterpBf16 (w.extractLsb' 21 2) (w.extractLsb' 16 5) (w.extractLsb' 11 5) (w.extractLsb' 6 5))
    | 0x2 => some (.vtRmix (w.extractLsb' 21 2) (w.extractLsb' 16 5) (w.extractLsb' 11 5) (w.extractLsb' 6 5))
    | _ => none

/-- Major 0x20, mc (R70). -/
noncomputable def decMc (w : BitVec 32) : Option Instr :=
  match (w.extractLsb' 0 11).toNat with
    | 0x0 => some (.mcSet (w.extractLsb' 21 2) (w.extractLsb' 16 5) (w.extractLsb' 11 5))
    | 0x1 => some (.mcGet (w.extractLsb' 21 2) (w.extractLsb' 16 5) (w.extractLsb' 11 5))
    | 0x2 => some (.mcGeta (w.extractLsb' 21 2) (w.extractLsb' 16 5) (w.extractLsb' 11 5))
    | 0x3 => if w.extractLsb' 11 10 = 0x0#10 then some (.mcClr (w.extractLsb' 21 2)) else none
    | _ => none

/-- Major 0x21, mg (R70). -/
noncomputable def decMg (w : BitVec 32) : Option Instr :=
  match (w.extractLsb' 0 11).toNat with
    | 0x0 => if w.extractLsb' 11 10 = 0x0#10 then some (.mgGo (w.extractLsb' 21 2)) else none
    | 0x1 => if w.extractLsb' 16 5 = 0x0#5 then some (.mgGoInd (w.extractLsb' 21 2) (w.extractLsb' 11 5)) else none
    | 0x2 => if w.extractLsb' 11 10 = 0x0#10 then some (.mgSwap (w.extractLsb' 21 2)) else none
    | 0x3 => if w.extractLsb' 11 5 = 0x0#5 then some (.mgStat (w.extractLsb' 21 2) (w.extractLsb' 16 5)) else none
    | 0x4 => if w.extractLsb' 11 10 = 0x0#10 then some (.mgWait (w.extractLsb' 21 2)) else none
    | _ => none

/-- Major 0x22, mb (R70). -/
noncomputable def decMb (w : BitVec 32) : Option Instr :=
  match (w.extractLsb' 0 6).toNat with
    | 0x0 => if w.extractLsb' 16 5 = 0x0#5 ∧ w.extractLsb' 7 4 = 0x0#4 then some (.mbClr (w.extractLsb' 21 2) (w.extractLsb' 11 5) (w.extractLsb' 6 1)) else none
    | 0x1 => if w.extractLsb' 16 5 = 0x0#5 then some (.mbCount (w.extractLsb' 21 2) (w.extractLsb' 11 5) (w.extractLsb' 6 5)) else none
    | 0x2 => if w.extractLsb' 6 5 = 0x0#5 then some (.mbMerge (w.extractLsb' 21 2) (w.extractLsb' 16 5) (w.extractLsb' 11 5)) else none
    | 0x3 => if w.extractLsb' 7 4 = 0x0#4 then some (.mbDrain (w.extractLsb' 21 2) (w.extractLsb' 16 5) (w.extractLsb' 11 5) (w.extractLsb' 6 1)) else none
    | 0x4 => if w.extractLsb' 6 5 = 0x0#5 then some (.mbDepth (w.extractLsb' 21 2) (w.extractLsb' 16 5) (w.extractLsb' 11 5)) else none
    | 0x5 => some (.mbRdc (w.extractLsb' 21 2) (w.extractLsb' 16 5) (w.extractLsb' 11 5) (w.extractLsb' 6 5))
    | _ => none

/-- Major 0x23, mw (R70). -/
noncomputable def decMw (w : BitVec 32) : Option Instr :=
  match (w.extractLsb' 0 6).toNat with
    | 0x0 => if w.extractLsb' 12 4 = 0x0#4 then some (.mwWb (w.extractLsb' 21 2) (w.extractLsb' 16 5) (w.extractLsb' 11 1) (w.extractLsb' 6 5)) else none
    | 0x1 => if w.extractLsb' 15 1 = 0x0#1 then some (.mwTopk (w.extractLsb' 21 2) (w.extractLsb' 16 5) (w.extractLsb' 14 1) (w.extractLsb' 11 3) (w.extractLsb' 6 5)) else none
    | 0x2 => if w.extractLsb' 6 10 = 0x0#10 then some (.mwZero (w.extractLsb' 21 2) (w.extractLsb' 16 5)) else none
    | 0x3 => some (.mwRd (w.extractLsb' 21 2) (w.extractLsb' 16 5) (w.extractLsb' 11 5) (w.extractLsb' 6 5))
    | _ => none

/-- Major 0x24, mx (R70). -/
noncomputable def decMx (w : BitVec 32) : Option Instr :=
  match (w.extractLsb' 0 6).toNat with
    | 0x0 => if w.extractLsb' 11 5 = 0x0#5 then some (.mxRd (w.extractLsb' 21 2) (w.extractLsb' 16 5) (w.extractLsb' 6 5)) else none
    | 0x1 => if w.extractLsb' 16 5 = 0x0#5 ∧ w.extractLsb' 6 5 = 0x0#5 then some (.mxRep (w.extractLsb' 21 2) (w.extractLsb' 11 5)) else none
    | _ => none

/-- Words of 16 bits (R62, R64, R65, R66). -/
def decHalf (w : BitVec 16) : Option Instr :=
  match (w.extractLsb' 13 3).toNat with
    | 0x0 => 
      match (w.extractLsb' 10 3).toNat with
        | 0x0 => some (.compactAdd (w.extractLsb' 5 5) (w.extractLsb' 0 5))
        | 0x1 => some (.compactSub (w.extractLsb' 5 5) (w.extractLsb' 0 5))
        | 0x2 => some (.compactAnd (w.extractLsb' 5 5) (w.extractLsb' 0 5))
        | 0x3 => some (.compactOr (w.extractLsb' 5 5) (w.extractLsb' 0 5))
        | 0x4 => some (.compactXor (w.extractLsb' 5 5) (w.extractLsb' 0 5))
        | 0x5 => some (.compactMov (w.extractLsb' 5 5) (w.extractLsb' 0 5))
        | 0x6 => some (.compactSll (w.extractLsb' 5 5) (w.extractLsb' 0 5))
        | 0x7 => some (.compactSrl (w.extractLsb' 5 5) (w.extractLsb' 0 5))
        | _ => none
    | 0x1 => some (.compactLoadImmediate (w.extractLsb' 8 5) (w.extractLsb' 0 8))
    | 0x2 => 
      match (w.extractLsb' 12 1).toNat with
        | 0x0 => some (.compactSpill (w.extractLsb' 5 7) (w.extractLsb' 0 5))
        | 0x1 => some (.compactFill (w.extractLsb' 5 7) (w.extractLsb' 0 5))
        | _ => none
    | 0x3 => 
      match (w.extractLsb' 12 1).toNat with
        | 0x0 => if w.extractLsb' 0 4 = 0x0#4 then some (.compactPop (w.extractLsb' 9 3) (w.extractLsb' 4 5)) else none
        | 0x1 => if w.extractLsb' 0 4 = 0x0#4 then some (.compactPush (w.extractLsb' 9 3) (w.extractLsb' 4 5)) else none
        | _ => none
    | 0x4 => 
      match (w.extractLsb' 0 9).toNat with
        | 0x0 => some (.shortTransfer (w.extractLsb' 11 2) (w.extractLsb' 9 2))
        | 0x80 => some (.shortTransferNot (w.extractLsb' 11 2) (w.extractLsb' 9 2))
        | 0x100 => if w.extractLsb' 9 2 = 0x0#2 then some (.shortTransferAlways (w.extractLsb' 11 2)) else none
        | _ => none
    | 0x5 => if w.extractLsb' 0 1 = 0x0#1 then some (.rep (w.extractLsb' 7 6) (w.extractLsb' 5 2) (w.extractLsb' 3 2) (w.extractLsb' 1 2)) else none
    | 0x6 => 
      match (w.extractLsb' 11 2).toNat with
        | 0x0 => if w.extractLsb' 0 11 = 0x0#11 then some (.nop) else none
        | 0x1 => some (.compactTrAt (w.extractLsb' 0 11))
        | 0x2 => if w.extractLsb' 0 6 = 0x0#6 then some (.compactTrTap (w.extractLsb' 6 5)) else none
        | _ => none
    | _ => none

/-- The major opcode map (R70): a 32-bit word that is no block header. -/
noncomputable def decMajor (w : BitVec 32) : Option Instr :=
  match (w.extractLsb' 23 6).toNat with
  | 0x01 => decIa w
  | 0x02 => decIi w
  | 0x03 => decBf w
  | 0x04 => decIw w
  | 0x05 => decCmp w
  | 0x06 => decBr w
  | 0x07 => decSys w
  | 0x08 => decLd w
  | 0x09 => decSt w
  | 0x0A => decAt w
  | 0x0B => decMon w
  | 0x0C => decSp w
  | 0x0D => decQ w
  | 0x0E => decBar w
  | 0x0F => decTag w
  | 0x10 => decXl w
  | 0x11 => decCp w
  | 0x12 => decAb w
  | 0x13 => decTr w
  | 0x14 => decSti w
  | 0x15 => decKn w
  | 0x16 => decRg w
  | 0x18 => decVi w
  | 0x19 => decVf w
  | 0x1A => decVc w
  | 0x1B => decVm w
  | 0x1C => decVp w
  | 0x1D => decVr w
  | 0x1E => decVq w
  | 0x1F => decVt w
  | 0x20 => decMc w
  | 0x21 => decMg w
  | 0x22 => decMb w
  | 0x23 => decMw w
  | 0x24 => decMx w
  | _ => none

/-- A 32-bit word that is no block header, with its operand checks (R71). -/
noncomputable def decodeWord (w : BitVec 32) : Option Instr :=
  if w.extractLsb' 29 3 = 0x7#3 then (decMajor w).filter Instr.wf else none

/-- A half-word that begins no 32-bit word (R47, R62). -/
def decodeHalf (h : BitVec 16) : Option Instr := (decHalf h).filter Instr.wf

/-- The command-port words of a service core (R375): opcode custom-0, funct7 0. -/
noncomputable def decodePort (w : BitVec 32) : Option Instr :=
  if w.extractLsb' 0 7 = 0x0B#7 ∧ w.extractLsb' 25 7 = 0#7 then
    match (w.extractLsb' 12 3).toNat with
    | 0 => if w.extractLsb' 7 5 = 0#5 then some (.zqPush (w.extractLsb' 20 5) (w.extractLsb' 15 5)) else none
    | 1 => if w.extractLsb' 7 5 = 0#5 then some (.zqPushw (w.extractLsb' 20 5) (w.extractLsb' 15 5)) else none
    | 2 => if w.extractLsb' 15 10 = 0#10 then some (.zqFence (w.extractLsb' 7 5)) else none
    | 3 => if w.extractLsb' 20 5 = 0#5 then some (.zqStat (w.extractLsb' 15 5) (w.extractLsb' 7 5)) else none
    | _ => none
  else none

/-- The repeat count of a header (R51); none when REPR is 1 and bits [10:6] are not 0 (R55). -/
def decodeCount (w : BitVec 32) : Option Count :=
  if w.extractLsb' 0 1 = 0#1 then some (.imm (w.extractLsb' 1 10))
  else if w.extractLsb' 6 5 = 0#5 then some (.reg (w.extractLsb' 1 5)) else none

/-- A plain header (R51). -/
def decodePlain (w : BitVec 32) : Decoded :=
  match decodeCount w with
  | some (.imm r) => .ok (.blockPlain (w.extractLsb' 11 10) r) 4
  | some (.reg x) => .ok (.blockPlainReg (w.extractLsb' 11 10) x) 4
  | none => .blockForm

/-- A header of KIND 0b01, 0b10 or 0b11 and its extension word (R52, R57, R58, R59). -/
def decodeExt (w e : BitVec 32) : Decoded :=
  match decodeCount w with
  | none => .blockForm
  | some c =>
    if e.extractLsb' 29 3 = 0x7#3 then
      match (w.extractLsb' 21 2).toNat with
      | 1 =>
        if e.extractLsb' 0 1 = 0#1 then
          .ok (.blockStrided (w.extractLsb' 11 10) c (e.extractLsb' 25 4) (e.extractLsb' 15 10)
            (e.extractLsb' 11 4) (e.extractLsb' 1 10)) 8
        else .blockForm
      | 2 =>
        if e.extractLsb' 0 26 = 0#26 then .ok (.blockPipelined (w.extractLsb' 11 10) c (e.extractLsb' 26 3)) 8
        else .blockForm
      | _ =>
        if e.extractLsb' 25 4 = 0#4 then .ok (.blockTimed (w.extractLsb' 11 10) c (e.extractLsb' 0 25)) 8
        else .blockForm
    else .blockForm

/-- A header is told from a word by MAJ 0 (R51). -/
def isHeader (w : BitVec 32) : Bool := w.extractLsb' 23 9 = 0x1C0#9

/-- The instruction that the bytes of a code section begin with (R46, R47). Fewer bytes than the word needs are the end
of the code section, which faults ILLEGAL (R50). -/
noncomputable def decode (bs : List Byte) : Decoded :=
  match bs with
  | b0 :: b1 :: rest =>
    let h : BitVec 16 := b0 ++ b1
    if h.extractLsb' 13 3 = 0x7#3 then
      match rest with
      | b2 :: b3 :: rest' =>
        let w : BitVec 32 := h ++ (b2 ++ b3 : BitVec 16)
        if isHeader w then
          if w.extractLsb' 21 2 = 0#2 then decodePlain w
          else
            match rest' with
            | e0 :: e1 :: e2 :: e3 :: _ => decodeExt w ((e0 ++ e1 : BitVec 16) ++ (e2 ++ e3 : BitVec 16))
            | _ => .illegal
        else
          match decodeWord w with
          | some i => .ok i 4
          | none => .illegal
      | _ => .illegal
    else
      match decodeHalf h with
      | some i => .ok i 2
      | none => .illegal
  | _ => .illegal

/-- The header of R51 with its KIND, LEN and count. -/
def encodeHeader (kind : BitVec 2) (l : BitVec 10) : Count → BitVec 32
  | .imm r => 0x1C0#9 ++ kind ++ l ++ r ++ 0#1
  | .reg x => 0x1C0#9 ++ kind ++ l ++ 0#5 ++ x ++ 1#1

/-- The words of an instruction, from the encoding tables; none for an event, which has no words. -/
def encode : Instr → Option Encoded
  | .blockPlain l r => some (.word (encodeHeader 0 l (.imm r)))
  | .blockPlainReg l x => some (.word (encodeHeader 0 l (.reg x)))
  | .blockStrided l c ra sa rb sb =>
      some (.header (encodeHeader 1 l c) (0x7#3 ++ ra ++ sa ++ rb ++ sb ++ 0#1))
  | .blockPipelined l c sm1 => some (.header (encodeHeader 2 l c) (0x7#3 ++ sm1 ++ 0#26))
  | .blockTimed l c cyc => some (.header (encodeHeader 3 l c) (0x7#3 ++ 0#4 ++ cyc))
  | .iaAdd i d a b => some (.word (0x1C1#9 ++ i ++ d ++ a ++ b ++ 0x0#6))
  | .iaSub i d a b => some (.word (0x1C1#9 ++ i ++ d ++ a ++ b ++ 0x1#6))
  | .iaAnd i d a b => some (.word (0x1C1#9 ++ i ++ d ++ a ++ b ++ 0x2#6))
  | .iaOr i d a b => some (.word (0x1C1#9 ++ i ++ d ++ a ++ b ++ 0x3#6))
  | .iaXor i d a b => some (.word (0x1C1#9 ++ i ++ d ++ a ++ b ++ 0x4#6))
  | .iaMov i d a => some (.word (0x1C1#9 ++ i ++ d ++ a ++ 0x5#11))
  | .iaAndn i d a b => some (.word (0x1C1#9 ++ i ++ d ++ a ++ b ++ 0x6#6))
  | .iaOrn i d a b => some (.word (0x1C1#9 ++ i ++ d ++ a ++ b ++ 0x7#6))
  | .iaMul i d a b => some (.word (0x1C1#9 ++ i ++ d ++ a ++ b ++ 0x8#6))
  | .iaMulh i d a b => some (.word (0x1C1#9 ++ i ++ d ++ a ++ b ++ 0x9#6))
  | .iaMulhu i d a b => some (.word (0x1C1#9 ++ i ++ d ++ a ++ b ++ 0xA#6))
  | .iaDiv i d a b => some (.word (0x1C1#9 ++ i ++ d ++ a ++ b ++ 0xB#6))
  | .iaDivu i d a b => some (.word (0x1C1#9 ++ i ++ d ++ a ++ b ++ 0xC#6))
  | .iaRem i d a b => some (.word (0x1C1#9 ++ i ++ d ++ a ++ b ++ 0xD#6))
  | .iaRemu i d a b => some (.word (0x1C1#9 ++ i ++ d ++ a ++ b ++ 0xE#6))
  | .iaMin i d a b => some (.word (0x1C1#9 ++ i ++ d ++ a ++ b ++ 0xF#6))
  | .iaMax i d a b => some (.word (0x1C1#9 ++ i ++ d ++ a ++ b ++ 0x10#6))
  | .iaMinu i d a b => some (.word (0x1C1#9 ++ i ++ d ++ a ++ b ++ 0x11#6))
  | .iaMaxu i d a b => some (.word (0x1C1#9 ++ i ++ d ++ a ++ b ++ 0x12#6))
  | .iaAddco i d a b => some (.word (0x1C1#9 ++ i ++ d ++ a ++ b ++ 0x13#6))
  | .iaAddc i d a b => some (.word (0x1C1#9 ++ i ++ d ++ a ++ b ++ 0x14#6))
  | .iaSubbo i d a b => some (.word (0x1C1#9 ++ i ++ d ++ a ++ b ++ 0x15#6))
  | .iaSubb i d a b => some (.word (0x1C1#9 ++ i ++ d ++ a ++ b ++ 0x16#6))
  | .iaAdds i d a b => some (.word (0x1C1#9 ++ i ++ d ++ a ++ b ++ 0x17#6))
  | .iaSubs i d a b => some (.word (0x1C1#9 ++ i ++ d ++ a ++ b ++ 0x18#6))
  | .iaSxt i d a w => some (.word (0x1C1#9 ++ i ++ d ++ a ++ 0x6#9 ++ w))
  | .iaZxt i d a w => some (.word (0x1C1#9 ++ i ++ d ++ a ++ 0x7#9 ++ w))
  | .iaAmov i d a => some (.word (0x1C1#9 ++ i ++ d ++ a ++ 0x20#11))
  | .iaXmov i d a => some (.word (0x1C1#9 ++ i ++ d ++ a ++ 0x21#11))
  | .iaAadd i d a b => some (.word (0x1C1#9 ++ i ++ d ++ a ++ b ++ 0x22#6))
  | .iaArow i d a b => some (.word (0x1C1#9 ++ i ++ d ++ a ++ b ++ 0x23#6))
  | .compactAdd d a => some (.half (0x0#6 ++ d ++ a))
  | .compactSub d a => some (.half (0x1#6 ++ d ++ a))
  | .compactAnd d a => some (.half (0x2#6 ++ d ++ a))
  | .compactOr d a => some (.half (0x3#6 ++ d ++ a))
  | .compactXor d a => some (.half (0x4#6 ++ d ++ a))
  | .compactMov d a => some (.half (0x5#6 ++ d ++ a))
  | .compactSll d a => some (.half (0x6#6 ++ d ++ a))
  | .compactSrl d a => some (.half (0x7#6 ++ d ++ a))
  | .iiAdd i d a k => some (.word (0x1C2#9 ++ i ++ d ++ a ++ k))
  | .compactLoadImmediate d k => some (.half (0x1#3 ++ d ++ k))
  | .iwIns i d k => some (.word (0x1C4#9 ++ i ++ d ++ k))
  | .bfSll i d a b => some (.word (0x1C3#9 ++ i ++ d ++ a ++ b ++ 0x0#6))
  | .bfSrl i d a b => some (.word (0x1C3#9 ++ i ++ d ++ a ++ b ++ 0x1#6))
  | .bfSra i d a b => some (.word (0x1C3#9 ++ i ++ d ++ a ++ b ++ 0x2#6))
  | .bfRol i d a b => some (.word (0x1C3#9 ++ i ++ d ++ a ++ b ++ 0x3#6))
  | .bfRor i d a b => some (.word (0x1C3#9 ++ i ++ d ++ a ++ b ++ 0x4#6))
  | .bfBfx i d a b => some (.word (0x1C3#9 ++ i ++ d ++ a ++ b ++ 0x5#6))
  | .bfBfxs i d a b => some (.word (0x1C3#9 ++ i ++ d ++ a ++ b ++ 0x6#6))
  | .bfBfi i d a b => some (.word (0x1C3#9 ++ i ++ d ++ a ++ b ++ 0x7#6))
  | .bfFsh i d a b => some (.word (0x1C3#9 ++ i ++ d ++ a ++ b ++ 0x8#6))
  | .bfPop i d a => some (.word (0x1C3#9 ++ i ++ d ++ a ++ 0x9#11))
  | .bfClz i d a => some (.word (0x1C3#9 ++ i ++ d ++ a ++ 0xA#11))
  | .bfCtz i d a => some (.word (0x1C3#9 ++ i ++ d ++ a ++ 0xB#11))
  | .bfRev i d a => some (.word (0x1C3#9 ++ i ++ d ++ a ++ 0xC#11))
  | .bfRevb i d a => some (.word (0x1C3#9 ++ i ++ d ++ a ++ 0xD#11))
  | .bfSlli i d a s h => some (.word (0x1C3#9 ++ i ++ d ++ a ++ s ++ 0x10#5 ++ h))
  | .bfSrli i d a s h => some (.word (0x1C3#9 ++ i ++ d ++ a ++ s ++ 0x11#5 ++ h))
  | .bfSrai i d a s h => some (.word (0x1C3#9 ++ i ++ d ++ a ++ s ++ 0x12#5 ++ h))
  | .bfRoli i d a s h => some (.word (0x1C3#9 ++ i ++ d ++ a ++ s ++ 0x13#5 ++ h))
  | .bfRori i d a s h => some (.word (0x1C3#9 ++ i ++ d ++ a ++ s ++ 0x14#5 ++ h))
  | .cmpEq i d a b => some (.word (0x1C5#9 ++ i ++ d ++ a ++ b ++ 0x0#6))
  | .cmpNe i d a b => some (.word (0x1C5#9 ++ i ++ d ++ a ++ b ++ 0x1#6))
  | .cmpLt i d a b => some (.word (0x1C5#9 ++ i ++ d ++ a ++ b ++ 0x2#6))
  | .cmpGe i d a b => some (.word (0x1C5#9 ++ i ++ d ++ a ++ b ++ 0x3#6))
  | .cmpLtu i d a b => some (.word (0x1C5#9 ++ i ++ d ++ a ++ b ++ 0x4#6))
  | .cmpGeu i d a b => some (.word (0x1C5#9 ++ i ++ d ++ a ++ b ++ 0x5#6))
  | .cmpTst i d a b => some (.word (0x1C5#9 ++ i ++ d ++ a ++ b ++ 0x6#6))
  | .cmpNtst i d a b => some (.word (0x1C5#9 ++ i ++ d ++ a ++ b ++ 0x7#6))
  | .cmpAnd i d a b => some (.word (0x1C5#9 ++ i ++ d ++ a ++ b ++ 0x8#6))
  | .cmpOr i d a b => some (.word (0x1C5#9 ++ i ++ d ++ a ++ b ++ 0x9#6))
  | .cmpAndn i d a b => some (.word (0x1C5#9 ++ i ++ d ++ a ++ b ++ 0xA#6))
  | .cmpXor i d a b => some (.word (0x1C5#9 ++ i ++ d ++ a ++ b ++ 0xB#6))
  | .cmpStg i d a => some (.word (0x1C5#9 ++ i ++ d ++ a ++ 0xC#11))
  | .brPrep i t k => some (.word (0x1C6#9 ++ i ++ t ++ k ++ 0x0#6))
  | .brPrepx i d a => some (.word (0x1C6#9 ++ i ++ d ++ a ++ 0x1#11))
  | .brGo i d a => some (.word (0x1C6#9 ++ i ++ d ++ a ++ 0x2#11))
  | .brGoNot i d a => some (.word (0x1C6#9 ++ i ++ d ++ a ++ 0x42#11))
  | .brGoAlways i d => some (.word (0x1C6#9 ++ i ++ d ++ 0x82#16))
  | .shortTransfer t c => some (.half (0x4#3 ++ t ++ c ++ 0x0#9))
  | .shortTransferNot t c => some (.half (0x4#3 ++ t ++ c ++ 0x80#9))
  | .shortTransferAlways t => some (.half (0x4#3 ++ t ++ 0x100#11))
  | .brTget i d a => some (.word (0x1C6#9 ++ i ++ d ++ a ++ 0x3#11))
  | .rep n d a b => some (.half (0x5#3 ++ n ++ d ++ a ++ b ++ 0x0#1))
  | .nop => some (.half (0xC000#16))
  | .sysId i d s => some (.word (0x1C7#9 ++ i ++ d ++ 0x0#5 ++ s ++ 0x0#6))
  | .sysRd i d r => some (.word (0x1C7#9 ++ i ++ d ++ r ++ 0x1#6))
  | .sysWr i d r => some (.word (0x1C7#9 ++ i ++ d ++ r ++ 0x2#6))
  | .sysTrap i k => some (.word (0x1C7#9 ++ i ++ 0x0#5 ++ k ++ 0x3#6))
  | .sysScall i d a b => some (.word (0x1C7#9 ++ i ++ d ++ a ++ b ++ 0x4#6))
  | .sysFence i m s => some (.word (0x1C7#9 ++ i ++ m ++ 0x1#3 ++ s))
  | .ld i d a c o => some (.word (0x1C8#9 ++ i ++ d ++ a ++ c ++ o))
  | .st i d a c o => some (.word (0x1C9#9 ++ i ++ d ++ a ++ c ++ o))
  | .atAdd i d a c w => some (.word (0x1CA#9 ++ i ++ d ++ a ++ c ++ 0x0#4 ++ w))
  | .atAnd i d a c w => some (.word (0x1CA#9 ++ i ++ d ++ a ++ c ++ 0x1#4 ++ w))
  | .atOr i d a c w => some (.word (0x1CA#9 ++ i ++ d ++ a ++ c ++ 0x2#4 ++ w))
  | .atXor i d a c w => some (.word (0x1CA#9 ++ i ++ d ++ a ++ c ++ 0x3#4 ++ w))
  | .atMin i d a c w => some (.word (0x1CA#9 ++ i ++ d ++ a ++ c ++ 0x4#4 ++ w))
  | .atMax i d a c w => some (.word (0x1CA#9 ++ i ++ d ++ a ++ c ++ 0x5#4 ++ w))
  | .atMinu i d a c w => some (.word (0x1CA#9 ++ i ++ d ++ a ++ c ++ 0x6#4 ++ w))
  | .atMaxu i d a c w => some (.word (0x1CA#9 ++ i ++ d ++ a ++ c ++ 0x7#4 ++ w))
  | .atSwap i d a c w => some (.word (0x1CA#9 ++ i ++ d ++ a ++ c ++ 0x8#4 ++ w))
  | .atCas i d a c w => some (.word (0x1CA#9 ++ i ++ d ++ a ++ c ++ 0x9#4 ++ w))
  | .atFadd i d a c w => some (.word (0x1CA#9 ++ i ++ d ++ a ++ c ++ 0xA#4 ++ w))
  | .monWaiteq i d a c w => some (.word (0x1CB#9 ++ i ++ d ++ a ++ c ++ 0x0#4 ++ w))
  | .monWaitne i d a c w => some (.word (0x1CB#9 ++ i ++ d ++ a ++ c ++ 0x1#4 ++ w))
  | .monWaitge i d a c w => some (.word (0x1CB#9 ++ i ++ d ++ a ++ c ++ 0x2#4 ++ w))
  | .monWaitgeu i d a c w => some (.word (0x1CB#9 ++ i ++ d ++ a ++ c ++ 0x3#4 ++ w))
  | .spSpill i a s => some (.word (0x1CC#9 ++ i ++ 0x0#5 ++ a ++ 0x0#3 ++ s))
  | .spFill i d s => some (.word (0x1CC#9 ++ i ++ d ++ 0x2#8 ++ s))
  | .spVspill i a s => some (.word (0x1CC#9 ++ i ++ 0x0#5 ++ a ++ 0x4#3 ++ s))
  | .spVfill i d s => some (.word (0x1CC#9 ++ i ++ d ++ 0x6#8 ++ s))
  | .compactSpill s d => some (.half (0x4#4 ++ s ++ d))
  | .compactFill s d => some (.half (0x5#4 ++ s ++ d))
  | .qPop i d a => some (.word (0x1CD#9 ++ i ++ d ++ a ++ 0x0#11))
  | .qPush i d a => some (.word (0x1CD#9 ++ i ++ d ++ a ++ 0x1#11))
  | .qCnt i d a => some (.word (0x1CD#9 ++ i ++ d ++ a ++ 0x2#11))
  | .qPopc i d a => some (.word (0x1CD#9 ++ i ++ d ++ a ++ 0x3#11))
  | .qPushc i d a => some (.word (0x1CD#9 ++ i ++ d ++ a ++ 0x4#11))
  | .compactPop q d => some (.half (0x6#4 ++ q ++ d ++ 0x0#4))
  | .compactPush q d => some (.half (0x7#4 ++ q ++ d ++ 0x0#4))
  | .barInit i a b => some (.word (0x1CE#9 ++ i ++ 0x0#5 ++ a ++ b ++ 0x0#6))
  | .barSync i a => some (.word (0x1CE#9 ++ i ++ 0x0#5 ++ a ++ 0x1#11))
  | .barArrive i d a => some (.word (0x1CE#9 ++ i ++ d ++ a ++ 0x2#11))
  | .barWait i a b => some (.word (0x1CE#9 ++ i ++ 0x0#5 ++ a ++ b ++ 0x3#6))
  | .barRd i d a s => some (.word (0x1CE#9 ++ i ++ d ++ a ++ s ++ 0x4#6))
  | .tagWany i d a => some (.word (0x1CF#9 ++ i ++ d ++ a ++ 0x0#11))
  | .tagWall i a => some (.word (0x1CF#9 ++ i ++ 0x0#5 ++ a ++ 0x1#11))
  | .tagFfr i d a => some (.word (0x1CF#9 ++ i ++ d ++ a ++ 0x2#11))
  | .tagCnt i d a => some (.word (0x1CF#9 ++ i ++ d ++ a ++ 0x3#11))
  | .xlTr i d a => some (.word (0x1D0#9 ++ i ++ d ++ a ++ 0x0#11))
  | .xlTrw i d a => some (.word (0x1D0#9 ++ i ++ d ++ a ++ 0x1#11))
  | .xlInv i d => some (.word (0x1D0#9 ++ i ++ d ++ 0x2#16))
  | .xlRd i d a s => some (.word (0x1D0#9 ++ i ++ d ++ a ++ s ++ 0x3#6))
  | .cpLd i a b => some (.word (0x1D1#9 ++ i ++ 0x0#5 ++ a ++ b ++ 0x0#6))
  | .cpSt i a b => some (.word (0x1D1#9 ++ i ++ 0x0#5 ++ a ++ b ++ 0x1#6))
  | .cpMv i a b => some (.word (0x1D1#9 ++ i ++ 0x0#5 ++ a ++ b ++ 0x2#6))
  | .cpMx i a b => some (.word (0x1D1#9 ++ i ++ 0x0#5 ++ a ++ b ++ 0x3#6))
  | .cpDrill i a => some (.word (0x1D1#9 ++ i ++ 0x0#5 ++ a ++ 0x4#11))
  | .cpDstop i d a => some (.word (0x1D1#9 ++ i ++ d ++ a ++ 0x5#11))
  | .cpTok i d n => some (.word (0x1D1#9 ++ i ++ d ++ 0x0#5 ++ n ++ 0x6#6))
  | .cpTcnt i d a => some (.word (0x1D1#9 ++ i ++ d ++ a ++ 0x7#11))
  | .abInit i a b => some (.word (0x1D2#9 ++ i ++ 0x0#5 ++ a ++ b ++ 0x0#6))
  | .abAwait i a b => some (.word (0x1D2#9 ++ i ++ 0x0#5 ++ a ++ b ++ 0x1#6))
  | .abAret i a b => some (.word (0x1D2#9 ++ i ++ 0x0#5 ++ a ++ b ++ 0x2#6))
  | .abRd i d a s => some (.word (0x1D2#9 ++ i ++ d ++ a ++ s ++ 0x3#6))
  | .trTap i d => some (.word (0x1D3#9 ++ i ++ d ++ 0x0#16))
  | .compactTrTap d => some (.half (0x1A#5 ++ d ++ 0x0#6))
  | .trOtap i a => some (.word (0x1D3#9 ++ i ++ 0x0#5 ++ a ++ 0x1#11))
  | .trAt i k => some (.word (0x1D3#9 ++ i ++ k ++ 0x2#6))
  | .compactTrAt k => some (.half (0x19#5 ++ k))
  | .trAtx i a => some (.word (0x1D3#9 ++ i ++ 0x0#5 ++ a ++ 0x3#11))
  | .trRd i d s => some (.word (0x1D3#9 ++ i ++ d ++ 0x0#5 ++ s ++ 0x4#6))
  | .trAck i a => some (.word (0x1D3#9 ++ i ++ 0x0#5 ++ a ++ 0x5#11))
  | .stiPut i a b => some (.word (0x1D4#9 ++ i ++ 0x0#5 ++ a ++ b ++ 0x0#6))
  | .stiGet i d a => some (.word (0x1D4#9 ++ i ++ d ++ a ++ 0x1#11))
  | .stiStat i d a => some (.word (0x1D4#9 ++ i ++ d ++ a ++ 0x2#11))
  | .stiAck i a b => some (.word (0x1D4#9 ++ i ++ 0x0#5 ++ a ++ b ++ 0x3#6))
  | .stiCoef i a b => some (.word (0x1D4#9 ++ i ++ 0x0#5 ++ a ++ b ++ 0x4#6))
  | .knEnd i => some (.word (0x1D5#9 ++ i ++ 0x0#21))
  | .knRdv i => some (.word (0x1D5#9 ++ i ++ 0x1#21))
  | .knYield i => some (.word (0x1D5#9 ++ i ++ 0x2#21))
  | .knPend i d => some (.word (0x1D5#9 ++ i ++ d ++ 0x3#16))
  | .rgEcount i d a => some (.word (0x1D6#9 ++ i ++ d ++ a ++ 0x0#11))
  | .rgEscan i d a => some (.word (0x1D6#9 ++ i ++ d ++ a ++ 0x1#11))
  | .rgEscat i d a b => some (.word (0x1D6#9 ++ i ++ d ++ a ++ b ++ 0x2#6))
  | .rgClaim i d a b => some (.word (0x1D6#9 ++ i ++ d ++ a ++ b ++ 0x3#6))
  | .viAdd i d a b t => some (.word (0x1D8#9 ++ i ++ d ++ a ++ b ++ 0x0#3 ++ t))
  | .viSub i d a b t => some (.word (0x1D8#9 ++ i ++ d ++ a ++ b ++ 0x1#3 ++ t))
  | .viMul i d a b t => some (.word (0x1D8#9 ++ i ++ d ++ a ++ b ++ 0x2#3 ++ t))
  | .viMin i d a b t => some (.word (0x1D8#9 ++ i ++ d ++ a ++ b ++ 0x3#3 ++ t))
  | .viMax i d a b t => some (.word (0x1D8#9 ++ i ++ d ++ a ++ b ++ 0x4#3 ++ t))
  | .viAdds i d a b t => some (.word (0x1D8#9 ++ i ++ d ++ a ++ b ++ 0x5#3 ++ t))
  | .viSll i d a b w => some (.word (0x1D8#9 ++ i ++ d ++ a ++ b ++ 0xC#4 ++ w))
  | .viSrl i d a b w => some (.word (0x1D8#9 ++ i ++ d ++ a ++ b ++ 0xD#4 ++ w))
  | .viSra i d a b w => some (.word (0x1D8#9 ++ i ++ d ++ a ++ b ++ 0xE#4 ++ w))
  | .viAnd i d a b => some (.word (0x1D8#9 ++ i ++ d ++ a ++ b ++ 0x3C#6))
  | .viOr i d a b => some (.word (0x1D8#9 ++ i ++ d ++ a ++ b ++ 0x3D#6))
  | .viXor i d a b => some (.word (0x1D8#9 ++ i ++ d ++ a ++ b ++ 0x3E#6))
  | .viAndn i d a b => some (.word (0x1D8#9 ++ i ++ d ++ a ++ b ++ 0x3F#6))
  | .vfAdd i d a b r f => some (.word (0x1D9#9 ++ i ++ d ++ a ++ b ++ 0x0#3 ++ r ++ f))
  | .vfSub i d a b r f => some (.word (0x1D9#9 ++ i ++ d ++ a ++ b ++ 0x1#3 ++ r ++ f))
  | .vfMul i d a b r f => some (.word (0x1D9#9 ++ i ++ d ++ a ++ b ++ 0x2#3 ++ r ++ f))
  | .vfFma i d a b r f => some (.word (0x1D9#9 ++ i ++ d ++ a ++ b ++ 0x3#3 ++ r ++ f))
  | .vfMin i d a b f => some (.word (0x1D9#9 ++ i ++ d ++ a ++ b ++ 0x8#4 ++ f))
  | .vfMax i d a b f => some (.word (0x1D9#9 ++ i ++ d ++ a ++ b ++ 0xA#4 ++ f))
  | .vfCfma i d a b r f => some (.word (0x1D9#9 ++ i ++ d ++ a ++ b ++ 0x6#3 ++ r ++ f))
  | .vfNeg i d a f => some (.word (0x1D9#9 ++ i ++ d ++ a ++ 0xE#9 ++ f))
  | .vfAbs i d a f => some (.word (0x1D9#9 ++ i ++ d ++ a ++ 0x1E#9 ++ f))
  | .vfSqrt i d a r f => some (.word (0x1D9#9 ++ i ++ d ++ a ++ 0x17#8 ++ r ++ f))
  | .vfRcp i d a r f => some (.word (0x1D9#9 ++ i ++ d ++ a ++ 0x1F#8 ++ r ++ f))
  | .vcCvt i d a r p x y => some (.word (0x1DA#9 ++ i ++ d ++ a ++ r ++ 0x0#1 ++ p ++ x ++ y))
  | .vmLd i d a c o => some (.word (0x1DB#9 ++ i ++ d ++ 0x0#2 ++ a ++ c ++ o))
  | .vmSt i d a c o => some (.word (0x1DB#9 ++ i ++ d ++ 0x1#2 ++ a ++ c ++ o))
  | .vmRmg i d a c o => some (.word (0x1DB#9 ++ i ++ d ++ 0x2#2 ++ a ++ c ++ o))
  | .vpPerm i d a b w => some (.word (0x1DC#9 ++ i ++ d ++ a ++ b ++ 0x0#4 ++ w))
  | .vpBcst i d a w => some (.word (0x1DC#9 ++ i ++ d ++ a ++ 0x1#9 ++ w))
  | .vpGet i d a b w => some (.word (0x1DC#9 ++ i ++ d ++ a ++ b ++ 0x2#4 ++ w))
  | .vpPut i d a b w => some (.word (0x1DC#9 ++ i ++ d ++ a ++ b ++ 0x3#4 ++ w))
  | .vpFimm i d a t => some (.word (0x1DC#9 ++ i ++ d ++ a ++ 0x2#8 ++ t))
  | .vpRot i d a b => some (.word (0x1DC#9 ++ i ++ d ++ a ++ b ++ 0x18#6))
  | .vpSel i d a b w n => some (.word (0x1DC#9 ++ i ++ d ++ a ++ b ++ 0x1#1 ++ w ++ n))
  | .vrSum i d a t => some (.word (0x1DD#9 ++ i ++ d ++ a ++ 0x0#8 ++ t))
  | .vrMin i d a t => some (.word (0x1DD#9 ++ i ++ d ++ a ++ 0x1#8 ++ t))
  | .vrMax i d a t => some (.word (0x1DD#9 ++ i ++ d ++ a ++ 0x2#8 ++ t))
  | .vrFsum i d a f => some (.word (0x1DD#9 ++ i ++ d ++ a ++ 0x6#9 ++ f))
  | .vrFmin i d a f => some (.word (0x1DD#9 ++ i ++ d ++ a ++ 0x8#9 ++ f))
  | .vrFmax i d a f => some (.word (0x1DD#9 ++ i ++ d ++ a ++ 0xA#9 ++ f))
  | .vrAny i d a => some (.word (0x1DD#9 ++ i ++ d ++ a ++ 0x30#11))
  | .vrAll i d a w => some (.word (0x1DD#9 ++ i ++ d ++ a ++ 0xD#9 ++ w))
  | .vrPcnt i d a => some (.word (0x1DD#9 ++ i ++ d ++ a ++ 0x38#11))
  | .vqEq i d a b t => some (.word (0x1DE#9 ++ i ++ d ++ a ++ b ++ 0x0#3 ++ t))
  | .vqNe i d a b t => some (.word (0x1DE#9 ++ i ++ d ++ a ++ b ++ 0x1#3 ++ t))
  | .vqLt i d a b t => some (.word (0x1DE#9 ++ i ++ d ++ a ++ b ++ 0x2#3 ++ t))
  | .vqLe i d a b t => some (.word (0x1DE#9 ++ i ++ d ++ a ++ b ++ 0x3#3 ++ t))
  | .vqFeq i d a b f => some (.word (0x1DE#9 ++ i ++ d ++ a ++ b ++ 0x8#4 ++ f))
  | .vqFlt i d a b f => some (.word (0x1DE#9 ++ i ++ d ++ a ++ b ++ 0x9#4 ++ f))
  | .vqFle i d a b f => some (.word (0x1DE#9 ++ i ++ d ++ a ++ b ++ 0xA#4 ++ f))
  | .vqFun i d a b f => some (.word (0x1DE#9 ++ i ++ d ++ a ++ b ++ 0xB#4 ++ f))
  | .vqAnd i d a b => some (.word (0x1DE#9 ++ i ++ d ++ a ++ b ++ 0x30#6))
  | .vqOr i d a b => some (.word (0x1DE#9 ++ i ++ d ++ a ++ b ++ 0x31#6))
  | .vqXor i d a b => some (.word (0x1DE#9 ++ i ++ d ++ a ++ b ++ 0x32#6))
  | .vqAndn i d a b => some (.word (0x1DE#9 ++ i ++ d ++ a ++ b ++ 0x33#6))
  | .vqNot i d a => some (.word (0x1DE#9 ++ i ++ d ++ a ++ 0x34#11))
  | .vqOnes i d => some (.word (0x1DE#9 ++ i ++ d ++ 0x35#16))
  | .vqZero i d => some (.word (0x1DE#9 ++ i ++ d ++ 0x36#16))
  | .vqLim i d a => some (.word (0x1DE#9 ++ i ++ d ++ a ++ 0x37#11))
  | .vqTox i d a h => some (.word (0x1DE#9 ++ i ++ d ++ a ++ 0x0#4 ++ h ++ 0x38#6))
  | .vqFrx i d a h => some (.word (0x1DE#9 ++ i ++ d ++ a ++ 0x0#4 ++ h ++ 0x39#6))
  | .vtInterpFp32 i d a b => some (.word (0x1DF#9 ++ i ++ d ++ a ++ b ++ 0x0#6))
  | .vtInterpBf16 i d a b => some (.word (0x1DF#9 ++ i ++ d ++ a ++ b ++ 0x1#6))
  | .vtRmix i d a n => some (.word (0x1DF#9 ++ i ++ d ++ a ++ n ++ 0x2#6))
  | .mcSet i d a => some (.word (0x1E0#9 ++ i ++ d ++ a ++ 0x0#11))
  | .mcGet i d a => some (.word (0x1E0#9 ++ i ++ d ++ a ++ 0x1#11))
  | .mcGeta i d a => some (.word (0x1E0#9 ++ i ++ d ++ a ++ 0x2#11))
  | .mcClr i => some (.word (0x1E0#9 ++ i ++ 0x3#21))
  | .mgGo i => some (.word (0x1E1#9 ++ i ++ 0x0#21))
  | .mgGoInd i a => some (.word (0x1E1#9 ++ i ++ 0x0#5 ++ a ++ 0x1#11))
  | .mgSwap i => some (.word (0x1E1#9 ++ i ++ 0x2#21))
  | .mgStat i d => some (.word (0x1E1#9 ++ i ++ d ++ 0x3#16))
  | .mgWait i => some (.word (0x1E1#9 ++ i ++ 0x4#21))
  | .mbClr i a e => some (.word (0x1E2#9 ++ i ++ 0x0#5 ++ a ++ 0x0#4 ++ e ++ 0x0#6))
  | .mbCount i a b => some (.word (0x1E2#9 ++ i ++ 0x0#5 ++ a ++ b ++ 0x1#6))
  | .mbMerge i d a => some (.word (0x1E2#9 ++ i ++ d ++ a ++ 0x2#11))
  | .mbDrain i d a s => some (.word (0x1E2#9 ++ i ++ d ++ a ++ 0x0#4 ++ s ++ 0x3#6))
  | .mbDepth i d a => some (.word (0x1E2#9 ++ i ++ d ++ a ++ 0x4#11))
  | .mbRdc i d a b => some (.word (0x1E2#9 ++ i ++ d ++ a ++ b ++ 0x5#6))
  | .mwWb i d z b => some (.word (0x1E3#9 ++ i ++ d ++ 0x0#4 ++ z ++ b ++ 0x0#6))
  | .mwTopk i d s k b => some (.word (0x1E3#9 ++ i ++ d ++ 0x0#1 ++ s ++ k ++ b ++ 0x1#6))
  | .mwZero i d => some (.word (0x1E3#9 ++ i ++ d ++ 0x2#16))
  | .mwRd i d a b => some (.word (0x1E3#9 ++ i ++ d ++ a ++ b ++ 0x3#6))
  | .mxRd i d s => some (.word (0x1E4#9 ++ i ++ d ++ 0x0#5 ++ s ++ 0x0#6))
  | .mxRep i a => some (.word (0x1E4#9 ++ i ++ 0x0#5 ++ a ++ 0x1#11))
  | .zqPush b a => some (.riscv (0x0#7 ++ b ++ a ++ 0xB#15))
  | .zqPushw b a => some (.riscv (0x0#7 ++ b ++ a ++ 0x100B#15))
  | .zqFence d => some (.riscv (0x2#20 ++ d ++ 0xB#7))
  | .zqStat a d => some (.riscv (0x0#12 ++ a ++ 0x3#3 ++ d ++ 0xB#7))
  | _ => none

/-- The bytes of an encoded stream instruction, in fetch order (R46). -/
def Encoded.bytes : Encoded → List Byte
  | .half h => [h.extractLsb' 8 8, h.extractLsb' 0 8]
  | .word w => [w.extractLsb' 24 8, w.extractLsb' 16 8, w.extractLsb' 8 8, w.extractLsb' 0 8]
  | .header w e =>
      [w.extractLsb' 24 8, w.extractLsb' 16 8, w.extractLsb' 8 8, w.extractLsb' 0 8,
       e.extractLsb' 24 8, e.extractLsb' 16 8, e.extractLsb' 8 8, e.extractLsb' 0 8]
  | .riscv w => [w.extractLsb' 0 8, w.extractLsb' 8 8, w.extractLsb' 16 8, w.extractLsb' 24 8]

/-- The instruction an encoded form reads as: a stream's words through `decode`, a service core's through the command
port's decoder. -/
noncomputable def decodeEncoded (e : Encoded) : Option Instr :=
  match e with
  | .riscv w => decodePort w
  | e =>
    match decode e.bytes with
    | .ok i _ => some i
    | _ => none

/-- The words of a table row as they stand in memory: a 16-bit row is one half-word; a 32-bit row is a stream word
where its length marker says so, and a command-port word of a service core where it does not. -/
def tableEncoded (nbits w : Nat) : Encoded :=
  if nbits ≤ 16 then .half (BitVec.ofNat 16 w)
  else if (BitVec.ofNat 32 w).extractLsb' 29 3 = 0x7#3 then
    if isHeader (BitVec.ofNat 32 w) ∧ (BitVec.ofNat 32 w).extractLsb' 21 2 ≠ 0#2 then
      .header (BitVec.ofNat 32 w) (BitVec.ofNat 32 (w >>> 32))
    else .word (BitVec.ofNat 32 w)
  else .riscv (BitVec.ofNat 32 w)

/-- The instruction the decoder reads from a row of the opcode table whose bits are `w`. -/
noncomputable def decodeTableWord (nbits w : Nat) : Option Instr := decodeEncoded (tableEncoded nbits w)

end Sys2Proof
end

