-- ==== Sys2Proof/Config.lean ====
section
/-! DEFINITION. Config.lean: what an implementation fixes, and the free values. A free value is a constant without a
body: nothing in Lean can evaluate it, so what is proved holds whatever it is. Each is applied to the counter
`State.freeCtr` or to what it depends on. -/

namespace Sys2Proof

/-- What the machine does next (assumption 1): a stream takes its issue turn, a cluster's tract advances one cycle, the
chronometer advances one tick, a service core executes a word, or an event of the opcode table befalls the machine. -/
inductive Turn where
  | stream (pcn : Nat) (eng : Eng)
  | cycle (pcl : Nat)
  | tick
  | service (port : Nat) (word : BitVec 32)
  | event (i : Instr)
  deriving DecidableEq, Repr, Inhabited

namespace Config

/-- FREE VALUE (assumption 1): which turn comes next when the agenda lists none. R10, R148 and R273 let the streams, the
units and the outside world interleave in every order their rules allow. -/
opaque freeTurn : Nat → Turn

/-- FREE VALUE (assumption 20): which entry of a full last-level TLB a fill replaces. R310 leaves it unspecified. -/
opaque freeVictim : Nat → Nat

/-- FREE VALUE (assumption 21): a spill slot at or above its declared size keeps its value over a relaunch when this is
true and reads zero when it is false. R90 leaves it between those two. -/
opaque freeKeepSlot : Nat → Bool

/-- FREE VALUE (assumption 14): an address register of the AP at a fresh start. R132 gives the registers that start at zero
and does not name these. -/
opaque freeAddr : Nat → Word

/-- FREE VALUE (assumption 22): whether a posted write that a reset's agent holds is performed rather than discarded.
R282 leaves which of them are. -/
opaque freePerform : Nat → Bool

/-- FREE VALUE (assumption 117): which of the rows that it still needs a unit reads next. R273 orders none of these reads. -/
opaque freePick : Nat → Nat

/-- FREE VALUE (assumption 23): the SHAKE256 digest of some words (R372, R388), which the manual names and does not
define. -/
opaque digest : List Word → BitVec 512

/-- FREE VALUE (assumption 92): whether the Falcon-1024 signature of an update image verifies over its digest (R388). -/
opaque signed : List Byte → BitVec 512 → Bool

/-- FREE VALUE (assumption 92): the version that an update image carries (R388). -/
opaque imageVersion : List Byte → Nat

/-- FREE VALUE (assumption 24): the FW_VERSION words of the firmware image that runs. R372 gives their width only. -/
opaque freeVersion : List Byte → BitVec 96

/-- FREE VALUE (assumption 29): a byte that a FREAD brings from a host file. R377 leaves the file to the host. -/
opaque freeByte : Nat → BitVec 8

/-- FREE VALUE (assumption 37): the registers of a service core after a word of its RV64 base set, which R373 names and
does not describe. -/
opaque freeCoreReg : Nat → Nat → Word

/-- FREE VALUE (assumption 35): whether a die's service pair passes its self-test at power-on (R373). -/
opaque freeSelfTest : Nat → Bool

/-- FREE VALUE (assumption 25): the ADDR, SRC, DST and other fields of a flit that R351 leaves to the sender. -/
opaque freeFlit : Nat → BitVec 256

/-- FREE VALUE (assumption 26): the codes that a CONVERT gives a row of a block-scaled FMT. R244 quantises element values,
and the stream of a block-scaled FMT carries no scales. -/
opaque freeRow : Nat → BitVec 512

/-- FREE VALUE (assumption 32): the level of a leaf entry that the host driver answers a page walk with. R386 has the
driver return the entry of R308, which carries no page size. -/
opaque freeLeafLevel : Nat → Nat

/-- Entries of a last-level TLB (R310). -/
def tlbEntries : Nat := 2048
/-- The cells along one side of a harrow (R11). -/
def harrowSide : Nat := 64
/-- Bytes of a stream's loop buffer (R61). -/
def loopBuffer : Nat := 512
/-- Unanswered service calls a die accepts (R377). -/
def scallSlots : Nat := 256
/-- Accesses one memory-link agent holds during STOPCOPY (R325). -/
def holdSlots : Nat := 4096
/-- Records of the host-assist ring (R386). -/
def haRing : Nat := 4096
/-- Bytes of an update image at most (R388). -/
def imageBytes : Nat := 67108864
/-- Ticks of a power period (R382) and between two beats of a service pair (R373). -/
def powerTicks : Nat := 1000000
def beatTicks : Nat := 1000000
/-- Ticks from one chronometer exchange of a link to the next (R101, R355). -/
def exchangeTicks : Nat := 1000000
/-- Ticks a reset's agent may take to acknowledge (R343). -/
def ackTicks : Nat := 1000000
/-- Ticks between two reads of a migrating entry, and the limit of the wait (R309). -/
def migReread : Nat := 1000
def migLimit : Nat := 64000
/-- Ticks a LOCKING tract may take (R105). -/
def lockTicks : Nat := 16000000
/-- Ticks of a refresh period and of one refresh window (R237). -/
def refreshPeriod : Nat := 16000000
def refreshWindow : Nat := 512
/-- Ticks a rail holds after its highest vote leaves (R381). -/
def voteHold : Nat := 4000000
/-- Ticks a link may train (R354). -/
def trainTicks : Nat := 20000000
/-- The lowest tract clock in Hz (R16). -/
def floorHz : Nat := 50000000

end Config
end Sys2Proof
end

