-- ==== Sys2Proof/Machine/Tbl.lean ====
section
/-! DEFINITION. Machine/Tbl.lean: sparse tables and byte memories as plain lists in one canonical form. -/

namespace Sys2Proof.Machine

/-- A table from numbers to values: pairs in rising order of the number, one pair for each number listed. -/
abbrev Tbl (α : Type) := List (Nat × α)

/-- The value listed for a number. -/
def Tbl.find? {α : Type} : Tbl α → Nat → Option α
  | [], _ => none
  | (k, v) :: r, n => if k = n then some v else Tbl.find? r n

/-- The value for a number; `d` where none is listed. -/
def Tbl.get {α : Type} (t : Tbl α) (d : α) (n : Nat) : α := (Tbl.find? t n).getD d

/-- The table with a number's value replaced. -/
def Tbl.set {α : Type} : Tbl α → Nat → α → Tbl α
  | [], n, x => [(n, x)]
  | (k, v) :: r, n, x =>
    if n < k then (n, x) :: (k, v) :: r
    else if n = k then (n, x) :: r
    else (k, v) :: Tbl.set r n x

/-- The table without a number. -/
def Tbl.erase {α : Type} (t : Tbl α) (n : Nat) : Tbl α := t.filter (fun p => p.1 != n)

/-- The table of `f 0` to `f (n-1)`, less the entries equal to the default. -/
def Tbl.build {α : Type} [DecidableEq α] (d : α) (n : Nat) (f : Nat → α) : Tbl α :=
  (List.range n).filterMap (fun i =>
    let x := f i
    if x = d then none else some (i, x))

/-- Is the list of cells in canonical form: addresses strictly rising, no cell equal to the byte an unlisted address
reads as (assumption 10). -/
def Mem.wfFrom : Nat → List Host.Cell → Bool
  | _, [] => true
  | lo, (a, b) :: r => decide (lo ≤ a) && decide (b ≠ 0) && Mem.wfFrom (a + 1) r

/-- A byte memory. -/
abbrev Mem := List Host.Cell

/-- What an unlisted address reads as (R132 for scratchpad); for main memory and the weight store,
DESIGN CHOICE (assumption 10). -/
def Mem.unlisted : Byte := 0

/-- The canonical form of a byte memory. -/
def Mem.wf (m : Mem) : Bool := Mem.wfFrom 0 m

/-- One byte. -/
def Mem.byte : Mem → Nat → Byte
  | [], _ => Mem.unlisted
  | (k, v) :: r, a => if k = a then v else Mem.byte r a

/-- A cell placed in rising order of address. -/
def Mem.insert : Mem → Nat → Byte → Mem
  | [], a, v => [(a, v)]
  | (k, w) :: r, a, v =>
    if a < k then (a, v) :: (k, w) :: r
    else if a = k then (a, v) :: r
    else (k, w) :: Mem.insert r a v

/-- One byte written; writing the unlisted value removes the cell. -/
def Mem.setByte (m : Mem) (a : Nat) (v : Byte) : Mem :=
  if v = Mem.unlisted then m.filter (fun c => c.1 != a) else Mem.insert m a v

/-- The little-endian number in the n bytes from an address (R2). -/
def Mem.num (m : Mem) (a : Nat) : Nat → Nat
  | 0 => 0
  | n + 1 => (Mem.byte m a).toNat + 256 * Mem.num m (a + 1) n

/-- The n low bytes of a number stored little-endian from an address (R2). -/
def Mem.setNum (m : Mem) (a : Nat) (v : Nat) : Nat → Mem
  | 0 => m
  | n + 1 => Mem.setNum (Mem.setByte m a (BitVec.ofNat 8 v)) (a + 1) (v / 256) n

/-- The 64-bit word at an address. -/
def Mem.word (m : Mem) (a : Nat) : Word := BitVec.ofNat 64 (Mem.num m a 8)
/-- The 64-bit word written at an address. -/
def Mem.setWord (m : Mem) (a : Nat) (w : Word) : Mem := Mem.setNum m a w.toNat 8
/-- The 64-byte row from an address. -/
def Mem.row (m : Mem) (a : Nat) : Row := BitVec.ofNat 512 (Mem.num m a 64)
/-- The 64-byte row written from an address. -/
def Mem.setRow (m : Mem) (a : Nat) (r : Row) : Mem := Mem.setNum m a r.toNat 64
/-- The bytes [lo, lo + len) replaced by the first len bytes of another memory. -/
def Mem.splice (m : Mem) (lo len : Nat) (src : Mem) : Mem :=
  m.filter (fun c => decide (c.1 < lo))
    ++ (src.filter (fun c => decide (c.1 < len))).map (fun c => (c.1 + lo, c.2))
    ++ m.filter (fun c => decide (lo + len ≤ c.1))
/-- The bytes [lo, lo + len) as a memory from 0. -/
def Mem.slice (m : Mem) (lo len : Nat) : Mem :=
  (m.filter (fun c => decide (lo ≤ c.1) && decide (c.1 < lo + len))).map (fun c => (c.1 - lo, c.2))
/-- The cells outside [lo, hi). -/
def Mem.clear (m : Mem) (lo hi : Nat) : Mem := m.filter (fun c => decide (c.1 < lo) || decide (hi ≤ c.1))

end Sys2Proof.Machine
end

