-- ==== Sys2Proof/Machine/State.lean ====
section
/-! DEFINITION. Machine/State.lean: the state of one VR-960 package, as plain data. The default of every field is its
value at reset (R4; where the spec gives none, the value that a log entry names), so `State.reset` is every field at
its default. INVENTORY.md lists each with its rule. -/

namespace Sys2Proof.Machine

/-- One stream of one core: package core number (R9) and engine class. -/
structure StreamId where
  core : Nat := 0
  eng  : Eng := .ap
  deriving DecidableEq, Repr, Inhabited

/-- Kernel and drill faults, with the numbers of R387. -/
inductive KFault where
  | illegal | illegalForEngine | blockForm | regAllot | queuePeer | queueDead | stubForm | stubQueue | trap
  | scallForm | branchSlot | badTarget | illegalFormat | frameOverrun | frameFatal | badCycle | stileUnbound
  | stileSide | tableAddr | addrRange | wsWrite | binDepth | quantAxis | formatMismatch | shape | operandRange
  | drillForm | drillRange | drillTarget | drillOwner | abSkew | abRange | abBusy | copyRange | tokenOvf
  | handleInvalid | handleUnset | handlePerm | vaRange | pageFatal | pageFault | walkFault | linkRoute
  | barRange | barBusy | barOff | barMember | barSkew | sxNone | sxPhase | powerStop | softError
  deriving DecidableEq, Repr, Inhabited

/-- Queue faults, with the codes of R342. -/
inductive QFault where
  | badType | typeDenied | badPkt | badPtr | capBounds | ibDepth | badChain | priv | pageFatal | tractBusy
  | linkRoute | lockRatio | lockCeil | lockFloor | lockTimeout | lockBudget | hdrInvalid | groupShape | notPinned
  | refreshConflict | ctxMigrating | kernel | drill | sxForm
  deriving DecidableEq, Repr, Inhabited

/-- Why a walk ends without a translation (R309, R314). -/
inductive WalkCause where
  | absent | write | nodeAbsent | format | migrating | remote
  deriving DecidableEq, Repr, Inhabited

/-- A register that a later word may have to wait for (R171). -/
inductive RegName where
  | x (n : BitVec 5)
  | v (n : BitVec 5)
  | h (n : BitVec 4)
  deriving DecidableEq, Repr, Inhabited

/-- A handle (R311). -/
structure Handle where
  vpb  : BitVec 40 := 0
  kw   : Bool := false
  pin  : Bool := false
  sz   : BitVec 2 := 0
  made : Bool := false
  hv   : Bool := false
  pa   : Word := 0
  deriving DecidableEq, Repr, Inhabited

/-- Kinds of block (R51). -/
inductive BlockKind where
  | plain
  | strided (ra : BitVec 4) (sa : BitVec 10) (rb : BitVec 4) (sb : BitVec 10)
  | pipelined (stages : Nat)
  | timed (cyc : Nat)
  deriving DecidableEq, Repr, Inhabited

/-- One active block (R56): its header's address, the first byte and the byte past its body, count, iteration number
and saved SPW; `idle` while a timed block waits for frame cycle 0 (R117). -/
structure Block where
  kind  : BlockKind := .plain
  entry : Nat := 0
  body  : Nat := 0
  stop  : Nat := 0
  count : Nat := 0
  iter  : Nat := 0
  spw   : BitVec 8 := 0
  idle  : Bool := false
  deriving DecidableEq, Repr, Inhabited

/-- The delay window of a `br.go` (R158, R169): slots still to issue, and the held transfer. -/
structure Window where
  slots : Nat := 0
  take  : Bool := false
  dest  : Nat := 0
  deriving DecidableEq, Repr, Inhabited

/-- Operations a bank's ALU performs on a lane (R230, R231). -/
inductive AtOp where
  | add | and | or | xor | min | max | minu | maxu | swap | cas | fadd
  deriving DecidableEq, Repr, Inhabited

/-- Conditions of a monitored wait (R232). -/
inductive MonOp where
  | eq | ne | ge | geu
  deriving DecidableEq, Repr, Inhabited

/-- What an issued access does at its row (R178, R180, R192, R230 to R233). `off` is ea[5:0]. -/
inductive AccKind where
  | loadX (d : BitVec 5)
  | storeX (v : Word)
  | loadV (d : BitVec 5)
  | storeV (v : Row)
  | rmgLow (d : BitVec 5)
  | rmgHigh (d : BitVec 5)
  | atomic (op : AtOp) (w : BitVec 3) (d : BitVec 5) (opd cmp : Word)
  | claim (d : BitVec 5) (limit : Word)
  | monitor (op : MonOp) (w : BitVec 3) (d : BitVec 5) (v : Word)
  deriving DecidableEq, Repr, Inhabited

/-- Where a stream address reaches (R224): a scratchpad row of a core, or a die status row. -/
inductive Home where
  | bank (core : Nat) (row : Nat)
  | status (die : Nat) (row : Nat)
  deriving DecidableEq, Repr, Inhabited

/-- An issued and not yet performed access of a stream (R263 to R267). `win`: through the cluster window. -/
structure Access where
  seq  : Nat := 0
  cls  : BitVec 4 := 0
  home : Home := .bank 0 0
  off  : Nat := 0
  win  : Bool := false
  kind : AccKind := .loadX 0
  deriving DecidableEq, Repr, Inhabited

/-- What a word of the MX waits for (R213, R218, R219, R221): ARMED = 0; IDLE with ARMED = 0; a tile that no running or
armed operator can write; or, to complete or to fault after them, that the rows it has stored are performed (R216, R222). -/
inductive HWait where
  | armed
  | idle
  | tile (t : Nat)
  | stored
  | storedBad
  deriving DecidableEq, Repr, Inhabited

/-- What a stream waits for (R148). `again` is a wait whose word issues once more when it
can; `frame` is a start that awaits frame cycle 0 (R132, R147). `arriving` is an `again` of a word on barrier n whose checks
are made; `trAtPast` a `tr.at` that was the last word of an iteration whose frame has ended (R124); `answered` a monitored
wait whose bank has answered. -/
inductive Wait where
  | none
  | again
  | arriving (n : Nat)
  | popX (d : BitVec 5) (q : Nat)
  | popC (d : BitVec 5) (q : Nat)
  | push (q : Nat) (v : Word)
  | scall (d : BitVec 5) (id : Nat)
  | rdv
  | ending
  | yielding
  | trAt (n : Nat)
  | trAtPast (n : Nat)
  | frame
  | stile (d : BitVec 5) (st : Nat)
  | tagAny (d : BitVec 5) (m : Word)
  | tagAll (m : Word)
  | tagFfr (d : BitVec 5) (m : Word)
  | monitor (d : BitVec 5)
  | claim (d : BitVec 5)
  | claimed (d : BitVec 5) (v : Word)
  | answered (d : BitVec 5) (v : Word)
  | await (ab : Nat) (n l : BitVec 32)
  | barSync (n : Nat) (p : Bool)
  | barWait (n : Nat) (p : Bool)
  | harrow (c : HWait)
  | dstop (d : BitVec 5) (drill : Nat) (got : Option Word)
  | walk (d : BitVec 4) (write : Bool) (va : Word)
  | halted (cause : WalkCause) (va : Word)
  | retrans (h : BitVec 4)
  deriving DecidableEq, Repr, Inhabited

/-- Life of a stream in a launch (R132, R140, R146). -/
inductive Phase where
  | off | live | ended | yielded
  deriving DecidableEq, Repr, Inhabited

/-- What a diversion takes of a stream (R144). -/
structure Snapshot where
  x      : Vector Word 32 := Vector.replicate 32 0
  a      : Vector Word 16 := Vector.replicate 16 0
  h      : Vector Handle 16 := Vector.replicate 16 {}
  v      : Vector Row 32 := Vector.replicate 32 0
  p      : Vector Pred 8 := Vector.replicate 8 0
  c      : BitVec 4 := 0
  t      : Vector Word 4 := Vector.replicate 4 0
  spw    : BitVec 8 := 0
  repc   : Nat := 0
  blocks : List Block := []
  window : Option Window := none
  /-- number of the first access issued after the diversion, and strides still owed to registers (R52, R144) -/
  seq    : Nat := 0
  owed   : Tbl Word := []
  deriving DecidableEq, Repr, Inhabited

/-- An engine stream (R67, R132, R152). -/
structure Stream where
  phase   : Phase := .off
  /-- the allotment: x0 to x(xk−1) and, in the XP, v0 to v(vm−1) (R69) -/
  xk      : Nat := 0
  vm      : Nat := 0
  x       : Vector Word 32 := Vector.replicate 32 0
  a       : Vector Word 16 := Vector.replicate 16 0
  h       : Vector Handle 16 := Vector.replicate 16 {}
  v       : Vector Row 32 := Vector.replicate 32 0
  p       : Vector Pred 8 := Vector.replicate 8 0
  c       : BitVec 4 := 0
  t       : Vector Word 4 := Vector.replicate 4 0
  spw     : BitVec 8 := 0
  repc    : Nat := 0
  /-- address of the word that issues next, and of the word after the one that is issuing -/
  pc      : Nat := 0
  npc     : Nat := 0
  /-- a `rep` has issued and its repetitions follow (R165) -/
  repOn   : Bool := false
  /-- REPC is the value at diversion, which the stub's own `rep` does not go on with (R168) -/
  repOld  : Bool := false
  dpc     : Nat := 0
  blocks  : List Block := []
  window  : Option Window := none
  spill   : Tbl Word := []
  vspill  : Tbl Row := []
  wait    : Wait := .none
  saved   : Option Snapshot := none
  /-- tract cycles before the next word may issue (R60, R171), and results that are not yet readable (R171) -/
  busy    : Nat := 0
  late    : List (RegName × Nat) := []
  /-- the issue cycles of the word at pc beyond its first have passed (R171) -/
  spent   : Bool := false
  /-- the word at pc passed its barrier's checks before it began to wait (R300) -/
  passed  : Bool := false
  /-- issued and unperformed accesses, oldest first, and the number of the next one -/
  pend    : List Access := []
  seq     : Nat := 0
  /-- strides to be added to x registers once the accesses that write them are performed (R52) -/
  owed    : Tbl Word := []
  /-- classes whose earlier accesses a fence still awaits (R269); 0 when none -/
  fence   : BitVec 16 := 0
  /-- handle results not yet written, with the tract cycles left (R313) -/
  hpend   : List (BitVec 4 × Handle × Nat) := []
  /-- the loop buffer: first byte and byte past it (R61); `fetching` while a fetch that missed it is under way -/
  lbuf    : Nat × Nat := (0, 0)
  fetching : Bool := false
  deriving DecidableEq, Repr, Inhabited

/-- An element of a queue register (R136), with the accesses its push releases (R139). -/
structure QElem where
  v   : Word := 0
  eng : Eng := .ap
  seq : Nat := 0
  /-- pushed in the present tract cycle, so it counts from the next one on (R137) -/
  new : Bool := false
  deriving DecidableEq, Repr, Inhabited

/-- A named barrier (R293): BCFG's fields, PH and ARR, and the number each arrival releases up to (R300). `start` holds
BCFG and BSTAT as they stood when the present tract cycle began, where either has changed in it, and `by_` the highest
engine class that acted in it, plus 1, or 4 for a `kn.end` (R297). -/
structure Barrier where
  en    : Bool := false
  own   : Bool := false
  scope : BitVec 3 := 0
  emask : BitVec 3 := 0
  ph    : Bool := false
  arr   : BitVec 3 := 0
  loc   : Bool := false
  rel   : Vector Nat 3 := Vector.replicate 3 0
  /-- the phase has completed and this core's release is still to come (R295) -/
  done  : Bool := false
  start : Option (Word × Word) := none
  by_   : Nat := 0
  deriving DecidableEq, Repr, Inhabited

/-- An arrival barrier (R249), and the releases its `ab.aret` words still owe (R253). -/
structure ArrBar where
  cfg : BitVec 32 := 0
  i   : BitVec 32 := 0
  l   : BitVec 32 := 0
  rel : List (Eng × Nat) := []
  deriving DecidableEq, Repr, Inhabited

/-- A row a drill has been admitted to push and its home bank has not yet performed (R251, R252). -/
structure DrillRow where
  drill : Nat := 0
  ab   : Nat := 0
  idx  : BitVec 32 := 0
  row  : Nat := 0
  data : Row := 0
  deriving DecidableEq, Repr, Inhabited

/-- A monitor armed at a bank (R233). -/
structure Monitor where
  row : Nat := 0
  off : Nat := 0
  op  : MonOp := .eq
  w   : BitVec 3 := 0
  v   : Word := 0
  d   : BitVec 5 := 0
  who : StreamId := {}
  win : Bool := false
  deriving DecidableEq, Repr, Inhabited

/-- What a copy moves (R256, R257): into local rows from main memory, out of them, or between scratchpads. -/
inductive CopyKind where
  | load  (pa0 : Word) (left : Nat) (pa1 : Word)
  | store (pa0 : Word) (left : Nat) (pa1 : Word)
  | move  (src : Word)
  | harrow (desc : Word)
  deriving DecidableEq, Repr, Inhabited

/-- A macro-operation in LDQ, STQ or CMQ or in flight (R254 to R258). For a harrow operation `tw` and `tw2` are W1 and
W2, `ts` and `ts2` are S1 and S2. -/
structure CopyOp where
  kind : CopyKind := .move 0
  srow : Nat := 0
  rows : Nat := 0
  tag  : Nat := 0
  fmt  : Nat := 0
  tw   : Bool := false
  tw2  : Bool := false
  ts   : Bool := false
  ts2  : Bool := false
  pc   : Nat := 0
  seq  : Nat := 0
  /-- number of the operation in its core; pages whose translation it took, as VPB and size code (R257, R317) -/
  id   : Nat := 0
  pages : List (Nat × Nat) := []
  /-- its completion is held by a full token FIFO (R258) -/
  held : Bool := false
  /-- while in flight: the BFMT words read at the pop, the source rows read with their scales, and the destination rows
  written -/
  bf   : BitVec 32 := 0
  sbf  : BitVec 32 := 0
  got  : List Row := []
  scs  : List (List (Nat × Nat)) := []
  done : Nat := 0
  deriving DecidableEq, Repr, Inhabited

/-- A table-interpolation command (R188). -/
structure InterpCmd where
  d    : BitVec 5 := 0
  src  : Row := 0
  desc : Word := 0
  fp32 : Bool := true
  seq  : Nat := 0
  /-- pushed before the stream diverted (R144) -/
  old  : Bool := false
  /-- rows of the table that the unit has read, by row of the scratchpad -/
  got  : Tbl Row := []
  deriving DecidableEq, Repr, Inhabited

/-- One bin of the harrow (R197): per cell 64·i + j the 64 signed counters (a cell not listed holds zeros), its depth
and its block tag. -/
structure Bin where
  cells : Tbl (List Int) := []
  depth : Nat := 0
  tag   : Option Nat := none
  deriving DecidableEq, Repr, Inhabited

/-- States of the harrow (R213). -/
inductive HState where
  | idle | running | stopped
  deriving DecidableEq, Repr, Inhabited

/-- Who armed an operator (R212, R213): a word at a pc, a CMQ operation, or an MXOP record. -/
inductive ArmBy where
  | word (pc : Nat)
  | cmq (op : CopyOp)
  | record (va : Word)
  deriving DecidableEq, Repr, Inhabited

/-- Where a running operator stands in its nest (R211): the level counters i0 to i5, the step number, the next
K-block, the bin being filled, whether that bin's drain is due, and whether the nest has run out; the next row of a
write-back under way, with its tile and its row offset. -/
structure HRun where
  idx  : List Nat := [0, 0, 0, 0, 0, 0]
  step : Nat := 0
  kb   : Nat := 0
  bin  : Nat := 0
  due  : Bool := false
  ended : Bool := false
  wb   : Option Nat := none
  wbTile : Nat := 0
  wbOff : Int := 0
  deriving DecidableEq, Repr, Inhabited

/-- The harrow (R197, R207, R213). -/
structure Harrow where
  shadow : Vector Word 12 := #v[0, 0, 0, 0, 0x3F800000, 0, 0x0001000000000000, 0x0001000000000000,
    0x0001000000000000, 0x0001000000000000, 0x0001000000000000, 0x0001000000000000]
  active : Vector Word 12 := #v[0, 0, 0, 0, 0x3F800000, 0, 0x0001000000000000, 0x0001000000000000,
    0x0001000000000000, 0x0001000000000000, 0x0001000000000000, 0x0001000000000000]
  armed  : Bool := false
  armBy  : ArmBy := .word 0
  state  : HState := .idle
  steps  : BitVec 32 := 0
  runBy  : ArmBy := .word 0
  run    : HRun := {}
  /-- BFMT words of A, B and the write-back bank, and the PERM index row, as read at swap-in (R35, R206) -/
  fmtA   : BitVec 32 := 0
  fmtB   : BitVec 32 := 0
  fmtW   : BitVec 32 := 0
  perm   : List Nat := []
  bin0   : Bin := {}
  bin1   : Bin := {}
  edgeA  : Tbl Nat := []
  edgeB  : Tbl Nat := []
  edep   : Nat := 0
  acc0   : Tbl (BitVec 32) := []
  acc1   : Tbl (BitVec 32) := []
  /-- rows read for the step under way of the operator, and for the mb word under way, by row of the scratchpad -/
  seen   : Tbl Row := []
  mbSeen : Tbl Row := []
  deriving DecidableEq, Repr, Inhabited

/-- A core (R11). -/
structure Core where
  /-- the kernel that holds the core, and the group coordinates it gives (R133, R289) -/
  kernel : Option Nat := none
  /-- the kernel that has left the core, while no other has started there (R282) -/
  last   : Option Nat := none
  gdie   : Nat := 0
  gclu   : Nat := 0
  gcor   : Nat := 0
  stg    : Nat := 0
  ap     : Stream := {}
  xp     : Stream := {}
  mx     : Stream := {}
  sp     : Mem := []
  q      : Vector (List QElem) 8 := Vector.replicate 8 []
  /-- elements popped in the present tract cycle, whose slots count from the next one on (R137) -/
  popped : Vector Nat 8 := Vector.replicate 8 0
  otap   : Word := 0
  /-- the highest engine class that wrote OTAP in the present tract cycle, plus 1 (R110) -/
  otapBy : Nat := 0
  bfmt   : Vector (BitVec 32) 32 := Vector.replicate 32 0
  bars   : Vector Barrier 32 := Vector.replicate 32 {}
  abs    : Vector ArrBar 16 := Vector.replicate 16 {}
  tags   : Vector Nat 64 := Vector.replicate 64 0
  tokens : Vector Nat 4 := Vector.replicate 4 0
  ldq    : List CopyOp := []
  stq    : List CopyOp := []
  cmq    : List CopyOp := []
  ldFly  : List CopyOp := []
  stFly  : List CopyOp := []
  cmFly  : List CopyOp := []
  nextOp : Nat := 0
  drillRows : List DrillRow := []
  monitors  : List Monitor := []
  interp : List InterpCmd := []
  harrow : Harrow := {}
  deriving DecidableEq, Repr, Inhabited

/-- Kernel states (R135). -/
inductive KState where
  | loaded | placed | starting | running | draining | saved | retired | faulted
  deriving DecidableEq, Repr, Inhabited

/-- A core of a group: physical number and group coordinates (R286). -/
structure Seat where
  pcn : Nat := 0
  die : Nat := 0
  clu : Nat := 0
  cor : Nat := 0
  stg : Nat := 0
  deriving DecidableEq, Repr, Inhabited

/-- A drain-stub entry (R96). -/
structure Stub where
  start : Nat := 0
  stop  : Nat := 0
  stub  : Nat := 0
  eng   : BitVec 3 := 0
  deriving DecidableEq, Repr, Inhabited

/-- The program header of a kernel (R93). -/
structure Header where
  entry    : Nat := 0
  streams  : BitVec 3 := 0
  xk       : Vector Nat 3 := Vector.replicate 3 0
  vm       : Nat := 0
  tkind    : Nat := 0
  tsrc     : Nat := 0
  tn       : Nat := 0
  tm       : Nat := 1
  thold    : Nat := 0
  pnum     : Nat := 0
  pden     : Nat := 0
  budget   : Nat := 0
  spill    : Vector Nat 3 := Vector.replicate 3 0
  spillv   : Nat := 0
  bankMask : BitVec 32 := 0
  bfmt     : Vector (BitVec 32) 32 := Vector.replicate 32 0
  stubs    : List Stub := []
  refresh  : List (Nat × Nat) := []
  deriving DecidableEq, Repr, Inhabited

/-- A COPY operator record (R336). -/
structure CopyRec where
  va     : Word := 0
  stride : Word := 0
  srow   : Nat := 0
  rows   : Nat := 0
  fmt    : Nat := 0
  out    : Bool := false
  recVa  : Word := 0
  /-- its place in its unit, for FOFF (R330) -/
  pos    : Nat := 0
  deriving DecidableEq, Repr, Inhabited

/-- A kernel fault's record (R142, R212, R245, R346). -/
structure FaultRec where
  cls   : Nat := 0
  code  : KFault := .illegal
  pcn   : Nat := 0
  eng   : Nat := 0
  whr   : Word := 0
  recVa : Word := 0
  /-- the drill of a drill fault (R245) -/
  drill : Option Nat := none
  detail : Nat := 0
  deriving DecidableEq, Repr, Inhabited

/-- Spill slots at or above the declared sizes at a save (R90): core record, engine, scalar and vector slots. -/
structure KeptSlots where
  idx    : Nat := 0
  eng    : Eng := .ap
  spill  : Tbl Word := []
  vspill : Tbl Row := []
  deriving DecidableEq, Repr, Inhabited

/-- Where the copy of a COPY record for one core stands (R337): source rows read in order, with the scales of their elements
where the source is block-scaled (R34), and destination rows written. -/
structure CopyAt where
  got  : List Row := []
  scs  : List (List (Nat × Nat)) := []
  done : Nat := 0
  deriving DecidableEq, Repr, Inhabited

/-- A kernel (R135). -/
structure Kernel where
  state   : KState := .loaded
  queue   : Nat := 0
  asid    : Nat := 0
  kid     : BitVec 16 := 0
  kidx    : Nat := 0
  gshp    : BitVec 32 := 0
  image   : Word := 0
  krec    : Word := 0
  krecPa  : Word := 0
  hdr     : Header := {}
  /-- the code image and row images as they stood when the kernel entered STARTING (R46, R132) -/
  code    : List Byte := []
  mxop    : Option (List Word) := none
  mxrec   : Word := 0
  mxLoaded : Bool := false
  copies  : List CopyRec := []
  /-- records named (R337), the (record, core) copies done, and those under way, numbered 512 × record + core -/
  named   : Nat := 0
  copied  : List (Nat × Nat) := []
  copying : Tbl CopyAt := []
  seats   : List Seat := []
  run     : Word := 0
  resume  : Bool := false
  preempt : Bool := false
  /-- a move by the helm (R383): one is under way; the tick since which the kernel has resided; the cluster that each
  seat leaves, for a kernel that is to be placed after a move; clusters it has left, each with the tick -/
  moving  : Bool := false
  since   : Word := 0
  from_   : List Nat := []
  left    : List (Nat × Word) := []
  released : Bool := true
  passed  : Nat := 0
  order   : Nat := 0
  /-- released to the placer by the host driver's answer (R386) -/
  granted : Bool := true
  /-- launched by a Sextant: its cluster, and 0 factor, 1 correction, 2 trap (R361) -/
  sx      : Option (Nat × Nat) := none
  fault   : Option FaultRec := none
  saveAt  : Option Word := none
  /-- cores whose save is taken (R146) -/
  saved   : List Nat := []
  /-- spill slots at or above the declared sizes as they stood at the save, by core record and engine (R90) -/
  kept    : List KeptSlots := []
  /-- the program header that the save it resumes from was taken under (R69, R147) -/
  was     : Option Header := none
  /-- drills the kernel has started, with PUSHED of each one's last run (R257) -/
  drills  : Tbl Nat := []
  locked  : Bool := false
  deriving DecidableEq, Repr, Inhabited

/-- Tract states (R111). -/
inductive TState where
  | free | locking | locked | coast | becalmed | slipped
  deriving DecidableEq, Repr, Inhabited

/-- Where a tract stands between two samples (R106, R110): inside one; past its last cycle; past a whole frame and
before frame cycle 0. -/
inductive Edge where
  | inside | taken | framed
  deriving DecidableEq, Repr, Inhabited

/-- Who asked for a lock (R105): a TRACT packet of a queue, or the launch of a kernel. -/
inductive LockBy where
  | packet (q : Nat)
  | kernel (k : Nat)
  deriving DecidableEq, Repr, Inhabited

/-- The binding a re-lock returns to when it fails (R113). -/
structure Binding where
  tctl  : Word := 0
  state : TState := .free
  rate  : Nat × Nat := (0, 1)
  deriving DecidableEq, Repr, Inhabited

/-- A tract (R104 to R116). -/
structure Tract where
  tctl   : Word := 0
  state  : TState := .free
  ceil   : Bool := false
  range  : Bool := false
  slip   : Bool := false
  stale  : Bool := false
  evt    : Bool := false
  /-- the latest interval of the source lay outside the lock range, or its rate above the ceiling (R114); a change of
  state fell in the present tract cycle, and the samples that slipped in it (R115) -/
  off    : Bool := false
  changed : Bool := false
  slipped : Nat := 0
  holdLeft : Nat := 0
  slipc  : BitVec 32 := 0
  fcyc   : Nat := 0
  sidx   : Nat := 0
  frames : Word := 0
  tap    : Word := 0
  tstamp : Word := 0
  tsnk   : BitVec 32 := 0
  edge   : Edge := .inside
  /-- samples that have arrived and stand before the next boundary, oldest first: stamp and value (R107) -/
  fresh  : List (Word × Word) := []
  /-- samples per second as locked, as a fraction (R105), and the stamp of the latest edge (R112) -/
  rate   : Nat × Nat := (0, 1)
  lastEdge : Word := 0
  acq    : List Word := []
  since  : Word := 0
  asker  : Option LockBy := none
  queue  : Option Nat := none
  asid   : Nat := 0
  old    : Option Binding := none
  relock : Option Word := none
  /-- the clock stands before frame cycle 0: restarting after COAST or LOCKING, or held by step 2 of R382 -/
  restart : Bool := false
  held   : Bool := false
  alternate : Bool := false
  /-- sixteen edges are back in COAST: the clock stops at the next frame boundary (R113) -/
  back   : Bool := false
  haSeq  : Option Nat := none
  deriving DecidableEq, Repr, Inhabited

/-- A pace source (R103): running, its rate in force and its declared rate in Hz, its start, the next sample's index. -/
structure Pace where
  on   : Bool := false
  num  : Nat := 0
  den  : Nat := 1
  dnum : Nat := 0
  dden : Nat := 1
  t0   : Word := 0
  j    : Nat := 0
  base : Nat := 0
  deriving DecidableEq, Repr, Inhabited

/-- A stile (R125 to R129). R129 gives the coefficient table c[φ][j] no reset value: it reads 0 before any `sti.coef`.
DESIGN CHOICE (assumption 13). -/
structure Stile where
  cfg    : BitVec 32 := 0
  /-- the context whose queue bound it (R339) -/
  asid   : Nat := 0
  state  : BitVec 2 := 0
  dropc  : BitVec 8 := 0
  rptc   : BitVec 8 := 0
  stale  : Bool := false
  ovf    : Bool := false
  drop   : Bool := false
  rpt    : Bool := false
  sto    : Word := 0
  /-- the latest HOLD or INTERP output, wherever it went (R129) -/
  last   : Word := 0
  /-- puts of the present source cycle, with who put each, the stamp and the number of the next access (R128) -/
  puts   : List (StreamId × Word × Word × Nat) := []
  /-- BOX messages oldest first, with whether a destination boundary has made each eligible, and who put it -/
  box    : List (Word × Bool × StreamId × Nat) := []
  /-- HOLD: the input waiting for the next boundary; whether an input came in this source sample -/
  slot   : Option Word := none
  put    : Bool := false
  /-- INTERP: history, newest first: stamp and INT32 value; coefficients by 16·φ + j -/
  hist   : List (Word × BitVec 32) := []
  coef   : Tbl (BitVec 16) := []
  deriving DecidableEq, Repr, Inhabited

/-- A sink port (R109, R110): SKCFG and what it has transmitted, newest first. -/
structure Sink where
  cfg : BitVec 32 := 0
  out : List Word := []
  deriving DecidableEq, Repr, Inhabited

/-- States of a drill (R246). -/
inductive DState where
  | idle | running | waiting | paused | faulted
  deriving DecidableEq, Repr, Inhabited

/-- Who owns a drill's run (R241). -/
inductive DOwner where
  | kernel (k : Nat) (pcn : Nat)
  | queue (q : Nat)
  deriving DecidableEq, Repr, Inhabited

/-- A start command (R242). -/
structure StartCmd where
  list  : Word := 0
  p     : Vector Word 4 := Vector.replicate 4 0
  owner : DOwner := .queue 0
  asid  : Nat := 0
  deriving DecidableEq, Repr, Inhabited

/-- A drill's read pattern (R244); `pos` is its position in bits from row 0. -/
structure Pattern where
  ws     : Bool := false
  mort   : Bool := false
  fmt    : Nat := 0
  ndm1   : Nat := 0
  base   : Word := 0
  counts : List Nat := [1, 1, 1, 1]
  strides : List Int := [0, 0, 0, 0]
  pos    : Nat := 0
  deriving DecidableEq, Repr, Inhabited

/-- What moves rows: PUSH, FILL or WSWRITE (R244). -/
inductive MoveKind where
  | push | fill | wswrite
  deriving DecidableEq, Repr, Inhabited

/-- A PUSH, FILL or WSWRITE under way (R244): its barrier and its first or only core; destination rows left, none for the
rest of the pattern; the weight-store offset of the next row; and, in plane form, the next row of the matrix, its rows,
the pattern position it began at, and the BFMT of the present K-block's first row. -/
structure Moving where
  kind : MoveKind := .push
  mc   : Bool := false
  pcn  : Nat := 0
  ab   : Nat := 0
  left : Option Nat := none
  off  : Nat := 0
  mrow : Nat := 0
  mtot : Nat := 0
  mpos : Nat := 0
  mbf  : BitVec 32 := 0
  deriving DecidableEq, Repr, Inhabited

/-- A drill (R240 to R246). -/
structure Drill where
  state  : DState := .idle
  fifo   : List StartCmd := []
  cmd    : StartCmd := {}
  /-- byte offset of the operation in the list -/
  at_    : Nat := 0
  loops  : List (Nat × Nat) := []
  pat    : Option Pattern := none
  conv   : Option (Nat × BitVec 16 × BitVec 32) := none
  push   : Option Moving := none
  /-- pattern rows read for the destination row, or the matrix in plane form, under way, by row of the pattern -/
  seen   : Tbl Row := []
  pushed : Nat := 0
  stop   : Bool := false
  deriving DecidableEq, Repr, Inhabited

/-- States of a queue (R330). -/
inductive QState where
  | disabled | idle | fetching | waiting | running | faulted | resetting
  deriving DecidableEq, Repr, Inhabited

/-- Outcomes of a LAUNCH (R346). -/
inductive Outcome3 where
  | retired | saved | faulted
  deriving DecidableEq, Repr, Inhabited

/-- A LAUNCH in progress (R336 to R338). -/
structure Launch where
  head  : Word := 0
  next  : Word := 0
  idx   : Nat := 0
  packet : Option (List (BitVec 32)) := none
  kernel : Option Nat := none
  sx    : Option Nat := none
  notify : Option Nat := none
  off   : Nat := 0
  lvl   : Nat := 0
  port  : Option Nat := none
  ended : Option Outcome3 := none
  pre   : Bool := false
  /-- the unit at `next` was saved and relaunches (R321, R338, R383) -/
  again : Bool := false
  deriving DecidableEq, Repr, Inhabited

/-- A posted DRILL that has not reached IDLE (R333): its drill, NOTIFY number and port, and its packet's place. -/
structure DrillJob where
  drill  : Nat := 0
  notify : Option Nat := none
  port   : Option Nat := none
  off    : Nat := 0
  lvl    : Nat := 0
  deriving DecidableEq, Repr, Inhabited

/-- A posted WSLOAD (R334). -/
structure WsLoad where
  va   : Word := 0
  die  : Nat := 0
  off  : Nat := 0
  rows : Nat := 0
  /-- it has begun, and the rows it has copied -/
  on   : Bool := false
  done : Nat := 0
  notify : Option Nat := none
  port : Option Nat := none
  /-- the packet's place, for a fault (R334) -/
  fof  : Nat := 0
  lvl  : Nat := 0
  deriving DecidableEq, Repr, Inhabited

/-- What a front-end access belongs to, for the place its fault names (R334): the packet at the queue's head, record i
of the LAUNCH's chain, or the WSLOAD at the head of those under way. -/
inductive FeFor where
  | packet
  | record (i : Nat)
  | wsload
  deriving DecidableEq, Repr, Inhabited

/-- An update of a notification block that has not been written (R309, R325, R346): whether its interrupt is sent at once, the
place of the packet that it reports, for LINK_ROUTE (R334), and, while the walk of its page stalls on a migration lock, when
that entry was first read so and when last. -/
structure NoteDue where
  urgent : Bool := false
  lvl    : Nat := 0
  off    : Nat := 0
  first  : Option Word := none
  again  : Word := 0
  deriving DecidableEq, Repr, Inhabited

/-- A hardware queue (R328 to R347): the read-only line and its capability tags, the mutable line, the notification
block's data, and the work in progress. -/
structure Queue where
  line   : Vector Word 8 := Vector.replicate 8 0
  /-- for each capability: which of its two words have been written since its tag was last cleared, and the tag -/
  wrote  : Vector (BitVec 2) 3 := Vector.replicate 3 0
  tagged : Vector Bool 3 := Vector.replicate 3 false
  state  : QState := .disabled
  rptr   : Nat := 0
  wptr   : Nat := 0
  foff   : Nat := 0
  fcode  : Option QFault := none
  flvl   : Nat := 0
  stack  : List (Nat × Nat) := []
  oper   : Word := 0
  pass   : Nat := 0
  eprio  : Nat := 0
  seq    : Word := 0
  done   : Word := 0
  tevc   : BitVec 16 := 0
  last   : BitVec 2 := 0
  chron  : Word := 0
  kcode  : BitVec 16 := 0
  feng   : Nat := 0
  fpcn   : Nat := 0
  whr    : Word := 0
  recVa  : Word := 0
  fchron : Word := 0
  /-- notified packets not yet counted in DONE, in packet order, with whether each has completed -/
  notes  : List (Nat × Bool) := []
  noteNo : Nat := 0
  timer  : Option Word := none
  sent   : Word := 0
  launch : Option Launch := none
  drills : List DrillJob := []
  wsl    : List WsLoad := []
  /-- a WAIT that did not hold, whether it began in host-assisted wake-up, and a doorbell or a RESUME since (R341, R385) -/
  wait   : Option (Word × Word) := none
  waitHa : Bool := false
  recheck : Bool := false
  /-- a BIND or RELOCK under way, or, with 64 added, the target queue of a RESET packet, and the packet's header -/
  lock   : Option (Nat × BitVec 32) := none
  /-- a command-port packet taken ahead of the ring, and the port it came from (R376) -/
  hand   : Option (List (BitVec 32) × Nat) := none
  fault? : Option (WalkCause × Word) := none
  /-- what the walk under way, or its fault, belongs to -/
  feFor  : FeFor := .packet
  /-- bytes that CLEAR passes over: the length of the faulting packet (R343) -/
  skip   : Nat := 0
  /-- the packet at the head has been performed, but for acknowledgements it still awaits (R357) and for the words, by
  address and value, that a WRITE has still to write (R334) -/
  performed : Bool := false
  writes : List (Nat × Nat) := []
  /-- an update of the notification block that is still to be written, and one whose write is not yet acknowledged: whether
  its interrupt is sent at once (R347, R357) -/
  noteDue : Option NoteDue := none
  irqDue : Option Bool := none
  /-- a reset under way (R343): agents that have still to acknowledge, and since when -/
  acks   : Option (List Nat) := none
  ackAt  : Word := 0
  /-- restored by RESTORE, it holds until its context's RESUME (R344) -/
  held   : Bool := false
  deriving DecidableEq, Repr, Inhabited

/-- States of a context (R319). -/
inductive CState where
  | free | live | suspended | precopy | stopcopy | faulted
  deriving DecidableEq, Repr, Inhabited

/-- An access that a memory-link agent holds (R325): the agent, and the flit that it came by from another package. -/
structure HeldAccess where
  agent : Nat := 0
  acc   : RemoteAccess
  flit  : Option (BitVec 256) := none
  deriving DecidableEq, Repr

/-- Who issues an access of main memory: a copy of a core, by its number; a drill; a queue's front end; its notification
block; a walk; a service pair, for a context; an agent that forwards an access of another party (R326), or the command
complex, which writes the records of contexts. -/
inductive Issuer where
  | copy (pcn id : Nat)
  | drill (n : Nat)
  | queue (q : Nat)
  | note (q : Nat)
  | walk (k : Nat)
  | svc (die asid : Nat)
  | agent
  deriving DecidableEq, Repr, Inhabited

/-- An access that has left its issuer, for another package or into an agent's hold, and is not yet used up (R325, R351,
R357): its ITAG, issuer, KIND and row; the answer that came back; the flit that it is forwarded for, and the context whose
backlog it belongs to (R326). -/
structure Remote where
  itag : BitVec 16 := 0
  who  : Issuer := .agent
  kind : Nat := 0
  addr : Nat := 0
  /-- the queue whose work it is, if it is a queue's (R282) -/
  queue : Option Nat := none
  back : Option Row := none
  orig : Option (BitVec 256) := none
  asid : Option Nat := none
  deriving DecidableEq, Repr, Inhabited

/-- A context's snapshot and device side (R319 to R327). -/
structure Context where
  state  : CState := .free
  root   : Word := 0
  save   : Word := 0
  savelen : Nat := 0
  part   : Nat := 0
  dirty  : Word := 0
  frames : List (Nat × Nat × Nat) := []
  commit : Bool := false
  dst    : Nat := 0
  /-- a SUSPEND, or the suspension of a STOPCOPY, is under way (R322); the whole-context shootdown that frees it (R321) -/
  pending : Bool := false
  stopAfter : Bool := false
  freeing : Bool := false
  held   : List HeldAccess := []
  /-- saved kernels: KID, address of the header, bytes -/
  saves  : List (Nat × Word × Nat) := []
  fcode  : BitVec 16 := 0
  finfo  : Word := 0
  deriving DecidableEq, Repr, Inhabited

/-- A leaf in a last-level TLB (R310). -/
structure TlbEntry where
  asid : Nat := 0
  vpb  : Nat := 0
  sz   : Nat := 0
  pa   : Word := 0
  wr   : Bool := false
  pin  : Bool := false
  deriving DecidableEq, Repr, Inhabited

/-- A walk that has not ended (R309): where it stands once it has left the root (the level of the entry to read and its
node); while it stalls on a migration lock, when it first read that entry so; and how it is done, by the walker or, with
the request's number while that is out, by the host driver (R310). -/
structure Walk where
  who   : Requester := .ap 0
  asid  : Nat := 0
  va    : Word := 0
  write : Bool := false
  node  : Option (Nat × Nat) := none
  first : Option Word := none
  ha    : Bool := false
  haSeq : Option Nat := none
  deriving DecidableEq, Repr, Inhabited

/-- A 32-byte logbook record (R387), less its SEQ. -/
structure LogRec where
  chron  : Word := 0
  detail : Word := 0
  cls    : Nat := 0
  index  : Nat := 0
  pcn    : BitVec 16 := 0xFFFF
  queue  : BitVec 16 := 0xFFFF
  deriving DecidableEq, Repr, Inhabited

/-- A die (R13): TLB, weight store and its refresh, logbook, service pair. -/
structure Die where
  tlb    : List TlbEntry := []
  /-- its walker's shootdown request (R317) -/
  sdva   : Word := 0
  sdctl  : Word := 0
  ws     : Mem := []
  /-- phase of a subarray where a kernel holds one, for the next period and in force (R238), and open windows -/
  phase  : Tbl Nat := []
  inForce : Tbl Nat := []
  /-- phases in force in the period before (R237) -/
  before  : Tbl Nat := []
  /-- the period that `inForce` belongs to -/
  period : Nat := 0
  window : List Nat := []
  wsBusy : Bool := false
  logs   : Tbl (Nat × LogRec) := []
  logSeq : Nat := 0
  frozen : Bool := false
  lost   : Word := 0
  pairOk : Bool := true
  inReset : Bool := false
  beat   : Word := 0
  deriving DecidableEq, Repr, Inhabited

/-- A Sextant (R360, R361). -/
structure Sextant where
  state : BitVec 3 := 0
  pass  : Nat := 0
  scnt  : Nat := 0
  fmt   : BitVec 4 := 0
  step  : Nat := 0
  exit  : BitVec 4 := 0
  prev  : Bool := false
  r     : BitVec 32 := 0
  p     : BitVec 32 := 0
  rep   : BitVec 32 := 0
  repd  : Bool := false
  /-- place in the order of one cycle's reports of the last report of the present tract cycle, plus 1 (R365) -/
  repBy : Nat := 0
  block : Word := 0
  words : List Word := []
  recs  : List (List Word) := []
  queue : Nat := 0
  rr    : Nat := 0
  /-- the queue whose unit it has accepted and not begun, and those that wait for it (R361) -/
  claim : Option Nat := none
  waits : List Nat := []
  /-- RESULT has been sent, and its write is not performed yet (R357, R364) -/
  fin   : Bool := false
  deriving DecidableEq, Repr, Inhabited

/-- States of a link (R353). -/
inductive LState where
  | down | training | align | up | degraded | faulted
  deriving DecidableEq, Repr, Inhabited

/-- An Ovtos link (R349 to R356). -/
structure Link where
  cfg    : BitVec 32 := 0
  state  : LState := .down
  peer   : BitVec 19 := 0
  replay : BitVec 8 := 0
  lanes  : BitVec 16 := 0
  errc   : BitVec 8 := 0
  xstr   : Bool := false
  aligned : Bool := false
  /-- the offset the latest exchange measured, and when that was (R101, R355) -/
  offset : Int := 0
  exchAt : Word := 0
  since  : Word := 0
  sent   : BitVec 16 := 0
  expect : BitVec 16 := 0
  /-- flits sent and unacknowledged, oldest first, with how often each has been replayed (R352) -/
  unacked : List (BitVec 256 × BitVec 512 × Nat) := []
  /-- samples that have entered the agent and are not yet presented: stamp and value (R102, R356) -/
  inbox  : List (Word × Word) := []
  crcs   : Nat := 0
  period : Word := 0
  /-- acknowledgements of received flits, by SEQ, newest first (R352) -/
  acks   : List (BitVec 16) := []
  deriving DecidableEq, Repr, Inhabited

/-- States of a TDISP interface (R369). -/
inductive VState where
  | unlocked | locked | run | error
  deriving DecidableEq, Repr, Inhabited

/-- A function of a host port (R368 to R372): of a virtual one its interface, whether its DMA and MSI-X are enabled, whether
its latest request was answered with the error response, and its latest report; of either its registers and its MSI-X table,
which a lock of a virtual one freezes. -/
structure Vf where
  state  : VState := .unlocked
  nonce  : BitVec 256 := 0
  dma    : Bool := true
  refused : Bool := false
  report : Option (List Word) := none
  bar0   : Word := 0
  bar2   : Word := 0
  bar4   : Word := 0
  command : BitVec 16 := 0
  msixControl : BitVec 16 := 0
  vectors : Tbl (BitVec 128) := []
  deriving DecidableEq, Repr, Inhabited

/-- A service core and its command port (R373, R375, R376); the trap registers of its RISC-V core (assumption 30). -/
structure Port where
  x      : Vector Word 32 := Vector.replicate 32 0
  pc     : Word := 0
  mepc   : Word := 0
  mcause : Word := 0
  mtval  : Word := 0
  mtvec  : Word := 0
  mstatus : Word := 0
  fifo   : List (Nat × BitVec 32) := []
  done   : BitVec 16 := 0
  fcode  : Option QFault := none
  inFlight : Nat := 0
  /-- stores of the core that are not performed yet, oldest first: address, bytes, value (R376) -/
  stores : List (Nat × Nat × Nat) := []
  deriving DecidableEq, Repr, Inhabited

/-- An unanswered service call (R153, R377) with the context of its kernel; `again` where a takeover reissues it (R374);
the extent that it works on once it has been dispatched (R378), and what of a FREAD's data its buffer has still to take, row by
row: address, bytes, value. -/
structure Scall where
  id   : Nat := 0
  who  : StreamId := {}
  asid : Nat := 0
  again : Bool := false
  ext  : Option Word := none
  kid  : BitVec 16 := 0
  svc  : BitVec 16 := 0
  tok  : BitVec 8 := 0
  arg  : Word := 0
  req  : Word := 0
  haSeq : Option Nat := none
  answer : Option Word := none
  writes : List (Nat × Nat × Nat) := []
  deriving DecidableEq, Repr, Inhabited

/-- A rail (R379, R381): the votes of the 64 partitions, the state in force, a raise under way, and the
state that a hold leads to with the tick it began. -/
structure Rail where
  votes : Tbl Nat := []
  now   : Nat := 7
  raise : Option Nat := none
  hold  : Option (Nat × Word) := none
  deriving DecidableEq, Repr, Inhabited

/-- A request of a host-assisted function (R386). -/
structure HaReq where
  seq   : Nat := 0
  func  : Nat := 0
  unit  : Nat := 0
  arg0  : Word := 0
  arg1  : Word := 0
  posted : Bool := false
  chron : Word := 0
  /-- the ring slot that its record took -/
  slot  : Nat := 0
  /-- what the answer goes to: a walk, a requester, a call, a tract, a link, a kernel, by the function -/
  key   : Nat := 0
  who   : Requester := .ap 0
  /-- its requester has gone, so that the answer goes nowhere -/
  stale : Bool := false
  deriving DecidableEq, Repr, Inhabited

/-- A host file extent (R378): revoked, the length it is cut to, the lengths it had before its cuts, each with the number of the
first call issued since, oldest first, and the bytes that FWRITE has put into it. -/
structure Extent where
  revoked : Bool := false
  length  : Option Nat := none
  was     : List (Nat × Option Nat) := []
  data    : Tbl Byte := []
  deriving DecidableEq, Repr, Inhabited

/-- The helm (R379 to R389). -/
structure Helm where
  mbcmd   : Word := 0
  mbdata  : Word := 0
  mode    : BitVec 10 := 0x3FF
  rails   : Vector Rail 4 := Vector.replicate 4 {}
  /-- microjoules, and the nanojoules beyond them (R384); the meters of the latest period, when it ended, and the all-zero
  sectors that the Ovtos links elided in it and have elided since -/
  energy  : Word := 0
  nano    : Nat := 0
  meter   : PowerMeter := { rails := [], service := 0, elided := 0, saved := 0, temps := [] }
  periodAt : Word := 0
  spared  : Nat := 0
  elided  : Nat := 0
  /-- protective steps in force, newest first; periods over the hard limit; periods below 90 %, and the tick of
  the latest undoing (R382) -/
  steps   : List (Nat × Nat) := []
  overHard : Nat := 0
  calm    : Nat := 0
  calmAt  : Word := 0
  pilot   : Option Nat := none
  ring    : Option (Nat × Word) := none
  haNext  : Nat := 0
  requests : List HaReq := []
  /-- slot of the ring's next record (R386) -/
  slot    : Nat := 0
  /-- flash: an image that is staged, the monotonic counter, and the running image (R388) -/
  staged  : Option (List Byte) := none
  counter : Nat := 0
  running : List Byte := []
  deriving DecidableEq, Repr, Inhabited

/-- A shootdown request that is served or waits its turn (R317): the die whose SDCTL asked for it, none for the
whole-context shootdown of R321. -/
structure Shoot where
  die  : Option Nat := none
  asid : Nat := 0
  lo   : Nat := 0
  hi   : Nat := 0
  /-- step 3 is done -/
  cut  : Bool := false
  deriving DecidableEq, Repr, Inhabited

/-- The state of one package. -/
structure State where
  /-- this package's identifier (R21) and the chronometer with the correction it still absorbs (R100) -/
  pkg     : BitVec 19 := 0
  chron   : Word := 0
  adjust  : Int := 0
  cores   : Tbl Core := []
  kernels : Tbl Kernel := []
  nextKernel : Nat := 0
  tracts  : Tbl Tract := []
  paces   : Tbl Pace := []
  spcfg   : Tbl (BitVec 32) := []
  sinks   : Tbl Sink := []
  stiles  : Tbl Stile := []
  drills  : Tbl Drill := []
  queues  : Tbl Queue := []
  rr      : Tbl Nat := []
  /-- a launch was accepted or cores were released since the latest placement pass (R289) -/
  passDue : Bool := false
  ctxs    : Tbl Context := []
  dies    : Tbl Die := []
  walks   : Tbl Walk := []
  nextWalk : Nat := 0
  sextants : Tbl Sextant := []
  links   : Tbl Link := []
  /-- accesses out, and the ITAG of the next (R351) -/
  remotes : List Remote := []
  nextTag : BitVec 16 := 0
  /-- flits that no link carries yet, oldest first, and requests that this package has taken as their home, newest first and
  less their SEQ, which a neighbour may replay over another link (R350, R352) -/
  parked  : List (BitVec 256 × Row) := []
  heard   : List (BitVec 256) := []
  vfs     : Tbl Vf := []
  ports   : Tbl Port := []
  scalls  : List Scall := []
  nextScall : Nat := 0
  extents : Tbl Extent := []
  helm    : Helm := {}
  /-- main memory by device-global physical address (R306), and bytes fitted on each memory link (R306) -/
  mem     : Mem := []
  fitted  : Tbl Nat := []
  /-- what the package has written into the memory of physical function 0, by bus address with 2^64 times the port (R386) -/
  host    : Mem := []
  qctl    : Word := 0
  /-- the kernel that a PREEMPT under way waits for (R344) -/
  qctlK   : Option Nat := none
  cxcmd   : Word := 0
  /-- the command in CXCMD waits for a record that a STOPCOPY holds, and words of records that wait for their agents (R325) -/
  cxWait  : Bool := false
  recs    : List (Nat × Nat) := []
  ctxtab  : Word := 0
  qimg    : Vector Word 8 := Vector.replicate 8 0
  /-- shootdown requests in the order of their GO bits, the first under way (R317) -/
  shoots  : List Shoot := []
  /-- interrupts sent, newest first: host port, function (0 the physical one), vector -/
  intr    : List (Nat × Nat × Nat) := []
  /-- the stream whose word is issuing, or the port whose core executes -/
  cur     : StreamId := {}
  port    : Nat := 0
  /-- the model's own: turns still to take, and the counter its free values are read at (assumptions 1, 2) -/
  agenda  : List Turn := []
  freeCtr : Nat := 0
  deriving DecidableEq, Repr, Inhabited

/-- The machine right after reset (R4): every field at its reset value. -/
def State.reset : State := {}

/-- Why a step stops for good. -/
inductive Fault where
  /-- Raised by `step` for a turn of a stream, cluster or service core that no part has (R8, R13). Safe: no part of
  the machine is addressed. -/
  | noSuchUnit (n : Nat)
  deriving DecidableEq, Repr, Inhabited

/-- Why an instruction has no meaning. -/
inductive Refusal where
  /-- Raised by `exec` for a row of the opcode table whose meaning is not written yet. Safe: the machine stops. -/
  | notModelled (mnemonic : String)
  deriving DecidableEq, Repr, Inhabited

end Sys2Proof.Machine
end

