-- ==== Sys2Proof/Machine/Translate.lean ====
section
/-! DEFINITION. Machine/Translate.lean: the package's tables, main memory and its migrated frames (R306, R324 to R326),
routes over the Ovtos links (R350), requests of the host-assist ring (R386), and the last-level TLBs
(R310). -/

namespace Sys2Proof.Machine

/-! ### Units by number -/

def State.core (s : State) (n : Nat) : Core := s.cores.get {} n
def State.setCore (s : State) (n : Nat) (c : Core) : State := { s with cores := s.cores.set n c }
def State.modCore (s : State) (n : Nat) (f : Core → Core) : State := s.setCore n (f (s.core n))
def State.kernel (s : State) (n : Nat) : Kernel := s.kernels.get {} n
def State.setKernel (s : State) (n : Nat) (k : Kernel) : State := { s with kernels := s.kernels.set n k }
def State.modKernel (s : State) (n : Nat) (f : Kernel → Kernel) : State := s.setKernel n (f (s.kernel n))
def State.tract (s : State) (n : Nat) : Tract := s.tracts.get {} n
def State.setTract (s : State) (n : Nat) (t : Tract) : State := { s with tracts := s.tracts.set n t }
def State.modTract (s : State) (n : Nat) (f : Tract → Tract) : State := s.setTract n (f (s.tract n))
def State.pace (s : State) (n : Nat) : Pace := s.paces.get {} n
def State.setPace (s : State) (n : Nat) (p : Pace) : State := { s with paces := s.paces.set n p }
def State.sink (s : State) (n : Nat) : Sink := s.sinks.get {} n
def State.setSink (s : State) (n : Nat) (p : Sink) : State := { s with sinks := s.sinks.set n p }
def State.stile (s : State) (n : Nat) : Stile := s.stiles.get {} n
def State.setStile (s : State) (n : Nat) (p : Stile) : State := { s with stiles := s.stiles.set n p }
def State.drill (s : State) (n : Nat) : Drill := s.drills.get {} n
def State.setDrill (s : State) (n : Nat) (p : Drill) : State := { s with drills := s.drills.set n p }
def State.queue (s : State) (n : Nat) : Queue := s.queues.get {} n
def State.setQueue (s : State) (n : Nat) (p : Queue) : State := { s with queues := s.queues.set n p }
def State.modQueue (s : State) (n : Nat) (f : Queue → Queue) : State := s.setQueue n (f (s.queue n))
def State.ctx (s : State) (n : Nat) : Context := s.ctxs.get {} n
def State.setCtx (s : State) (n : Nat) (p : Context) : State := { s with ctxs := s.ctxs.set n p }
def State.die (s : State) (n : Nat) : Die := s.dies.get {} n
def State.setDie (s : State) (n : Nat) (p : Die) : State := { s with dies := s.dies.set n p }
def State.modDie (s : State) (n : Nat) (f : Die → Die) : State := s.setDie n (f (s.die n))
def State.sextant (s : State) (n : Nat) : Sextant := s.sextants.get {} n
def State.setSextant (s : State) (n : Nat) (p : Sextant) : State := { s with sextants := s.sextants.set n p }
def State.link (s : State) (n : Nat) : Link := s.links.get {} n
def State.setLink (s : State) (n : Nat) (p : Link) : State := { s with links := s.links.set n p }
def State.vf (s : State) (n : Nat) : Vf := s.vfs.get {} n
def State.setVf (s : State) (n : Nat) (p : Vf) : State := { s with vfs := s.vfs.set n p }
def State.svc (s : State) (n : Nat) : Port := s.ports.get {} n
def State.setSvc (s : State) (n : Nat) (p : Port) : State := { s with ports := s.ports.set n p }

/-- Bits [hi:lo] of a word as a number (R1). -/
def bits (w : Word) (hi lo : Nat) : Nat := w.toNat / 2 ^ lo % 2 ^ (hi + 1 - lo)
/-- One bit of a word (R1). -/
def bit (w : Word) (n : Nat) : Bool := w.toNat / 2 ^ n % 2 = 1
/-- A 64-bit word from a number. -/
def word (n : Nat) : Word := BitVec.ofNat 64 n
/-- 1 for true, 0 for false. -/
def num (b : Bool) : Nat := if b then 1 else 0
/-- A signed 64-bit value. -/
def sword (v : Int) : Word := BitVec.ofInt 64 v

/-! ### Interrupts and the host-assist ring -/

/-- An interrupt vector sent on a host port for a function (R347, R374, R386). -/
def State.interrupt (s : State) (port fn vec : Nat) : State := { s with intr := (port, fn, vec) :: s.intr }

/-- Is a function host-assisted (R385)? -/
def State.assisted (s : State) (fn : Nat) : Bool := s.helm.mode.getLsbD fn

/-- The 32 bytes of a request's record (R386). -/
def HaReq.record (r : HaReq) : Nat :=
  r.unit % 2 ^ 16 + 2 ^ 16 * (r.func % 2 ^ 16) + 2 ^ 32 * (r.seq % 2 ^ 32)
    + 2 ^ 64 * (r.chron.toNat + 2 ^ 64 * (r.arg0.toNat + 2 ^ 64 * r.arg1.toNat))

/-- A request is posted in the ring's next slot, and vector 1 is sent (R386). -/
def State.haPost (s : State) (port : Nat) (base : Word) (r : HaReq) : State :=
  let r := { r with posted := true, chron := s.chron, slot := s.helm.slot }
  { s with
    helm := { s.helm with slot := (s.helm.slot + 1) % Config.haRing }
    host := Mem.setNum s.host (2 ^ 64 * port + base.toNat + 32 * r.slot) r.record 32 }.interrupt port 0 1

/-- Posts held requests in order while the ring has room (R386): the next slot holds no unanswered request; a THERM awaits no
answer once it is posted. DESIGN CHOICE (assumption 112). -/
def State.haFlush (s : State) : List HaReq → List HaReq → State
  | done, [] => { s with helm := { s.helm with requests := done.reverse } }
  | done, r :: rest =>
    match s.helm.ring with
    | none => { s with helm := { s.helm with requests := done.reverse ++ r :: rest } }
    | some (port, base) =>
      if r.posted then State.haFlush s (r :: done) rest
      else if (done ++ rest).any (fun t => t.posted && t.slot = s.helm.slot) then
        { s with helm := { s.helm with requests := done.reverse ++ r :: rest } }
      else
        State.haFlush (s.haPost port base r) (if r.func = 4 then done
          else { r with posted := true, chron := s.chron, slot := s.helm.slot } :: done) rest

/-- A request of a host-assisted function (R386): its sequence number is the helm's next. -/
def State.haRequest (s : State) (fn unit : Nat) (arg0 arg1 : Word) (key : Nat) (who : Requester) : State :=
  let r : HaReq := { seq := s.helm.haNext, func := fn, unit := unit, arg0 := arg0, arg1 := arg1, key := key, who := who }
  let s' := { s with helm := { s.helm with haNext := (s.helm.haNext + 1) % 2 ^ 32 } }
  s'.haFlush [] (s.helm.requests ++ [r])

/-- The sequence number that the next request takes. -/
def State.haSeq (s : State) : Nat := s.helm.haNext

/-! ### Routes over the links -/

/-- What the route to a package finds (R350): a link, one that is not ready yet, or none. -/
inductive Route where
  | here
  | via (l : Nat)
  | wait (l : Nat)
  | none
  deriving DecidableEq, Repr, Inhabited

/-- The dimension and direction (`true` plus) in which the route from one package to another leaves (R350). -/
def routeDir (own dst : BitVec 19) : Option (Nat × Bool) :=
  let way (a b n : Nat) : Bool := decide (2 * ((b + n - a) % n) ≤ n)
  let x := own.toNat % 64
  let x' := dst.toNat % 64
  let y := own.toNat / 64 % 64
  let y' := dst.toNat / 64 % 64
  let z := own.toNat / 4096
  let z' := dst.toNat / 4096
  if x ≠ x' then some (0, way x x' 64)
  else if y ≠ y' then some (1, way y y' 64)
  else if z ≠ z' then some (2, way z z' 128)
  else none

/-- The links to try, in order: the even or odd sibling by LPA[6], its sibling, then the other way round (R350). -/
def routeLinks (d : Nat) (plus odd : Bool) : List Nat :=
  let base := 4 * d + (if plus then 0 else 2)
  let back := 4 * d + (if plus then 2 else 0)
  let o := num odd
  [base + o, base + (1 - o), back + o, back + (1 - o)]

/-- The route of an access to a package (R350); `up` for a page-table walk, which reads only over links in UP. -/
def State.route (s : State) (dst : BitVec 19) (odd up : Bool) : Route :=
  match routeDir s.pkg dst with
  | none => .here
  | some (d, plus) =>
    let usable (l : Nat) : Bool :=
      if up then (s.link l).state = .up else (s.link l).state != .down && (s.link l).state != .faulted
    match (routeLinks d plus odd).find? usable with
    | none => .none
    | some l => if (s.link l).state = .up ∨ (s.link l).state = .degraded then .via l else .wait l

/-- The package of a physical address and bit 6 of its LPA (R306, R350). -/
def paPkg (pa : Nat) : BitVec 19 := BitVec.ofNat 19 (pa / 2 ^ 45)
def paOdd (pa : Nat) : Bool := pa / 64 % 2 = 1

/-- Does an address reach memory (R306)? Bytes fitted on another package's modules are taken as the largest.
DESIGN CHOICE (assumption 12). -/
def State.reaches (s : State) (pa : Nat) : Bool :=
  pa / 2 ^ 44 % 2 = 0 && pa < 2 ^ 64 &&
    (if paPkg pa = s.pkg then pa % 2 ^ 39 < s.fitted.get (2 ^ 39) (pa / 2 ^ 39 % 32) else true)

/-! ### Main memory and migrated frames -/

/-- Bytes of a page or frame of a size code (R311). -/
def pageBytes (sz : Nat) : Nat := #[2 ^ 16, 2 ^ 21, 2 ^ 26, 2 ^ 31].getD sz (2 ^ 16)

/-- The offset of an address in a listed old frame, with the new frame's address. -/
def frameHit (pa : Nat) : List (Nat × Nat × Nat) → Option (Nat × Nat)
  | [] => none
  | (old, new, sz) :: r => if old ≤ pa ∧ pa < old + pageBytes sz then some (new, pa - old) else frameHit pa r

/-- Where an access to an address is performed (R325, R326): none while a STOPCOPY holds it. -/
def placeIn (pa : Nat) : Tbl Context → Option Nat
  | [] => some pa
  | (_, c) :: r =>
    if c.state = .stopcopy then
      match frameHit pa c.frames with
      | none => placeIn pa r
      | some (new, off) => if c.commit then some (new + off) else none
    else placeIn pa r

def State.place (s : State) (pa : Nat) : Option Nat := placeIn pa s.ctxs

/-- The bitmap bits that a write to an address sets (R324): one for each context in PRECOPY that lists its frame. -/
def dirtyMark (pa : Nat) : Tbl Context → Mem → Mem
  | [], m => m
  | (_, c) :: r, m =>
    if c.state = .precopy ∧ c.dirty ≠ 0 ∧ (frameHit pa c.frames).isSome then
      let b := pa % 2 ^ 44 / 2 ^ 16
      let a := c.dirty.toNat + b / 8
      dirtyMark pa r (Mem.setByte m a (Mem.byte m a ||| BitVec.ofNat 8 (2 ^ (b % 8))))
    else dirtyMark pa r m

/-- The little-endian number in n bytes of main memory; none while the access is held (R325). -/
def State.load (s : State) (pa n : Nat) : Option Nat := (s.place pa).map (fun p => Mem.num s.mem p n)

/-- n bytes of main memory written; none while the access is held (R324, R325). -/
def State.store (s : State) (pa n v : Nat) : Option State :=
  (s.place pa).map (fun p => { s with mem := dirtyMark pa s.ctxs (Mem.setNum s.mem p v n) })

/-! ### The last-level TLB -/

/-- Does a leaf map an address (R310)? -/
def TlbEntry.maps (e : TlbEntry) (asid va : Nat) : Bool :=
  e.asid = asid && e.vpb * 2 ^ 16 ≤ va && va < e.vpb * 2 ^ 16 + pageBytes e.sz

/-- A hit in a die's TLB (R310). -/
def State.tlbHit (s : State) (die asid va : Nat) : Option TlbEntry := (s.die die).tlb.find? (fun e => e.maps asid va)

/-- A completed walk's leaf enters the TLB; which entry a full TLB gives up is a free value (R310, assumption 20). -/
def State.tlbFill (s : State) (die : Nat) (e : TlbEntry) : State :=
  let d := s.die die
  let d := { d with tlb := d.tlb.filter (fun o => !(o.asid = e.asid && o.vpb = e.vpb && o.sz = e.sz)) }
  if d.tlb.length < Config.tlbEntries then s.setDie die { d with tlb := d.tlb ++ [e] }
  else
    let s := s.setDie die { d with tlb := d.tlb.set (Config.freeVictim s.freeCtr % Config.tlbEntries) e }
    { s with freeCtr := s.freeCtr + 1 }

/-- The physical address an entry gives for an address it maps. -/
def TlbEntry.phys (e : TlbEntry) (va : Nat) : Nat := e.pa.toNat + (va - e.vpb * 2 ^ 16)

/-- The die whose walker serves a requester: a core's die, a drill's, or the die of the queue's command complex. -/
def servingDie : Requester → Nat
  | .ap pcn => pcn / 128
  | .drill n => n / 24
  | .queue q => q / 1024

/-- A requester's walk ends without effect. -/
def State.endWalk (s : State) (who : Requester) : State := { s with walks := s.walks.filter (fun p => p.2.who != who) }

/-- A walk begins for a requester, in place of one that it no longer waits for; in host-assisted mode the driver is asked
(R310, R386). -/
def State.startWalk (s : State) (who : Requester) (asid : Nat) (va : Nat) (write : Bool) : State :=
  if s.walks.any (fun p => p.2.who = who && p.2.asid = asid && p.2.va = word va && p.2.write = write) then s
  else
    let s := s.endWalk who
    let ha := s.assisted 0
    let w : Walk := { who := who, asid := asid, va := word va, write := write,
                      ha := ha, haSeq := if ha then some s.haSeq else none }
    let s' := { s with walks := s.walks.set s.nextWalk w, nextWalk := s.nextWalk + 1 }
    if ha then s'.haRequest 0 (servingDie who) (word va) (word asid) s.nextWalk who else s'

/-- A requester goes: its walk ends without effect, and no answer to its fault reaches what comes after it. -/
def State.dismiss (s : State) (who : Requester) : State :=
  { s.endWalk who with
    helm := { s.helm with requests := s.helm.requests.map (fun r =>
      if r.func = 1 ∧ r.who = who then { r with stale := true } else r) } }

/-- The number of a walk's cause in a request for fault service (assumption 31). -/
def WalkCause.num : WalkCause → Nat
  | .absent => 0 | .write => 1 | .nodeAbsent => 2 | .format => 3 | .migrating => 4 | .remote => 5

/-- A request for fault service in host-assisted mode (R314, R386). -/
def State.askService (s : State) (who : Requester) (asid : Nat) (cause : WalkCause) (va : Nat) : State :=
  if s.assisted 1 then
    s.haRequest 1 (servingDie who) (word va) (word (asid + 2 ^ 16 * cause.num)) 0 who
  else s

end Sys2Proof.Machine
end

