-- ==== Sys2Proof/Machine/Remote.lean ====
section
/-! DEFINITION. Machine/Remote.lean: accesses of main memory by their issuers: performed in this package, held by a
memory-link agent (R325), or sent to another package as flits (R350, R351, R357); and the page-table walk (R307 to R309). -/

namespace Sys2Proof.Machine

/-! ### Flits (R351) -/

/-- Fields of a header flit. -/
def flitAddr (f : BitVec 256) : Nat := (f.extractLsb' 192 64).toNat
def flitSrc (f : BitVec 256) : BitVec 19 := f.extractLsb' 173 19
def flitDst (f : BitVec 256) : BitVec 19 := f.extractLsb' 154 19
def flitAsid (f : BitVec 256) : Nat := (f.extractLsb' 138 16).toNat
def flitSeq (f : BitVec 256) : BitVec 16 := f.extractLsb' 122 16
def flitTag (f : BitVec 256) : BitVec 16 := f.extractLsb' 106 16
def flitKind (f : BitVec 256) : Nat := (f.extractLsb' 102 4).toNat
def flitPay (f : BitVec 256) : Word := f.extractLsb' 0 64

/-- A header flit of its fields, SEQ 0. -/
def headFlit (addr : Nat) (src dst : BitVec 19) (asid : Nat) (tag : BitVec 16) (kind : Nat) (pay : Word) : BitVec 256 :=
  BitVec.ofNat 256 (addr * 2 ^ 192 + src.toNat * 2 ^ 173 + dst.toNat * 2 ^ 154 + asid % 2 ^ 16 * 2 ^ 138
    + tag.toNat * 2 ^ 106 + kind * 2 ^ 102 + pay.toNat)

/-- A flit under another sequence number. -/
def withSeq (f : BitVec 256) (q : BitVec 16) : BitVec 256 :=
  BitVec.ofNat 256 (f.toNat / 2 ^ 138 * 2 ^ 138 + q.toNat * 2 ^ 122 + f.toNat % 2 ^ 122)

/-- The answer or acknowledgement of a request: its ADDR, ASID and ITAG, SRC and DST exchanged, PAY 0. -/
def answerFlit (own : BitVec 19) (f : BitVec 256) (kind : Nat) : BitVec 256 :=
  headFlit (flitAddr f) own (flitSrc f) (flitAsid f) (flitTag f) kind 0

/-- All-zero 32-byte sectors of the data that a flit's KIND carries, which are elided (R351): two sectors follow a row write
and an answer, one an atomic. -/
def elidedOf (kind : Nat) (data : Row) : Nat :=
  let zero (k : Nat) : Nat := if data.extractLsb' (256 * k) 256 = 0 then 1 else 0
  if kind = 1 ∨ kind = 4 then zero 0 + zero 1 else if kind = 2 then zero 0 else 0

/-- The marks of the sectors that a flit elides, in bits 64 and 65 of its PAY, above the 64 bits that a KIND uses; R351 gives
them no place. DESIGN CHOICE (assumption 25). -/
def elidedMarks (kind : Nat) (data : Row) : Nat :=
  let zero (k : Nat) : Nat := if data.extractLsb' (256 * k) 256 = 0 then 2 ^ (64 + k) else 0
  if kind = 1 ∨ kind = 4 then zero 0 + zero 1 else if kind = 2 then zero 0 else 0
def markFlit (f : BitVec 256) (data : Row) : BitVec 256 := f ||| BitVec.ofNat 256 (elidedMarks (flitKind f) data)

/-- The data of a flit as it was before its marked sectors were elided (R351). -/
def unelide (f : BitVec 256) (data : Row) : Row :=
  let sector (k : Nat) : Row := if f.getLsbD (64 + k) then 0 else (data.extractLsb' (256 * k) 256).setWidth 512 <<< (256 * k)
  if flitKind f = 1 ∨ flitKind f = 2 ∨ flitKind f = 4 then sector 0 ||| sector 1 else data

/-- A flit is sent on a link, which keeps it until it is acknowledged (R352); the energy meter credits what it elides
(R384). -/
def State.sendOn (s : State) (l : Nat) (f : BitVec 256) (data : Row) : State :=
  let L := s.link l
  { s with helm := { s.helm with elided := s.helm.elided + elidedOf (flitKind f) data } }.setLink l { L with
    unacked := L.unacked ++ [(withSeq (markFlit f data) L.sent, data, 0)], sent := L.sent + 1 }

/-- A flit reads an entry for a walk of this package, which goes only over links in UP (R309, R350). -/
def State.walkFlit (s : State) (f : BitVec 256) : Bool :=
  flitSrc f = s.pkg && flitKind f = 0 && s.remotes.any (fun r => r.itag = flitTag f && (match r.who with
    | .walk _ => true
    | .note _ => true
    | _ => false))

/-- The route of a flit (R350). -/
def State.flitRoute (s : State) (f : BitVec 256) : Route := s.route (flitDst f) (paOdd (flitAddr f)) (s.walkFlit f)

/-- A flit leaves for its destination by the route of its address (R350). One that finds no link that carries, because its
link still trains or because none is usable now, waits for one. DEDUCED (assumption 82). -/
def State.sendTo (s : State) (f : BitVec 256) (data : Row) : State :=
  match s.flitRoute f with
  | .via l => s.sendOn l f data
  | .here => s
  | _ => { s with parked := s.parked ++ [(f, data)] }

/-- Flits that wait for a link go as soon as one carries, in their order (R350, R352). -/
def State.unpark (s : State) : State :=
  s.parked.foldl (fun s p => s.sendTo p.1 p.2) { s with parked := [] }

/-! ### Agents that hold (R325) -/

/-- The memory-link agent of an address (R306). -/
def memLink (a : Nat) : Nat := a / 2 ^ 39 % 32

/-- Accesses that an agent holds. -/
def State.holds (s : State) (agent : Nat) : Nat :=
  s.ctxs.foldl (fun n (p : Nat × Context) => n + (p.2.held.filter (fun h => h.agent = agent)).length) 0

/-- The agent of an address of this package is full: it takes no traffic (R325). -/
def State.agentFull (s : State) (pa : Nat) : Bool :=
  paPkg pa = s.pkg && s.ctxs.any (fun p => !p.2.held.isEmpty) && decide (Config.holdSlots ≤ s.holds (memLink pa))

/-- The context whose STOPCOPY holds an address. -/
def State.holder (s : State) (a : Nat) : Option Nat :=
  (List.find? (fun (p : Nat × Context) =>
    p.2.state = .stopcopy && !p.2.commit && (frameHit a p.2.frames).isSome) s.ctxs).map (·.1)

/-- An access into a frame of a context in STOPCOPY is held, behind those held before it (R325). -/
def State.hold (s : State) (asid : Nat) (h : HeldAccess) : State :=
  let c := s.ctx asid
  s.setCtx asid { c with held := c.held ++ [h] }

/-! ### Requests of this package -/

/-- The request that a flit makes at its home (R351): a signal adds its PAY, an atomic the low word of its data; the bytes
that a write of part of a row leaves are settled at its home. DEDUCED (assumption 27). -/
def flitAccess (f : BitVec 256) (data : Row) : RemoteAccess :=
  { addr := flitAddr f
    op := match flitKind f with
      | 0 => .readRow
      | 1 => .writeRow data
      | 3 => .atomicAdd (flitPay f)
      | _ => .atomicAdd (data.setWidth 64) }

/-- The context on whose behalf an issuer accesses memory. -/
def State.issuerAsid (s : State) : Issuer → Nat
  | .copy pcn _ => ((s.core pcn).kernel.map (fun k => (s.kernel k).asid)).getD 0
  | .drill n => (s.drill n).cmd.asid
  | .queue q | .note q => bits ((s.queue q).line.toList.getD 6 0) 31 16
  | .walk k => (s.walks.get {} k).asid
  | .svc _ a => a
  | .agent => 0

/-- The queue on whose behalf an issuer accesses memory (R282). -/
def State.issuerQueue (s : State) : Issuer → Option Nat
  | .copy pcn _ => (s.core pcn).kernel.map (fun k => (s.kernel k).queue)
  | .drill n => some (match (s.drill n).cmd.owner with
    | .queue q => q
    | .kernel k _ => (s.kernel k).queue)
  | .queue q | .note q => some q
  | .walk _ | .svc _ _ | .agent => none

/-- The address of the row of a byte. -/
def rowAt (pa : Nat) : Nat := pa / 64 * 64

/-- An access leaves its issuer: into the hold of its agent, or to the package that its address names.
DESIGN CHOICE (assumption 25). -/
def State.request (s : State) (who : Issuer) (kind addr : Nat) (pay : Word) (data : Row) : State :=
  let pa := (s.place addr).getD addr
  let f := headFlit pa s.pkg (paPkg pa) (s.issuerAsid who) s.nextTag kind pay
  let r : Remote := { itag := s.nextTag, who := who, kind := kind, addr := rowAt addr, queue := s.issuerQueue who }
  let s := { s with remotes := s.remotes ++ [r], nextTag := s.nextTag + 1 }
  match s.holder addr with
  | some asid => s.hold asid { agent := memLink addr, acc := flitAccess f data, flit := some f }
  | none => s.sendTo f data

/-- The read that an issuer has out for a row. -/
def State.readOut (s : State) (who : Issuer) (row : Nat) : Option Remote :=
  s.remotes.find? (fun r => r.who = who && r.kind = 0 && r.addr = row)

/-- n bytes within a row, as an issuer reads them: from this package's memory, or from the answer that has come back to it;
none while it waits. -/
def State.loadFor (s : State) (who : Issuer) (pa n : Nat) : Option Nat :=
  match s.readOut who (rowAt pa) with
  | some r => r.back.map (fun row => row.toNat / 2 ^ (8 * (pa % 64)) % 2 ^ (8 * n))
  | none =>
    match s.place pa with
    | none => none
    | some p => if paPkg p = s.pkg ∧ !(s.agentFull p) then some (Mem.num s.mem p n) else none

/-- The state in which an issuer waits for a row that it cannot read yet: its request is out. -/
def State.awaitLoad (s : State) (who : Issuer) (pa : Nat) : State :=
  if (s.readOut who (rowAt pa)).isSome ∨ s.agentFull pa then s else s.request who 0 (rowAt pa) 0 0

/-- n bytes within a row read by an issuer; else the state in which it waits. -/
def State.read (s : State) (who : Issuer) (pa n : Nat) : Except State Nat :=
  match s.loadFor who pa n with
  | some v => .ok v
  | none => .error (s.awaitLoad who pa)

/-- An issuer has used the rows it read; what it reads next it reads anew. -/
def State.forget (s : State) (who : Issuer) : State :=
  { s with remotes := s.remotes.filter (fun r => r.who != who || r.kind != 0) }

/-- A drill has passed what it read: it reads anew, and waits for no walk. -/
def State.drillPast (s : State) (n : Nat) : State := (s.forget (.drill n)).endWalk (.drill n)

/-- A write or signal of an issuer is not yet acknowledged (R357). -/
def State.owing (s : State) (who : Issuer) : Bool := s.remotes.any (fun r => r.who = who && r.kind != 0)

/-- The bytes of a row that n bytes from an offset are, as a mask for a write of part of it (assumption 25). -/
def byteMask (off n : Nat) : Word := if n = 64 then 0 else word ((2 ^ n - 1) * 2 ^ off)

/-- n bytes within a row written by an issuer: here, or by a request that owes its acknowledgement (R324 to R326,
R357). -/
def State.put (s : State) (who : Issuer) (pa n v : Nat) : State :=
  match s.place pa with
  | some p =>
    if paPkg p = s.pkg then (s.store pa n v).getD s
    else s.request who 1 (rowAt pa) (byteMask (pa % 64) n) (BitVec.ofNat 512 (v % 2 ^ (8 * n) * 2 ^ (8 * (pa % 64))))
  | none => s.request who 1 (rowAt pa) (byteMask (pa % 64) n) (BitVec.ofNat 512 (v % 2 ^ (8 * n) * 2 ^ (8 * (pa % 64))))

/-- A signal of an issuer: a 64-bit word of memory takes an addend, here or at its home (R334, R351, R357). -/
def State.signal (s : State) (who : Issuer) (pa : Nat) (v : Word) : State :=
  match s.place pa with
  | some p =>
    if paPkg p = s.pkg then (s.store pa 8 ((Mem.num s.mem p 8 + v.toNat) % 2 ^ 64)).getD s
    else s.request who 3 pa v 0
  | none => s.request who 3 pa v 0

/-! ### The page table -/

/-- What a walk finds (R309); `mig` a migration lock in the entry of a level and node, `held` such an entry
that has not been read yet: a STOPCOPY holds its frame, or another package has not answered. -/
inductive WalkRes where
  | leaf (e : TlbEntry)
  | fail (c : WalkCause)
  | mig (lvl node : Nat)
  | held (lvl node : Nat)
  deriving DecidableEq, Repr, Inhabited

/-- Levels of the page table: level, lowest index bit, index bits (R307). -/
def pageLevels : List (Nat × Nat × Nat) := [(4, 43, 13), (3, 31, 12), (2, 26, 5), (1, 21, 5), (0, 16, 5)]

/-- A format error of an entry with V = 1 (R308, R309). -/
def State.entryBad (s : State) (lvl : Nat) (e : Word) : Bool :=
  let leaf := bit e 1
  let pa := e.toNat / 2 ^ 16 * 2 ^ 16
  bit e 44 || bits e 15 5 != 0 || (leaf && lvl = 4) || (!leaf && lvl = 0)
    || (leaf && pa % pageBytes lvl != 0) || !(s.reaches pa)

/-- The walk from a node down the remaining levels (R309). DEDUCED (assumption 85). -/
def State.walkFrom (s : State) (who : Issuer) (asid va : Nat) : List (Nat × Nat × Nat) → Nat → WalkRes
  | [], _ => .fail .format
  | (lvl, sh, nb) :: rest, node =>
    match s.loadFor who (node + 8 * (va / 2 ^ sh % 2 ^ nb)) 8 with
    | none =>
      (match s.route (paPkg node) (paOdd (node + 8 * (va / 2 ^ sh % 2 ^ nb))) true with
       | .none | .wait _ => .fail .remote
       | _ => .held lvl node)
    | some n =>
      let e := word n
      let pa := n / 2 ^ 16 * 2 ^ 16
      if !bit e 0 then
        if lvl = 0 ∨ (lvl < 4 ∧ bit e 1) then .fail .absent else .fail .nodeAbsent
      else if s.entryBad lvl e then .fail .format
      else if bit e 4 then .mig lvl node
      else
        match s.route (paPkg pa) (paOdd pa) true with
        | .none => .fail .remote
        | .wait _ => .fail .remote
        | _ =>
          if bit e 1 then
            .leaf { asid := asid, vpb := va / pageBytes lvl * pageBytes lvl / 2 ^ 16, sz := lvl, pa := word pa,
                    wr := bit e 2, pin := bit e 3 }
          else s.walkFrom who asid va rest pa

/-- The walk of a context's page table (R307, R309). -/
def State.walk (s : State) (who : Issuer) (asid va : Nat) : WalkRes :=
  let root := (s.ctx asid).root.toNat
  match s.route (paPkg root) (paOdd root) true with
  | .none => .fail .remote
  | .wait _ => .fail .remote
  | _ => s.walkFrom who asid va pageLevels root

/-- Walk k from where it stands (R309): the root, or the entry that it stalled at. -/
def State.walkOn (s : State) (k : Nat) (w : Walk) : WalkRes :=
  match w.node with
  | none => s.walk (.walk k) w.asid w.va.toNat
  | some (lvl, node) => s.walkFrom (.walk k) w.asid w.va.toNat (pageLevels.drop (4 - lvl)) node

/-- The address of the entry of a level that a walk reads in a node (R307). -/
def entryAt (va lvl node : Nat) : Nat :=
  match pageLevels.find? (fun t => t.1 = lvl) with
  | some (_, sh, nb) => node + 8 * (va / 2 ^ sh % 2 ^ nb)
  | none => node

/-- A leaf entry that the host driver answers with, taken as R309 takes it (R386). R308 gives an entry no size; the
level is the caller's (assumption 32). -/
def State.leafOf (s : State) (asid va lvl : Nat) (e : Word) : WalkRes :=
  if !bit e 0 then .fail .absent
  else if s.entryBad lvl e || !bit e 1 then .fail .format
  else if bit e 4 then .mig lvl 0
  else .leaf { asid := asid, vpb := va / pageBytes lvl * pageBytes lvl / 2 ^ 16, sz := lvl,
               pa := word (e.toNat / 2 ^ 16 * 2 ^ 16), wr := bit e 2, pin := bit e 3 }

end Sys2Proof.Machine
end

