-- ==== Sys2Proof/Machine/Ops.lean ====
section
/-! DEFINITION. Machine/Ops.lean: the named operations over registers, memory, logbook and queues, and the taking of a
fault: a kernel fault (R142), a queue fault (R342), a launch fault (R342) and the trap of a service core (R375), each
one shared operation, with the return from one (CLEAR, R343) beside it. -/

namespace Sys2Proof.Machine

/-- What a meaning answers. -/
abbrev Out := Host.Outcome State Fault Refusal

/-! ### Registers of a stream -/

/-- The stream of an engine of a core. -/
def Core.stream (c : Core) : Eng → Stream
  | .ap => c.ap
  | .xp => c.xp
  | .mx => c.mx

/-- A core with one stream replaced. -/
def Core.setStream (c : Core) (e : Eng) (m : Stream) : Core :=
  match e with
  | .ap => { c with ap := m }
  | .xp => { c with xp := m }
  | .mx => { c with mx := m }

/-- A stream of the package. -/
def State.stream (s : State) (id : StreamId) : Stream := (s.core id.core).stream id.eng
/-- One stream replaced. -/
def State.setStream (s : State) (id : StreamId) (m : Stream) : State :=
  s.setCore id.core ((s.core id.core).setStream id.eng m)
/-- One stream changed. -/
def State.modStream (s : State) (id : StreamId) (f : Stream → Stream) : State := s.setStream id (f (s.stream id))
/-- The stream whose word is issuing. -/
def State.me (s : State) : Stream := s.stream s.cur
/-- The issuing stream changed. -/
def State.modMe (s : State) (f : Stream → Stream) : State := s.modStream s.cur f
/-- The issuing stream's core. -/
def State.myCore (s : State) : Core := s.core s.cur.core
/-- The issuing stream's core changed. -/
def State.modMyCore (s : State) (f : Core → Core) : State := s.modCore s.cur.core f

/-- x[r]; x0 reads 0 (R67). -/
def Stream.rx (m : Stream) (r : BitVec 5) : Word := if r = 0 then 0 else m.x.get r.toFin
/-- x[r] := v; a write to x0 is discarded (R67). -/
def Stream.wx (m : Stream) (r : BitVec 5) (v : Word) : Stream :=
  if r = 0 then m else { m with x := m.x.set r.toNat v r.isLt }
/-- a[r] (R67). -/
def Stream.ra (m : Stream) (r : BitVec 4) : Word := m.a.get r.toFin
def Stream.wa (m : Stream) (r : BitVec 4) (v : Word) : Stream := { m with a := m.a.set r.toNat v r.isLt }
/-- h[r] (R311). -/
def Stream.rh (m : Stream) (r : BitVec 4) : Handle := m.h.get r.toFin
def Stream.wh (m : Stream) (r : BitVec 4) (v : Handle) : Stream := { m with h := m.h.set r.toNat v r.isLt }
/-- v[r] (R67). -/
def Stream.rv (m : Stream) (r : BitVec 5) : Row := m.v.get r.toFin
def Stream.wv (m : Stream) (r : BitVec 5) (v : Row) : Stream := { m with v := m.v.set r.toNat v r.isLt }
/-- p[r] (R67). -/
def Stream.rp (m : Stream) (r : BitVec 3) : Pred := m.p.get r.toFin
def Stream.wp (m : Stream) (r : BitVec 3) (v : Pred) : Stream := { m with p := m.p.set r.toNat v r.isLt }
/-- c[r] (R155). -/
def Stream.rc (m : Stream) (r : Nat) : Bool := m.c.getLsbD r
def Stream.wc (m : Stream) (r : Nat) (v : Bool) : Stream :=
  { m with c := if v then m.c ||| (1#4 <<< r) else m.c &&& ~~~(1#4 <<< r) }
/-- t[r] (R155). -/
def Stream.rt (m : Stream) (r : BitVec 2) : Word := m.t.get r.toFin
def Stream.wt (m : Stream) (r : BitVec 2) (v : Word) : Stream := { m with t := m.t.set r.toNat v r.isLt }

/-- Registers of the issuing stream. -/
def State.rx (s : State) (r : BitVec 5) : Word := s.me.rx r
def State.wx (s : State) (r : BitVec 5) (v : Word) : State := s.modMe (fun m => m.wx r v)
def State.rv (s : State) (r : BitVec 5) : Row := s.me.rv r
def State.wv (s : State) (r : BitVec 5) (v : Row) : State := s.modMe (fun m => m.wv r v)
def State.wc (s : State) (r : Nat) (v : Bool) : State := s.modMe (fun m => m.wc r v)

/-- The issuing stream waits, its word not yet complete (R148). -/
def State.waitFor (s : State) (w : Wait) : State := s.modMe (fun m => { m with wait := w })
/-- A result that a later word finds ready n cycles after this word's issue (R171): a word that names it sooner stalls. -/
def State.late (s : State) (r : RegName) (n : Nat) : State := s.modMe (fun m => { m with late := m.late ++ [(r, n)] })
/-- Issue cycles of this word beyond its first (R171). -/
def State.spend (s : State) (n : Nat) : State := s.modMe (fun m => { m with busy := m.busy + n })

/-! ### Logbook -/

/-- The number of a kernel or drill fault (R387). -/
def KFault.code : KFault → Nat
  | .illegal => 0x001 | .illegalForEngine => 0x002 | .blockForm => 0x003 | .regAllot => 0x004
  | .queuePeer => 0x005 | .queueDead => 0x006 | .stubForm => 0x007 | .stubQueue => 0x008 | .trap => 0x009
  | .scallForm => 0x00A | .branchSlot => 0x00B | .badTarget => 0x00C | .illegalFormat => 0x00D
  | .frameOverrun => 0x010 | .frameFatal => 0x011 | .badCycle => 0x012 | .stileUnbound => 0x013
  | .stileSide => 0x014 | .tableAddr => 0x018 | .addrRange => 0x019 | .wsWrite => 0x01A | .binDepth => 0x020
  | .quantAxis => 0x021 | .formatMismatch => 0x022 | .shape => 0x023 | .operandRange => 0x024
  | .drillForm => 0x028 | .drillRange => 0x029 | .drillTarget => 0x02A | .drillOwner => 0x02B | .abSkew => 0x02C
  | .abRange => 0x02D | .abBusy => 0x02E | .copyRange => 0x02F | .tokenOvf => 0x030 | .handleInvalid => 0x031
  | .handleUnset => 0x032 | .handlePerm => 0x033 | .vaRange => 0x034 | .pageFatal => 0x035 | .pageFault => 0x036
  | .walkFault => 0x037 | .linkRoute => 0x038 | .barRange => 0x040 | .barBusy => 0x041 | .barOff => 0x042
  | .barMember => 0x043 | .barSkew => 0x044 | .sxNone => 0x048 | .sxPhase => 0x049 | .powerStop => 0x050
  | .softError => 0x051

/-- The code of a queue fault (R342). -/
def QFault.code : QFault → Nat
  | .badType => 0x0001 | .typeDenied => 0x0002 | .badPkt => 0x0003 | .badPtr => 0x0004 | .capBounds => 0x0005
  | .ibDepth => 0x0006 | .badChain => 0x0007 | .priv => 0x0008 | .pageFatal => 0x0009 | .tractBusy => 0x000A
  | .linkRoute => 0x000B | .lockRatio => 0x0010 | .lockCeil => 0x0011 | .lockFloor => 0x0012
  | .lockTimeout => 0x0013 | .lockBudget => 0x0014 | .hdrInvalid => 0x0018 | .groupShape => 0x0019
  | .notPinned => 0x001A | .refreshConflict => 0x001B | .ctxMigrating => 0x001C | .kernel => 0x0020
  | .drill => 0x0021 | .sxForm => 0x0022

/-- A record enters a die's logbook, or is counted in LOST while the logbook is frozen (R387). -/
def State.log (s : State) (die cls index : Nat) (detail : Word) (pcn queue : BitVec 16) : State :=
  s.modDie die (fun d =>
    if d.frozen then { d with lost := d.lost + 1 }
    else { d with
      logs := d.logs.set (d.logSeq % 2048)
        (d.logSeq, { chron := s.chron, detail := detail, cls := cls, index := index, pcn := pcn, queue := queue })
      logSeq := (d.logSeq + 1) % 2 ^ 16 })

/-- A fatal error freezes a die's logbook (R387). -/
def State.freezeLog (s : State) (die : Nat) : State := s.modDie die (fun d => { d with frozen := true })

/-! ### Fields of a queue's read-only line (R328, R329) -/

def Queue.roWord (q : Queue) (i : Nat) : Word := q.line.toList.getD i 0
def Queue.capBase (q : Queue) (k : Nat) : Nat := (q.roWord (2 * k + 1)).toNat
def Queue.capLen (q : Queue) (k : Nat) : Nat := bits (q.roWord (2 * k)) 63 24
def Queue.coal (q : Queue) : Nat := bits (q.roWord 6) 63 48
def Queue.ivec (q : Queue) : Nat := bits (q.roWord 6) 47 37
def Queue.port (q : Queue) : Nat := bits (q.roWord 6) 36 36
def Queue.prio (q : Queue) : Nat := bits (q.roWord 6) 35 33
def Queue.priv (q : Queue) : Bool := bit (q.roWord 6) 32
def Queue.asid (q : Queue) : Nat := bits (q.roWord 6) 31 16
def Queue.tmask (q : Queue) (t : Nat) : Bool := decide (t < 13) && bit (q.roWord 6) t
def Queue.part (q : Queue) : Nat := bits (q.roWord 7) 5 0

/-- Byte offset of the next packet in its buffer (R330). -/
def Queue.place (Q : Queue) : Nat :=
  match Q.stack with
  | [] => Q.rptr
  | (p, _) :: _ => p

/-- STATE of R330. -/
def QState.num : QState → Nat
  | .disabled => 0 | .idle => 1 | .fetching => 2 | .waiting => 3 | .running => 4 | .faulted => 5 | .resetting => 6

/-- FCODE of R330. -/
def fcodeNum : Option QFault → Nat
  | none => 0
  | some f => f.code

/-- The 64 bytes of the notification block as a number, word 0 lowest (R346). -/
def Queue.block (q : Queue) : Nat :=
  let w2 := q.tevc.toNat * 2 ^ 48 + fcodeNum q.fcode * 2 ^ 16 + q.state.num * 2 ^ 8 + q.last.toNat
  let w4 := q.kcode.toNat * 2 ^ 48 + q.feng % 4 * 2 ^ 44 + q.fpcn % 512 * 2 ^ 35
  q.seq.toNat + 2 ^ 64 * (q.done.toNat + 2 ^ 64 * (w2 + 2 ^ 64 * (q.chron.toNat + 2 ^ 64 * (w4
    + 2 ^ 64 * (q.whr.toNat + 2 ^ 64 * (q.recVa.toNat + 2 ^ 64 * q.fchron.toNat))))))

/-- A leaf by the TLB or, failing that, by a walk: neither changes the result (R310). -/
def State.lookup (s : State) (who : Issuer) (die asid va : Nat) : Option TlbEntry :=
  match s.tlbHit die asid va with
  | some e => some e
  | none => match s.walk who asid va with
    | .leaf e => some e
    | _ => none

/-- What the translation of NOTE finds (R310, R346): a hit, or the walk. -/
def State.noteWalk (s : State) (q : Nat) : WalkRes :=
  let Q := s.queue q
  match s.tlbHit (q / 1024) Q.asid (Q.capBase 2) with
  | some e => .leaf e
  | none => s.walk (.note q) Q.asid (Q.capBase 2)

/-- The virtual function of a partition on a host port (R368), numbered 64 × port + partition. -/
def vfNo (port part : Nat) : Nat := 64 * port + part

/-- Interrupts of a virtual function flow while its MSI-X is enabled (R369, R371). DESIGN CHOICE (assumption 116). -/
def State.vfOpen (s : State) (n : Nat) : Bool := (s.vf n).dma

/-- The queue's interrupt is sent (R347). -/
def State.sendIrq (s : State) (q : Nat) : State :=
  let s := s.modQueue q (fun Q => { Q with sent := Q.seq, timer := none })
  if s.vfOpen (vfNo (s.queue q).port (s.queue q).part) then s.interrupt (s.queue q).port ((s.queue q).part + 1) (s.queue q).ivec else s

/-- Completed packets are counted in packet order (R347). -/
def countDone : List (Nat × Bool) → Nat → List (Nat × Bool) × Nat
  | (_, true) :: r, n => countDone r (n + 1)
  | l, n => (l, n)

def Queue.count (q : Queue) : Queue :=
  let (l, n) := countDone q.notes 0
  { q with notes := l, done := q.done + word n }

/-- What follows the write of the block (R347): the interrupt, at once for a fault or with COAL = 0, else when the
coalescing timer expires. -/
def State.noteIrq (s : State) (q : Nat) (urgent : Bool) : State :=
  let Q := s.queue q
  if urgent || Q.coal = 0 then s.sendIrq q
  else if Q.timer = none then s.modQueue q (fun Q => { Q with timer := some (s.chron + word (Q.coal * 1000)) })
  else s

/-- A queue that a fault takes to FAULTED (R342, R343): one in DISABLED or RESETTING stays there, and in FAULTED the first
fault stands. -/
def Queue.takesFault (Q : Queue) : Bool := Q.state != .faulted && Q.state != .disabled && Q.state != .resetting

/-- The queue enters FAULTED with FCODE, FLVL, FOFF and FCHRON (R342, R346). -/
def State.enterFaulted (s : State) (q : Nat) (f : QFault) (lvl off : Nat) : State :=
  s.modQueue q (fun Q => { Q with state := .faulted, fcode := some f, flvl := lvl, foff := off, fchron := s.chron })

/-- No route reaches the block: its update faults LINK_ROUTE, which names the packet that it reports (R334, R350); that packet
is over, so that CLEAR passes over none. The fault's own interrupt is sent, and no block can report it.
DEDUCED (assumption 34). -/
def State.noteLost (s : State) (q : Nat) (d : NoteDue) : State :=
  let s := s.log (q / 1024) 2 QFault.linkRoute.code (word d.off) 0xFFFF (BitVec.ofNat 16 q)
  if (s.queue q).takesFault then
    ((s.enterFaulted q .linkRoute d.lvl d.off).modQueue q (fun Q => { Q with skip := 0 })).sendIrq q
  else if d.urgent then s.sendIrq q
  else s

/-- The block is written at an address (R347); the interrupt waits until the write is performed, in a remote package until it
is acknowledged (R357). -/
def State.noteWrite (s : State) (q : Nat) (d : NoteDue) (pa : Nat) : State :=
  let s := s.put (.note q) pa 64 (s.queue q).block
  if s.owing (.note q) then s.modQueue q (fun Q => { Q with irqDue := some (d.urgent || Q.irqDue = some true) })
  else s.noteIrq q d.urgent

/-- The update of a block that is still to be written goes on (R309, R325, R334, R346, R347): NOTE's page is translated, with
a stall on a migration lock, an entry of another package, and a full agent waited for. Where the page does not translate to
a writable frame the interrupt alone follows. DEDUCED (assumption 34). -/
def State.noteStep (s : State) (q : Nat) : State :=
  match (s.queue q).noteDue with
  | none => s
  | some d =>
    let left : State := (s.modQueue q (fun Q => { Q with noteDue := none })).forget (.note q)
    let age (t : Word) : Nat := (s.chron - t).toNat
    if d.first.isSome ∧ age d.again < Config.migReread then s
    else
      match s.noteWalk q with
      | .leaf e =>
        let pa := e.phys ((s.queue q).capBase 2)
        if !e.wr then left.noteIrq q d.urgent
        else
          (match s.route (paPkg pa) (paOdd pa) false with
           | .none => left.noteLost q d
           | _ => if s.agentFull pa then s else left.noteWrite q d pa)
      | .held lvl node => s.awaitLoad (.note q) (entryAt ((s.queue q).capBase 2) lvl node)
      | .mig _ _ =>
        let t := d.first.getD s.chron
        if Config.migLimit ≤ age t then left.noteIrq q d.urgent
        else (s.modQueue q (fun Q => { Q with noteDue := some { d with first := some t, again := s.chron } })).forget (.note q)
      | .fail _ => left.noteIrq q d.urgent

/-- A notification event (R347): the front end counts SEQ, and the block is updated. `lvl` and `off` are the place of the
packet that it reports. -/
def State.notify (s : State) (q : Nat) (urgent : Bool) (lvl off : Nat) : State :=
  (s.modQueue q (fun Q => { Q.count with
    seq := Q.seq + 1, chron := s.chron
    noteDue := some (match Q.noteDue with
      | some d => { d with urgent := d.urgent || urgent }
      | none => { urgent := urgent, lvl := lvl, off := off }) })).noteStep q

/-- A NOTIFY packet of a number, at a place, has completed (R333, R347); nothing for a packet without NOTIFY. -/
def State.completed (s : State) (q : Nat) (no : Option Nat) (lvl off : Nat) : State :=
  match no with
  | none => s
  | some n =>
    (s.modQueue q (fun Q => { Q with notes := Q.notes.map (fun p => if p.1 = n then (n, true) else p) })).notify q false lvl off

/-! ### Queue faults -/

/-- Taking a queue fault (R342): the queue enters FAULTED, unless it takes none; the logbook records either; the
notification block reports the first at once. -/
def State.queueFault (s : State) (q : Nat) (f : QFault) (lvl off : Nat) : State :=
  let s := s.log (q / 1024) 2 f.code (word off) 0xFFFF (BitVec.ofNat 16 q)
  if (s.queue q).takesFault then (s.enterFaulted q f lvl off).notify q true lvl off else s

/-- A fault of a packet from a command port is recorded in PSTAT and does not fault the queue (R376).
DEDUCED (assumption 77). -/
def State.portFault (s : State) (port : Nat) (f : QFault) : State :=
  let p := s.svc port
  s.setSvc port { p with fcode := some (p.fcode.getD f), done := p.done + 1, inFlight := p.inFlight - 1 }

/-- No Sextant waits for a queue's unit, or holds itself for one that has not begun (R361). -/
def State.unclaim (s : State) (q : Nat) : State :=
  { s with sextants := s.sextants.map (fun (p : Nat × Sextant) => (p.1, { p.2 with
      claim := if p.2.claim = some q then none else p.2.claim
      waits := p.2.waits.filter (fun r => r != q) })) }

/-- The LAUNCH in progress has ended FAULTED: LAST, and its NOTIFY is complete (R338, R347). -/
def State.launchFaulted (s : State) (q : Nat) : State :=
  (s.unclaim q).modQueue q (fun Q =>
    match Q.launch with
    | none => Q
    | some l => { Q with
        launch := some { l with ended := some .faulted }
        last := 2
        notes := match l.notify with
          | none => Q.notes
          | some n => Q.notes.map (fun p => if p.1 = n then (n, true) else p) })

/-- A LAUNCH's fault reaches its queue, or the PSTAT of the port that it came from (R342, R376). The update that reports a
queue's fault counts the LAUNCH's NOTIFY too; where no such update follows, the NOTIFY has one of its own (R347). -/
def State.reportLaunch (s : State) (q : Nat) (f : QFault) (lvl off : Nat) : State :=
  let l := (s.queue q).launch
  let s := s.launchFaulted q
  match l.bind (·.port) with
  | some p =>
    ((s.portFault p f).modQueue q (fun Q => { Q with launch := none, oper := 0 })).completed q (l.bind (·.notify)) lvl off
  | none =>
    if (s.queue q).takesFault then s.queueFault q f lvl off
    else (s.queueFault q f lvl off).completed q (l.bind (·.notify)) lvl off

/-- A group's cores are freed in one step (R135, R291); what a kernel that has started left in them stays its own. -/
def State.releaseCores (s : State) (k : Nat) : State :=
  let K := s.kernel k
  let s := K.seats.foldl (fun s seat => s.modCore seat.pcn (fun c => { c with
    kernel := none, last := if K.state = .placed then c.last else some k })) s
  { (s.setKernel k { K with released := true }) with passDue := true }

/-! ### Refresh phases -/

/-- The dies of a kernel's group. -/
def Kernel.dies (K : Kernel) : List Nat := (K.seats.map (fun t => t.pcn / 128)).dedup
/-- The refresh period that the chronometer stands in (R237). -/
def State.period (s : State) : Nat := s.chron.toNat / Config.refreshPeriod

/-- A die's phases at a period: those declared before it began are in force, and those of the period before are kept
(R237, R238). -/
def Die.toPeriod (d : Die) (per : Nat) : Die :=
  if d.period = per then d
  else { d with period := per, before := if d.period + 1 = per then d.inForce else d.phase, inForce := d.phase }

/-- A subarray's phase is declared; it governs from the next period on (R238). -/
def Die.setPhase (d : Die) (per sub : Nat) (v : Option Nat) : Die :=
  let d := d.toPeriod per
  { d with phase := match v with | some p => d.phase.set sub p | none => d.phase.erase sub }

/-- A subarray that no kernel on the die holds any more returns to its default phase (R238).
DEDUCED (assumption 64). -/
def State.dropRefresh (s : State) (k : Nat) : State :=
  (s.kernel k).dies.foldl (fun s d =>
    let held (sub : Nat) : Bool := s.kernels.any (fun p => p.2.dies.contains d
      && (p.2.state = .placed || p.2.state = .starting || p.2.state = .running || p.2.state = .draining)
      && p.2.hdr.refresh.any (fun e => e.1 = sub))
    s.modDie d (fun D => (s.kernel k).hdr.refresh.foldl (fun D e =>
      if held e.1 then D else D.setPhase s.period e.1 none) D)) s

/-- The streams of a kernel's cores go no further: the walks of its APs end without effect, and its service calls are
aborted (R142, R378). -/
def State.dismissAps (s : State) (k : Nat) : State :=
  let on (p : Nat) : Bool := (s.kernel k).seats.any (fun t => t.pcn = p)
  let s := (s.kernel k).seats.foldl (fun s t => s.dismiss (.ap t.pcn)) s
  { s with scalls := s.scalls.filter (fun c => !(on c.who.core)) }

/-- A unit's kernel is FAULTED by its unit's fault (R135, R342); one that has started no stream gives its cores back
(R291). -/
def State.takeDown (s : State) (k : Nat) : State :=
  let st := (s.kernel k).state
  if st = .retired ∨ st = .saved ∨ st = .faulted then s
  else
    let s := if st = .placed then s.releaseCores k else s
    ((s.modKernel k (fun K => { K with state := .faulted, preempt := false })).dismissAps k).dropRefresh k

/-- A launch fault: it ends the LAUNCH as FAULTED, and its unit's kernel with it (R334, R342). -/
def State.launchFault (s : State) (q : Nat) (f : QFault) (lvl off : Nat) : State :=
  let s := match (s.queue q).launch.bind (·.kernel) with
    | none => s
    | some k => s.takeDown k
  s.reportLaunch q f lvl off

/-! ### Kernel faults -/

/-- The FRAME_FATAL, STUB and other kernel faults are all taken here (R142): the kernel enters FAULTED, so that no
stream of it issues another word; the record goes to the logbook and to the queue, whose LAUNCH ends FAULTED.
DEDUCED (assumption 52). -/
def State.kernelFault (s : State) (k : Nat) (r : FaultRec) : State :=
  let K := s.kernel k
  match K.state with
  | .starting | .running | .draining =>
    let q := K.queue
    let s := ((s.setKernel k { K with state := .faulted, fault := some r, preempt := false }).dismissAps k).dropRefresh k
    let s := s.log (r.pcn / 128) r.cls r.code.code r.whr (BitVec.ofNat 16 r.pcn) (BitVec.ofNat 16 q)
    let s := if !(s.queue q).takesFault ∨ ((s.queue q).launch.bind (·.port)).isSome then s
      else s.modQueue q (fun Q => { Q with
        kcode := BitVec.ofNat 16 r.code.code, feng := r.eng, fpcn := r.pcn, whr := r.whr, recVa := r.recVa,
        fchron := s.chron })
    s.reportLaunch q .kernel 6 (((s.queue q).launch.map (·.off)).getD 0)
  | _ => s

/-- A kernel fault at a stream's word (R142): the record names the fault, the core, the engine and the address. -/
def State.streamFault (s : State) (id : StreamId) (c : KFault) (detail : Nat) : State :=
  match (s.core id.core).kernel with
  | none => s
  | some k =>
    s.kernelFault k { code := c, pcn := id.core, eng := id.eng.num, whr := word (s.stream id).pc,
                      recVa := (s.kernel k).krec, detail := detail }

/-- The issuing word takes a kernel fault; nothing it would have written changes (R74 `fault`). -/
def State.fault (s : State) (c : KFault) : Out := .next (s.streamFault s.cur c 0)

/-- Is the kernel of a core in RUNNING or DRAINING (R135)? -/
def State.live (s : State) (pcn : Nat) : Bool :=
  match (s.core pcn).kernel with
  | none => false
  | some k => (s.kernel k).state = .running || (s.kernel k).state = .draining

/-- A die's pair serves: it compares equal and is not held in reset (R373, R374). -/
def Die.healthy (d : Die) : Bool := d.pairOk && !d.inReset

/-- The pair of the pilot die serves (R314, R374). -/
def State.pilotServes (s : State) : Bool :=
  match s.helm.pilot with
  | some d => (s.die d).healthy
  | none => false

/-- A die's service agent answers: on its own pair, or, once that is held in reset, on the pilot's (R374). -/
def State.agentServes (s : State) (die : Nat) : Bool :=
  (s.die die).healthy || ((s.die die).inReset && s.pilotServes)

/-- The trap of a service core (R375): the illegal-instruction exception of RISC-V, taken in machine mode: cause 2,
the word in mtval, MIE to MPIE with MPP 3, and the pc at the base of mtvec. PRESUMED (assumption 30). -/
def State.serviceTrap (s : State) (port : Nat) (w : BitVec 32) : State :=
  let p := s.svc port
  s.setSvc port { p with
    mepc := p.pc, mcause := 2, mtval := w.setWidth 64, pc := p.mtvec &&& ~~~3#64
    mstatus := (p.mstatus &&& ~~~0x1888#64) ||| word (num (bit p.mstatus 3) * 2 ^ 7 + 3 * 2 ^ 11) }

/-- Return from a kernel fault (R135, R343): the faulted kernel retires, and its group's cores are freed. -/
def State.retireFaulted (s : State) (k : Nat) : State :=
  if (s.kernel k).state = .faulted then
    (if (s.kernel k).released then s else s.releaseCores k).modKernel k (fun K => { K with state := .retired })
  else s

/-! ### Tract of a core -/

/-- KIND, SRC, N, M and HOLD of a descriptor (R104). -/
def tctlKind (w : Word) : Nat := bits w 7 6
def tctlSrc (w : Word) : Nat := bits w 4 0
def tctlN (w : Word) : Nat := bits w 63 40 + 1
def tctlM (w : Word) : Nat := bits w 39 24 + 1
def tctlHold (w : Word) : Nat := bits w 23 8

/-- The package cluster number of a core (R9). -/
def cluster (pcn : Nat) : Nat := pcn / 8
/-- The tract of a core's cluster. -/
def State.tractOf (s : State) (pcn : Nat) : Tract := s.tract (cluster pcn)
/-- Is the tract of a core's cluster a locked tract, bound to a port or a link stream (R119)? -/
def State.locked (s : State) (pcn : Nat) : Bool :=
  let k := tctlKind (s.tractOf pcn).tctl
  k = 1 || k = 3
/-- First frame cycle of sample k, and SCYC (R106). -/
def sampleStart (n m k : Nat) : Nat := k * n / m
def Tract.n (t : Tract) : Nat := tctlN t.tctl
def Tract.m (t : Tract) : Nat := tctlM t.tctl
def Tract.scyc (t : Tract) : Nat := t.fcyc - sampleStart t.n t.m t.sidx

/-- STATE of R111. -/
def TState.num : TState → Nat
  | .free => 0 | .locking => 1 | .locked => 2 | .coast => 3 | .becalmed => 4 | .slipped => 5

/-- TSTAT (R111). -/
def Tract.tstat (t : Tract) : Word :=
  word ((if t.state = .coast then t.holdLeft else tctlHold t.tctl) * 2 ^ 16 + num t.ceil * 256 + num t.range * 128
    + num t.slip * 64 + num t.stale * 32 + num t.evt * 16 + t.state.num)

/-- The clock of a tract runs: its state has cycles and nothing holds it before frame cycle 0 (R113, R116, R382). -/
def Tract.ticking (t : Tract) : Bool :=
  (t.state = .locked || t.state = .slipped || t.state = .coast) && !t.restart && !t.held

/-- A stream may issue in this cycle: the tract ticks and stands inside a sample (R106). -/
def Tract.issuing (t : Tract) : Bool := t.ticking && t.edge = .inside

/-- The streams of a core go on: its kernel runs and its tract's clock does, so that what they wait for can reach them
(R116, R135). -/
def State.awake (s : State) (pcn : Nat) : Bool := s.live pcn && (s.tractOf pcn).ticking

end Sys2Proof.Machine
end

