-- ==== Sys2Proof/Machine/Operands.lean ====
section
/-! DEFINITION. Machine/Operands.lean: the operand forms: which engines may issue a word (R70, R134, R137), which
registers it names (R67 to R69, R179), the register beyond its file in the AP (R178, R230), and effective addresses
(R178, R224). -/

namespace Sys2Proof

open Machine

/-- The engines of a major: AP, XP, MX in bits 0, 1 and 2 (R70). -/
def majorEngines (maj : Nat) : BitVec 3 :=
  if maj ≤ 0x07 ∨ (0x0C ≤ maj ∧ maj ≤ 0x0F) ∨ maj = 0x12 ∨ maj = 0x13 ∨ maj = 0x15 then 0b111
  else if (0x08 ≤ maj ∧ maj ≤ 0x0B) ∨ maj = 0x14 then 0b011
  else if maj = 0x10 ∨ maj = 0x11 then 0b001
  else if maj = 0x16 ∨ (0x18 ≤ maj ∧ maj ≤ 0x1F) then 0b010
  else if 0x20 ≤ maj ∧ maj ≤ 0x23 then 0b100
  else if maj = 0x24 then 0b110
  else 0b000

/-- What a word does to a queue register (R137). -/
inductive QueueUse where
  | pop (q : Nat)
  | push (q : Nat)
  | count (q : Nat)
  deriving DecidableEq, Repr, Inhabited

/-- The queue register a word names (R150, R65). -/
def Instr.queueUse : Instr → Option QueueUse
  | .qPop _ _ a | .qPopc _ _ a => some (.pop a.toNat)
  | .qPush _ d _ | .qPushc _ d _ => some (.push d.toNat)
  | .qCnt _ _ a => some (.count a.toNat)
  | .compactPop q _ => some (.pop q.toNat)
  | .compactPush q _ => some (.push q.toNat)
  | _ => none

/-- The pushing and the popping engine of a queue register (R136). -/
def queuePusher (q : Nat) : Eng := if q = 4 ∨ q = 7 then .xp else if q = 5 then .mx else .ap
def queuePopper (q : Nat) : Eng := if q = 4 ∨ q = 7 then .ap else .xp
/-- The depth of a queue register (R136). -/
def queueDepth (q : Nat) : Nat := if q < 4 then 32 else if q < 6 then 8 else 64

/-- An engine may issue a word (R70, R72 step 2, R137, R154, R172). -/
def Instr.engineOk (e : Eng) (i : Instr) : Bool :=
  (match encode i with
   | some (.word w) => (majorEngines (w.extractLsb' 23 6).toNat).getLsbD e.num
   | some (.half _) => true
   | some (.header _ _) => true
   | _ => false) &&
  (match i with
   | .iaAmov _ _ _ | .iaXmov _ _ _ | .iaAadd _ _ _ _ | .iaArow _ _ _ _ => e = .ap
   | .spVspill _ _ _ | .spVfill _ _ _ => e = .xp
   | _ => true) &&
  (match i.queueUse with
   | some (.pop q) => e = queuePopper q
   | some (.push q) => e = queuePusher q
   | _ => true)

/-- The partner engines of a queue word are declared in STREAMS (R137). -/
def Instr.peerOk (streams : BitVec 3) (e : Eng) (i : Instr) : Bool :=
  let on (p : Eng) : Bool := streams.getLsbD p.num
  match i.queueUse with
  | some (.pop q) => on (queuePusher q)
  | some (.push q) => on (queuePopper q)
  | some (.count q) => (e = queuePusher q || on (queuePusher q)) && (e = queuePopper q || on (queuePopper q))
  | none => true

/-- In the AP the address register of ld, st, at and mon words is an a register (R178, R230, R232). -/
def Instr.okFor (e : Eng) : Instr → Bool
  | .ld _ _ a _ _ | .st _ _ a _ _ => e != .ap || a.toNat < 16
  | .atAdd _ _ a _ _ | .atAnd _ _ a _ _ | .atOr _ _ a _ _ | .atXor _ _ a _ _ | .atMin _ _ a _ _ | .atMax _ _ a _ _
  | .atMinu _ _ a _ _ | .atMaxu _ _ a _ _ | .atSwap _ _ a _ _ | .atCas _ _ a _ _ | .atFadd _ _ a _ _ =>
      e != .ap || a.toNat < 16
  | .monWaiteq _ _ a _ _ | .monWaitne _ _ a _ _ | .monWaitge _ _ a _ _ | .monWaitgeu _ _ a _ _ =>
      e != .ap || a.toNat < 16
  | _ => true

/-- A pair of vector registers (R179). -/
def vpair (n : BitVec 5) : List RegName := [.v n, .v (n + 1)]

/-- The x, v and h registers that a word names in its fields. The address register of ld, st, at and mon words is an
x register in the XP alone. Headers name theirs under R53 and R57. -/
def Instr.uses (e : Eng) : Instr → List RegName
  | .iaAdd _ d a b | .iaSub _ d a b | .iaAnd _ d a b | .iaOr _ d a b | .iaXor _ d a b | .iaAndn _ d a b
  | .iaOrn _ d a b | .iaMul _ d a b | .iaMulh _ d a b | .iaMulhu _ d a b | .iaDiv _ d a b | .iaDivu _ d a b
  | .iaRem _ d a b | .iaRemu _ d a b | .iaMin _ d a b | .iaMax _ d a b | .iaMinu _ d a b | .iaMaxu _ d a b
  | .iaAddco _ d a b | .iaAddc _ d a b | .iaSubbo _ d a b | .iaSubb _ d a b | .iaAdds _ d a b
  | .iaSubs _ d a b => [.x d, .x a, .x b]
  | .iaMov _ d a | .iaSxt _ d a _ | .iaZxt _ d a _ => [.x d, .x a]
  | .iaAmov _ _ a => [.x a]
  | .iaXmov _ d _ => [.x d]
  | .iaAadd _ _ _ b | .iaArow _ _ _ b => [.x b]
  | .compactAdd d a | .compactSub d a | .compactAnd d a | .compactOr d a | .compactXor d a | .compactMov d a
  | .compactSll d a | .compactSrl d a => [.x d, .x a]
  | .iiAdd _ d a _ => [.x d, .x a]
  | .compactLoadImmediate d _ => [.x d]
  | .iwIns _ d _ => [.x d]
  | .bfSll _ d a b | .bfSrl _ d a b | .bfSra _ d a b | .bfRol _ d a b | .bfRor _ d a b | .bfBfx _ d a b
  | .bfBfxs _ d a b | .bfBfi _ d a b | .bfFsh _ d a b => [.x d, .x a, .x b]
  | .bfPop _ d a | .bfClz _ d a | .bfCtz _ d a | .bfRev _ d a | .bfRevb _ d a => [.x d, .x a]
  | .bfSlli _ d a _ _ | .bfSrli _ d a _ _ | .bfSrai _ d a _ _ | .bfRoli _ d a _ _ | .bfRori _ d a _ _ => [.x d, .x a]
  | .cmpEq _ _ a b | .cmpNe _ _ a b | .cmpLt _ _ a b | .cmpGe _ _ a b | .cmpLtu _ _ a b | .cmpGeu _ _ a b
  | .cmpTst _ _ a b | .cmpNtst _ _ a b => [.x a, .x b]
  | .brPrepx _ _ a => [.x a]
  | .brTget _ d _ => [.x d]
  | .sysId _ d _ | .sysRd _ d _ | .sysWr _ d _ => [.x d]
  | .sysScall _ d a b => [.x d, .x a, .x b]
  | .ld _ d a _ _ | .st _ d a _ _ => if e = .ap then [.x d] else [.x d, .x a]
  | .atAdd _ d a _ _ | .atAnd _ d a _ _ | .atOr _ d a _ _ | .atXor _ d a _ _ | .atMin _ d a _ _ | .atMax _ d a _ _
  | .atMinu _ d a _ _ | .atMaxu _ d a _ _ | .atSwap _ d a _ _ | .atFadd _ d a _ _ =>
      if e = .ap then [.x d] else [.x d, .x a]
  | .atCas _ d a _ _ => if e = .ap then [.x d, .x (d + 1)] else [.x d, .x (d + 1), .x a]
  | .monWaiteq _ d a _ _ | .monWaitne _ d a _ _ | .monWaitge _ d a _ _ | .monWaitgeu _ d a _ _ =>
      if e = .ap then [.x d] else [.x d, .x a]
  | .spSpill _ a _ => [.x a]
  | .spFill _ d _ => [.x d]
  | .spVspill _ a _ => [.v a]
  | .spVfill _ d _ => [.v d]
  | .compactSpill _ d | .compactFill _ d => [.x d]
  | .qPop _ d _ | .qCnt _ d _ => [.x d]
  | .qPush _ _ a => [.x a]
  | .compactPop _ d | .compactPush _ d => [.x d]
  | .barInit _ _ b | .barWait _ _ b => [.x b]
  | .barArrive _ d _ | .barRd _ d _ _ => [.x d]
  | .tagWany _ d a | .tagFfr _ d a | .tagCnt _ d a => [.x d, .x a]
  | .tagWall _ a => [.x a]
  | .xlTr _ d a | .xlTrw _ d a => [.h (d.setWidth 4), .x a]
  | .xlInv _ d => [.h (d.setWidth 4)]
  | .xlRd _ d a _ => [.x d, .h (a.setWidth 4)]
  | .cpLd _ a b | .cpSt _ a b => [.h (a.setWidth 4), .x b]
  | .cpMv _ a b | .cpMx _ a b => [.x a, .x b]
  | .cpDrill _ a => [.x a]
  | .cpDstop _ d a => [.x d, .x a]
  | .cpTcnt _ d _ => [.x d]
  | .abInit _ _ b | .abAwait _ _ b | .abAret _ _ b => [.x b]
  | .abRd _ d _ _ => [.x d]
  | .trTap _ d | .trRd _ d _ | .compactTrTap d => [.x d]
  | .trOtap _ a | .trAtx _ a | .trAck _ a => [.x a]
  | .stiPut _ _ b | .stiAck _ _ b | .stiCoef _ _ b => [.x b]
  | .stiGet _ d _ | .stiStat _ d _ => [.x d]
  | .knPend _ d => [.x d]
  | .rgEcount _ d a => vpair d ++ [.v a]
  | .rgEscan _ d a => vpair d ++ vpair a
  | .rgEscat _ d a b => vpair d ++ [.v a] ++ vpair b
  | .rgClaim _ d a b => [.x d, .x a, .x b]
  | .viAdd _ d a b _ | .viSub _ d a b _ | .viMul _ d a b _ | .viMin _ d a b _ | .viMax _ d a b _
  | .viAdds _ d a b _ => [.v d, .v a, .v b]
  | .viSll _ d a b _ | .viSrl _ d a b _ | .viSra _ d a b _ => [.v d, .v a, .v b]
  | .viAnd _ d a b | .viOr _ d a b | .viXor _ d a b | .viAndn _ d a b => [.v d, .v a, .v b]
  | .vfAdd _ d a b _ _ | .vfSub _ d a b _ _ | .vfMul _ d a b _ _ | .vfFma _ d a b _ _ => [.v d, .v a, .v b]
  | .vfMin _ d a b _ | .vfMax _ d a b _ => [.v d, .v a, .v b]
  | .vfCfma _ d a b _ f => if f = 3 then vpair d ++ vpair a ++ vpair b else [.v d, .v a, .v b]
  | .vfNeg _ d a _ | .vfAbs _ d a _ => [.v d, .v a]
  | .vfSqrt _ d a _ _ | .vfRcp _ d a _ _ => [.v d, .v a]
  | .vcCvt _ d a _ _ _ _ => [.v d, .v a]
  | .vmLd _ d a _ _ | .vmSt _ d a _ _ | .vmRmg _ d a _ _ => [.v d, .x (a.setWidth 5)]
  | .vpPerm _ d a b _ => [.v d, .v a, .v b]
  | .vpBcst _ d a _ => [.v d, .x a]
  | .vpGet _ d a b _ => [.x d, .v a, .x b]
  | .vpPut _ d a b _ => [.v d, .x a, .x b]
  | .vpFimm _ d a _ => [.v d, .x a]
  | .vpRot _ d a b => [.v d, .v a, .x b]
  | .vpSel _ d a b _ _ => [.v d, .v a, .v b]
  | .vrSum _ d a _ | .vrMin _ d a _ | .vrMax _ d a _ => [.x d, .v a]
  | .vrFsum _ d a _ | .vrFmin _ d a _ | .vrFmax _ d a _ => [.x d, .v a]
  | .vrPcnt _ d _ => [.x d]
  | .vqEq _ _ a b _ | .vqNe _ _ a b _ | .vqLt _ _ a b _ | .vqLe _ _ a b _ => [.v a, .v b]
  | .vqFeq _ _ a b _ | .vqFlt _ _ a b _ | .vqFle _ _ a b _ | .vqFun _ _ a b _ => [.v a, .v b]
  | .vqLim _ _ a | .vqFrx _ _ a _ => [.x a]
  | .vqTox _ d _ _ => [.x d]
  | .vtInterpFp32 _ d a b | .vtInterpBf16 _ d a b => [.v d, .v a, .x b]
  | .vtRmix _ d a _ => [.v d, .v a]
  | .mcSet _ _ a => [.x a]
  | .mcGet _ d _ | .mcGeta _ d _ => [.x d]
  | .mgGoInd _ a => [.x a]
  | .mgStat _ d => [.x d]
  | .mbCount _ _ b => [.x b]
  | .mbDepth _ d _ => [.x d]
  | .mbRdc _ d _ b => [.x d, .x b]
  | .mwWb _ _ _ b | .mwTopk _ _ _ _ b => [.x b]
  | .mwRd _ d _ b => [.x d, .x b]
  | .mxRd _ d _ => [.x d]
  | .mxRep _ a => [.x a]
  | _ => []

/-- A register lies in an allotment (R69). -/
def regAllotted (xk vm : Nat) : RegName → Bool
  | .x n => n.toNat < xk
  | .v n => n.toNat < vm
  | .h _ => true

/-- Every register a word names lies in the stream's allotment (R69, R72 step 4). -/
def Instr.allotOk (xk vm : Nat) (e : Eng) (i : Instr) : Bool := (i.uses e).all (regAllotted xk vm)

namespace Machine

/-- Signed rows of a memory form: sext(OFF7, 7) × 64 (R48). -/
def rowOffset (o : BitVec 7) : Word := (o.signExtend 64) <<< 6

/-- The base of a memory or atomic word: a[A] in the AP, x[A] in the XP (R178, R230). -/
def State.base (s : State) (a : BitVec 5) : Word :=
  if s.cur.eng = .ap then s.me.ra (a.setWidth 4) else s.rx a

/-- The effective address of ld and st (R178). -/
def State.ea (s : State) (a : BitVec 5) (o : BitVec 7) : Word := s.base a + rowOffset o

/-- Where a stream address reaches (R224, R229); none faults ADDR_RANGE. The second part says whether it goes through
the cluster window, and status rows are read with its latency. -/
def reach (pcn : Nat) (ea : Word) : Option (Home × Bool) :=
  if bits ea 63 27 ≠ 0 then none
  else if bit ea 26 then
    if bits ea 25 6 < 7 then some (.status (pcn / 128) (bits ea 25 6), true) else none
  else if bit ea 25 then some (.bank (pcn / 8 * 8 + bits ea 24 22) (bits ea 21 6), true)
  else if bits ea 24 22 = 0 then some (.bank pcn (bits ea 21 6), false)
  else none

/-- A stream address that reaches a scratchpad row (R224); status rows are read-only (R229). -/
def reachRow (pcn : Nat) (ea : Word) : Option (Nat × Nat × Bool) :=
  match reach pcn ea with
  | some (.bank c r, win) => some (c, r, win)
  | _ => none

/-- A scratchpad row of a core (R225). -/
def Core.row (c : Core) (r : Nat) : Row := Mem.row c.sp (64 * r)

/-! ### Rows read one a turn (R225, R273, R284) -/

/-- Rows of a list that a unit has not read yet. -/
def missing (got : Tbl Row) (need : List Nat) : List Nat := need.filter (fun r => (got.find? r).isNone)

/-- One of some rows, which the spec does not choose. DESIGN CHOICE (assumption 117). -/
def State.pick (s : State) (l : List Nat) : Nat := l.getD (Config.freePick s.freeCtr % l.length) 0

/-- A unit that needs rows of a core's scratchpad reads one that it has not read: what it has read then; none where it has
read all of them. -/
def State.readOne (s : State) (pcn : Nat) (got : Tbl Row) (need : List Nat) : Option (Tbl Row) :=
  match missing got need with
  | [] => none
  | l => let r := s.pick l; some (got.set r ((s.core pcn).row r))

/-- A free value has been read. -/
def State.drawn (s : State) : State := { s with freeCtr := s.freeCtr + 1 }

/-- A core with the rows that a unit has read as they stood then. -/
def Core.seeing (c : Core) (got : Tbl Row) : Core :=
  { c with sp := got.foldl (fun m p => Mem.setRow m (64 * p.1) p.2) c.sp }

end Machine
end Sys2Proof
end

