-- ==== Sys2Proof/Machine/Sequence.lean ====
section
/-! DEFINITION. Machine/Sequence.lean: the nested-loop sequencer and the flow of control of a stream: blocks and their
iterations (R51 to R56), issue qualifiers (R49), stage predicates (R163), delay windows (R158 to R162), `rep` (R165 to
R168), the loop buffer (R61), timed blocks (R117, R118), and what completing a word does. -/

namespace Sys2Proof.Machine

/-! ### Code -/

/-- The bytes of a code section from an address on. -/
def codeAt (code : List Byte) (a : Nat) : List Byte := code.drop a

/-- The raw 32-bit word at an address, 0 past the end. -/
def codeWord (code : List Byte) (a : Nat) : BitVec 32 :=
  match codeAt code a with
  | b0 :: b1 :: b2 :: b3 :: _ => (b0 ++ b1 : BitVec 16) ++ (b2 ++ b3 : BitVec 16)
  | _ => 0

/-- The half-word at an address, 0 past the end (R46). -/
def codeHalf (code : List Byte) (a : Nat) : BitVec 16 :=
  match codeAt code a with
  | b0 :: b1 :: _ => b0 ++ b1
  | _ => 0

/-- The length in bytes of the word at an address (R47). -/
def codeLen (code : List Byte) (a : Nat) : Nat := if (codeHalf code a).extractLsb' 13 3 = 0x7#3 then 4 else 2

/-- The code image of the kernel that holds a core. -/
def State.code (s : State) (pcn : Nat) : List Byte :=
  match (s.core pcn).kernel with
  | none => []
  | some k => (s.kernel k).code

/-! ### Blocks -/

/-- Iterations the block runs in all (R52). -/
def Block.total (b : Block) : Nat :=
  match b.kind with
  | .pipelined st => b.count + st - 1
  | _ => b.count

/-- The issue qualifier permits the word in the block's present iteration (R49). -/
def iqOk (iq : BitVec 2) : List Block → Bool
  | [] => true
  | b :: _ =>
    if iq = 0 then true
    else if iq = 1 then b.iter = 0
    else if iq = 2 then b.iter + 1 = b.total
    else b.iter != 0

/-- The stage of half-word h of a body of `len` half-words in `st` sections (R163). -/
def stageOf (st len h : Nat) : Nat := st - 1 - h * st / len

/-- The stage predicate permits the word at an address in the innermost block (R163). -/
def stageOk (spw : BitVec 8) (pc : Nat) : List Block → Bool
  | [] => true
  | b :: _ =>
    match b.kind with
    | .pipelined st => spw.getLsbD (stageOf st ((b.stop - b.body) / 2) ((pc - b.body) / 2))
    | _ => true

/-- The x, v or h register that an unperformed access will write (R171). -/
def AccKind.dest : AccKind → Option RegName
  | .loadX d => some (.x d)
  | .storeX _ => none
  | .loadV d => some (.v d)
  | .storeV _ => none
  | .rmgLow d => some (.v d)
  | .rmgHigh d => some (.v d)
  | .atomic _ _ d _ _ => some (.x d)
  | .claim d _ => some (.x d)
  | .monitor _ _ d _ => some (.x d)

/-- A stride is added to an x register; where an issued access has still to write the register, it is added to what that
access writes, since the body ran before it (R52). -/
def Stream.strideX (m : Stream) (x : BitVec 5) (v : Word) : Stream :=
  if m.pend.any (fun a => a.kind.dest = some (.x x)) then { m with owed := m.owed.set x.toNat (m.owed.get 0 x.toNat + v) }
  else m.wx x (m.rx x + v)

/-- The end of an iteration: a strided block adds its strides, a pipelined one shifts SPW (R52, R57). -/
def Stream.stride (m : Stream) (eng : Eng) (r : BitVec 4) (sd : BitVec 10) : Stream :=
  if eng = .ap then m.wa r (m.ra r + ((sd.signExtend 64) <<< 6))
  else
    m.strideX (0x10#5 ||| r.setWidth 5) (sd.signExtend 64)

def Stream.iterEnd (m : Stream) (eng : Eng) (b : Block) : Stream :=
  match b.kind with
  | .strided ra sa rb sb =>
    let m := if sa = 0 then m else m.stride eng ra sa
    if sb = 0 then m else m.stride eng rb sb
  | .pipelined _ =>
    { m with spw := (m.spw <<< 1) ||| (if b.iter + 1 < b.count then 1 else 0) }
  | _ => m

/-- Leaving a block restores the SPW that a pipelined block saved (R52, R161). -/
def Stream.leave (m : Stream) (b : Block) : Stream :=
  match b.kind with
  | .pipelined _ => { m with spw := b.spw }
  | _ => m

/-- The sequencer at pc: while pc stands at the end of the innermost body, that iteration ends (R52). A timed block idles
there until the next frame cycle 0, after its last iteration too (R117). -/
def Stream.seqEnd (m : Stream) (eng : Eng) : List Block → Stream
  | [] => { m with blocks := [] }
  | b :: rest =>
    if m.pc ≠ b.stop then { m with blocks := b :: rest }
    else
      let m := m.iterEnd eng b
      match b.kind with
      | .timed _ => { m with blocks := { b with iter := b.iter + 1, idle := true } :: rest }
      | _ =>
        if b.iter + 1 < b.total then { m with blocks := { b with iter := b.iter + 1 } :: rest, pc := b.body }
        else (m.leave b).seqEnd eng rest

/-- A taken transfer leaves every active block whose body does not contain its target, innermost first (R161). -/
def Stream.transfer (m : Stream) (dest : Nat) : List Block → Stream
  | [] => { m with blocks := [], pc := dest }
  | b :: rest =>
    if b.body ≤ dest ∧ dest < b.stop then { m with blocks := b :: rest, pc := dest }
    else (m.leave b).transfer dest rest

/-- Frame cycle 0 for a timed block that idles: its next iteration begins, or control leaves it (R117). -/
def Stream.frameStart (m : Stream) (eng : Eng) : Stream :=
  match m.blocks with
  | b :: rest =>
    if b.idle then
      if b.iter < b.total then { m with blocks := { b with idle := false } :: rest, pc := b.body }
      else ({ m with pc := b.stop }).seqEnd eng rest
    else m
  | [] => m

/-- The stream is held in a timed block until the next frame cycle 0 (R117). -/
def Stream.idling (m : Stream) : Bool :=
  match m.blocks with
  | b :: _ => b.idle
  | [] => false

/-- The stream has words of a timed iteration still to issue (R118); the word at pc is the first of them, one whose issue
cycles or wait are not over included (R171, R195). -/
def Stream.overruns (m : Stream) : Bool :=
  m.blocks.any (fun b => match b.kind with | .timed _ => !b.idle | _ => false)

/-! ### Completing a word -/

/-- A word has completed: its issue cycle is spent, a repetition is counted (R165, R168), the delay window moves on and
its transfer is made after the second slot (R158, R161, R162), and control goes on in sequence. -/
def Stream.complete (m : Stream) (eng : Eng) : Stream :=
  let m := { m with busy := m.busy + 1, wait := .none }
  let repeating := m.repOn && m.npc != m.pc
  let m := if repeating then { m with repc := m.repc - 1 } else m
  if (m.repOn && !repeating) || (repeating && m.repc != 0) then m
  else
    let m := if repeating then { m with repOn := false } else m
    match m.window with
    | some w =>
      if w.slots ≤ 1 then
        let m := { m with window := none }
        if w.take then m.transfer w.dest m.blocks else ({ m with pc := m.npc }).seqEnd eng m.blocks
      else ({ m with window := some { w with slots := w.slots - 1 }, pc := m.npc }).seqEnd eng m.blocks
    | none => ({ m with pc := m.npc }).seqEnd eng m.blocks

/-- A stream's word has completed. -/
def State.complete (s : State) (id : StreamId) : State := s.modStream id (fun m => m.complete id.eng)

/-! ### Fetch -/

/-- The extent that the loop buffer takes when a fetch at pc arrives (R61): that of the innermost timed block, else of
the outermost active block that fits and holds pc, else the 512 bytes from pc. -/
def extentFor (pc : Nat) (blocks : List Block) : Nat × Nat :=
  let fits (b : Block) : Bool := b.stop - b.entry ≤ Config.loopBuffer && b.entry ≤ pc && pc < b.stop
  let timed (b : Block) : Bool := match b.kind with | .timed _ => true | _ => false
  match blocks.find? (fun b => timed b && fits b) with
  | some b => (b.entry, b.stop)
  | none =>
    match blocks.reverse.find? fits with
    | some b => (b.entry, b.stop)
    | none => (pc, pc + Config.loopBuffer)

/-- A block whose extent the stream holds from its second iteration on (R61): a timed one, or the outermost active one that
fits. -/
def Stream.keeps (m : Stream) : Bool :=
  let fits (b : Block) : Bool := b.stop - b.entry ≤ Config.loopBuffer
  let timed (b : Block) : Bool := match b.kind with | .timed _ => true | _ => false
  m.blocks.any (fun b => timed b && decide (0 < b.iter))
    || (m.blocks.reverse.find? fits).any (fun b => decide (0 < b.iter))

/-- The word at pc is held in the loop buffer (R61, R159). -/
def Stream.fetched (m : Stream) : Bool := (m.lbuf.1 ≤ m.pc && m.pc < m.lbuf.2) || m.keeps

/-! ### Registers that are not ready -/

/-- A register that a word names is not readable or writable yet: an access, a latency, a handle or an interpolation
stands before it (R171, R188, R313). -/
def State.pending (s : State) (id : StreamId) (r : RegName) : Bool :=
  let m := s.stream id
  let zero := match r with | .x n => n = 0 | _ => false
  !zero && (m.late.any (fun p => p.1 = r && p.2 != 0)
    || m.pend.any (fun a => a.kind.dest = some r)
    || (match r with | .h n => m.hpend.any (fun p => p.1 = n) | _ => false)
    || (match r with | .v n => id.eng = .xp && (s.core id.core).interp.any (fun c => c.d = n) | _ => false))

/-- A word stalls on a register it names (R171, R313). -/
def State.stalls (s : State) (id : StreamId) (i : Instr) : Bool := (i.uses id.eng).any (s.pending id)

/-- A fence's stall: an earlier access of a selected class is not performed yet (R269). -/
def Stream.fenced (m : Stream) : Bool := m.pend.any (fun a => m.fence.getLsbD a.cls.toNat)

/-! ### Delay slots and drain stubs -/

/-- A `rep` word, whose own issue no qualifier or stage predicate suppresses (R165). -/
def isRep : Instr → Bool
  | .rep _ _ _ _ => true
  | _ => false

/-- A `br.go` or short transfer (R158, R160). -/
def isGo : Instr → Bool
  | .brGo _ _ _ | .brGoNot _ _ _ | .brGoAlways _ _ | .shortTransfer _ _ | .shortTransferNot _ _
  | .shortTransferAlways _ => true
  | _ => false

/-- A `kn.end` or `kn.yield`. -/
def isEnd : Instr → Bool
  | .knEnd _ | .knYield _ => true
  | _ => false

/-- The br, kn or 16-bit instruction at an address, which are those whose kind a delay slot asks for (R160). -/
def slotWord (code : List Byte) (a : Nat) : Option Instr :=
  let w := codeWord code a
  if codeLen code a ≠ 4 then decodeHalf (codeHalf code a)
  else (if w.extractLsb' 23 6 = 0x06#6 then decBr w else if w.extractLsb' 23 6 = 0x15#6 then decKn w else none).filter
    Instr.wf

/-- The word at an address may stand in a delay slot: no header, `br.go`, `rep`, `kn.end` or `kn.yield` (R160). A
half-word that is no instruction may stand there; it takes its own fault. DEDUCED (assumption 54). -/
def slotKindOk (code : List Byte) (a : Nat) : Bool :=
  !(codeLen code a = 4 && isHeader (codeWord code a))
    && (match slotWord code a with
        | some i => !(isGo i || isRep i || isEnd i)
        | none => true)

/-- Both delay slots of a `br.go` whose following word stands at `a` have an allowed kind and lie in the innermost body
(R160). -/
def slotsOk (code : List Byte) (a : Nat) : List Block → Bool
  | [] => false
  | b :: _ =>
    let a2 := a + codeLen code a
    let stop := a2 + codeLen code a2
    b.body ≤ a && stop ≤ b.stop && slotKindOk code a && slotKindOk code a2

/-- The stream waits with a barrier word whose checks are made (R300). -/
def Wait.isArriving : Wait → Bool
  | .arriving _ => true
  | _ => false

/-- The stream runs its drain stub (R144). -/
def Stream.inStub (m : Stream) : Bool := m.saved.isSome

/-- The stub that covers an address for an engine (R88, R96). -/
def stubFor (stubs : List Stub) (eng : Eng) (pc : Nat) : Option Stub :=
  stubs.find? (fun t => t.start ≤ pc && pc < t.stop && t.eng.getLsbD eng.num)

end Sys2Proof.Machine
end

