-- ==== Sys2Proof/Machine/Barrier.lean ====
section
/-! DEFINITION. Machine/Barrier.lean: named barriers and the bar major (R293 to R301). -/

namespace Sys2Proof.Machine

/-- Streams declared for the kernel that holds a core (R93). -/
def State.declared (s : State) (pcn : Nat) : BitVec 3 :=
  match (s.core pcn).kernel with
  | none => 0
  | some k => (s.kernel k).hdr.streams

/-- Bits of the streams of a core that have executed `kn.end`. -/
def Core.endedMask (c : Core) : BitVec 3 :=
  (if c.ap.phase = .ended then 1 else 0) ||| (if c.xp.phase = .ended then 2 else 0)
    ||| (if c.mx.phase = .ended then 4 else 0)

/-- LIVE of BSTAT (R293). -/
def State.barLive (s : State) (pcn n : Nat) : BitVec 3 :=
  let c := s.core pcn
  (c.bars.toList.getD n {}).emask &&& s.declared pcn &&& ~~~c.endedMask

/-- One barrier of a core. -/
def State.bar (s : State) (pcn n : Nat) : Barrier := (s.core pcn).bars.toList.getD n {}
def State.setBar (s : State) (pcn n : Nat) (b : Barrier) : State :=
  s.modCore pcn (fun c => { c with bars := c.bars.setIfInBounds n b })

/-- The member cores of a barrier: cores of the group within its scope, of the same stage with OWN (R294). -/
def State.barMembers (s : State) (pcn n : Nat) : List Nat :=
  let b := s.bar pcn n
  match (s.core pcn).kernel with
  | none => [pcn]
  | some k =>
    ((s.kernel k).seats.filter (fun t =>
      (if b.scope = 1 then t.pcn = pcn
       else if b.scope = 2 then t.pcn / 8 = pcn / 8
       else if b.scope = 3 then t.pcn / 128 = pcn / 128
       else true) && (!b.own || t.stg = (s.core pcn).stg))).map (·.pcn)

/-- A member core has completed its part: LOC, or no live member at all (R295, R296). -/
def State.barOffered (s : State) (pcn n : Nat) : Bool :=
  let b := s.bar pcn n
  b.en && (b.loc || s.barLive pcn n = 0)

/-- The phase has completed (R295): every member core has completed its part under one PH, SCOPE and OWN. -/
def State.barComplete (s : State) (pcn n : Nat) : Bool :=
  let b := s.bar pcn n
  b.en && (s.barMembers pcn n).all (fun p => s.barOffered p n && (s.bar p n).ph = b.ph && (s.bar p n).scope = b.scope
    && (s.bar p n).own = b.own)

/-- LOC of BSTAT (R293, R295): a core without live members shows it once the phase has completed. -/
def State.barLoc (s : State) (pcn n : Nat) : Bool := (s.bar pcn n).loc || (s.bar pcn n).done || s.barComplete pcn n

/-- BCFG and BSTAT (R293). -/
def Barrier.cfgWord (b : Barrier) : Word :=
  word (num b.en * 128 + num b.own * 64 + b.scope.toNat * 8 + b.emask.toNat)
def State.barStat (s : State) (pcn n : Nat) : Word :=
  let b := s.bar pcn n
  word (num b.ph * 128 + num (s.barLoc pcn n) * 64 + b.arr.toNat * 8 + (s.barLive pcn n).toNat)

/-- BCFG and BSTAT as `bar.rd` reads them, as they stood when the tract cycle began (R297). -/
def State.barAtStart (s : State) (pcn n : Nat) : Word × Word :=
  (s.bar pcn n).start.getD ((s.bar pcn n).cfgWord, s.barStat pcn n)

/-- A barrier about to change keeps the words it had when the cycle began (R297). -/
def State.barMark (s : State) (pcn n : Nat) : State :=
  s.setBar pcn n { (s.bar pcn n) with start := some (s.barAtStart pcn n) }

/-- A member core that reaches LOC finds another at LOC that differs in SCOPE, OWN or PH (R295).
DEDUCED (assumption 88). -/
def State.barSkewed (s : State) (pcn n : Nat) : Bool :=
  let b := s.bar pcn n
  (s.barMembers pcn n).any (fun p =>
    let b' := s.bar p n
    b'.en && b'.loc && !b'.done && (b'.scope != b.scope || b'.own != b.own || b'.ph != b.ph))

/-- LOC once ARR covers LIVE (R298). -/
def State.barGather (s : State) (pcn n : Nat) : State :=
  let b := s.bar pcn n
  let live := s.barLive pcn n
  if b.en ∧ b.loc = false ∧ b.arr &&& live = live then s.setBar pcn n { b with loc := true } else s

/-- The barriers that a stream is about to leave keep the words they had when the cycle began, and every other word on
them in this cycle comes before its `kn.end` (R297). -/
def State.barLeaving (s : State) (id : StreamId) : State :=
  (List.range 32).foldl (fun s n =>
    if (s.bar id.core n).emask.getLsbD id.eng.num then
      let s := s.barMark id.core n
      s.setBar id.core n { (s.bar id.core n) with by_ := 4 }
    else s) s

/-- A stream's `kn.end` leaves LIVE at every barrier of its core (R296); a mismatch then faults BAR_SKEW (R295).
DEDUCED (assumption 88). -/
def State.barLeave (s : State) (id : StreamId) : State :=
  (List.range 32).foldl (fun s n =>
    if (s.bar id.core n).emask.getLsbD id.eng.num then
      let s' := s.barGather id.core n
      if (s'.bar id.core n).loc ∧ !(s.bar id.core n).loc ∧ s'.barSkewed id.core n then s'.streamFault id .barSkew 0
      else s'
    else s) s

/-- Every arrival of a core's phase has performed what it releases (R270, R300). -/
def State.barPerformed (s : State) (pcn n : Nat) : Bool :=
  let b := s.bar pcn n
  [Eng.ap, .xp, .mx].all (fun e =>
    !(b.arr.getLsbD e.num) || !((s.stream { core := pcn, eng := e }).pend.any (fun a => a.seq < b.rel.toList.getD e.num 0)))

/-- The copies, harrow operators, puts and atomics that `kn.end` waits for have completed (R128, R140). -/
def State.endReady (s : State) (id : StreamId) : Bool :=
  let c := s.core id.core
  match id.eng with
  | .ap => c.ldq.isEmpty && c.stq.isEmpty && c.ldFly.isEmpty && c.stFly.isEmpty && c.cmq.isEmpty && c.cmFly.isEmpty
  | .mx => c.cmq.isEmpty && c.cmFly.isEmpty && !c.harrow.armed && c.harrow.state = .idle
  | .xp => !(c.xp.pend.any (fun a => match a.kind with | .atomic _ _ _ _ _ => true | .claim _ _ => true | _ => false))
    && !(s.stiles.any (fun p => p.2.puts.any (fun e => e.1 = id)))

/-- This core's release (R295): PH turns over, ARR and LOC return to 0, and every stream of the core that waits on the
phase goes on. -/
def State.barOpen (s : State) (n pcn : Nat) : State :=
  let s := s.barMark pcn n
  let b := s.bar pcn n
  let s := s.setBar pcn n { b with ph := !b.ph, arr := 0, loc := false, done := false }
  [Eng.ap, .xp, .mx].foldl (fun s e =>
    let id : StreamId := { core := pcn, eng := e }
    match (s.stream id).wait with
    | .barSync m p => if m = n ∧ p = b.ph then s.complete id else s
    | .barWait m p => if m = n ∧ p = b.ph then s.complete id else s
    | _ => s) s

/-- The issuing stream has acted on a barrier of its core in this tract cycle, without changing it: a word of a lower engine
class on the barrier comes too late for the cycle (R297). -/
def State.barActs (s : State) (n : Nat) : State :=
  let b := s.bar s.cur.core n
  s.setBar s.cur.core n { b with by_ := max b.by_ (s.cur.eng.num + 1) }

/-- Arrival (R300): the fault, a wait with nothing changed, the fault BAR_SKEW of R295, or the state with the arrival
made and the phase it was made in. -/
inductive Arrival where
  | fault (c : KFault)
  | wait
  | skew (s : State)
  | made (p : Bool) (s : State)

def State.barArrival (s : State) (n : Nat) : Arrival :=
  let b := s.bar s.cur.core n
  let me := s.cur.eng.num
  if !s.me.passed && !b.en then .fault .barOff
  else if !s.me.passed && !(b.emask.getLsbD me) then .fault .barMember
  else if b.arr.getLsbD me then .wait
  else if b.scope = 5 ∧ !(s.endReady s.cur) then .wait
  else
    let b' := { b with arr := b.arr ||| (1 <<< me), rel := b.rel.setIfInBounds me s.me.seq, by_ := max b.by_ (me + 1)
                       start := some (s.barAtStart s.cur.core n) }
    let s' := (s.setBar s.cur.core n b').barGather s.cur.core n
    if (s'.bar s.cur.core n).loc ∧ s'.barSkewed s.cur.core n then .skew (s'.streamFault s.cur .barSkew 0)
    else .made b.ph s'

/-- Streams that wait for the phase to differ from one that it now differs from go on (R300). -/
def State.barWake (s : State) (n pcn : Nat) : State :=
  [Eng.ap, .xp, .mx].foldl (fun s e =>
    let id : StreamId := { core := pcn, eng := e }
    match (s.stream id).wait with
    | .barWait m p => if m = n ∧ (s.bar pcn n).ph ≠ p then s.complete id else s
    | _ => s) s

/-- `bar.init` (R300). -/
def execBarInit (a b : BitVec 5) (s : State) : Out :=
  let c := s.rx b
  let old := s.bar s.cur.core a.toNat
  if bits c 63 8 ≠ 0 ∨ (bit c 7 ∧ (bits c 5 3 = 0 ∨ 5 < bits c 5 3 ∨ bits c 2 0 = 0)) then s.fault .barRange
  else if old.arr ≠ 0 ∨ s.barLoc s.cur.core a.toNat then s.fault .barBusy
  else .next ((s.setBar s.cur.core a.toNat
    { en := bit c 7, own := bit c 6, scope := BitVec.ofNat 3 (bits c 5 3), emask := BitVec.ofNat 3 (bits c 2 0)
      start := some (s.barAtStart s.cur.core a.toNat), by_ := max old.by_ (s.cur.eng.num + 1) }).barWake a.toNat s.cur.core)

/-- `bar.sync` (R300). -/
def execBarSync (a : BitVec 5) (s : State) : Out :=
  match s.barArrival a.toNat with
  | .fault c => s.fault c
  | .wait => .next ((s.barActs a.toNat).waitFor (.arriving a.toNat))
  | .skew s' => .next s'
  | .made p s' => .next (s'.waitFor (.barSync a.toNat p))

/-- `bar.arrive` (R300). -/
def execBarArrive (d a : BitVec 5) (s : State) : Out :=
  match s.barArrival a.toNat with
  | .fault c => s.fault c
  | .wait => .next ((s.barActs a.toNat).waitFor (.arriving a.toNat))
  | .skew s' => .next s'
  | .made p s' => .next (s'.wx d (word (num p)))

/-- `bar.wait` (R297, R300). -/
def execBarWait (a b : BitVec 5) (s : State) : Out :=
  let br := s.bar s.cur.core a.toNat
  let p := bit (s.rx b) 0
  if !br.en then s.fault .barOff
  else if br.ph != p then .next (s.barActs a.toNat)
  else .next ((s.barActs a.toNat).waitFor (.barWait a.toNat p))

/-- `bar.rd` (R297, R300). -/
def execBarRd (d a sel : BitVec 5) (s : State) : Out :=
  let w := s.barAtStart s.cur.core a.toNat
  .next (s.wx d (if sel = 0 then w.1 else w.2))

/-- BARRIER_RELEASE (R295): the phase completes once every member core has offered with the same PH and each arrival
has performed what it releases; the completion stands on every member core until that core's own release. A barrier of
cluster scope releases every member core in one step. DEDUCED (assumption 88). -/
def execBarrierRelease (pcn n : Nat) (s : State) : Out :=
  let b := s.bar pcn n
  let members := s.barMembers pcn n
  if !(s.awake pcn) then .next s
  else if b.done then .next (s.barOpen n pcn)
  else if s.barComplete pcn n && members.all (fun p => s.barPerformed p n && s.live p) then
    let s := members.foldl (fun s p => s.setBar p n { (s.bar p n) with done := true }) s
    if b.scope = 2 then .next (members.foldl (fun s p => s.barOpen n p) s)
    else .next (s.barOpen n pcn)
  else .next s

end Sys2Proof.Machine
end

