-- ==== Sys2Proof/Machine/Save.lean ====
section
/-! DEFINITION. Machine/Save.lean: the save of a pre-empted kernel (R146) in the layout of R327, and the restoring of a
core from it (R147). Three bits that R327 leaves unnamed in the word at 0x2A0 carry what a resume needs beside them
(assumption 40): bit 18 the second delay slot, bit 19 a stream that had ended, bit 20 that the window stands. -/

namespace Sys2Proof.Machine

/-- BFMT's reserved bits are not written (R3, R32). -/
def bfmtMask (v : BitVec 32) : BitVec 32 := v &&& 0xFE3FFFFF

/-- Bytes of a kernel header's region and of a core record (R327). -/
def saveHeader : Nat := 0x10000
def saveCoreBytes : Nat := 0x410000

/-- Bytes of the whole save of a group of n cores (R327). -/
def saveBytes (n : Nat) : Nat := saveHeader + n * saveCoreBytes

/-- One field of a save: offset, bytes, value. -/
abbrev Field := Nat × Nat × Nat

/-- Words from an offset on. -/
def wordsAt (off : Nat) : List Word → List Field
  | [] => []
  | w :: r => (off, 8, w.toNat) :: wordsAt (off + 8) r

/-- Rows from an offset on. -/
def rowsAt (off : Nat) : List Row → List Field
  | [] => []
  | w :: r => (off, 64, w.toNat) :: rowsAt (off + 64) r

/-- Word sel of a handle (R311). -/
def Handle.word0 (h : Handle) : Word :=
  word (h.vpb.toNat * 2 ^ 16 + num h.kw * 32 + num h.pin * 16 + h.sz.toNat * 4 + num h.made * 2 + num h.hv)

/-- What diversion takes of a stream, and what is saved of one that was not diverted, as it stands: a handle whose write
is under way is the result of an earlier word (R144, R313). -/
def Stream.snapshot (m : Stream) : Snapshot :=
  { x := m.x, a := m.a, h := m.hpend.foldl (fun h p => h.set p.1.toNat p.2.1 p.1.isLt) m.h, v := m.v, p := m.p, c := m.c,
    t := m.t, spw := m.spw, repc := m.repc, blocks := m.blocks, window := m.window, seq := m.seq, owed := m.owed }

/-- The word at 0x2A0 of a stream block. -/
def Stream.flagWord (m : Stream) : Nat :=
  let t := m.saved.getD m.snapshot
  let w := t.window
  t.c.toNat + t.spw.toNat * 2 ^ 8
    + (match w with
       | none => 0
       | some d => 2 ^ 16 + num d.take * 2 ^ 17 + num (d.slots ≤ 1) * 2 ^ 18 + 2 ^ 20)
    + num (m.phase = .ended && m.saved.isNone) * 2 ^ 19

/-- The block stack, outermost first, 32 bytes an entry. -/
def blockFields (off : Nat) : List Block → List Field
  | [] => []
  | b :: r => (off, 8, b.entry) :: (off + 8, 8, b.count) :: (off + 16, 8, b.iter) :: (off + 24, 1, b.spw.toNat)
      :: blockFields (off + 32) r

/-- Fields of one stream block (R327): registers of the allotment, declared spill slots. -/
def Stream.fields (m : Stream) (e : Eng) (spill spillv : Nat) : List Field :=
  let t := m.saved.getD m.snapshot
  wordsAt 0x000 (t.x.toList.take m.xk)
    ++ (if e = .ap then
          wordsAt 0x100 t.a.toList ++ wordsAt 0x180 (t.h.toList.flatMap (fun h => [h.word0, h.pa]))
        else [])
    ++ wordsAt 0x280 t.t.toList
    ++ [(0x2A0, 8, m.flagWord), (0x2A8, 8, m.dpc), (0x2B0, 8, t.repc),
        (0x2B8, 8, (t.window.map (·.dest)).getD 0)]
    ++ (List.range 6).map (fun i => (0x2C0 + 32 * i, 32, 0))
    ++ blockFields 0x2C0 t.blocks.reverse
    ++ (List.range spill).map (fun i => (0x400 + 8 * i, 8, (m.spill.get 0 i).toNat))
    ++ (if e = .xp then
          (List.range 8).map (fun i => (0xC00 + 16 * i, 16, (t.p.toList.getD i 0).toNat))
            ++ rowsAt 0x1000 (t.v.toList.take m.vm)
            ++ (List.range spillv).map (fun i => (0x1800 + 64 * i, 64, (m.vspill.get 0 i).toNat))
        else [])

/-- Fields of the queue registers (R327). -/
def queueFields (c : Core) : List Field :=
  let q (i : Nat) : List Word := (c.q.toList.getD i []).map (·.v)
  let packed (i : Nat) : Nat := (q i).foldr (fun w acc => w.toNat % 2 + 2 * acc) 0
  wordsAt 0x040 (q 0) ++ wordsAt 0x140 (q 1) ++ wordsAt 0x240 (q 2) ++ wordsAt 0x340 (q 3) ++ wordsAt 0x440 (q 4)
    ++ wordsAt 0x480 (q 5) ++ [(0x4C0, 8, packed 6), (0x4C8, 8, packed 7)]
    ++ (List.range 8).map (fun i => (0x4D0 + i, 1, (q i).length))

/-- Where a stream block stands in a core record (R327). -/
def streamBlock : Eng → Nat
  | .ap => 0x1000 | .xp => 0x2000 | .mx => 0x5000

/-- The scalar spill size declared for an engine (R93). -/
def Header.spillOf (h : Header) (e : Eng) : Nat := h.spill.toList.getD e.num 0

/-- Fields of a core record, the scratchpad apart (R327). -/
def State.coreFields (s : State) (k pcn : Nat) : List Field :=
  let c := s.core pcn
  let K := s.kernel k
  [(0, 2, pcn), (2, 1, c.gdie), (3, 1, c.gclu), (4, 1, c.gcor), (5, 1, c.stg), (6, 1, K.hdr.streams.toNat), (7, 1, 0),
   (8, 4, K.run.toNat), (12, 52, 0)]
    ++ queueFields c
    ++ [Eng.ap, .xp, .mx].flatMap (fun e =>
        if K.hdr.streams.getLsbD e.num then
          ((c.stream e).fields e (K.hdr.spillOf e) K.hdr.spillv).map (fun f => (streamBlock e + f.1, f.2.1, f.2.2))
        else [])
    ++ (List.range 32).map (fun i => (0x6000 + 4 * i, 4, (c.bfmt.toList.getD i 0).toNat))
    ++ (List.range 4096).map (fun i => (0x7000 + 4 * i, 4, (c.harrow.acc0.get 0 i).toNat))
    ++ (List.range 4096).map (fun i => (0xB000 + 4 * i, 4, (c.harrow.acc1.get 0 i).toNat))

/-- Writes fields at a base address of a memory. -/
def putFields (m : Mem) (base : Nat) (fs : List Field) : Mem :=
  fs.foldl (fun m f => Mem.setNum m (base + f.1) f.2.2 f.2.1) m

/-- The 64 KiB frames that a span of bytes touches. -/
def framesOf (lo len : Nat) : List Nat :=
  (List.range ((lo % 0x10000 + len + 0xFFFF) / 0x10000)).map (fun i => (lo / 0x10000 + i) * 0x10000)

/-- Whole rows written from an address on, at their frames or, after a COMMIT, where those stand now (R324, R326). -/
def State.writeSpan (s : State) (who : Issuer) (base len : Nat) (src : Mem) : State :=
  let fs := framesOf base len
  if fs.all (fun p => s.place p = some p && paPkg p = s.pkg) then
    { s with mem := fs.foldl (fun m p => dirtyMark p s.ctxs m) (Mem.splice s.mem base len src) }
  else (List.range (len / 64)).foldl (fun s i => s.put who (base + 64 * i) 64 (Mem.num src (64 * i) 64)) s

/-- No frame of a kernel's save is held by a STOPCOPY (R325). -/
def State.saveOpen (s : State) (k base : Nat) : Bool :=
  (framesOf base (saveBytes (s.kernel k).seats.length)).all (fun p => (s.place p).isSome)

/-- One core's save, written at its core record (R146, R327). -/
def State.saveCore (s : State) (k idx pcn base : Nat) : State :=
  let at_ := base + saveHeader + idx * saveCoreBytes
  let m := Mem.splice (Mem.slice s.mem at_ saveCoreBytes) 0x10000 0x400000 (s.core pcn).sp
  s.writeSpan (.queue (s.kernel k).queue) at_ saveCoreBytes (putFields m 0 (s.coreFields k pcn))

/-- The kernel header of a save (R327). -/
def State.saveHead (s : State) (k base : Nat) : State :=
  let K := s.kernel k
  let n := K.seats.length
  s.writeSpan (.queue K.queue) base 64 (putFields [] 0 [(0, 8, K.kid.toNat), (8, 4, K.gshp.toNat), (12, 4, n),
    (16, 8, saveBytes n), (24, 8, K.krecPa.toNat), (32, 32, 0)])

/-- First fit in the save area at an offset that is a multiple of 64 KiB (R327): the lowest address that no save of the
list covers. -/
def firstFit (lo hi size : Nat) (taken : List (Nat × Nat)) : Option Nat :=
  let cand := lo :: taken.map (fun t => lo + (t.1 + t.2 - lo + 0xFFFF) / 0x10000 * 0x10000)
  let ok (a : Nat) : Bool :=
    lo ≤ a && a + size ≤ hi && taken.all (fun t => decide (a + size ≤ t.1) || decide (t.1 + t.2 ≤ a))
  (cand.filter ok).foldl (fun acc a => match acc with | none => some a | some b => some (min a b)) none

/-- Space taken by the saves of a context and by saves under way. -/
def State.savesTaken (s : State) (asid : Nat) : List (Nat × Nat) :=
  (s.ctx asid).saves.map (fun t => (t.2.1.toNat, t.2.2))
    ++ s.kernels.filterMap (fun p =>
        if p.2.asid = asid ∧ p.2.state = .draining then p.2.saveAt.map (fun a => (a.toNat, saveBytes p.2.seats.length))
        else none)

/-- Where a kernel's save goes (R327). -/
def State.savePlace (s : State) (k : Nat) : Option Nat :=
  let K := s.kernel k
  let c := s.ctx K.asid
  firstFit c.save.toNat (c.save.toNat + 4096 * c.savelen) (saveBytes K.seats.length) (s.savesTaken K.asid)

/-! ### Restoring -/

/-- The words from an address on. -/
def readWords (m : Mem) (a n : Nat) : List Word := (List.range n).map (fun i => Mem.word m (a + 8 * i))

/-- A list as a vector of a length, padded with a default. -/
def vecOf {α : Type} (n : Nat) (d : α) (l : List α) : Vector α n := Vector.ofFn (fun i : Fin n => l.getD i.val d)

/-- A block of the stack rebuilt from its header in the code image (R56). -/
def blockFrom (code : List Byte) (a count iter : Nat) (spw : BitVec 8) (dpc : Nat) : Block :=
  let w := codeWord code a
  let e := codeWord code (a + 4)
  let len := (w.extractLsb' 11 10).toNat
  let kind := (w.extractLsb' 21 2).toNat
  let body := if kind = 0 then a + 4 else a + 8
  let k : BlockKind :=
    if kind = 0 then .plain
    else if kind = 1 then
      .strided (e.extractLsb' 25 4) (e.extractLsb' 15 10) (e.extractLsb' 11 4) (e.extractLsb' 1 10)
    else if kind = 2 then .pipelined ((e.extractLsb' 26 3).toNat + 1)
    else .timed (e.extractLsb' 0 25).toNat
  { kind := k, entry := a, body := body, stop := body + 2 * len, count := count, iter := iter, spw := spw,
    idle := kind = 3 && decide (dpc = body) }

/-- The block stack of a stream block; an entry with count 0 stands for none. -/
def blocksFrom (code : List Byte) (m : Mem) (at_ dpc : Nat) : List Block :=
  ((List.range 6).filterMap (fun i =>
    let b := at_ + 0x2C0 + 32 * i
    let count := Mem.num m (b + 8) 8
    if count = 0 then none
    else some (blockFrom code (Mem.num m b 8) count (Mem.num m (b + 16) 8) (BitVec.ofNat 8 (Mem.num m (b + 24) 1)) dpc)
    )).reverse

/-- A handle read from a save by VPB, SZ and KW, not yet translated (R147, R311). -/
def handleFrom (w : Word) : Handle :=
  { vpb := BitVec.ofNat 40 (bits w 55 16), kw := bit w 5, sz := BitVec.ofNat 2 (bits w 3 2), made := bit w 1 }

/-- Allotment and declared spill slots of one engine's stream: x, v, scalar and vector slots (R69, R90). -/
structure Sizes where
  xk : Nat
  vm : Nat
  spill : Nat
  spillv : Nat
  deriving DecidableEq, Repr, Inhabited

def Header.sizes (h : Header) (e : Eng) : Sizes :=
  { xk := h.xk.toList.getD e.num 0, vm := if e = .xp then h.vm else 0, spill := h.spillOf e
    spillv := if e = .xp then h.spillv else 0 }

/-- One stream restored from its block (R147): `z` are the sizes of its new launch and `z0` those of the save, beyond which
nothing was saved and a register or slot reads zero (R327). R69 and R147 let a relaunch give only an allotment that covers
the old one and name no fault for another: the model restores what both cover. DESIGN CHOICE (assumption 105). -/
def Stream.restore (m : Mem) (at_ : Nat) (code : List Byte) (e : Eng) (z z0 : Sizes) : Stream :=
  let f := Mem.num m (at_ + 0x2A0) 8
  let dpc := Mem.num m (at_ + 0x2A8) 8
  let fw := word f
  { phase := if bit fw 19 then .ended else .live
    xk := z.xk, vm := z.vm
    x := (vecOf 32 0 (readWords m at_ (min z.xk z0.xk)))
    a := if e = .ap then vecOf 16 0 (readWords m (at_ + 0x100) 16) else Vector.replicate 16 0
    h := if e = .ap then vecOf 16 {} ((List.range 16).map (fun i => handleFrom (Mem.word m (at_ + 0x180 + 16 * i))))
         else Vector.replicate 16 {}
    v := if e = .xp then vecOf 32 0 ((List.range (min z.vm z0.vm)).map (fun i => Mem.row m (at_ + 0x1000 + 64 * i)))
         else Vector.replicate 32 0
    p := if e = .xp then vecOf 8 0 ((List.range 8).map (fun i => BitVec.ofNat 128 (Mem.num m (at_ + 0xC00 + 16 * i) 16)))
         else Vector.replicate 8 0
    c := BitVec.ofNat 4 f
    t := vecOf 4 0 (readWords m (at_ + 0x280) 4)
    spw := BitVec.ofNat 8 (f / 256)
    repc := Mem.num m (at_ + 0x2B0) 8
    pc := dpc, npc := dpc
    blocks := blocksFrom code m at_ dpc
    window := if bit fw 16 then
        some { slots := if bit fw 18 then 1 else 2, take := bit fw 17, dest := Mem.num m (at_ + 0x2B8) 8 }
      else none
    spill := Tbl.build 0 z0.spill (fun i => Mem.word m (at_ + 0x400 + 8 * i))
    vspill := if e = .xp then Tbl.build 0 z0.spillv (fun i => Mem.row m (at_ + 0x1800 + 64 * i)) else [] }

/-- The queue registers of a core record (R327). -/
def queueFrom (m : Mem) (at_ i : Nat) : List QElem :=
  let n := Mem.num m (at_ + 0x4D0 + i) 1
  let off := #[0x040, 0x140, 0x240, 0x340, 0x440, 0x480, 0x4C0, 0x4C8].getD i 0x040
  (List.range n).map (fun j =>
    { v := if i < 6 then Mem.word m (at_ + off + 8 * j)
           else word (Mem.num m (at_ + off) 8 / 2 ^ j % 2)
      eng := queuePusher i })

/-- A core restored from a core record (R3, R147), under the header `h` of the relaunch and the header `was` of the save:
barriers, arrival barriers, tags, tokens and bins as at a fresh start. -/
def Core.restore (c : Core) (m : Mem) (at_ : Nat) (code : List Byte) (h was : Header) : Core :=
  let st (e : Eng) (old : Stream) : Stream :=
    if h.streams.getLsbD e.num then
      Stream.restore m (at_ + streamBlock e) code e (h.sizes e) (was.sizes e)
    else { old with phase := .off }
  { c with
    ap := st .ap {}, xp := st .xp {}, mx := st .mx {}
    q := vecOf 8 [] ((List.range 8).map (queueFrom m at_))
    sp := Mem.slice m (at_ + 0x10000) 0x400000
    bfmt := vecOf 32 0 ((List.range 32).map (fun i => bfmtMask (BitVec.ofNat 32 (Mem.num m (at_ + 0x6000 + 4 * i) 4))))
    harrow := { c.harrow with
      acc0 := Tbl.build 0 4096 (fun i => BitVec.ofNat 32 (Mem.num m (at_ + 0x7000 + 4 * i) 4))
      acc1 := Tbl.build 0 4096 (fun i => BitVec.ofNat 32 (Mem.num m (at_ + 0xB000 + 4 * i) 4)) } }

end Sys2Proof.Machine
end

