-- ==== Sys2Proof/Machine/KernelWords.lean ====
section
/-! DEFINITION. Machine/KernelWords.lean: the kn, q and sys majors with their compact forms and returns (R133, R136 to
R141, R146, R149 to R153, R268, R269). -/

namespace Sys2Proof.Machine

/-! ### The point of diversion -/

/-- A named wait whose instruction has changed nothing, or can be taken back (R144, R301). DEDUCED (assumption 50). -/
def Wait.abandons : Wait → Bool
  | .harrow .stored | .harrow .storedBad => false
  | .none | .again | .arriving _ | .trAtPast _ | .answered _ _ | .popX _ _ | .popC _ _ | .push _ _ | .rdv | .ending
  | .trAt _ | .stile _ _ | .tagAny _ _ | .tagAll _ | .tagFfr _ _ | .monitor _ | .await _ _ _ | .barSync _ _ | .barWait _ _ | .harrow _ | .halted _ _ | .retrans _ => true
  | .frame | .scall _ _ | .yielding | .claim _ | .claimed _ _ | .dstop _ _ _ | .walk _ _ _ => false

/-- A wait that stands for a halt of the AP (R143, R169). -/
def Wait.isHalt : Wait → Bool
  | .halted _ _ | .retrans _ => true
  | _ => false

/-- The address of the next word to issue; of a timed block that idles, its body's first word (R117, R144).
DEDUCED (assumption 50). -/
def Stream.nextAt (m : Stream) : Nat :=
  match m.blocks with
  | b :: _ => if b.idle then b.body else m.pc
  | [] => m.pc

/-- The barrier on whose phase a stream waits (R300): with an arrival made or still to make, or for the phase's end. -/
def Wait.onBarrier : Wait → Option Nat
  | .barSync n _ | .barWait n _ | .arriving n => some n
  | _ => Option.none

/-- The stub that a stream diverts to now (R88, R116, R121, R144, R169, R298): its kernel drains, it has not been diverted, its
wait can be abandoned and is not for a phase that has completed and is not released here, it stands outside a delay window
or halted in one, its tract's clock runs, and a stub covers its next word; on a locked tract frame cycle 0 has begun. DEDUCED (assumption 50). -/
def State.divertsTo (s : State) (id : StreamId) : Option Stub :=
  let m := s.stream id
  match (s.core id.core).kernel with
  | none => none
  | some k =>
    let K := s.kernel k
    let t := s.tractOf id.core
    let boundary := m.phase = .live && m.saved.isNone && m.wait.abandons && (m.window.isNone || m.wait.isHalt)
      && (match m.wait.onBarrier with | some n => !((s.bar id.core n).done || s.barComplete id.core n) | none => true)
      && t.ticking && (!(s.locked id.core) || (t.issuing && t.fcyc = 0))
    if K.state = .draining && boundary then stubFor K.hdr.stubs id.eng m.nextAt else none

/-! ### Ends, rendezvous and yields -/

/-- Every declared stream of a core has yielded or ended. -/
def State.coreStopped (s : State) (pcn : Nat) : Bool :=
  [Eng.ap, .xp, .mx].all (fun e =>
    !((s.declared pcn).getLsbD e.num) ||
      (let p := (s.stream { core := pcn, eng := e }).phase; p = .ended || p = .yielded))

/-- The index of a core's record in its kernel's save (R327). -/
def Kernel.recordIndex (K : Kernel) (pcn : Nat) : Nat := (K.seats.filter (fun t => decide (t.pcn < pcn))).length

/-- Spill slots at or above the declared sizes of a core's streams (R90). -/
def State.keptOf (s : State) (k pcn : Nat) : List KeptSlots :=
  let K := s.kernel k
  [Eng.ap, .xp, .mx].map (fun e =>
    let m := s.stream { core := pcn, eng := e }
    { idx := K.recordIndex pcn, eng := e
      spill := m.spill.filter (fun p => decide (K.hdr.spillOf e ≤ p.1))
      vspill := m.vspill.filter (fun p => decide (K.hdr.spillv ≤ p.1)) })

/-- One core's save is written, and the slots beside it are kept (R90, R146). -/
def State.saveOne (s : State) (k pcn base : Nat) : State :=
  (s.modKernel k (fun K => { K with kept := K.kept ++ s.keptOf k pcn, saved := pcn :: K.saved })).saveCore k
    ((s.kernel k).recordIndex pcn) pcn base

/-- The save of a core whose last stream has yielded, written at the place the save takes by first fit (R146, R327). In
host-assisted mode the driver names the place later, and the cores hold their state meanwhile (R386). -/
def State.coreSave (s : State) (pcn : Nat) : State :=
  match (s.core pcn).kernel with
  | none => s
  | some k =>
    if s.assisted 9 then s
    else
      let place := match (s.kernel k).saveAt with
        | some a => some a.toNat
        | none => s.savePlace k
      match place with
      | none => s
      | some a =>
        if !(s.saveOpen k a) then s
        else
        (s.modKernel k (fun K => { K with saveAt := some (word a) })).saveOne k pcn a

/-- Some stream of a core has yielded. -/
def State.coreYielded (s : State) (pcn : Nat) : Bool :=
  [Eng.ap, .xp, .mx].any (fun e => (s.stream { core := pcn, eng := e }).phase = .yielded)

/-- Every access of a core's streams is performed, and every interpolation of its XP has written its register (R188). -/
def State.corePerformed (s : State) (pcn : Nat) : Bool :=
  [Eng.ap, .xp, .mx].all (fun e => (s.stream { core := pcn, eng := e }).pend.isEmpty) && (s.core pcn).interp.isEmpty

/-- A core's save can be taken: its streams have stopped, one of them by `kn.yield`, and what they issued is performed, so
that the save holds every store that an element of a queue register releases (R139, R146, R348). -/
def State.saveDue (s : State) (pcn : Nat) : Bool := s.coreStopped pcn && s.coreYielded pcn && s.corePerformed pcn

/-- The stream has executed `kn.end` (R140): it leaves LIVE at its core's barriers (R296). Where the core's other streams
have yielded, its save is taken now (R146). -/
def State.endStream (s : State) (id : StreamId) : State :=
  let s := (((s.barLeaving id).modStream id (fun m => { m with phase := .ended, wait := .none }))).barLeave id
  if s.saveDue id.core then s.coreSave id.core else s

/-- The waits of `kn.yield` are over: those of `kn.end`, the performance of its own accesses, and in the XP its
interpolations, whose results the save holds (R146, R188, R348). -/
def State.yieldReady (s : State) (id : StreamId) : Bool :=
  s.endReady id && (s.stream id).pend.isEmpty && (id.eng != .xp || (s.core id.core).interp.isEmpty)

/-- `kn.yield` takes effect (R146): on a locked tract a context save that is host-assisted is FRAME_FATAL (R120). -/
def State.yieldStream (s : State) (id : StreamId) : State :=
  if s.locked id.core && s.assisted 9 then s.streamFault id .frameFatal 0
  else
    let s := s.modStream id (fun m => { m with phase := .yielded, wait := .none })
    if s.saveDue id.core then s.coreSave id.core else s

/-- `kn.end` (R140). -/
def execKnEnd (s : State) : Out :=
  if s.me.inStub then s.fault .stubForm
  else if s.endReady s.cur then .next (s.endStream s.cur)
  else .next (s.waitFor .ending)

/-- STREAM_END (R140): the waits of `kn.end` are satisfied. -/
def execStreamEnd (pcn : Nat) (eng : Eng) (s : State) : Out :=
  let id : StreamId := { core := pcn, eng := eng }
  if (s.stream id).wait = .ending && s.awake pcn && s.endReady id then .next (s.endStream id) else .next s

/-- The other declared streams of the issuing stream's core have all ended (R141). -/
def State.alone (s : State) (id : StreamId) : Bool :=
  [Eng.ap, .xp, .mx].all (fun e =>
    e = id.eng || !((s.declared id.core).getLsbD e.num) || (s.stream { core := id.core, eng := e }).phase = .ended)

/-- `kn.rdv` (R141). -/
def execKnRdv (s : State) : Out := if s.alone s.cur then .next s else .next (s.waitFor .rdv)

/-- RENDEZVOUS_RELEASE (R141): every declared stream of the core that has not ended waits at a `kn.rdv`, and has
performed what its arrival releases. -/
def execRendezvousRelease (pcn : Nat) (s : State) : Out :=
  let ids := ([Eng.ap, .xp, .mx].filter (fun e =>
    (s.declared pcn).getLsbD e.num && (s.stream { core := pcn, eng := e }).phase != .ended)).map
      (fun e => ({ core := pcn, eng := e } : StreamId))
  if s.awake pcn && !ids.isEmpty && ids.all (fun id => (s.stream id).wait = .rdv && (s.stream id).pend.isEmpty) then
    .next (ids.foldl (fun s id => s.complete id) s)
  else .next s

/-- `kn.yield` (R146). -/
def execKnYield (s : State) : Out :=
  if !s.me.inStub then s.fault .stubForm
  else if s.yieldReady s.cur then .next (s.yieldStream s.cur)
  else .next (s.waitFor .yielding)

/-- YIELD_COMPLETE (R146). -/
def execYieldComplete (pcn : Nat) (eng : Eng) (s : State) : Out :=
  let id : StreamId := { core := pcn, eng := eng }
  if (s.stream id).wait = .yielding && s.awake pcn && s.yieldReady id then .next (s.yieldStream id) else .next s

/-- `kn.pend` (R149): 1 while a pre-emption request is pending for the kernel. -/
def execKnPend (d : BitVec 5) (s : State) : Out :=
  let p := match s.myCore.kernel with
    | none => false
    | some k => (s.kernel k).preempt
  .next (s.wx d (word (num p)))

/-! ### Queue registers -/

/-- The elements of a queue register, oldest first. -/
def Core.queueOf (c : Core) (q : Nat) : List QElem := c.q.toList.getD q []
/-- Occupancy at the start of the tract cycle (R137). -/
def Core.occupancy (c : Core) (q : Nat) : Nat :=
  ((c.queueOf q).filter (fun e => !e.new)).length + c.popped.toList.getD q 0

/-- An element can be popped: it was there at the start of the cycle, and what its push releases is performed (R137,
R139). -/
def Core.poppable (c : Core) (q : Nat) : Option QElem :=
  match c.queueOf q with
  | [] => none
  | e :: _ => if e.new || (c.stream e.eng).pend.any (fun a => decide (a.seq < e.seq)) then none else some e

/-- The oldest element leaves a queue register. -/
def State.popQueue (s : State) (pcn q : Nat) : State :=
  s.modCore pcn (fun c => { c with
    q := c.q.setIfInBounds q ((c.queueOf q).tail)
    popped := c.popped.setIfInBounds q (c.popped.toList.getD q 0 + 1) })

/-- An element enters a queue register, carrying the accesses its push releases (R139). -/
def State.pushQueue (s : State) (id : StreamId) (q : Nat) (v : Word) : State :=
  let e : QElem := { v := if q < 6 then v else v &&& 1, eng := id.eng, seq := (s.stream id).seq, new := true }
  s.modCore id.core (fun c => { c with q := c.q.setIfInBounds q (c.queueOf q ++ [e]) })

/-- The engine at the other end has ended (R138). -/
def State.endedAt (s : State) (pcn : Nat) (e : Eng) : Bool := (s.stream { core := pcn, eng := e }).phase = .ended

/-- What a pop finds (R137, R138). -/
inductive Popped where
  | dead
  | wait
  | got (v : Word)
  deriving DecidableEq, Repr

def State.pop (s : State) (pcn q : Nat) : Popped :=
  let c := s.core pcn
  if (c.queueOf q).isEmpty then (if s.endedAt pcn (queuePusher q) then .dead else .wait)
  else match c.poppable q with
    | none => .wait
    | some e => .got e.v

/-- A push finds room (R137): occupancy counts at the start of the cycle. -/
def State.room (s : State) (pcn q : Nat) : Bool :=
  decide ((s.core pcn).occupancy q < queueDepth q) && decide (((s.core pcn).queueOf q).length < queueDepth q)

/-- A pop (R150): `w` writes the element, `wt` is the named wait. -/
def State.qpop (s : State) (q : Nat) (w : State → Word → State) (wt : Wait) : Out :=
  if s.me.inStub then s.fault .stubQueue
  else match s.pop s.cur.core q with
    | .dead => s.fault .queueDead
    | .wait => .next (s.waitFor wt)
    | .got v => .next (w (s.popQueue s.cur.core q) v)

/-- A push (R150). -/
def State.qpush (s : State) (q : Nat) (v : Word) : Out :=
  if s.me.inStub then s.fault .stubQueue
  else if s.room s.cur.core q then .next (s.pushQueue s.cur q v)
  else if s.endedAt s.cur.core (queuePopper q) then s.fault .queueDead
  else .next (s.waitFor (.push q v))

/-- `q.pop` (R150). -/
def execQPop (d a : BitVec 5) (s : State) : Out := s.qpop a.toNat (fun s v => s.wx d v) (.popX d a.toNat)
/-- `q.push` (R150). -/
def execQPush (d a : BitVec 5) (s : State) : Out := s.qpush d.toNat (s.rx a)
/-- `q.cnt` (R150). -/
def execQCnt (d a : BitVec 5) (s : State) : Out :=
  if s.me.inStub then s.fault .stubQueue else .next (s.wx d (word (s.myCore.occupancy a.toNat)))
/-- `q.popc` (R150). -/
def execQPopc (d a : BitVec 5) (s : State) : Out :=
  s.qpop a.toNat (fun s v => s.wc d.toNat (v &&& 1 != 0)) (.popC d a.toNat)
/-- `q.pushc` (R150). -/
def execQPushc (d a : BitVec 5) (s : State) : Out := s.qpush d.toNat (word (num (s.me.rc a.toNat)))
/-- The compact `q.pop` (R65). -/
def execCompactPop (q : BitVec 3) (d : BitVec 5) (s : State) : Out :=
  s.qpop q.toNat (fun s v => s.wx d v) (.popX d q.toNat)
/-- The compact `q.push` (R65). -/
def execCompactPush (q : BitVec 3) (a : BitVec 5) (s : State) : Out := s.qpush q.toNat (s.rx a)

/-- QUEUE_POP_UNBLOCK (R137, R138): a blocked pop takes its element, or QUEUE_DEAD once its pusher has ended. -/
def execQueuePopUnblock (pcn : Nat) (eng : Eng) (s : State) : Out :=
  let id : StreamId := { core := pcn, eng := eng }
  if !s.awake pcn then .next s
  else match (s.stream id).wait with
    | .popX d q =>
      (match s.pop pcn q with
       | .dead => .next (s.streamFault id .queueDead 0)
       | .wait => .next s
       | .got v => .next (((s.popQueue pcn q).modStream id (fun m => m.wx d v)).complete id))
    | .popC d q =>
      (match s.pop pcn q with
       | .dead => .next (s.streamFault id .queueDead 0)
       | .wait => .next s
       | .got v => .next (((s.popQueue pcn q).modStream id (fun m => m.wc d.toNat (v &&& 1 != 0))).complete id))
    | _ => .next s

/-- QUEUE_PUSH_UNBLOCK (R137, R138): a blocked push finds a slot, or QUEUE_DEAD once its popper has ended. -/
def execQueuePushUnblock (pcn : Nat) (eng : Eng) (s : State) : Out :=
  let id : StreamId := { core := pcn, eng := eng }
  if !s.awake pcn then .next s
  else match (s.stream id).wait with
    | .push q v =>
      if s.room pcn q then .next ((s.pushQueue id q v).complete id)
      else if s.endedAt pcn (queuePopper q) then .next (s.streamFault id .queueDead 0)
      else .next s
    | _ => .next s

/-! ### sys -/

/-- The identifier SEL of a stream (R133). -/
def State.ident (s : State) (sel : Nat) : Word :=
  let c := s.myCore
  let K := match c.kernel with
    | none => ({} : Kernel)
    | some k => s.kernel k
  let g := K.gshp.toNat
  match sel with
  | 0 => word c.gdie
  | 1 => word c.gclu
  | 2 => word c.gcor
  | 3 => word c.stg
  | 4 => word s.cur.eng.num
  | 5 => K.kid.setWidth 64
  | 6 => word (g % 4 + 1)
  | 7 => word (g / 2 ^ 2 % 16 + 1)
  | 8 => word (g / 2 ^ 6 % 8 + 1)
  | 9 => word (g / 2 ^ 9 % 16 + 1)
  | 10 => K.run
  | _ => word s.cur.core

/-- `sys.id` (R133, R151). -/
def execSysId (d sel : BitVec 5) (s : State) : Out := .next (s.wx d (s.ident sel.toNat))

/-- TAGS (R259): bit t is 1 when tag t's count is 0. -/
def Core.tagWord (c : Core) : Word :=
  word ((List.range 64).foldl (fun acc t => if c.tags.toList.getD t 0 = 0 then acc + 2 ^ t else acc) 0)

/-- The system register SRN (R152). -/
def State.sysReg (s : State) (r : Nat) : Word :=
  if r < 32 then (s.myCore.bfmt.toList.getD r 0).setWidth 64
  else if r = 0x20 then s.me.spw.setWidth 64
  else if r = 0x21 then word s.me.repc
  else if r = 0x22 then s.myCore.tagWord
  else if r = 0x23 then s.helm.mode.setWidth 64
  else word s.me.dpc

/-- `sys.rd` (R151, R152). -/
def execSysRd (d : BitVec 5) (r : BitVec 10) (s : State) : Out := .next (s.wx d (s.sysReg r.toNat))

/-- A value that a BFMT register accepts (R33). -/
def bfmtOk (v : BitVec 32) : Bool :=
  let e := (v.extractLsb' 28 4).toNat
  let lay := (v.extractLsb' 26 2).toNat
  e < 14 && lay < 2 && (lay = 0 || e = 1 || e = 2 || e = 9 || e = 10 || e = 11)

/-- `sys.wr` (R151, R152): BFMT under R33, or SPW, which applies from the next word. -/
def execSysWr (d : BitVec 5) (r : BitVec 10) (s : State) : Out :=
  let v := s.rx d
  if r.toNat < 32 then
    if bfmtOk (v.setWidth 32) then
      .next (s.modMyCore (fun c => { c with bfmt := c.bfmt.setIfInBounds r.toNat (bfmtMask (v.setWidth 32)) }))
    else s.fault .illegalFormat
  else .next (s.modMe (fun m => { m with spw := v.setWidth 8 }))

/-- `sys.trap` (R151): the kernel fault TRAP, its record carrying the code. DEDUCED (assumption 51). -/
def execSysTrap (k : BitVec 10) (s : State) : Out := .next (s.streamFault s.cur .trap k.toNat)

/-- `sys.scall` (R153): the call is sent to the service side of the core's die; on a locked tract with host-assisted
dispatch it is FRAME_FATAL (R120). -/
def execSysScall (d a b : BitVec 5) (s : State) : Out :=
  let req := s.rx b
  if bits req 63 24 ≠ 0 then s.fault .scallForm
  else if s.locked s.cur.core && s.assisted 7 then s.fault .frameFatal
  else
    let call : Scall := { id := s.nextScall, who := s.cur, asid := (s.kernel (s.myCore.kernel.getD 0)).asid
                          kid := (s.ident 5).setWidth 16,
                          svc := BitVec.ofNat 16 (bits req 23 8), tok := BitVec.ofNat 8 (bits req 7 0),
                          arg := s.rx a, req := req }
    .next (({ s with scalls := s.scalls ++ [call], nextScall := s.nextScall + 1 }).waitFor (.scall d s.nextScall))

/-- SCALL_RETURN (R153, R357): what the service wrote is performed, the answer is written, and the next word may issue. -/
def execScallReturn (pcn : Nat) (eng : Eng) (s : State) : Out :=
  let id : StreamId := { core := pcn, eng := eng }
  if !s.awake pcn then .next s
  else match (s.stream id).wait with
    | .scall d n =>
      (match s.scalls.find? (fun c => c.id = n) with
       | some c =>
         (match if s.owing (.svc (pcn / 128) c.asid) || !c.writes.isEmpty then none else c.answer with
          | some v =>
            .next ((({ s with scalls := s.scalls.filter (fun c => c.id != n) }).modStream id
              (fun m => m.wx d v)).complete id)
          | none => .next s)
       | none => .next s)
    | _ => .next s

/-- `sys.fence` (R268, R269): at scope core and wider the next word stalls until every earlier access of a selected
class, or of class 15, is performed. -/
def execSysFence (mask : BitVec 15) (scope : BitVec 3) (s : State) : Out :=
  if scope = 0 then .next s
  else .next (s.modMe (fun m => { m with fence := m.fence ||| (0x8000#16 ||| mask.setWidth 16) }))

end Sys2Proof.Machine
end

