-- ==== Sys2Proof/Machine/Numbers.lean ====
section
/-! DEFINITION. Machine/Numbers.lean: number formats and exact arithmetic (02_numbers.md, R22 to R44). A float pattern
is a Nat below 2^width; an exact result is a sign and a rational num/den × 2^e, rounded once where a rule says so. -/

namespace Sys2Proof.Machine

/-- The float formats (R24). -/
inductive FFmt where
  | fp8 | fp16 | bf16 | fp32
  deriving DecidableEq, Repr, Inhabited

/-- Bits of a pattern (R24). -/
def FFmt.width : FFmt → Nat
  | .fp8 => 8 | .fp16 => 16 | .bf16 => 16 | .fp32 => 32
/-- Fraction bits (R24). -/
def FFmt.frac : FFmt → Nat
  | .fp8 => 3 | .fp16 => 10 | .bf16 => 7 | .fp32 => 23
/-- Exponent bias (R24). -/
def FFmt.bias : FFmt → Nat
  | .fp8 => 7 | .fp16 => 15 | .bf16 => 127 | .fp32 => 127
/-- Magnitude of the largest finite value (R24). -/
def FFmt.maxFin : FFmt → Nat
  | .fp8 => 0x7E | .fp16 => 0x7BFF | .bf16 => 0x7F7F | .fp32 => 0x7F7FFFFF
/-- Magnitude pattern of infinity where the format has one (R24). -/
def FFmt.inf? : FFmt → Option Nat
  | .fp8 => none | .fp16 => some 0x7C00 | .bf16 => some 0x7F80 | .fp32 => some 0x7F800000
/-- The canonical NaN (R26). -/
def FFmt.nan : FFmt → Nat
  | .fp8 => 0x7F | .fp16 => 0x7E00 | .bf16 => 0x7FC0 | .fp32 => 0x7FC00000
/-- Exponent of the least significant bit of a subnormal (R25). -/
def FFmt.qmin (f : FFmt) : Int := 1 - (f.bias : Int) - f.frac

/-- What a pattern stands for: NaN, an infinity, or a sign and m × 2^e (m = 0 for a zero). -/
inductive FVal where
  | nan
  | inf (neg : Bool)
  | fin (neg : Bool) (m : Nat) (e : Int)
  deriving DecidableEq, Repr, Inhabited

/-- The value of a pattern (R25). -/
def FFmt.decode (f : FFmt) (p : Nat) : FVal :=
  let neg := p / 2 ^ (f.width - 1) % 2 = 1
  let mag := p % 2 ^ (f.width - 1)
  let e := mag / 2 ^ f.frac
  let fr := mag % 2 ^ f.frac
  match f.inf? with
  | some i =>
    if mag = i then .inf neg
    else if i < mag then .nan
    else if e = 0 then .fin neg fr f.qmin
    else .fin neg (2 ^ f.frac + fr) (f.qmin + (e : Int) - 1)
  | none =>
    if mag = f.nan then .nan
    else if e = 0 then .fin neg fr f.qmin
    else .fin neg (2 ^ f.frac + fr) (f.qmin + (e : Int) - 1)

/-- An exact result: NaN, an infinity, or ± num/den × 2^e. -/
inductive XVal where
  | nan
  | inf (neg : Bool)
  | val (neg : Bool) (num den : Nat) (e : Int)
  deriving DecidableEq, Repr, Inhabited

/-- A pattern's value as an exact result. -/
def FVal.exact : FVal → XVal
  | .nan => .nan
  | .inf n => .inf n
  | .fin n m e => .val n m 1 e

/-- The value with its sign reversed. -/
def FVal.neg : FVal → FVal
  | .nan => .nan
  | .inf n => .inf (!n)
  | .fin n m e => .fin (!n) m e

/-- The product of two values (R26, R27). -/
def FVal.mul : FVal → FVal → FVal
  | .nan, _ => .nan
  | _, .nan => .nan
  | .inf a, .inf b => .inf (a != b)
  | .inf a, .fin b m _ => if m = 0 then .nan else .inf (a != b)
  | .fin a m _, .inf b => if m = 0 then .nan else .inf (a != b)
  | .fin a m e, .fin b n e' => .fin (a != b) (m * n) (e + e')

/-- The signed integer of a value in units of 2^q, for q at or below its exponent. -/
def FVal.units (q : Int) : FVal → Int
  | .fin n m e => (if n then -1 else 1) * ((m * 2 ^ (e - q).toNat : Nat) : Int)
  | _ => 0

/-- The least exponent of a list of values. -/
def FVal.minExp : List FVal → Int → Int
  | [], q => q
  | .fin _ _ e :: r, q => FVal.minExp r (min q e)
  | _ :: r, q => FVal.minExp r q

/-- Is the value −0? -/
def FVal.isNegZero : FVal → Bool
  | .fin true 0 _ => true
  | _ => false

/-- The exact sum of a list of addends. An exact zero is +0 unless every addend is −0 (R26, R27).
DEDUCED (assumption 41). -/
def FVal.sum (vs : List FVal) : XVal :=
  if vs.any (fun v => v = .nan) then .nan
  else
    let pos := vs.any (fun v => v = .inf false)
    let neg := vs.any (fun v => v = .inf true)
    if pos && neg then .nan
    else if pos then .inf false
    else if neg then .inf true
    else
      let q := FVal.minExp vs 0
      let s : Int := vs.foldl (fun acc v => acc + v.units q) 0
      if s = 0 then .val (vs.all FVal.isNegZero) 0 1 0
      else .val (decide (s < 0)) s.natAbs 1 q

/-- floor(log2(num/den)) for num, den > 0. -/
def ratLog (num den : Nat) : Int :=
  let l : Int := (Nat.log2 num : Int) - Nat.log2 den
  if 0 ≤ l then (if num < den * 2 ^ l.toNat then l - 1 else l)
  else (if num * 2 ^ (-l).toNat < den then l - 1 else l)

/-- n/d rounded to an integer, to nearest even or toward zero (R28). -/
def roundQuot (rz : Bool) (n d : Nat) : Nat :=
  let q := n / d
  let r := n % d
  if rz then q
  else if 2 * r > d ∨ (2 * r = d ∧ q % 2 = 1) then q + 1 else q

/-- num/den × 2^e in units of 2^q, rounded to an integer. -/
def roundUnits (rz : Bool) (num den : Nat) (e q : Int) : Nat :=
  if q ≤ e then roundQuot rz (num * 2 ^ (e - q).toNat) den
  else roundQuot rz num (den * 2 ^ (q - e).toNat)

/-- The magnitude pattern of a positive rational rounded into f, possibly past the largest finite (R28). -/
def FFmt.roundMag (f : FFmt) (rz : Bool) (num den : Nat) (e : Int) : Nat :=
  if num = 0 then 0
  else
    let q := max (e + ratLog num den - f.frac) f.qmin
    (q - f.qmin).toNat * 2 ^ f.frac + roundUnits rz num den e q

/-- A magnitude pattern with its sign. -/
def FFmt.signed (f : FFmt) (neg : Bool) (mag : Nat) : Nat :=
  if neg then mag + 2 ^ (f.width - 1) else mag

/-- Infinity where the format has one, else the largest finite (R28). -/
def FFmt.infOrMax (f : FFmt) : Nat := (f.inf?).getD f.maxFin

/-- An exact result of float arithmetic rounded once into f (R26, R28). -/
def FFmt.arith (f : FFmt) (rz : Bool) : XVal → Nat
  | .nan => f.nan
  | .inf n => f.signed n f.infOrMax
  | .val n num den e =>
    let m := f.roundMag rz num den e
    f.signed n (if f.maxFin < m then (if rz then f.maxFin else f.infOrMax) else m)

/-- Is num/den × 2^e above the largest finite of f? -/
def FFmt.above (f : FFmt) (num den : Nat) (e : Int) : Bool :=
  match f.decode f.maxFin with
  | .fin _ m q => if e ≤ q then decide (m * 2 ^ (q - e).toNat * den < num)
                  else decide (m * den < num * 2 ^ (e - q).toNat)
  | _ => false

/-- A value converted to f: a finite value above the largest finite saturates (R28, R36, R39). -/
def FFmt.conv (f : FFmt) (rz : Bool) : XVal → Nat
  | .nan => f.nan
  | .inf n => f.signed n f.infOrMax
  | .val n num den e =>
    if f.above num den e then f.signed n f.maxFin
    else f.signed n (min (f.roundMag rz num den e) f.maxFin)

/-- The integer range of R22 for a width. -/
def intMin (w : Nat) (sgn : Bool) : Int := if sgn then -(2 ^ (w - 1) : Nat) else 0
def intMax (w : Nat) (sgn : Bool) : Int := if sgn then (2 ^ (w - 1) : Nat) - 1 else (2 ^ w : Nat) - 1

/-- An integer clamped to the range of a format (R74 `sat`). -/
def satInt (w : Nat) (sgn : Bool) (v : Int) : Int := max (intMin w sgn) (min (intMax w sgn) v)

/-- A value converted to an integer format: rounded, then saturated; NaN gives 0 (R28, R36). -/
def convInt (w : Nat) (sgn : Bool) (rz : Bool) : XVal → Int
  | .nan => 0
  | .inf n => if n then intMin w sgn else intMax w sgn
  | .val n num den e =>
    let m : Int := roundUnits rz num den e 0
    satInt w sgn (if n then -m else m)

/-- The bits of an integer in a width (R23). -/
def intBits (w : Nat) (v : Int) : Nat := (v % ((2 ^ w : Nat) : Int)).toNat

/-- A width-w pattern read as a signed or unsigned integer (R74 `sext`, `zext`). -/
def bitsInt (w : Nat) (sgn : Bool) (p : Nat) : Int :=
  if sgn ∧ 2 ^ (w - 1) ≤ p % 2 ^ w then (p % 2 ^ w : Nat) - (2 ^ w : Nat) else (p % 2 ^ w : Nat)

/-- An integer as an exact result. -/
def intExact (v : Int) : XVal := .val (decide (v < 0)) v.natAbs 1 0

/-- The magnitudes of NQ4 (R29). -/
def nq4Mag (i : Nat) : Nat := #[11, 33, 55, 80, 107, 139, 181, 256].getD (i % 8) 256

/-- The unscaled value of an NQ4 code in units of 1/256 (R29). -/
def nq4Int (code : Nat) : Int :=
  if code / 8 % 2 = 1 then -(nq4Mag (code % 8) : Int) else nq4Mag (code % 8)

/-- Compares num/den × 2^e with a/512. -/
def cmp512 (num den : Nat) (e : Int) (a : Nat) : Ordering :=
  if 0 ≤ e then compare (num * 2 ^ e.toNat * 512) (a * den)
  else compare (num * 512) (a * den * 2 ^ (-e).toNat)

/-- The NQ4 code of an exact value: nearest magnitude, a tie to the even index (R39, q4 row). -/
def nq4Code : XVal → Nat
  | .nan => 7
  | .inf n => if n then 15 else 7
  | .val n num den e =>
    let i := (List.range 7).foldl (fun acc k =>
      match cmp512 num den e (nq4Mag k + nq4Mag (k + 1)) with
      | .gt => k + 1
      | .eq => if k % 2 = 0 then k else k + 1
      | .lt => acc) 0
    if n then i + 8 else i

/-- An exact value divided by a positive dyadic m × 2^q (R244, CONVERT). -/
def XVal.divBy (m : Nat) (q : Int) : XVal → XVal
  | .val n num den e => .val n num (den * m) (e - q)
  | v => v

/-- An exact value times a dyadic ± m × 2^q. -/
def XVal.mulBy (s : Bool) (m : Nat) (q : Int) : XVal → XVal
  | .val n num den e => .val (n != s) (num * m) den (e + q)
  | v => v

/-- A BF16 immediate brought to a float type (R39). -/
def bf16Imm (f : FFmt) (p : Nat) : Nat := f.conv false (FFmt.bf16.decode p).exact

/-- Smaller-or-equal of two values with −0 below +0 (R182); NaN is handled by the callers. -/
def FVal.le : FVal → FVal → Bool
  | .inf true, _ => true
  | _, .inf false => true
  | .inf false, _ => false
  | _, .inf true => false
  | .fin a m e, .fin b n e' =>
    let q := min e e'
    let x := FVal.units q (.fin a m e)
    let y := FVal.units q (.fin b n e')
    if x = y then (m != 0 || a || !b) else decide (x < y)
  | _, _ => false

/-- Equality of two values, −0 equal to +0 (R185). -/
def FVal.eqv : FVal → FVal → Bool
  | .inf a, .inf b => a = b
  | .fin a m e, .fin b n e' =>
    let q := min e e'
    FVal.units q (.fin a m e) = FVal.units q (.fin b n e')
  | _, _ => false

/-- The greatest r with r² ≤ n, for n < 4^k, found bit by bit from the top. -/
def isqrtBits (n : Nat) : Nat → Nat → Nat
  | 0, r => r
  | k + 1, r => if (r + 2 ^ k) * (r + 2 ^ k) ≤ n then isqrtBits n k (r + 2 ^ k) else isqrtBits n k r

/-- √(m × 2^e) as an exact-enough dyadic: 40 bits below the root's unit and a sticky bit, so one rounding into any
format of R24 is the rounding of the exact root. -/
def sqrtExact (m : Nat) (e : Int) : XVal :=
  let e0 := if e % 2 = 0 then e else e - 1
  let n := (if e % 2 = 0 then m else 2 * m) * 2 ^ 80
  let r := isqrtBits n (Nat.log2 n / 2 + 1) 0
  .val false (2 * r + (if r * r = n then 0 else 1)) 1 (e0 / 2 - 41)

/-- √a (R26, R182). -/
def FVal.sqrt : FVal → XVal
  | .nan => .nan
  | .inf n => if n then .nan else .inf false
  | .fin n m e => if m = 0 then .val n 0 1 0 else if n then .nan else sqrtExact m e

/-- 1/a (R182). -/
def FVal.rcp : FVal → XVal
  | .nan => .nan
  | .inf n => .val n 0 1 0
  | .fin n m e => if m = 0 then .inf n else .val n 1 m (-e)

/-- Element formats of R32 by EFMT: bits of one element (0 for an unassigned code). -/
def efmtWidth (e : Nat) : Nat :=
  #[8, 8, 8, 16, 16, 32, 32, 64, 8, 16, 16, 32, 4, 4, 0, 0].getD e 0

/-- Float format of an EFMT. -/
def efmtFloat (e : Nat) : Option FFmt :=
  match e with
  | 8 => some .fp8 | 9 => some .fp16 | 10 => some .bf16 | 11 => some .fp32 | _ => none

/-- Signedness of an integer EFMT. -/
def efmtSigned (e : Nat) : Bool := e = 1 || e = 3 || e = 5 || e = 7

/-- Is the EFMT block-scaled (R30)? -/
def efmtBlock (e : Nat) : Bool := e = 12 || e = 13

/-- The exact value of an element of a format that is neither RAW nor block-scaled. DEDUCED (assumption 41). -/
def elemExact (e : Nat) (p : Nat) : XVal :=
  match efmtFloat e with
  | some f => (f.decode p).exact
  | none => intExact (bitsInt (efmtWidth e) (efmtSigned e) p)

/-- An exact value into an element format, by the conversion rows of R28 (R36, R37). -/
def elemOf (e : Nat) (rz : Bool) (v : XVal) : Nat :=
  match efmtFloat e with
  | some f => f.conv rz v
  | none => intBits (efmtWidth e) (convInt (efmtWidth e) (efmtSigned e) rz v)

/-- One element converted between two formats that are not block-scaled (R36). -/
def convElem (src dst : Nat) (p : Nat) : Nat :=
  if src = 0 ∨ dst = 0 ∨ src = dst then p
  else
    match efmtFloat src, efmtFloat dst with
    | none, none => intBits (efmtWidth dst)
        (satInt (efmtWidth dst) (efmtSigned dst) (bitsInt (efmtWidth src) (efmtSigned src) p))
    | _, _ => elemOf dst false (elemExact src p)

/-- The block scale S × (s+1) × 2^−16 applied to an unscaled 4-bit code (R30); the super-scale as an FP32 pattern. -/
def scaled4 (efmt : Nat) (sup : Nat) (s : Nat) (code : Nat) : XVal :=
  let u : Int := if efmt = 12 then nq4Int code else bitsInt 4 true code
  let uq : Int := if efmt = 12 then -8 else 0
  match FFmt.fp32.decode sup with
  | .fin n m e => .val (n != decide (u < 0)) (m * (s + 1) * u.natAbs) 1 (e - 16 + uq)
  | _ => .nan

/-- The code a CONVERT gives an element value v for the block scale bs = S × (s+1) × 2^−16 (R244). -/
def quantise (tfmt : Nat) (sup : Nat) (s : Nat) (v : XVal) : Nat :=
  match FFmt.fp32.decode sup with
  | .fin n m e =>
    let d := (v.divBy (m * (s + 1)) (e - 16)).mulBy n 1 0
    if tfmt = 12 then nq4Code d else intBits 4 (convInt 4 true false d)
  | _ => 0

/-- floor(log2 |x|) of a non-zero finite value. -/
def FVal.ilog : FVal → Option Int
  | .fin _ m e => if m = 0 then none else some ((Nat.log2 m : Int) + e)
  | _ => none

/-- The common exponent of a K-block (R40), 0 for a block of zeros. -/
def blockExp (vs : List FVal) : Int :=
  match vs.filterMap FVal.ilog with
  | [] => 0
  | x :: r => r.foldl max x

/-- An element aligned to rne(x × 2^(k−e)) (R40 with k = 14, R41 with k = 29). -/
def alignElem (k : Nat) (e : Int) : FVal → Int
  | .fin n m q =>
    let u : Int := roundUnits false m 1 (q + k - e) 0
    if n then -u else u
  | _ => 0

end Sys2Proof.Machine
end

