-- ==== Sys2Proof/Machine/Memory.lean ====
section
/-! DEFINITION. Machine/Memory.lean: scratchpad accesses of streams: ld and st (R178), vm (R180), the bank atomics (R230,
R231), monitored waits (R232 to R234), `rg.claim` (R192), and their performance at the home bank (R225 to R229, R262 to
R267). -/

namespace Sys2Proof.Machine

/-! ### Rows and lanes -/

/-- The w bytes of a row from an offset, wrapping within the row (R178, R230). -/
def Row.bytesAt (r : Row) (off : Nat) : Nat → Nat
  | 0 => 0
  | w + 1 => (Row.byte r (off % 64)).toNat + 256 * Row.bytesAt r (off + 1) w

/-- One byte of a row replaced. -/
def Row.setByte (r : Row) (j : Nat) (b : Byte) : Row :=
  (r &&& ~~~((0xFF#512) <<< (8 * j))) ||| ((b.setWidth 512) <<< (8 * j))

/-- The w low bytes of a number written from an offset, wrapping within the row (R178, R230). -/
def Row.putBytes (r : Row) (off v : Nat) : Nat → Row
  | 0 => r
  | w + 1 => Row.putBytes (Row.setByte r (off % 64) (BitVec.ofNat 8 v)) (off + 1) (v / 256) w

/-- Bytes of a lane type W (R230). -/
def laneBytes (w : BitVec 3) : Nat := #[1, 2, 4, 8, 2, 4, 0, 0].getD w.toNat 0

/-- The lane result of an atomic (R230, R231). -/
def atomicResult (op : AtOp) (w : BitVec 3) (old opd cmp : Nat) : Nat :=
  let bits_ := 8 * laneBytes w
  let s (v : Nat) : Int := bitsInt bits_ true v
  match op with
  | .add => (old + opd) % 2 ^ bits_
  | .and => Nat.land old opd
  | .or => Nat.lor old opd
  | .xor => Nat.xor old opd
  | .min => if s opd < s old then opd else old
  | .max => if s old < s opd then opd else old
  | .minu => min old opd
  | .maxu => max old opd
  | .swap => opd
  | .cas => if old = opd then cmp else old
  | .fadd =>
    let f : FFmt := if w = 4 then .bf16 else .fp32
    f.arith false (FVal.sum [f.decode old, f.decode opd])

/-- The return condition of a monitored wait (R232). -/
def monHolds (op : MonOp) (w : BitVec 3) (lane v : Nat) : Bool :=
  let b := 8 * laneBytes w
  match op with
  | .eq => lane != v
  | .ne => lane = v
  | .ge => decide (bitsInt b true v ≤ bitsInt b true lane)
  | .geu => decide (v ≤ lane)

/-! ### Writes to a row -/

/-- The latency of a row load: local, or through the window and for status rows (R171, R229). -/
def latency (win : Bool) : Nat := if win then 12 else 4

/-- A bank answers a monitored wait with the lane: it reaches the stream with the latency of a row load, counted from the
answer (R233). -/
def State.answer (s : State) (id : StreamId) (d : BitVec 5) (win : Bool) (v : Word) : State :=
  if (s.stream id).wait = .monitor d then
    s.modStream id (fun m => { m with wait := .answered d v, late := m.late ++ [(.x d, latency win)] })
  else s

/-- The monitors of a row are re-tested in the step of every write to it (R233): those whose condition holds are
disarmed and their streams answered with the lane. -/
def State.retest (s : State) (core row : Nat) : State :=
  let r := (s.core core).row row
  let hit (m : Monitor) : Bool :=
    m.row = row && monHolds m.op m.w (Row.bytesAt r m.off (laneBytes m.w)) m.v.toNat
  let woken := (s.core core).monitors.filter hit
  let s := s.modCore core (fun c => { c with monitors := c.monitors.filter (fun m => !(hit m)) })
  woken.foldl (fun s m => s.answer m.who m.d m.win (word (Row.bytesAt r m.off (laneBytes m.w)))) s

/-- A whole row written at its home bank (R225, R226, R233). -/
def State.writeRow (s : State) (core row : Nat) (r : Row) : State :=
  (s.modCore core (fun c => { c with sp := Mem.setRow c.sp (64 * row) r })).retest core row

/-! ### Die status rows -/

/-- The phase for the next period, the phase that governs the present one, and the one that governed the period before
(R237, R238). -/
def Die.phaseNext (d : Die) (sub : Nat) : Nat := d.phase.get (sub * 500000) sub
def State.phaseNow (s : State) (die sub : Nat) : Nat :=
  let d := s.die die
  if d.period = s.period then d.inForce.get (sub * 500000) sub else d.phaseNext sub
def State.phaseBefore (s : State) (die sub : Nat) : Nat :=
  let d := s.die die
  if d.period = s.period then d.before.get (sub * 500000) sub
  else if d.period + 1 = s.period then d.inForce.get (sub * 500000) sub
  else d.phaseNext sub

/-- The start of a subarray's window of the present period, and of the window that the period before may have left in
progress (R237). -/
def State.windowNow (s : State) (die sub : Nat) : Nat := s.period * Config.refreshPeriod + s.phaseNow die sub
def State.windowBefore (s : State) (die sub : Nat) : Nat :=
  (s.period - 1) * Config.refreshPeriod + s.phaseBefore die sub

/-- The start of the subarray's window in progress: the present period's, or one of the period before whose 512 ticks run
past the boundary (R237). Where a change of phase has both in progress, which R229 and R237 do not rank, it is the present
period's. DESIGN CHOICE (assumption 122). -/
def State.windowOn (s : State) (die sub : Nat) : Option Nat :=
  let t := s.chron.toNat
  let a := s.windowNow die sub
  let b := s.windowBefore die sub
  if a ≤ t ∧ t < a + Config.refreshWindow then some a
  else if 0 < s.period ∧ t < b + Config.refreshWindow then some b
  else none

/-- WSNEXT (R229): the start of the window in progress, else of the next window. -/
def State.wsNext (s : State) (die sub : Nat) : Nat :=
  match s.windowOn die sub with
  | some a => a
  | none =>
    if s.chron.toNat < s.windowNow die sub then s.windowNow die sub
    else (s.period + 1) * Config.refreshPeriod + (s.die die).phaseNext sub

/-- WSPHASE (R229, R238): the phase that governs the next window. -/
def State.wsPhase (s : State) (die sub : Nat) : Nat :=
  if s.chron.toNat < s.windowNow die sub then s.phaseNow die sub else (s.die die).phaseNext sub

/-- A die status row (R229). -/
def State.statusRow (s : State) (die row : Nat) : Row :=
  if row < 4 then
    BitVec.ofNat 512 ((List.range 8).foldl (fun acc i => acc + s.wsNext die (8 * row + i) * 2 ^ (64 * i)) 0)
  else if row < 6 then
    BitVec.ofNat 512 ((List.range 16).foldl (fun acc i => acc + s.wsPhase die (16 * (row - 4) + i) * 2 ^ (32 * i)) 0)
  else if row = 6 then (s.die die).lost.setWidth 512
  else 0

/-- The row at a home, read in one step (R225, R229). -/
def State.homeRow (s : State) : Home → Row
  | .bank c r => (s.core c).row r
  | .status d r => s.statusRow d r

/-! ### Issuing an access -/

/-- The register whose value a row access brings counted from its issue (R171, R192); a monitored wait's is counted from
the bank's answer (R233). -/
def AccKind.timed : AccKind → Option RegName
  | .monitor _ _ _ _ => none
  | k => k.dest

/-- An access is issued: it waits, in program order, to be performed by its home bank (R263, R276). -/
def State.issue (s : State) (cls : BitVec 4) (home : Home) (off : Nat) (win : Bool) (k : AccKind) : State :=
  s.modMe (fun m => { m with
    pend := m.pend ++ [{ seq := m.seq, cls := cls, home := home, off := off, win := win, kind := k }]
    seq := m.seq + 1
    late := match k.timed with
      | some r => m.late ++ [(r, latency win)]
      | none => m.late })

/-- A load form: the address reaches a row, a status row included (R224, R229). -/
def State.issueLoad (s : State) (cls : BitVec 4) (ea : Word) (k : AccKind) : Out :=
  match reach s.cur.core ea with
  | none => s.fault .addrRange
  | some (h, win) => .next (s.issue cls h (bits ea 5 0) win k)

/-- A store, atomic, claim or monitored form: status rows fault ADDR_RANGE (R229). -/
def State.issueRow (s : State) (cls : BitVec 4) (ea : Word) (k : AccKind) : Out :=
  match reachRow s.cur.core ea with
  | none => s.fault .addrRange
  | some (c, r, win) => .next (s.issue cls (.bank c r) (bits ea 5 0) win k)

/-- `ld` (R178). -/
def execLd (d a : BitVec 5) (cl : BitVec 4) (o : BitVec 7) (s : State) : Out := s.issueLoad cl (s.ea a o) (.loadX d)
/-- `st` (R178). -/
def execSt (d a : BitVec 5) (cl : BitVec 4) (o : BitVec 7) (s : State) : Out :=
  s.issueRow cl (s.ea a o) (.storeX (s.rx d))

/-- The effective address of a vm word: base x[A[2:0]] (R180). -/
def State.vea (s : State) (a : BitVec 3) (o : BitVec 7) : Word := s.rx (a.setWidth 5) + rowOffset o

/-- `vm.ld` (R180). -/
def execVmLd (d : BitVec 5) (a : BitVec 3) (cl : BitVec 4) (o : BitVec 7) (s : State) : Out :=
  s.issueLoad cl (s.vea a o) (.loadV d)
/-- `vm.st` (R180). -/
def execVmSt (d : BitVec 5) (a : BitVec 3) (cl : BitVec 4) (o : BitVec 7) (s : State) : Out :=
  s.issueRow cl (s.vea a o) (.storeV (s.rv d))
/-- `vm.rmg` (R180): two rows, each read by an access of its own; the second address is checked separately (R224). -/
def execVmRmg (d : BitVec 5) (a : BitVec 3) (cl : BitVec 4) (o : BitVec 7) (s : State) : Out :=
  let ea := s.vea a o
  match reach s.cur.core ea, reach s.cur.core (ea + 64) with
  | some (h, win), some (h', win') =>
    .next ((s.issue cl h (bits ea 5 0) win (.rmgLow d)).issue cl h' (bits ea 5 0) win' (.rmgHigh d))
  | _, _ => s.fault .addrRange

/-- An atomic word (R230, R231): the operand is x[d], for `at.cas` also x[d + 1]. -/
def State.atomic (s : State) (op : AtOp) (d a : BitVec 5) (cl : BitVec 4) (w : BitVec 3) : Out :=
  let low (v : Word) : Word := word (v.toNat % 2 ^ (8 * laneBytes w))
  s.issueRow cl (s.base a) (.atomic op w d (low (s.rx d)) (low (s.rx (d + 1))))

/-- `at.add` (R230). -/
def execAtAdd (d a : BitVec 5) (cl : BitVec 4) (w : BitVec 3) (s : State) : Out := s.atomic .add d a cl w
/-- `at.and` (R230). -/
def execAtAnd (d a : BitVec 5) (cl : BitVec 4) (w : BitVec 3) (s : State) : Out := s.atomic .and d a cl w
/-- `at.or` (R230). -/
def execAtOr (d a : BitVec 5) (cl : BitVec 4) (w : BitVec 3) (s : State) : Out := s.atomic .or d a cl w
/-- `at.xor` (R230). -/
def execAtXor (d a : BitVec 5) (cl : BitVec 4) (w : BitVec 3) (s : State) : Out := s.atomic .xor d a cl w
/-- `at.min` (R230). -/
def execAtMin (d a : BitVec 5) (cl : BitVec 4) (w : BitVec 3) (s : State) : Out := s.atomic .min d a cl w
/-- `at.max` (R230). -/
def execAtMax (d a : BitVec 5) (cl : BitVec 4) (w : BitVec 3) (s : State) : Out := s.atomic .max d a cl w
/-- `at.minu` (R230). -/
def execAtMinu (d a : BitVec 5) (cl : BitVec 4) (w : BitVec 3) (s : State) : Out := s.atomic .minu d a cl w
/-- `at.maxu` (R230). -/
def execAtMaxu (d a : BitVec 5) (cl : BitVec 4) (w : BitVec 3) (s : State) : Out := s.atomic .maxu d a cl w
/-- `at.swap` (R230). -/
def execAtSwap (d a : BitVec 5) (cl : BitVec 4) (w : BitVec 3) (s : State) : Out := s.atomic .swap d a cl w
/-- `at.cas` (R231). -/
def execAtCas (d a : BitVec 5) (cl : BitVec 4) (w : BitVec 3) (s : State) : Out := s.atomic .cas d a cl w
/-- `at.fadd` (R230, R231). -/
def execAtFadd (d a : BitVec 5) (cl : BitVec 4) (w : BitVec 3) (s : State) : Out := s.atomic .fadd d a cl w

/-- A monitored wait (R232, R233): the check falls at the bank; the stream is in a named wait until the answer. -/
def State.monitored (s : State) (op : MonOp) (d a : BitVec 5) (cl : BitVec 4) (w : BitVec 3) : Out :=
  let v := word ((s.rx d).toNat % 2 ^ (8 * laneBytes w))
  match reachRow s.cur.core (s.base a) with
  | none => s.fault .addrRange
  | some (c, r, win) =>
    .next ((s.issue cl (.bank c r) (bits (s.base a) 5 0) win (.monitor op w d v)).waitFor (.monitor d))

/-- `mon.waiteq` (R232). -/
def execMonWaiteq (d a : BitVec 5) (cl : BitVec 4) (w : BitVec 3) (s : State) : Out := s.monitored .eq d a cl w
/-- `mon.waitne` (R232). -/
def execMonWaitne (d a : BitVec 5) (cl : BitVec 4) (w : BitVec 3) (s : State) : Out := s.monitored .ne d a cl w
/-- `mon.waitge` (R232). -/
def execMonWaitge (d a : BitVec 5) (cl : BitVec 4) (w : BitVec 3) (s : State) : Out := s.monitored .ge d a cl w
/-- `mon.waitgeu` (R232). -/
def execMonWaitgeu (d a : BitVec 5) (cl : BitVec 4) (w : BitVec 3) (s : State) : Out := s.monitored .geu d a cl w

/-- `rg.claim` (R192): class 15, on the 8-byte word at stream address x[a]; a named wait until the bank's answer. -/
def execRgClaim (d a b : BitVec 5) (s : State) : Out :=
  let ea := s.rx a
  match reachRow s.cur.core ea with
  | none => s.fault .addrRange
  | some (c, r, win) =>
    .next ((s.issue 15 (.bank c r) (bits ea 5 0) win (.claim d (s.rx b))).waitFor (.claim d))

/-! ### Performance at the home bank -/

/-- An earlier access of a stream that a later one must follow: same class, class 15 of either, or the same row (R263 to
R265). -/
def Access.blocks (early late : Access) : Bool :=
  early.cls = late.cls || early.cls = 15 || late.cls = 15 || early.home = late.home

/-- The k-th issued access may be performed (R263 to R265). -/
def eligible (pend : List Access) (k : Nat) : Bool :=
  match pend[k]? with
  | none => false
  | some a => (pend.take k).all (fun e => !(e.blocks a))

/-- Bytes of v[d] that the first or the second row of a `vm.rmg` supplies (R180). -/
def rmgMerge (high : Bool) (off : Nat) (old row : Row) : Row :=
  Row.ofBytes (fun j =>
    if decide (64 ≤ off + j) = high then Row.byte row ((off + j) % 64) else Row.byte old j)

/-- The result of an access that issued as number `seq` reaches x[d], with the strides that have fallen due meanwhile
(R52). Where the stream has diverted since, it belongs to the register state that diversion saves too (R144). -/
def Stream.result (m : Stream) (seq : Nat) (d : BitVec 5) (v : Word) : Stream :=
  let t := { m.wx d (v + m.owed.get 0 d.toNat) with owed := m.owed.erase d.toNat }
  match m.saved with
  | none => t
  | some w =>
    if seq < w.seq ∧ d ≠ 0 then
      { t with saved := some { w with
          x := w.x.set d.toNat (v + w.owed.get 0 d.toNat) d.isLt, owed := w.owed.erase d.toNat } }
    else t

/-- The same for v[d], whose bytes may come from two rows (R180). -/
def Stream.resultV (m : Stream) (old : Bool) (d : BitVec 5) (f : Row → Row) : Stream :=
  let t := m.wv d (f (m.rv d))
  match m.saved with
  | none => t
  | some w =>
    if old then { t with saved := some { w with v := w.v.set d.toNat (f (w.v.get d.toFin)) d.isLt } } else t

/-- The access issued before the stream diverted (R144). -/
def Stream.issuedBefore (m : Stream) (seq : Nat) : Bool :=
  match m.saved with
  | none => false
  | some w => seq < w.seq

/-- An access is performed at its home (R225, R231, R233). `s` has it removed from the issued accesses already. -/
def State.perform (s : State) (id : StreamId) (a : Access) : State :=
  let row := s.homeRow a.home
  let wr (r : Row) (s : State) : State :=
    match a.home with
    | .bank c n => s.writeRow c n r
    | .status _ _ => s
  match a.kind with
  | .loadX d => s.modStream id (fun m => m.result a.seq d (word (Row.bytesAt row a.off 8)))
  | .storeX v => wr (Row.putBytes row a.off v.toNat 8) s
  | .loadV d => s.modStream id (fun m => m.resultV (m.issuedBefore a.seq) d (fun _ => row))
  | .storeV v => wr v s
  | .rmgLow d => s.modStream id (fun m => m.resultV (m.issuedBefore a.seq) d (fun v => rmgMerge false a.off v row))
  | .rmgHigh d => s.modStream id (fun m => m.resultV (m.issuedBefore a.seq) d (fun v => rmgMerge true a.off v row))
  | .atomic op w d opd cmp =>
    let old := Row.bytesAt row a.off (laneBytes w)
    (wr (Row.putBytes row a.off (atomicResult op w old opd.toNat cmp.toNat) (laneBytes w)) s).modStream id
      (fun m => m.result a.seq d (word old))
  | .claim d limit =>
    let old := Row.bytesAt row a.off 8
    if old < limit.toNat then
      (wr (Row.putBytes row a.off (old + 1) 8) s).modStream id (fun m => { m with wait := .claimed d (word old) })
    else s.modStream id (fun m => { m with wait := .claimed d (-1) })
  | .monitor op w d v =>
    let lane := Row.bytesAt row a.off (laneBytes w)
    if monHolds op w lane v.toNat then s.answer id d a.win (word lane)
    else
      match a.home with
      | .bank c n =>
        s.modCore c (fun t => { t with
          monitors := t.monitors ++ [{ row := n, off := a.off, op := op, w := w, v := v, d := d, who := id, win := a.win }] })
      | .status _ _ => s

/-- A drill row admitted to a ring is performed in its slot, which lets A advance (R251, R252). -/
def State.performDrillRow (s : State) (pcn k : Nat) : State :=
  match (s.core pcn).drillRows[k]? with
  | none => s
  | some r =>
    (s.modCore pcn (fun c => { c with drillRows := c.drillRows.eraseIdx k })).writeRow pcn r.row r.data

/-- BANK_ACCESS (R227): a bank performs the k-th issued access of a stream, while the tract's clock runs, or an admitted
drill row. DEDUCED (assumption 99). -/
def execBankAccess (pcn : Nat) (src : BankSrc) (k : Nat) (s : State) : Out :=
  match src with
  | .drillRow => .next (s.performDrillRow pcn k)
  | .stream e =>
    let id : StreamId := { core := pcn, eng := e }
    let p := (s.stream id).pend
    if (s.tractOf pcn).ticking && eligible p k then
      match p[k]? with
      | none => .next s
      | some a => .next ((s.modStream id (fun m => { m with pend := m.pend.eraseIdx k })).perform id a)
    else .next s

/-- The latency of a row's answer to x[d] has not passed (R171, R192, R233). -/
def Stream.underWay (m : Stream) (d : BitVec 5) : Bool := m.late.any (fun p => p.1 = .x d && p.2 != 0)

/-- A named wait's answer is there: x[d] is written and the next word issues in the cycle that now begins (R148). -/
def State.arrived (s : State) (id : StreamId) (seq : Nat) (d : BitVec 5) (v : Word) : State :=
  ((s.modStream id (fun m => m.result seq d v)).complete id).modStream id (fun m => { m with busy := m.busy - 1 })

/-- CLAIM_ANSWER (R171, R192): the bank's answer reaches the XP once the latency of a row load, counted from issue, has
passed. -/
def execClaimAnswer (pcn : Nat) (s : State) : Out :=
  let id : StreamId := { core := pcn, eng := .xp }
  match (s.stream id).wait with
  | .claimed d v =>
    if s.awake pcn && !((s.stream id).underWay d) then .next (s.arrived id (s.stream id).seq d v) else .next s
  | _ => .next s

/-- The answer to a stream's monitored wait arrives at the end of a tract cycle (R116, R233). -/
def State.monitorArrival (s : State) (id : StreamId) : State :=
  match (s.stream id).wait with
  | .answered d v => if s.live id.core && !((s.stream id).underWay d) then s.arrived id (s.stream id).seq d v else s
  | _ => s

end Sys2Proof.Machine
end

