-- ==== Sys2Proof/Machine/Tract.lean ====
section
/-! DEFINITION. Machine/Tract.lean: samples, TAP and OTAP, sample and frame boundaries, the states of a tract and of a
stile, and the tr and sti majors (R102 to R131). -/

namespace Sys2Proof.Machine

/-! ### Small operations -/

/-- The low w bits of a value, sign-extended (R107). -/
def signLow (w : Nat) (v : Word) : Word := sword (bitsInt w true v.toNat)

/-- The states of a tract in which it has cycles (R113). -/
def TState.runs (t : TState) : Bool := t = .locked || t = .slipped || t = .coast

/-- Hz of an operating state's ceiling (R379). -/
def ceilingHz (p : Nat) : Nat := #[700, 600, 500, 400, 300, 200, 100, 0].getD p 0 * 1000000

/-- The ceiling in force on the matrix rail (R16, R105). -/
def State.ceiling (s : State) : Nat := ceilingHz (s.helm.rails.get 0).now

/-- Is the interval between two stamps, each rounded down, one that a rate within ±200 ppm of the rate at lock can
give (R112)? DEDUCED (assumption 46). -/
def Tract.inRange (t : Tract) (d : Nat) : Bool :=
  decide (t.rate.1 * (d - 1) * 999800 < 10 ^ 15 * t.rate.2) && decide (10 ^ 15 * t.rate.2 < t.rate.1 * (d + 1) * 1000200)

/-! ### Fields of a stile (R125, R126) -/

def Stile.mode (t : Stile) : Nat := (t.cfg.extractLsb' 30 2).toNat
def Stile.out (t : Stile) : Bool := t.cfg.getLsbD 29
def Stile.sclu (t : Stile) : Nat := (t.cfg.extractLsb' 24 4).toNat
def Stile.dclu (t : Stile) : Nat := (t.cfg.extractLsb' 20 4).toNat
def Stile.dly (t : Stile) : Nat := (t.cfg.extractLsb' 0 20).toNat

/-- The status word (R126). -/
def Stile.status (t : Stile) : Word :=
  word (t.dropc.toNat * 2 ^ 24 + t.rptc.toNat * 2 ^ 16 + t.box.length * 2 ^ 6 + num t.stale * 32 + num t.ovf * 16
    + num t.drop * 8 + num t.rpt * 4 + t.state.toNat)

/-- A counter of eight bits that saturates (R126). -/
def satByte (n : BitVec 8) : BitVec 8 := if n = 255 then 255 else n + 1

/-- One more dropped input (R126, R129). -/
def Stile.dropped (t : Stile) : Stile := { t with drop := true, dropc := satByte t.dropc }

/-- Numbers of the stiles of a die. -/
def stilesOf (die : Nat) : List Nat := (List.range 32).map (fun n => 32 * die + n)

/-- STILE_FLOW (R127): the stiles that a cluster's tract is a side of move to FLOWING or HALTED. -/
def State.stileFlow (s : State) (pcl : Nat) : State :=
  (stilesOf (pcl / 16)).foldl (fun s n =>
    let t := s.stile n
    if t.state ≠ 0 ∧ (t.sclu = pcl % 16 ∨ t.dclu = pcl % 16) then
      let on (c : Nat) : Bool := (s.tract (pcl / 16 * 16 + c)).state.runs
      let both := on t.sclu && on t.dclu
      if both ∧ t.state ≠ 2 then s.setStile n { t with state := 2 }
      else if !both ∧ t.state = 2 then s.setStile n { t with state := 3 }
      else s
    else s) s

/-- A write of STCFG that is not refused (R125, R127). What HOLD repeats and STO holds before the first input or output of
a new binding are the latest values of the old one, of which the manual says nothing. DESIGN CHOICE (assumption 104). -/
def State.writeStile (s : State) (n : Nat) (c : BitVec 32) : State :=
  let t := s.stile n
  let mode := (c.extractLsb' 30 2).toNat
  let t' : Stile := { t with
    cfg := c, state := if mode = 0 then 0 else 1, dropc := 0, rptc := 0, stale := false, ovf := false, drop := false
    rpt := false, box := [], hist := [], slot := none, put := false, puts := [] }
  let t'' := if mode = 0 then { t with cfg := c, state := 0, box := [], hist := [], slot := none, puts := [] } else t'
  (s.setStile n t'').stileFlow (n / 32 * 16 + t''.dclu)

/-! ### Events of a tract -/

/-- The fields of a tract record beside its index (R387). -/
def State.tractLog (s : State) (pcl index : Nat) : State :=
  let t := s.tract pcl
  s.log (pcl / 16) 3 index (word (t.tstat.toNat % 2 ^ 32 + t.slipc.toNat * 2 ^ 32)) (BitVec.ofNat 16 (8 * pcl))
    (match t.queue with | none => 0xFFFF | some q => BitVec.ofNat 16 q)

/-- A tract event (R115): EVT, a logbook record, and a notification to the queue that bound the tract. -/
def State.tractEvent (s : State) (pcl index : Nat) : State :=
  let s := s.modTract pcl (fun t => { t with evt := true })
  let s := s.tractLog pcl index
  match (s.tract pcl).queue with
  | none => s
  | some q =>
    if (s.queue q).state = .disabled then s
    else (s.modQueue q (fun Q => { Q with tevc := Q.tevc + 1 })).notify q false (s.queue q).stack.length (s.queue q).place

/-- A tract enters a state that raises an event (R113, R115). A change made while the clock stands falls in no tract cycle. -/
def State.enterTract (s : State) (pcl : Nat) (t : Tract) : State :=
  ((s.setTract pcl { t with changed := t.ticking }).stileFlow pcl).tractEvent pcl t.state.num

/-- n samples lost or repeated at a boundary (R113). -/
def State.slipBy (s : State) (pcl n : Nat) : State :=
  let t := s.tract pcl
  let c : BitVec 32 := BitVec.ofNat 32 (min (t.slipc.toNat + n) (2 ^ 32 - 1))
  let t' := { t with slipc := c, slip := true, slipped := n }
  if n = 0 then s
  else if t.state = .locked then s.enterTract pcl { t' with state := .slipped }
  else s.setTract pcl t'

/-! ### Samples -/

/-- A sample of the bound source arrives at a tract with its stamp (R102, R112, R113, R114). A tract that is LOCKING has
no locked rate yet: any sixteen edges count. DEDUCED (assumption 46). -/
def Tract.arrive (t : Tract) (ceil : Nat) (stamp v : Word) : Tract :=
  let d := (stamp - t.lastEdge).toNat
  let fast := decide (ceil * t.m * (d + 1) < 10 ^ 9 * t.n)
  match t.state with
  | .free => t
  | .locking => { t with acq := if t.acq.length < 16 then t.acq ++ [stamp] else t.acq, lastEdge := stamp }
  | .coast | .becalmed =>
    if t.back then { t with lastEdge := stamp }
    else
      { t with lastEdge := stamp
               acq := if t.acq = [] ∨ t.inRange d then t.acq ++ [stamp] else [stamp] }
  | .locked | .slipped =>
    if t.held then { t with lastEdge := stamp, acq := t.acq ++ [stamp] }
    else if t.restart then { t with lastEdge := stamp, fresh := t.fresh ++ [(stamp, v)] }
    else
      { t with lastEdge := stamp, fresh := t.fresh ++ [(stamp, v)], off := !(t.inRange d) || fast
               range := t.range || !(t.inRange d), ceil := t.ceil || fast }

/-- A sample reaches every tract bound to its source. -/
def State.feedTracts (s : State) (kind src : Nat) (stamp v : Word) : State :=
  (List.range 64).foldl (fun s pcl =>
    let t := s.tract pcl
    if tctlKind t.tctl = kind ∧ tctlSrc t.tctl = src ∧ t.state ≠ .free then
      s.setTract pcl (t.arrive s.ceiling stamp v)
    else s) s

/-- The header flit of a link's message (R351); what R351 leaves to the sender is a free value (assumption 25). -/
def flit (free : BitVec 256) (src dst : BitVec 19) (seq : BitVec 16) (kind : Nat) (pay : Word) : BitVec 256 :=
  BitVec.ofNat 256 (free.toNat / 2 ^ 192 * 2 ^ 192 + src.toNat * 2 ^ 173 + dst.toNat * 2 ^ 154
    + free.toNat / 2 ^ 138 % 2 ^ 16 * 2 ^ 138 + seq.toNat * 2 ^ 122 + free.toNat / 2 ^ 106 % 2 ^ 16 * 2 ^ 106
    + kind * 2 ^ 102 + pay.toNat)

/-- A link carries traffic (R353). -/
def Link.carries (l : Link) : Bool := l.state = .up || l.state = .degraded

/-- A flit is sent and kept until it is acknowledged (R352). -/
def State.sendFlit (s : State) (l kind : Nat) (pay : Word) : State :=
  let L := s.link l
  let f := flit (Config.freeFlit s.freeCtr) s.pkg L.peer L.sent kind pay
  let s := s.setLink l { L with unacked := L.unacked ++ [(f, 0, 0)], sent := L.sent + 1 }
  { s with freeCtr := s.freeCtr + 1 }

/-- EN and WM1 + 1 of a port's configuration register (R109). -/
def portOn (c : BitVec 32) : Bool := c.getLsbD 31
def portWidth (c : BitVec 32) : Nat := (c.extractLsb' 0 6).toNat + 1

/-- A sample that a receiving link agent presents, with the stamp of its entry into the agent (R102, R356). -/
def State.linkSample (s : State) (l : Nat) (at_ v : Word) : State :=
  let L := s.link l
  if L.carries then
    (s.setLink l { L with xstr := true }).feedTracts 3 l at_ (signLow (portWidth L.cfg) v)
  else s

/-- SAMPLE_ARRIVAL (R102, R107, R109, R356): a source port's sample feeds its tracts and the links that send it; a
stream's sample arrives at its receiving agent. -/
def execSampleArrival (src : SampleSrc) (value : Word) (s : State) : Out :=
  match src with
  | .port n =>
    let c := s.spcfg.get 0 n
    if portOn c && decide (n < 32) then
      let s := s.feedTracts 1 n s.chron (signLow (portWidth c) value)
      .next ((List.range 12).foldl (fun s l =>
        let L := s.link l
        if L.carries && L.cfg.getLsbD 31 && decide ((L.cfg.extractLsb' 8 5).toNat = n) then
          s.sendFlit l 5 (word (value.toNat % 2 ^ portWidth c))
        else s) s)
    else .next s
  | .link l => .next (s.linkSample l s.chron value)

/-- The chronometer time of a pace source's sample j, rounded down (R103). -/
def Pace.stamp (p : Pace) : Word := p.t0 + word ((p.j - p.base) * p.den * 10 ^ 9 / p.num)

/-- PACE_SAMPLE (R102, R103, R107): the next sample, of value j, once its time has come. -/
def execPaceSample (k : Nat) (s : State) : Out :=
  let p := s.pace k
  if p.on && decide (p.num ≠ 0) && decide (p.stamp.toNat ≤ s.chron.toNat) then
    .next ((s.setPace k { p with j := p.j + 1 }).feedTracts 2 k p.stamp (word p.j))
  else .next s

/-! ### Stile inputs and outputs -/

/-- A put enters the stile (R129). -/
def Stile.enter (t : Stile) (id : StreamId) (v stamp : Word) (seq : Nat) : Stile :=
  if t.mode = 3 then
    if t.box.length < 16 then { t with box := t.box ++ [(v, false, id, seq)] } else { t with ovf := true }
  else
    let again := t.put
    let t := { t with put := true }
    let t := if again then t.dropped else t
    if t.mode = 2 then { t with slot := some v }
    else
      let e := (stamp, v.setWidth 32)
      { t with hist := (if again then e :: t.hist.tail else e :: t.hist).take 16 }

/-- Puts in the order in which one source cycle's are taken (R128): rising core, AP before XP. -/
def insertPut (p : StreamId × Word × Word × Nat) : List (StreamId × Word × Word × Nat) → List (StreamId × Word × Word × Nat)
  | [] => [p]
  | q :: r => if p.1.core * 4 + p.1.eng.num < q.1.core * 4 + q.1.eng.num then p :: q :: r else q :: insertPut p r

/-- The puts of a source cycle enter the stile as the cycle ends (R128). -/
def Stile.take (t : Stile) : Stile :=
  (t.puts.foldl (fun l p => insertPut p l) []).foldl (fun t p => t.enter p.1 p.2.1 p.2.2.1 p.2.2.2) { t with puts := [] }

/-- The puts of a cluster's tract cycle enter their stiles. -/
def State.stilePuts (s : State) (pcl : Nat) : State :=
  (stilesOf (pcl / 16)).foldl (fun s n =>
    let t := s.stile n
    if t.sclu = pcl % 16 ∧ !t.puts.isEmpty then s.setStile n t.take else s) s

/-- The INTERP output at a destination sample stamped t (R129): value and STALE. DEDUCED (assumption 89). -/
def Stile.interp (t : Stile) (src : Tract) (stamp : Word) : Word × Bool :=
  let tt : Int := (stamp.toNat : Int) - t.dly
  match t.hist.dropWhile (fun e => decide (tt < (e.1.toNat : Int))) with
  | [] => (0, true)
  | (n, x) :: older =>
    let d := (tt - (n.toNat : Int)).toNat
    let per := 10 ^ 9 * src.rate.2
    let phi := min 63 (64 * d * src.rate.1 / per)
    let hs := (n, x) :: older
    let acc : Int := (List.range 16).foldl (fun a j =>
      match hs[j]? with
      | none => a
      | some e => a + (t.coef.get 0 (16 * phi + j)).toInt * e.2.toInt) 0
    let v := convInt 32 true false (.val (decide (acc < 0)) acc.natAbs 1 (-14))
    (sword v, decide (2 * per ≤ d * src.rate.1))

/-- STILE_OUTPUT (R127 to R129): what a FLOWING stile delivers at its destination's sample boundary; a HALTED one that
drives TAP makes it hold what it held before. DEDUCED (assumption 89). -/
def State.stileOut (s : State) (pcl n : Nat) (held : Word) : State :=
  let t := s.stile n
  let deliver (t : Stile) (v : Word) (s : State) : State :=
    let t := { t with last := v }
    if t.out then (s.setStile n t).modTract pcl (fun r => { r with tap := v }) else s.setStile n { t with sto := v }
  let t := if t.state ≠ 0 then { t with box := t.box.map (fun e => (e.1, true, e.2.2.1, e.2.2.2)) } else t
  if t.state = 3 ∧ t.out then (s.setStile n t).modTract pcl (fun r => { r with tap := held })
  else if t.state ≠ 2 then s.setStile n t
  else if t.mode = 2 then
    match t.slot with
    | some v => deliver { t with slot := none, stale := false } v s
    | none => deliver { t with rpt := true, rptc := satByte t.rptc, stale := true } t.last s
  else if t.mode = 1 then
    let (v, st) := t.interp (s.tract (pcl / 16 * 16 + t.sclu)) (s.tract pcl).tstamp
    deliver { t with stale := st } v s
  else s.setStile n { t with stale := false }

/-- The stiles' part of a sample boundary: outputs of those it is the destination of, in rising number, and a new source
sample for those it is the source of; `held` is TAP before the boundary. -/
def State.stileBoundary (s : State) (pcl : Nat) (held : Word) : State :=
  (stilesOf (pcl / 16)).foldl (fun s n =>
    let s := if (s.stile n).dclu = pcl % 16 ∧ (s.stile n).state ≠ 0 then s.stileOut pcl n held else s
    if (s.stile n).sclu = pcl % 16 ∧ (s.stile n).put then s.setStile n { (s.stile n) with put := false } else s) s

/-! ### Cycles, samples and frames -/

/-- The streams of a cluster. -/
def streamsOf (pcl : Nat) : List StreamId :=
  (List.range 8).flatMap (fun c => [Eng.ap, .xp, .mx].map (fun e => { core := 8 * pcl + c, eng := e }))

/-- The stream as FRAME_OVERRUN finds it (R118): a `tr.at` in its wait has issued, so that the word behind it is the next
to issue (R124). -/
def Stream.atTest (m : Stream) (eng : Eng) : Stream :=
  match m.wait with
  | .trAt _ => m.complete eng
  | _ => m

/-- Frame cycle 0 for one stream (R117, R118, R124, R132): FRAME_OVERRUN at the first word that has not issued, the start
of a stream that awaited it, or the next timed iteration; a `tr.at` that was an iteration's last word goes on waiting
behind it. DEDUCED (assumption 48). -/
def State.frameZeroAt (s : State) (id : StreamId) : State :=
  let m := s.stream id
  let c := m.atTest id.eng
  if m.phase = .live ∧ s.live id.core then
    if m.wait = .frame then s.modStream id (fun m => ({ m with wait := .none }).frameStart id.eng)
    else if c.overruns then (s.setStream id { m with pc := c.pc }).streamFault id .frameOverrun 0
    else if c.idling then
      match m.wait with
      | .trAt n => s.setStream id { c.frameStart id.eng with wait := .trAtPast n, busy := m.busy }
      | _ => s.setStream id (m.frameStart id.eng)
    else s
  else s

/-- Frame cycle 0 begins. -/
def State.frameZero (s : State) (pcl : Nat) : State := (streamsOf pcl).foldl State.frameZeroAt s

/-- A stream's part of the end of a tract cycle: issue cycles, latencies and handles under way (R60, R171, R313). -/
def Stream.tick (m : Stream) : Stream :=
  { m with busy := m.busy - 1
           late := (m.late.map (fun p => (p.1, p.2 - 1))).filter (fun p => p.2 != 0)
           hpend := m.hpend.map (fun p => (p.1, p.2.1, p.2.2 - 1)) }

/-- A core's part of the end of a tract cycle (R110, R137). -/
def Core.tick (c : Core) : Core :=
  { c with ap := c.ap.tick, xp := c.xp.tick, mx := c.mx.tick
           q := c.q.map (fun l => l.map (fun e => { e with new := false }))
           popped := Vector.replicate 8 0, otapBy := 0
           bars := c.bars.map (fun b => { b with start := none, by_ := 0 }) }

/-- The end of a tract cycle in the cores of a cluster: the puts of the cycle enter their stiles, latencies run on, and
answers that are due arrive (R115, R128, R233). -/
def State.cycleEnd (s : State) (pcl : Nat) : State :=
  let s := (s.stilePuts pcl).modTract pcl (fun t => { t with changed := false, slipped := 0 })
  let s := (List.range 8).foldl (fun s c => s.modCore (8 * pcl + c) Core.tick) s
  let s := (streamsOf pcl).foldl State.monitorArrival s
  if (s.sextant pcl).repBy = 0 then s else s.setSextant pcl { (s.sextant pcl) with repBy := 0 }

/-- The present cycle is the last of its sample (R106). -/
def Tract.lastCycle (t : Tract) : Bool := t.fcyc + 1 = sampleStart t.n t.m (t.sidx + 1)

/-- SINK_TAKE (R110): the last cycle of a sample ends, and the bound sink port takes OTAP. -/
def execSinkTake (pcl : Nat) (s : State) : Out :=
  let t := s.tract pcl
  if t.issuing && t.lastCycle then
    let port := (t.tsnk.extractLsb' 0 5).toNat
    let k := s.sink port
    let v := (s.core (8 * pcl + (t.tsnk.extractLsb' 8 3).toNat)).otap
    let s := if t.tsnk.getLsbD 11 && portOn k.cfg then
        s.setSink port { k with out := word (v.toNat % 2 ^ portWidth k.cfg) :: k.out }
      else s
    .next ((s.cycleEnd pcl).modTract pcl (fun t => { t with edge := .taken }))
  else .next s

/-- One tract cycle ends (R106). -/
def State.cycle (s : State) (pcl : Nat) : Out :=
  let t := s.tract pcl
  if t.issuing then
    if t.lastCycle then execSinkTake pcl s
    else .next ((s.cycleEnd pcl).modTract pcl (fun t => { t with fcyc := t.fcyc + 1 }))
  else .next s

/-- The clock stops for a re-lock (R113): LOCKING under the new TCTL, with the binding to return to. A re-lock of a tract
that is LOCKING takes the place of the lock under way. DEDUCED (assumption 45). -/
def State.beginRelock (s : State) (pcl : Nat) (w : Word) : State :=
  let t := s.tract pcl
  let old := match t.old with
    | some o => if t.state = .locking then o else { tctl := t.tctl, state := t.state, rate := t.rate }
    | none => { tctl := t.tctl, state := t.state, rate := t.rate }
  (s.setTract pcl { t with state := .locking, tctl := w, old := some old, relock := none, acq := [], since := s.chron
                           fresh := [], restart := false, held := false, back := false, haSeq := none
                           off := false }).stileFlow pcl

/-- FRAME_BOUNDARY (R106, R113, R382): a frame is counted and FCYC returns to 0; then the clock stops for a re-lock, a
returned source or a held frame, waits before BECALMED, or stands before frame cycle 0, which begins with the boundary of
its first sample (R107). DEDUCED (assumption 48). -/
def execFrameBoundary (pcl : Nat) (s : State) : Out :=
  let t := s.tract pcl
  if t.state.runs && t.edge = .taken && decide (t.sidx + 1 = t.m) then
    let t := { t with frames := t.frames + 1, fcyc := 0, sidx := 0, edge := .framed }
    match t.relock with
    | some w => .next ((s.setTract pcl t).beginRelock pcl w)
    | none =>
      if t.back then
        .next (s.enterTract pcl { t with state := .locked, restart := true, stale := false, back := false, acq := [] })
      else if t.state = .coast then .next (s.setTract pcl t)
      else if t.alternate && tctlKind t.tctl = 2 then .next (s.setTract pcl { t with held := true, acq := [], fresh := [] })
      else .next (s.setTract pcl t)
  else .next s

/-- What a sample boundary presents, and how many samples it finds lost or repeated (R107, R111 to R114): of a source
within its range exactly one new sample, the oldest; of one beyond it the latest, the others being lost.
DEDUCED (assumption 47). -/
def Tract.present (t : Tract) : Tract × Nat :=
  if t.state = .coast then ({ t with stale := true, holdLeft := t.holdLeft - 1, fresh := [] }, 0)
  else
    match if t.off then t.fresh.reverse else t.fresh with
    | [] => ({ t with stale := true }, 1)
    | (st, v) :: rest =>
      ({ t with tap := v, tstamp := st, stale := false, fresh := if t.off then [] else rest }, if t.off then rest.length else 0)

/-- Ticks without an edge are more than the lock range allows between two (R112, R114), and as many as stop the source. -/
def Tract.slow (t : Tract) (chron : Word) : Bool :=
  t.off || decide (10 ^ 15 * t.rate.2 ≤ t.rate.1 * ((chron - t.lastEdge).toNat - 1) * 999800)
def Tract.stopped (t : Tract) (chron : Word) : Bool :=
  decide (2 * 10 ^ 9 * t.rate.2 ≤ (chron - t.lastEdge).toNat * t.rate.1)

/-- A held frame is over once its samples have gone by (R382). -/
def Tract.holdOver (t : Tract) : Bool := t.held && decide (t.m ≤ t.acq.length)

/-- A boundary has what it presents (R112 to R114): a new sample, or a repeated one where the source is slower than its
range and not stopped; in COAST and over a held frame it needs none. -/
def Tract.supplied (t : Tract) (chron : Word) : Bool :=
  t.state = .coast || t.held || !t.fresh.isEmpty || (!t.restart && t.slow chron && !(t.stopped chron))

/-- A sample boundary may fall (R106, R113). DEDUCED (assumption 47). -/
def Tract.boundaryDue (t : Tract) (chron : Word) : Bool :=
  t.state.runs && (!t.held || t.holdOver) && !(t.state = .coast && t.edge = .framed && t.holdLeft = 0)
    && (decide (t.edge = .framed) || (t.edge = .taken && decide (t.sidx + 1 < t.m))) && t.supplied chron

/-- SAMPLE_BOUNDARY (R107, R113, R118, R129): TAP is written, lost and repeated samples are judged, stiles deliver, and
SCYC 0 begins; the first of a frame begins frame cycle 0. -/
def execSampleBoundary (pcl : Nat) (s : State) : Out :=
  let t := s.tract pcl
  if !(t.boundaryDue s.chron) then .next s
  else if t.holdOver then .next (s.setTract pcl { t with held := false, restart := true, acq := [] })
  else
    let (t', n) := t.present
    let t' := if t.edge = .framed then t' else { t' with sidx := t.sidx + 1, fcyc := t.fcyc + 1 }
    let s := s.setTract pcl { t' with edge := .inside, restart := false }
    let s := (s.slipBy pcl n).stileBoundary pcl t.tap
    .next (if t.edge = .framed then s.frameZero pcl else s)

/-- SOURCE_STOPPED (R112, R113): no edge within two expected periods, at the boundary that has no new sample; a tract that
waits for a sample to restart with runs on at its last frequency. DEDUCED (assumption 47). -/
def execSourceStopped (pcl : Nat) (s : State) : Out :=
  let t := s.tract pcl
  if (t.state = .locked || t.state = .slipped) && !t.held && t.fresh.isEmpty && t.edge != .inside && t.stopped s.chron then
    .next (s.enterTract pcl { t with
      state := .coast, stale := true, holdLeft := tctlHold t.tctl, acq := [], restart := false, off := false })
  else .next s

/-- ENTER_BECALMED (R113, R116). -/
def execEnterBecalmed (pcl : Nat) (s : State) : Out :=
  let t := s.tract pcl
  if t.state = .coast && t.edge = .framed && decide (t.holdLeft = 0) && !t.back then
    .next (s.enterTract pcl { t with state := .becalmed })
  else .next s

/-- SOURCE_RETURN (R113, R116): sixteen edges in range; COAST finishes its frame first, which it has where it stands at a
frame boundary. -/
def execSourceReturn (pcl : Nat) (s : State) : Out :=
  let t := s.tract pcl
  if t.acq.length < 16 then .next s
  else if t.state = .becalmed then
    .next (s.enterTract pcl { t with state := .locked, restart := true, acq := [], fresh := [] })
  else if t.state = .coast then
    if t.edge = .framed then
      .next (s.enterTract pcl { t with state := .locked, restart := true, stale := false, acq := [], fresh := [] })
    else .next (s.setTract pcl { t with back := true, acq := [] })
  else .next s

/-! ### The tr major -/

/-- `tr.tap` (R123). -/
def execTrTap (d : BitVec 5) (s : State) : Out := .next (s.wx d (s.tractOf s.cur.core).tap)
/-- The compact `tr.tap` (R65, R122). -/
def execCompactTrTap (d : BitVec 5) (s : State) : Out := .next (s.wx d (s.tractOf s.cur.core).tap)
/-- `tr.otap` (R110, R123): of writes in one cycle the highest engine class stands. -/
def execTrOtap (a : BitVec 5) (s : State) : Out :=
  let n := s.cur.eng.num + 1
  .next (if n < s.myCore.otapBy then s
    else s.modMyCore (fun c => { c with otap := s.rx a, otapBy := n }))

/-- `tr.at` (R123, R124): the check, then the wait for SCYC = n; the word's own cycle is spent first. -/
def State.trAt (s : State) (n : Nat) : Out :=
  let t := s.tractOf s.cur.core
  if (t.n + t.m - 1) / t.m ≤ n then s.fault .badCycle
  else .next (s.modMe (fun m => { m with busy := m.busy + 1, wait := .trAt n }))

/-- `tr.at cyc` (R123). -/
def execTrAt (k : BitVec 15) (s : State) : Out := s.trAt k.toNat
/-- The compact `tr.at` (R65, R122). -/
def execCompactTrAt (k : BitVec 11) (s : State) : Out := s.trAt k.toNat
/-- `tr.atx` (R123). -/
def execTrAtx (a : BitVec 5) (s : State) : Out := s.trAt (s.rx a).toNat

/-- TR_AT_RELEASE (R124): the cycle whose SCYC is n, counted from the cycle in which the next word would otherwise issue;
the next word issues in it. -/
def execTrAtRelease (pcn : Nat) (eng : Eng) (s : State) : Out :=
  let id : StreamId := { core := pcn, eng := eng }
  let m := s.stream id
  let t := s.tractOf pcn
  let due (n : Nat) : Bool := s.live pcn && t.issuing && decide (m.busy = 0) && decide (t.scyc = n)
  match m.wait with
  | .trAt n =>
    if due n && !(m.complete eng).idling then .next ((s.complete id).modStream id (fun m => { m with busy := m.busy - 1 }))
    else .next s
  | .trAtPast n => if due n then .next (s.modStream id (fun m => { m with wait := .none })) else .next s
  | _ => .next s

/-- The register that `tr.rd` reads (R123). -/
def State.tractReg (s : State) (sel : Nat) : Word :=
  let t := s.tractOf s.cur.core
  match sel with
  | 0 => t.tstat
  | 1 => t.slipc.setWidth 64
  | 2 => t.tstamp
  | 3 => word t.fcyc
  | 4 => word t.scyc
  | 5 => word t.sidx
  | 6 => s.chron
  | _ => t.frames

/-- `tr.rd` (R123). -/
def execTrRd (d sel : BitVec 5) (s : State) : Out := .next (s.wx d (s.tractReg sel.toNat))

/-- `tr.ack` (R111, R115, R123): SLIPPED returns to LOCKED with mask bit 6, which is an event. A change of state, a slip or
an event of the same tract cycle comes after the acknowledgement, and so outlives it. -/
def execTrAck (a : BitVec 5) (s : State) : Out :=
  let k := s.rx a
  let pcl := cluster s.cur.core
  let t := s.tract pcl
  let t' := { t with evt := t.evt && (!(bit k 4) || t.changed), slip := t.slip && (!(bit k 6) || t.slipped != 0)
                     range := t.range && !(bit k 7), ceil := t.ceil && !(bit k 8)
                     slipc := if bit k 0 then BitVec.ofNat 32 t.slipped else t.slipc }
  if bit k 6 ∧ t.state = .slipped ∧ !t.changed then
    let s := s.enterTract pcl { t' with state := .locked }
    .next (if t.slipped = 0 then s else s.enterTract pcl { (s.tract pcl) with state := .slipped })
  else .next (s.setTract pcl t')

/-! ### The sti major -/

/-- The stile that a sti word names, on the die of the issuing core. -/
def State.stileNo (s : State) (a : BitVec 5) : Nat := s.cur.core / 128 * 32 + a.toNat
/-- The cluster of the issuing core on its die. -/
def State.myClu (s : State) : Nat := s.cur.core / 8 % 16

/-- The checks of R131: STILE_UNBOUND, then the side. -/
def State.sti (s : State) (a : BitVec 5) (side : Stile → Bool) (k : Nat → Stile → Out) : Out :=
  let t := s.stile (s.stileNo a)
  if t.state = 0 then s.fault .stileUnbound
  else if side t then k (s.stileNo a) t
  else s.fault .stileSide

/-- `sti.put` (R128, R131): the put enters the stile with the other puts of its tract cycle. -/
def execStiPut (a b : BitVec 5) (s : State) : Out :=
  s.sti a (fun t => t.sclu = s.myClu) (fun n t =>
    .next (s.setStile n { t with puts := t.puts ++ [(s.cur, s.rx b, (s.tractOf s.cur.core).tstamp, s.me.seq)] }))

/-- The oldest message of a BOX that a get can take: eligible, and what its put releases is performed (R128, R129). -/
def State.boxHead (s : State) (t : Stile) : Option Word :=
  match t.box with
  | (v, true, id, seq) :: _ => if (s.stream id).pend.any (fun a => decide (a.seq < seq)) then none else some v
  | _ => none

/-- `sti.get` (R131). -/
def execStiGet (d a : BitVec 5) (s : State) : Out :=
  s.sti a (fun t => t.dclu = s.myClu && !t.out) (fun n t =>
    if t.mode = 3 then
      match s.boxHead t with
      | some v => .next ((s.setStile n { t with box := t.box.tail }).wx d v)
      | none => .next (s.waitFor (.stile d n))
    else .next (s.wx d t.sto))

/-- STI_GET_RETURN (R131): a blocked get takes a message, or 0 once the stile is UNBOUND. DEDUCED (assumption 89). -/
def execStiGetReturn (pcn : Nat) (eng : Eng) (s : State) : Out :=
  let id : StreamId := { core := pcn, eng := eng }
  match (s.stream id).wait with
  | .stile d n =>
    let t := s.stile n
    if !s.awake pcn then .next s
    else if t.state = 0 then .next ((s.modStream id (fun m => m.wx d 0)).complete id)
    else
      match s.boxHead t with
      | some v => .next (((s.setStile n { t with box := t.box.tail }).modStream id (fun m => m.wx d v)).complete id)
      | none => .next s
  | _ => .next s

/-- `sti.stat` (R131). -/
def execStiStat (d a : BitVec 5) (s : State) : Out := s.sti a (fun _ => true) (fun _ t => .next (s.wx d t.status))

/-- `sti.ack` (R131). -/
def execStiAck (a b : BitVec 5) (s : State) : Out :=
  let k := s.rx b
  s.sti a (fun t => t.sclu = s.myClu || t.dclu = s.myClu) (fun n t =>
    .next (s.setStile n { t with
      rpt := t.rpt && !(bit k 2), drop := t.drop && !(bit k 3), ovf := t.ovf && !(bit k 4)
      dropc := if bit k 0 then 0 else t.dropc, rptc := if bit k 0 then 0 else t.rptc }))

/-- `sti.coef` (R131). -/
def execStiCoef (a b : BitVec 5) (s : State) : Out :=
  let k := s.rx b
  s.sti a (fun t => t.sclu = s.myClu || t.dclu = s.myClu) (fun n t =>
    .next (s.setStile n { t with coef := t.coef.set (bits k 9 0) (BitVec.ofNat 16 (bits k 31 16)) }))

end Sys2Proof.Machine
end

