-- ==== Sys2Proof/Machine/FrontEnd.lean ====
section
/-! DEFINITION. Machine/FrontEnd.lean: the queue front end: its accesses (R334, R350, R357), buffers and packet fetch
(R331, R332, R335), the check of a header (R332), the place and skip of a packet fault (R342, R343), and acceptance and
completion (R333, R347, R376). -/

namespace Sys2Proof.Machine

/-! ### Faults of the front end -/

/-- Levels that have been read to their end are left (R335). -/
def popLevels : List (Nat × Nat) → List (Nat × Nat)
  | [] => []
  | (p, e) :: r => if e ≤ p then popLevels r else (p, e) :: r

/-- The queue passes over n bytes of its present buffer (R331, R335). -/
def Queue.advance (Q : Queue) (n : Nat) : Queue :=
  match Q.stack with
  | [] => { Q with rptr := if Q.capLen 0 = 0 then Q.rptr else (Q.rptr + n) % Q.capLen 0 }
  | (p, e) :: r => { Q with stack := popLevels ((p + n, e) :: r) }

/-- A queue with nothing left to fetch is IDLE (R343). -/
def Queue.settle (Q : Queue) : Queue :=
  if Q.state = .fetching ∨ Q.state = .waiting ∨ Q.state = .running then
    { Q with state := if Q.stack.isEmpty && Q.rptr = Q.wptr then .idle else .fetching }
  else Q

/-- The front end has used what it read for a purpose: it reads anew, and a walk for that purpose is waited for no more. -/
def State.fePast (s : State) (q : Nat) (f : FeFor → Bool) : State :=
  let s := s.forget (.queue q)
  if f (s.queue q).feFor then s.endWalk (.queue q) else s

/-- The packet at the head of a queue is over. -/
def State.fePacketPast (s : State) (q : Nat) : State := s.fePast q (fun w => w = .packet)

/-- A fault of the packet at the head of a queue (R332, R342); of a packet from a command port, in PSTAT (R376). -/
def State.packetFault (s : State) (q : Nat) (f : QFault) : State :=
  let s := s.fePacketPast q
  match (s.queue q).hand with
  | some (_, p) =>
    (s.portFault p f).modQueue q (fun Q => { Q with hand := none, performed := false, writes := [], wait := none }.settle)
  | none =>
    (s.queueFault q f (s.queue q).stack.length (s.queue q).place).modQueue q (fun Q => { Q with
      performed := false, writes := [], wait := none })

/-- A WSLOAD that goes no further gives the weight store up (R236). -/
def State.wsLeave (s : State) (l : WsLoad) : State :=
  if l.on then s.modDie l.die (fun d => { d with wsBusy := false }) else s

/-- A fault of the access that a walk or copy of the front end belongs to (R334). DEDUCED (assumption 76). -/
def State.feBad (s : State) (q : Nat) (w : FeFor) (f : QFault) : State :=
  let s := s.fePast q (fun v => v = w)
  match w with
  | .packet => s.packetFault q f
  | .record i => s.launchFault q f 5 i
  | .wsload =>
    match (s.queue q).wsl with
    | [] => s
    | l :: r =>
      let s := s.wsLeave l |>.modQueue q (fun Q => { Q with wsl := r })
      match l.port with
      | some p => s.portFault p f
      | none => s.queueFault q f l.lvl l.fof

/-! ### Accesses -/

/-- The address an access of the front end reaches (R310, R334, R350); else the state in which it waits, a walk begun or
the fault taken. -/
def State.feXl (s : State) (q : Nat) (w : FeFor) (va : Nat) (write : Bool) : Except State Nat :=
  let Q := s.queue q
  if Q.fault?.isSome then .error s
  else
    let begin_ : State :=
      if s.walks.any (fun p => p.2.who = .queue q) && Q.feFor != w then s
      else (s.modQueue q (fun Q => { Q with feFor := w })).startWalk (.queue q) Q.asid va write
    match s.tlbHit (q / 1024) Q.asid va with
    | none => .error begin_
    | some e =>
      if write && !e.wr then .error begin_
      else
        match s.route (paPkg (e.phys va)) (paOdd (e.phys va)) false with
        | .none => .error (s.feBad q w .linkRoute)
        | _ => .ok (e.phys va)

/-- n bytes within a row read by the front end. -/
def State.feRead (s : State) (q : Nat) (w : FeFor) (va n : Nat) : Except State Nat :=
  match s.feXl q w va false with
  | .error s => .error s
  | .ok pa => s.read (.queue q) pa n

/-- Values of n bytes read at each of a list of addresses. -/
def State.feReads (s : State) (q : Nat) (w : FeFor) (n : Nat) : List Nat → Except State (List Nat)
  | [] => .ok []
  | va :: r =>
    match s.feRead q w va n with
    | .error s => .error s
    | .ok v =>
      match s.feReads q w n r with
      | .error s => .error s
      | .ok vs => .ok (v :: vs)

/-- Every address of a list translates for a write that its agent takes. -/
def State.feWritable (s : State) (q : Nat) (w : FeFor) : List Nat → Except State (List Nat)
  | [] => .ok []
  | va :: r =>
    match s.feXl q w va true with
    | .error s => .error s
    | .ok pa =>
      if s.agentFull pa then .error s
      else
        match s.feWritable q w r with
        | .error s => .error s
        | .ok ps => .ok (pa :: ps)

/-! ### Packets (R332) -/

/-- A packet: header, payload, and whether it runs past the end of its indirect buffer. -/
structure Packet where
  hdr  : BitVec 32 := 0
  pay  : List (BitVec 32) := []
  past : Bool := false

def Packet.type (p : Packet) : Nat := (p.hdr.extractLsb' 24 8).toNat
def Packet.count (p : Packet) : Nat := (p.hdr.extractLsb' 12 12).toNat
def Packet.flags (p : Packet) : Nat := (p.hdr.extractLsb' 0 12).toNat
def Packet.notify (p : Packet) : Bool := p.hdr.getLsbD 0
def Packet.bytes (p : Packet) : Nat := 4 * (1 + p.count)
/-- Payload word i, counted from 1. -/
def Packet.w (p : Packet) (i : Nat) : Nat := (p.pay.getD (i - 1) 0).toNat
/-- Two payload words as one value, low word first (R334). -/
def Packet.w2 (p : Packet) (i : Nat) : Nat := p.w i + 2 ^ 32 * p.w (i + 1)

/-- The virtual address of byte b past a queue's next packet (R331). -/
def Queue.nextVa (Q : Queue) (b : Nat) : Nat :=
  match Q.stack with
  | [] => Q.capBase 0 + (if Q.capLen 0 = 0 then 0 else (Q.rptr + b) % Q.capLen 0)
  | (p, _) :: _ => Q.capBase 1 + p + b

/-- Bytes of the present buffer from the next packet on (R331, R332). -/
def Queue.room (Q : Queue) : Nat :=
  match Q.stack with
  | [] => if Q.capLen 0 = 0 then 0 else (Q.wptr + Q.capLen 0 - Q.rptr) % Q.capLen 0
  | (p, e) :: _ => e - p

/-- The next packet, once all of its words lie before WPTR (R332); else the state in which the front end waits.
DEDUCED (assumption 74). -/
def State.fetchPacket (s : State) (q : Nat) : Except State Packet :=
  let Q := s.queue q
  match Q.hand with
  | some (h :: pay, _) => .ok { hdr := h, pay := pay }
  | some ([], _) => .error s
  | none =>
    if Q.room < 4 then .error s
    else
      match s.feRead q .packet (Q.nextVa 0) 4 with
      | .error s => .error s
      | .ok h =>
        let p : Packet := { hdr := BitVec.ofNat 32 h }
        let s := s.modQueue q (fun Q => { Q with skip := p.bytes })
        if Q.room < p.bytes then
          if Q.stack.isEmpty then .error s else .ok { p with past := true }
        else
          match s.feReads q .packet 4 ((List.range p.count).map (fun i => Q.nextVa (4 * (i + 1)))) with
          | .error s => .error s
          | .ok ws => .ok { p with pay := ws.map (BitVec.ofNat 32) }

/-- The context of a queue lets it fetch (R322, R325). -/
def State.ctxOpen (s : State) (asid : Nat) : Bool :=
  let c := s.ctx asid
  (c.state = .live || c.state = .precopy) && !c.pending

/-- A packet that has been performed goes on to its end while a suspension waits for that (R322): the queue stops at a packet
boundary. -/
def State.feEnding (s : State) (q : Nat) : Bool := (s.queue q).performed && (s.ctx (s.queue q).asid).pending

/-- A packet may begin or go on (R333, R343). -/
def State.feReady (s : State) (q : Nat) : Bool :=
  let Q := s.queue q
  (Q.state = .fetching || Q.state = .running || Q.state = .waiting) && (s.ctxOpen Q.asid || s.feEnding q) && Q.wait.isNone && Q.lock.isNone
    && Q.fault?.isNone && !Q.held

/-- The COUNTs a packet accepts (R334); a TRACT's is checked with its OP (R340). -/
def countOk (t n : Nat) : Bool :=
  match t with
  | 0 => true
  | 1 => n = 2
  | 2 => n = 2
  | 3 => n = 4
  | 4 => n = 4
  | 5 => decide (3 ≤ n)
  | 6 => n = 0
  | 7 => n = 2
  | 8 => n = 2
  | 9 => n = 3
  | 10 => decide (1 ≤ n ∧ n ≤ 5)
  | 11 => n = 5
  | _ => n = 1

/-- The packet at the head of a queue is of a TYPE and passes the first three checks of R332; `k` has it. A RESET from a
command port is allowed whatever TMASK says (R376). -/
def State.withPacket (s : State) (q type : Nat) (k : Packet → State → Out) : Out :=
  if !s.feReady q then .next s
  else
    match s.fetchPacket q with
    | .error s => .next s
    | .ok p =>
      if p.type ≠ type then .next s
      else
        let s := s.modQueue q (fun Q => { Q with skip := if Q.hand.isSome then Q.skip else p.bytes })
        if !((s.queue q).tmask type) ∧ !(type = 12 ∧ (s.queue q).hand.isSome) then .next (s.packetFault q .typeDenied)
        else if 2 ≤ p.flags ∨ !(countOk type p.count) ∨ p.past then .next (s.packetFault q .badPkt)
        else k p s

/-- BADTYPE_PACKET (R332). -/
def execBadtypePacket (q : Nat) (s : State) : Out :=
  if !s.feReady q then .next s
  else
    match s.fetchPacket q with
    | .error s => .next s
    | .ok p =>
      if 0x0C < p.type then
        .next ((s.modQueue q (fun Q => { Q with skip := if Q.hand.isSome then Q.skip else p.bytes })).packetFault q .badType)
      else .next s

/-- The port that a packet at the head came from. -/
def Queue.handPort (Q : Queue) : Option Nat := Q.hand.map (·.2)

/-- The packet leaves the head: the buffer or the port's hand passes it (R331, R335, R376). -/
def Queue.take (Q : Queue) (p : Packet) : Queue :=
  let Q := if Q.hand.isSome then { Q with hand := none } else Q.advance p.bytes
  { Q with performed := false, skip := 0 }

/-- A port packet has completed (R376). -/
def State.portDone (s : State) : Option Nat → State
  | none => s
  | some p => s.setSvc p { (s.svc p) with done := (s.svc p).done + 1, inFlight := (s.svc p).inFlight - 1 }

/-- A NOTIFY packet takes its number in packet order (R347). -/
def State.notifyNo (s : State) (q : Nat) (p : Packet) : Option Nat × State :=
  if p.notify then
    (some (s.queue q).noteNo,
     s.modQueue q (fun Q => { Q with notes := Q.notes ++ [(Q.noteNo, false)], noteNo := Q.noteNo + 1 }))
  else (none, s)

/-- A non-posted packet completes (R333). -/
def State.packetDone (s : State) (q : Nat) (p : Packet) : State :=
  let Q := s.queue q
  let port := Q.handPort
  let (no, s) := s.notifyNo q p
  let s := (s.modQueue q (fun Q => (Q.take p).settle)).fePacketPast q
  (s.portDone port).completed q no Q.stack.length Q.place

/-- A posted packet is accepted (R333): its NOTIFY number, the port it came from, its place, and the state. -/
def State.accept (s : State) (q : Nat) (p : Packet) : Option Nat × Option Nat × State :=
  let port := (s.queue q).handPort
  let (no, s) := s.notifyNo q p
  (no, port, (s.modQueue q (fun Q => (Q.take p).settle)).fePacketPast q)

/-- A posted packet, at a place, has completed (R333, R347, R376). -/
def State.postedDone (s : State) (q : Nat) (no port : Option Nat) (lvl off : Nat) : State :=
  (s.portDone port).completed q no lvl off

/-- All earlier work of the queue has completed (R333). -/
def Queue.quiet (Q : Queue) : Bool := Q.launch.isNone && Q.drills.isEmpty && Q.wsl.isEmpty

/-- A packet that awaits earlier work puts its queue in RUNNING (R343). -/
def State.awaitWork (s : State) (q : Nat) : State := s.modQueue q (fun Q => { Q with state := .running })
/-- A posted packet that cannot be accepted yet puts its queue in WAITING (R343). -/
def State.awaitRoom (s : State) (q : Nat) : State := s.modQueue q (fun Q => { Q with state := .waiting })

/-- A 56-bit virtual address of a packet that is a multiple of n (R334). -/
def vaOk (va n : Nat) : Bool := decide (va < 2 ^ 56) && va % n = 0

end Sys2Proof.Machine
end

