-- ==== Sys2Proof/Machine/Mailbox.lean ====
section
/-! DEFINITION. Machine/Mailbox.lean: the helm mailbox MBCMD and MBDATA (R380). -/

namespace Sys2Proof.Machine

/-- The fields of MBCMD that software writes: OP, ARG0 and ARG1 (R3, R380). -/
def mbMask (w : Word) : Word := w &&& 0x00FFFFFFFFFFFFFF
/-- OP, ARG0 and ARG1. -/
def mbOp (w : Word) : Nat := bits w 55 48
def mbArg0 (w : Word) : Nat := bits w 47 32
def mbArg1 (w : Word) : Nat := bits w 31 0

/-- MBCMD after a command (R380). -/
def State.setMb (s : State) (w : Word) (st : Nat) : State :=
  { s with helm := { s.helm with mbcmd := mbMask w ||| word (num (st = 1) * 2 ^ 63 + st * 2 ^ 61) } }
/-- ST DONE, and REFUSED. -/
def State.mbDone (s : State) (w : Word) : State := s.setMb w 2
def State.mbRefused (s : State) (w : Word) : State := s.setMb w 3

/-- A write of MBCMD without GO: its fields. -/
def State.mbFields (s : State) (w : Word) : State :=
  { s with helm := { s.helm with mbcmd := mbMask w ||| (s.helm.mbcmd &&& 0x6000000000000000) } }

/-- A command is under way. -/
def State.mbBusy (s : State) : Bool := bits s.helm.mbcmd 62 61 = 1

/-- A write of MBCMD whose OP is op (R380): ignored while ST is BUSY; with GO = 1 the command acts, REFUSED where its
arguments are out of range. -/
def State.withMb (s : State) (w : Word) (op : Nat) (ok : Bool) (k : State) : Host.Outcome State Fault Refusal :=
  if s.mbBusy ∨ mbOp w ≠ op then .next s
  else if !(bit w 63) then .next (s.mbFields w)
  else if !ok then .next (s.mbRefused w)
  else .next k

/-- An OP of MBCMD that no command has. -/
def State.mbBadOp (s : State) (w : Word) : State :=
  if s.mbBusy then s else if !(bit w 63) then s.mbFields w else s.mbRefused w

end Sys2Proof.Machine
end

