-- ==== Sys2Proof/Machine/Links.lean ====
section
/-! DEFINITION. Machine/Links.lean: the Ovtos links: flits, their acknowledgement and replay (R351, R352, R357), accesses of
other packages (R325, R350), link states (R353, R354), the chronometer exchange (R101, R355), and sample streams (R356). -/

namespace Sys2Proof.Machine

/-! ### Accesses of other parties (R325, R351) -/

/-- The bytes of a row that a write's flit names (assumption 25), over the row as it stands. -/
def maskedRow (mask : Word) (old new : Row) : Row :=
  if mask = 0 then new
  else Row.ofBytes (fun j => if bit mask j then Row.byte new j else Row.byte old j)

/-- The answer or acknowledgement of an access has come back (R351, R357): it goes to the party whose access was forwarded,
or it lets its issuer go on; the write of a notification block lets the queue's interrupt go. DEDUCED (assumption 82). -/
def State.answered (s : State) (f : BitVec 256) (data : Row) : State :=
  match List.find? (fun (r : Remote) => r.itag = flitTag f) s.remotes with
  | none => s
  | some r =>
    let gone : State := { s with remotes := s.remotes.filter (fun t => t.itag != r.itag) }
    match r.orig with
    | some g =>
      if flitKind f = 4 then s.sendTo (answerFlit s.pkg g 4) data
      else gone.sendTo (answerFlit s.pkg g 7) 0
    | none =>
      if flitKind f = 4 then
        if r.who = .agent ∧ r.kind = 0 then gone
        else
          { s with remotes := s.remotes.map (fun t =>
              if t.itag = r.itag then { t with back := some data, asid := if t.kind = 0 then none else t.asid } else t) }
      else if r.kind = 0 then s
      else
        match r.who with
        | .note q =>
          if gone.owing (.note q) then gone
          else
            (match (s.queue q).irqDue with
             | some u => (gone.modQueue q (fun Q => { Q with irqDue := none })).noteIrq q u
             | none => gone)
        | _ => gone

/-- What a request's flit is answered with goes out, or reaches its issuer in this package. -/
def State.reply (s : State) (f : BitVec 256) (kind : Nat) (data : Row) : State :=
  if flitSrc f = s.pkg then s.answered (answerFlit s.pkg f kind) data else s.sendTo (answerFlit s.pkg f kind) data

/-- An access goes on to the package that its address now lies in (R326), as a request of this agent. -/
def State.forward (s : State) (pa : Nat) (h : HeldAccess) (asid : Option Nat) : State :=
  let (kind, pay, data) : Nat × Word × Row := match h.acc.op with
    | .readRow => (0, 0, 0)
    | .writeRow d => (1, (h.flit.map flitPay).getD 0, d)
    | .atomicAdd v => if (h.flit.map flitKind).getD 3 = 2 then (2, 0, v.setWidth 512) else (3, v, 0)
  match h.flit with
  | some f =>
    if flitSrc f = s.pkg then
      let t : State := { s with remotes := s.remotes.map (fun (r : Remote) => if r.itag = flitTag f then { r with asid := asid } else r) }
      t.sendTo (headFlit pa s.pkg (paPkg pa) (flitAsid f) (flitTag f) kind pay) data
    else
      let t : State := { s with
        remotes := s.remotes ++ [{ itag := s.nextTag, kind := kind, addr := rowAt pa, orig := some f, asid := asid }]
        nextTag := s.nextTag + 1 }
      t.sendTo (headFlit pa s.pkg (paPkg pa) (flitAsid f) s.nextTag kind pay) data
  | none =>
    let t : State := { s with
      remotes := s.remotes ++ [{ itag := s.nextTag, kind := kind, addr := rowAt pa, asid := asid }]
      nextTag := s.nextTag + 1 }
    t.sendTo (headFlit pa s.pkg (paPkg pa) 0 s.nextTag kind pay) data

/-- An access is performed where its address now stands (R325, R326), and its sender has its answer and acknowledgement
(R351, R357); `asid` names the context whose backlog it belongs to. DEDUCED (assumption 27). -/
def State.performAccess (s : State) (asid : Option Nat) (h : HeldAccess) : State :=
  let a := h.acc.addr
  let pa := (s.place a).getD a
  if paPkg pa ≠ s.pkg then s.forward pa h asid
  else
    let row : Row := BitVec.ofNat 512 (Mem.num s.mem (rowAt pa) 64)
    let mask := (h.flit.map flitPay).getD 0
    match h.acc.op with
    | .readRow => (match h.flit with
      | none => s
      | some f => (s.reply f 4 row).reply f 7 0)
    | .writeRow d =>
      let t := (s.store (rowAt a) 64 (maskedRow mask row d).toNat).getD s
      (match h.flit with
       | none => t
       | some f => t.reply f 7 0)
    | .atomicAdd v =>
      let old := Mem.num s.mem pa 8
      let t := (s.store a 8 ((old + v.toNat) % 2 ^ 64)).getD s
      (match h.flit with
       | none => t
       | some f => (if flitKind f = 2 then t.reply f 4 (BitVec.ofNat 512 old) else t).reply f 7 0)

/-- The held accesses of a context are performed in hold order. -/
def State.performHeld (s : State) (asid : Option Nat) (l : List HeldAccess) : State :=
  l.foldl (fun s h => s.performAccess asid h) s

/-- Requests that a home remembers, as many as one link can have unacknowledged (R352). -/
def heardSlots : Nat := 2 ^ 15

/-- A request of another package reaches its home: performed, or held; none while the agent is full (R325). One that the home
has taken already, and that was replayed over another link, is not taken again (R352). DEDUCED (assumption 82). -/
def State.serveAccess (s : State) (f : BitVec 256) (data : Row) : Option State :=
  let h : HeldAccess := { agent := memLink (flitAddr f), acc := flitAccess f data, flit := some f }
  if s.heard.contains (withSeq f 0) then some s
  else if s.agentFull (flitAddr f) then none
  else
    let s := { s with heard := (withSeq f 0 :: s.heard).take heardSlots }
    match s.holder (flitAddr f) with
    | some asid => some (s.hold asid h)
    | none => some (s.performAccess none h)

/-- What a link delivers is acted on: a flit for another package goes on its way, a request is served, an answer or
acknowledgement reaches its issuer; a sample enters the agent with its stamp (R102); an exchange is an event of its own.
None while it cannot be taken. -/
def State.deliver (s : State) (l : Nat) (f : BitVec 256) (data : Row) : Option State :=
  if flitKind f = 5 then
    some (s.setLink l { (s.link l) with inbox := (s.link l).inbox ++ [(s.chron, flitPay f)] })
  else if flitKind f = 6 then some s
  else if flitDst f ≠ s.pkg then some (s.sendTo f data)
  else if flitKind f = 4 ∨ flitKind f = 7 then some (s.answered f data)
  else s.serveAccess f data

/-! ### Receipt and replay (R352) -/

/-- Counts of the present period of 1,000,000 ticks (R353, R354). -/
def Link.inPeriod (L : Link) (now : Word) : Link :=
  if 1000000 ≤ (now - L.period).toNat then { L with period := now, crcs := 0, replay := 0 } else L

/-- The receiver has this SEQ already (R352). -/
def Link.stale (L : Link) (q : BitVec 16) : Bool := q != L.expect && decide ((L.expect - q).toNat < 2 ^ 15)

/-- FLIT_RECEIVE (R351, R352): a CRC failure or a KIND above 7 drops the flit; only the next SEQ is accepted, so that
none is delivered twice or out of order, and every flit that has been accepted is acknowledged. Its elided sectors are zero
again. DEDUCED (assumption 82). -/
def execFlitReceive (l : Nat) (flit : BitVec 256) (data : Row) (crcOk : Bool) (s : State) : Out :=
  let L := (s.link l).inPeriod s.chron
  let q := flitSeq flit
  if !L.carries && L.state != .align then .next s
  else if !crcOk ∨ 8 ≤ flitKind flit then .next (s.setLink l { L with crcs := L.crcs + 1 })
  else if L.stale q then .next (s.setLink l { L with acks := q :: L.acks })
  else if q ≠ L.expect then .next (s.setLink l L)
  else
    match (s.setLink l { L with expect := L.expect + 1, acks := q :: L.acks }).deliver l flit (unelide flit data) with
    | none => .next s
    | some s => .next s

/-- FLIT_REPLAY (R352, R353): the oldest unacknowledged flit and every later one are sent again.
DEDUCED (assumption 82). -/
def execFlitReplay (l : Nat) (s : State) : Out :=
  let L := (s.link l).inPeriod s.chron
  if !L.carries ∨ L.unacked.isEmpty then .next s
  else
    .next (s.setLink l { L with
      unacked := L.unacked.map (fun u => (u.1, u.2.1, u.2.2 + 1))
      replay := BitVec.ofNat 8 (min 255 (L.replay.toNat + L.unacked.length)) })

/-- REMOTE_ACK (R352, R357): the acknowledgement of a flit by its SEQ, or, with 2^16 added, that of a remote access by
its ITAG. DEDUCED (assumption 82). -/
def execRemoteAck (l tag : Nat) (s : State) : Out :=
  let L := s.link l
  if tag < 2 ^ 16 then .next (s.setLink l { L with unacked := L.unacked.filter (fun u => flitSeq u.1 ≠ BitVec.ofNat 16 tag) })
  else .next (s.answered (headFlit 0 L.peer s.pkg 0 (BitVec.ofNat 16 tag) 7 0) 0)

/-- LINK_SAMPLE (R102, R356): the oldest sample that a link has received is presented, under the stamp of its entry. -/
def execLinkSample (l : Nat) (s : State) : Out :=
  match (s.link l).inbox with
  | [] => .next s
  | (at_, v) :: r => .next ((s.setLink l { (s.link l) with inbox := r }).linkSample l at_ v)

/-! ### Link states (R353, R354) -/

/-- STATE of R353. -/
def LState.num : LState → Nat
  | .down => 0 | .training => 1 | .align => 2 | .up => 3 | .degraded => 4 | .faulted => 5

/-- LKSTAT (R353). -/
def Link.lkstat (L : Link) (now : Word) : Word :=
  let L := L.inPeriod now
  word (L.peer.toNat * 2 ^ 45 + L.replay.toNat * 2 ^ 32 + L.lanes.toNat * 2 ^ 16 + L.errc.toNat * 2 ^ 8
    + num L.xstr * 2 ^ 4 + num L.aligned * 2 ^ 3 + L.state.num)

/-- One more entry into DEGRADED or FAULTED. -/
def Link.errs (L : Link) : Link := { L with errc := satByte L.errc }

/-- Set lanes. -/
def linkLanes (v : BitVec 16) : List Nat := (List.range 16).filter (fun n => v.getLsbD n)
/-- The lowest eight set lanes (R354). DEDUCED (assumption 82). -/
def eightLanes (v : BitVec 16) : BitVec 16 := BitVec.ofNat 16 (((linkLanes v).take 8).map (fun n => 2 ^ n)).sum

/-- A link leaves UP and DEGRADED: no lane is in use, its sample stream stops, and what it has not had acknowledged goes by
the route that R350 now selects, ahead of anything newer (R352, R353, R356). DEDUCED (assumption 83). -/
def State.leaveLink (s : State) (l : Nat) (st : LState) : State :=
  let L := s.link l
  let t := s.setLink l { L with state := st, xstr := false, lanes := 0, inbox := [], unacked := [] }
  { t with parked := L.unacked.map (fun (u : BitVec 256 × BitVec 512 × Nat) => (u.1, u.2.1)) ++ t.parked }.unpark

/-- The link enters FAULTED (R354, R386, R387): its record, and the request of a host-assisted link recovery.
DEDUCED (assumption 83). -/
def State.faultLink (s : State) (l : Nat) : State :=
  let s := s.leaveLink l .faulted
  let s := s.setLink l (s.link l).errs
  let v := (s.link l).lkstat s.chron
  let s := s.log 0 4 l v 0xFFFF 0xFFFF
  if s.assisted 6 then s.haRequest 6 l v 0 l (.queue 0) else s

/-- LINK_TRAINED (R353, R354): the link begins again at SEQ 0. DEDUCED (assumption 82). -/
def execLinkTrained (l : Nat) (lanes : BitVec 16) (peer : BitVec 19) (s : State) : Out :=
  let L := s.link l
  let n := (linkLanes lanes).length
  if L.state ≠ .training ∨ n < 12 ∨ Config.trainTicks < (s.chron - L.since).toNat then .next s
  else .next (s.setLink l { L with
      state := .align, lanes := if n = 16 then lanes else eightLanes lanes, peer := peer, sent := 0, expect := 0, acks := [] })

/-- TRAINING_TIMEOUT (R354). -/
def execTrainingTimeout (l : Nat) (s : State) : Out :=
  if (s.link l).state = .training ∧ Config.trainTicks < (s.chron - (s.link l).since).toNat then .next (s.faultLink l)
  else .next s

/-- LANE_FAILURE (R354): the link goes on with eight lanes. -/
def execLaneFailure (l lane : Nat) (s : State) : Out :=
  let L := s.link l
  if L.state ≠ .up ∨ !(L.lanes.getLsbD lane) then .next s
  else
    .next (s.setLink l { L.errs with
      state := .degraded, lanes := eightLanes (L.lanes &&& ~~~(BitVec.ofNat 16 (2 ^ lane))) })

/-- LINK_FAULT (R354): sixteen replays of one flit, or 64 CRC failures in a period. -/
def execLinkFault (l : Nat) (s : State) : Out :=
  let L := (s.link l).inPeriod s.chron
  if L.carries && (L.unacked.any (fun u => decide (16 ≤ u.2.2)) || decide (64 ≤ L.crcs)) then .next (s.faultLink l)
  else .next s

/-- A link begins to train (R354). -/
def State.trainLink (s : State) (l : Nat) : State :=
  s.setLink l { (s.link l) with state := .training, since := s.chron, lanes := 0 }

/-- What a turn leaves to the links: flits that waited for one go (R350, R352). -/
def State.settleLinks (s : State) : State := if s.parked.isEmpty then s else s.unpark

/-- The arguments of a LINK command (R380). -/
def linkArgs (w : Word) (act : Nat) : Bool := decide (mbArg0 w < 12) && mbArg1 w = act

/-- A LINK command of one action (R354, R380); arguments out of range are REFUSED. DEDUCED (assumption 83). -/
def State.linkCommand (s : State) (w : Word) (act : Nat) (k : Nat → State) : Out :=
  if mbArg1 w ≠ act ∧ mbArg1 w ≤ 2 then .next s
  else s.withMb w 7 (linkArgs w act) ((k (mbArg0 w)).mbDone w)

/-- LINK_ENABLE (R354): a DOWN link trains. -/
def execLinkEnable (w : Word) (s : State) : Out :=
  s.linkCommand w 0 (fun l => if (s.link l).state = .down then s.trainLink l else s)
/-- LINK_RETRAIN (R354): a FAULTED link trains. -/
def execLinkRetrain (w : Word) (s : State) : Out :=
  s.linkCommand w 1 (fun l => if (s.link l).state = .faulted then s.trainLink l else s)
/-- LINK_DISABLE (R354): any link goes DOWN, its flits replayed first. -/
def execLinkDisable (w : Word) (s : State) : Out := s.linkCommand w 2 (fun l => s.leaveLink l .down)

/-! ### The chronometer exchange (R101, R355) -/

/-- The link whose exchange corrects the chronometer: the first of the route to package 0; package 0 has none.
DEDUCED (assumption 84). -/
def State.parentLink (s : State) : Option Nat :=
  match s.route 0 false false with
  | .via l | .wait l => some l
  | _ => none

/-- The offset of an exchange, rounded down, and its round trip. DEDUCED (assumption 84). -/
def exchangeOffset (t1 t2 t3 t4 : Word) : Int :=
  (((t2.toNat : Int) - t1.toNat) - ((t4.toNat : Int) - t3.toNat)) / 2
def roundTrip (t1 t2 t3 t4 : Word) : Int := ((t4.toNat : Int) - t1.toNat) - ((t3.toNat : Int) - t2.toNat)

/-- An exchange falls due (R101, R355): in ALIGN, and then every 1,000,000 ticks. -/
def Link.exchanges (L : Link) (now : Word) : Bool :=
  L.state = .align || (L.carries && decide (Config.exchangeTicks ≤ (now - L.exchAt).toNat))

/-- The flit of an exchange that this end sends, with the stamp t1 (R351, R355). DESIGN CHOICE (assumption 25). -/
def State.stampFlit (s : State) (l : Nat) (t1 : Word) : State := s.sendOn l (headFlit 0 s.pkg (s.link l).peer 0 0 6 t1) 0

/-- CHRON_EXCHANGE (R100, R101, R354, R355, R386). DEDUCED (assumption 84). -/
def execChronExchange (l : Nat) (t1 t2 t3 t4 : Word) (s : State) : Out :=
  if !((s.link l).exchanges s.chron) then .next s
  else
    let s := s.stampFlit l t1
    let L : Link := { (s.link l) with exchAt := s.chron }
    if 4000 < roundTrip t1 t2 t3 t4 then .next (s.setLink l { L with aligned := false })
    else
      let off := exchangeOffset t1 t2 t3 t4
      let parent := s.parentLink = some l
      let L := { L with aligned := true, offset := off }
      let s := s.setLink l (if L.state ≠ .align then L
        else if L.lanes = 0xFFFF then { L with state := .up } else { L.errs with state := .degraded })
      if !parent then .next s
      else if s.assisted 5 then .next (s.haRequest 5 l (sword off) (sword (roundTrip t1 t2 t3 t4)) l (.queue 0))
      else .next { s with adjust := off }

end Sys2Proof.Machine
end

