-- ==== Sys2Proof/Machine/Convert.lean ====
section
/-! DEFINITION. Machine/Convert.lean: bank formats (R32, R34), the bit-plane form (R40, R41, R202), and what a copy, a COPY
record or a drill writes into one destination row (R36, R244, R256, R367, R390). -/

namespace Sys2Proof.Machine

/-! ### BFMT (R32) -/

def bfEfmt (v : BitVec 32) : Nat := (v.extractLsb' 28 4).toNat
def bfLay (v : BitVec 32) : Nat := (v.extractLsb' 26 2).toNat
def bfAxis (v : BitVec 32) : Nat := (v.extractLsb' 25 1).toNat
def bfSbase (v : BitVec 32) : Nat := (v.extractLsb' 11 11).toNat
def bfXbase (v : BitVec 32) : Nat := (v.extractLsb' 0 11).toNat

/-- The bank of a scratchpad row (R225). -/
def bankOf (row : Nat) : Nat := row / 2048 % 32
/-- The format register of a scratchpad row's bank (R32). -/
def Core.bfOf (c : Core) (row : Nat) : BitVec 32 := c.bfmt.toList.getD (bankOf row) 0
/-- A row of a bank by its number in the bank (R34). -/
def Core.bankRow (c : Core) (bank r : Nat) : Row := c.row (2048 * bank + r % 2048)

/-- Bits [off + w − 1 : off] of a row. -/
def rowBits (r : Row) (off w : Nat) : Nat := r.toNat / 2 ^ off % 2 ^ w

/-- The block number of element e of data row d (R34). -/
def blockNo (axis d e : Nat) : Nat := if axis = 0 then 2 * d + e / 64 else 128 * (d / 64) + e

/-- The super-scale pattern and the block-scale code of a block of a bank (R34). -/
def Core.blockScale (c : Core) (bank : Nat) (bf : BitVec 32) (b : Nat) : Nat × Nat :=
  (rowBits (c.bankRow bank (bfXbase bf + b / 64)) (32 * (b / 4 % 16)) 32,
   rowBits (c.bankRow bank (bfSbase bf + b / 32)) (16 * (b % 32)) 16)

/-! ### One side of a copy -/

/-- One side of a copy: its element format, its layout, and whether it is main memory. -/
structure Side where
  efmt : Nat := 0
  lay  : Nat := 0
  main : Bool := false
  deriving DecidableEq, Repr, Inhabited

def bankSide (bf : BitVec 32) : Side := { efmt := bfEfmt bf, lay := bfLay bf }
def mainSide (f : Nat) : Side := { efmt := f, main := true }

/-- How a copy fills its destination rows. -/
inductive CopyWay where
  | bytes | elems | planes | bad
  deriving DecidableEq, Repr, Inhabited

/-- The way a copy goes between two sides (R36, R256, R367); `bad` faults FORMAT_MISMATCH. -/
def copyWay (src dst : Side) : CopyWay :=
  if 14 ≤ src.efmt ∨ 14 ≤ dst.efmt then .bad
  else if src.lay = 1 then
    if dst.efmt = 0 ∨ (dst.lay = 1 ∧ dst.efmt = src.efmt) then .bytes else .bad
  else if dst.lay = 1 then
    if src.efmt = 0 then .bytes else if efmtBlock src.efmt then .bad else .planes
  else if src.efmt = 0 ∨ dst.efmt = 0 ∨ src.efmt = dst.efmt then .bytes
  else if efmtBlock dst.efmt ∨ (efmtBlock src.efmt ∧ src.main) then .bad
  else .elems

/-- Stored planes of an element, and rows of a K-block (R202). -/
def planeBits (e : Nat) : Nat := if e = 11 then 32 else if e = 9 ∨ e = 10 then 16 else 8
def planeRows (e : Nat) : Nat := 8 * planeBits e + (if e = 1 ∨ e = 2 then 0 else 2)

/-- Rows of the source that n destination rows take; none when the elements do not fill whole rows, or planes do not
come in whole K-blocks (R256, R367). -/
def srcRows (way : CopyWay) (src dst : Side) (n : Nat) : Option Nat :=
  match way with
  | .bytes => some n
  | .bad => some n
  | .elems =>
    let bits_ := n * (512 / efmtWidth dst.efmt) * efmtWidth src.efmt
    if bits_ % 512 = 0 then some (bits_ / 512) else none
  | .planes =>
    if n % planeRows dst.efmt = 0 then some (n / planeRows dst.efmt * 64 * 64 * efmtWidth src.efmt / 512) else none

/-- Rows of the destination that n source rows fill, for a store (R256). -/
def dstRows (way : CopyWay) (src dst : Side) (n : Nat) : Option Nat :=
  match way with
  | .bytes => some n
  | .bad => some n
  | _ =>
    let bits_ := n * (512 / efmtWidth src.efmt) * efmtWidth dst.efmt
    if bits_ % 512 = 0 then some (bits_ / 512) else none

/-! ### Elements -/

/-- One element converted (R36): `sc` gives a block-scaled source's super-scale and block-scale code. -/
def convTo (sf df : Nat) (sc : Option (Nat × Nat)) (p : Nat) : Nat :=
  match sc with
  | none => convElem sf df p
  | some (sup, s) => elemOf df false (scaled4 sf sup s p)

/-- Element n of a run of rows in a format. -/
def elemAt (rows : Nat → Row) (w n : Nat) : Nat := rowBits (rows (n / (512 / w))) (w * (n % (512 / w))) w

/-- A row of a format from its elements. -/
def rowOfElems (w : Nat) (f : Nat → Nat) : Row :=
  BitVec.ofNat 512 ((List.range (512 / w)).foldl (fun acc k => acc + f k % 2 ^ w * 2 ^ (w * k)) 0)

/-! ### Planes (R40, R41, R202, R367) -/

/-- The values of a K-block of patterns, as a float format reads them. -/
def blockVals (f : FFmt) (ps : List Nat) : List FVal := ps.map f.decode

/-- A K-block holds a NaN or an infinity (R43, R202). -/
def nonFinite (vs : List FVal) : Bool := vs.any (fun v => match v with | .fin _ _ _ => false | _ => true)

/-- The stored form of element k of a position's K-block of 64 patterns (R202, R367). -/
def planeCode (e : Nat) (ps : List Nat) (k : Nat) : Nat :=
  match efmtFloat e with
  | none => ps.getD k 0
  | some f =>
    let vs := blockVals f ps
    if nonFinite vs then 0
    else
      let v := vs.getD k (.fin false 0 0)
      if e = 11 then
        let a := alignElem 29 (blockExp vs) v
        let hi := a / 2 ^ 15
        intBits 16 (a - hi * 2 ^ 15) + 2 ^ 16 * intBits 16 hi
      else intBits 16 (alignElem 14 (blockExp vs) v)

/-- The exponent of a position's K-block (R202, R367). -/
def planeExp (e : Nat) (ps : List Nat) : Nat :=
  match efmtFloat e with
  | none => 0
  | some f =>
    let vs := blockVals f ps
    if nonFinite vs then 0x7FFF else intBits 16 (blockExp vs)

/-- Row t of a K-block in plane form; `block p` gives the 64 patterns of position p (R202). -/
def planeRow (e : Nat) (block : Nat → List Nat) (t : Nat) : Row :=
  let w := planeBits e
  if t < 8 * w then
    Row.ofBytes (fun p =>
      let ps := block p
      BitVec.ofNat 8 ((List.range 8).foldl (fun acc i => acc + planeCode e ps (8 * (t / w) + i) / 2 ^ (t % w) % 2 * 2 ^ i) 0))
  else
    rowOfElems 16 (fun i => planeExp e (block (32 * (t - 8 * w) + i)))

/-! ### One destination row -/

/-- Destination row i of a copy of n rows (R36, R256, R367): `rows` are the source rows, `sc j e` the scales of element e
of source row j where the source is block-scaled. -/
def copyDest (way : CopyWay) (src dst : Side) (n : Nat) (rows : Nat → Row) (sc : Nat → Nat → Option (Nat × Nat))
    (i : Nat) : Row :=
  let ws := efmtWidth src.efmt
  let wd := efmtWidth dst.efmt
  match way with
  | .bytes => rows i
  | .bad => 0
  | .elems =>
    rowOfElems wd (fun k =>
      let e := i * (512 / wd) + k
      convTo src.efmt dst.efmt (sc (e / (512 / ws)) (e % (512 / ws))) (elemAt rows ws e))
  | .planes =>
    let rpb := planeRows dst.efmt
    let nb := n / rpb
    planeRow dst.efmt (fun p => (List.range 64).map (fun k =>
      convElem src.efmt dst.efmt (elemAt rows ws (64 * nb * p + 64 * (i / rpb) + k)))) (i % rpb)

/-- The source rows that destination row i is made of. -/
def copyNeeds (way : CopyWay) (src dst : Side) (n i : Nat) : List Nat :=
  match way with
  | .bytes => [i]
  | .bad => []
  | .elems =>
    let lo := i * (512 / efmtWidth dst.efmt) / (512 / efmtWidth src.efmt)
    let hi := ((i + 1) * (512 / efmtWidth dst.efmt) - 1) / (512 / efmtWidth src.efmt)
    (List.range (hi + 1 - lo)).map (· + lo)
  | .planes => List.range ((srcRows way src dst n).getD 0)

/-- The scales of an element of a row of a block-scaled bank (R34). -/
def Core.rowScale (c : Core) (bf : BitVec 32) (row e : Nat) : Option (Nat × Nat) :=
  if efmtBlock (bfEfmt bf) then
    some (c.blockScale (bankOf row) bf (blockNo (bfAxis bf) (row % 2048) e))
  else none

/-- Every bank of a run of rows has one BFMT value (R390). -/
def Core.oneFormat (c : Core) (row n : Nat) : Bool :=
  (List.range (bankOf (row + n - 1) + 1 - bankOf row)).all (fun k =>
    c.bfmt.toList.getD (bankOf row + k) 0 = c.bfOf row)

end Sys2Proof.Machine
end

