-- ==== Sys2Proof/Machine/Handles.lean ====
section
/-! DEFINITION. Machine/Handles.lean: the tag major (R259, R260), handles and the xl major (R311 to R313), walks and their
faults (R309, R314, R315, R334), the faults of a drill (R245, R246), and shootdown (R317). -/

namespace Sys2Proof.Machine

/-! ### The tag major -/

/-- The index of the lowest set bit; 64 for none (R260). -/
def lowestBit (w : Word) : Nat := ((List.range 64).find? (fun t => bit w t)).getD 64

/-- `tag.wany` (R260). -/
def execTagWany (d a : BitVec 5) (s : State) : Out :=
  let m := s.rx a
  let t := s.myCore.tagWord &&& m
  if m = 0 ∨ t ≠ 0 then .next (s.wx d t) else .next (s.waitFor (.tagAny d m))
/-- `tag.wall` (R260). -/
def execTagWall (a : BitVec 5) (s : State) : Out :=
  let m := s.rx a
  if s.myCore.tagWord &&& m = m then .next s else .next (s.waitFor (.tagAll m))
/-- `tag.ffr` (R260). -/
def execTagFfr (d a : BitVec 5) (s : State) : Out :=
  let m := s.rx a
  let t := s.myCore.tagWord &&& m
  if m = 0 ∨ t ≠ 0 then .next (s.wx d (word (lowestBit t))) else .next (s.waitFor (.tagFfr d m))
/-- `tag.cnt` (R260). -/
def execTagCnt (d a : BitVec 5) (s : State) : Out :=
  .next (s.wx d (word (s.myCore.tags.toList.getD (bits (s.rx a) 5 0) 0)))

/-- TAG_WAIT_RETURN (R260). -/
def execTagWaitReturn (pcn : Nat) (eng : Eng) (s : State) : Out :=
  let id : StreamId := { core := pcn, eng := eng }
  let t := (s.core pcn).tagWord
  if !s.awake pcn then .next s
  else match (s.stream id).wait with
    | .tagAny d m =>
      if t &&& m ≠ 0 then .next ((s.modStream id (fun r => r.wx d (t &&& m))).complete id) else .next s
    | .tagAll m => if t &&& m = m then .next (s.complete id) else .next s
    | .tagFfr d m =>
      if t &&& m ≠ 0 then .next ((s.modStream id (fun r => r.wx d (word (lowestBit (t &&& m))))).complete id)
      else .next s
    | _ => .next s

/-! ### Handles and xl -/

/-- The handle that a leaf makes (R313). -/
def handleOf (e : TlbEntry) (kw : Bool) : Handle :=
  { vpb := BitVec.ofNat 40 e.vpb, kw := kw, pin := e.pin, sz := BitVec.ofNat 2 e.sz, made := true, hv := true, pa := e.pa }

/-- Tract cycles from the issue of `xl.tr` to the write of the handle (R313). -/
def handleCycles : Nat := 16

/-- The context of the kernel that holds a core. -/
def State.asidOf (s : State) (pcn : Nat) : Nat :=
  match (s.core pcn).kernel with
  | none => 0
  | some k => (s.kernel k).asid

/-- The kernel that holds a core is resuming: it stands in STARTING (R147). -/
def State.resuming (s : State) (pcn : Nat) : Bool :=
  match (s.core pcn).kernel with
  | none => false
  | some k => (s.kernel k).state = .starting

/-- What the AP waits for next at a resume: the first handle from h on that was made (R147). -/
def Stream.retransNext (m : Stream) (h : Nat) : Wait :=
  match (List.range 16).find? (fun i => decide (h ≤ i) && (m.h.toList.getD i {}).made) with
  | some i => .retrans (BitVec.ofNat 4 i)
  | none => .none

/-- A handle has been translated again, or not (R315); at a resume the next one follows (R147). -/
def State.retransDone (s : State) (pcn : Nat) (h : BitVec 4) (v : Option Handle) : State :=
  let next := s.resuming pcn
  s.modStream { core := pcn, eng := .ap } (fun m =>
    let m := match v with
      | some v => m.wh h v
      | none => m.wh h { (m.rh h) with made := true, hv := false }
    { m with wait := if next then m.retransNext (h.toNat + 1) else .none })

/-- Takes a page or walk fault of the AP (R120, R143, R314): FRAME_FATAL on a locked tract, PAGE_FATAL for FORMAT, else
the AP halts with nothing changed, the fault is recorded and service is asked for. At a resume it raises nothing
(R147). DEDUCED (assumption 101). -/
def State.apFault (s : State) (pcn : Nat) (c : WalkCause) (va : Word) : State :=
  let id : StreamId := { core := pcn, eng := .ap }
  if s.resuming pcn then
    match (s.stream id).wait with
    | .retrans h => s.retransDone pcn h none
    | _ => s
  else if c = .format then s.streamFault id .pageFatal c.num
  else if s.locked pcn then s.streamFault id .frameFatal c.num
  else
    let index := if c = .absent ∨ c = .write then 0x036 else 0x037
    let q : BitVec 16 := match (s.core pcn).kernel with
      | none => 0xFFFF
      | some k => BitVec.ofNat 16 (s.kernel k).queue
    let s := s.log (pcn / 128) 0 index va (BitVec.ofNat 16 pcn) q
    (s.modStream id (fun m => { m with wait := .halted c va, repOn := false })).askService (.ap pcn) (s.asidOf pcn) c va.toNat

/-- `xl.tr` and `xl.trw` (R313, R314). -/
def State.translate (s : State) (d a : BitVec 5) (kw : Bool) : Out :=
  let va := s.rx a
  let pcn := s.cur.core
  if bits va 63 56 ≠ 0 then s.fault .vaRange
  else
    match s.tlbHit (pcn / 128) (s.asidOf pcn) va.toNat with
    | some e =>
      if kw && !e.wr then .next (s.apFault pcn .write va)
      else .next (s.modMe (fun m => { m with hpend := m.hpend ++ [(d.setWidth 4, handleOf e kw, handleCycles)] }))
    | none =>
      if s.locked pcn && s.assisted 0 then s.fault .frameFatal
      else .next ((s.startWalk (.ap pcn) (s.asidOf pcn) va.toNat kw).waitFor (.walk (d.setWidth 4) kw va))

/-- `xl.tr` (R313). -/
def execXlTr (d a : BitVec 5) (s : State) : Out := s.translate d a false
/-- `xl.trw` (R313). -/
def execXlTrw (d a : BitVec 5) (s : State) : Out := s.translate d a true
/-- `xl.inv` (R313). -/
def execXlInv (d : BitVec 5) (s : State) : Out :=
  .next (s.modMe (fun m => m.wh (d.setWidth 4) { (m.rh (d.setWidth 4)) with hv := false, made := false }))
/-- `xl.rd` (R311, R313). -/
def execXlRd (d a sel : BitVec 5) (s : State) : Out :=
  let h := s.me.rh (a.setWidth 4)
  .next (s.wx d (if sel = 0 then h.word0 else h.pa))

/-- HANDLE_WRITE (R313): sixteen cycles after issue, or after its walk, h[d] is written. -/
def execHandleWrite (pcn : Nat) (d : BitVec 4) (s : State) : Out :=
  let id : StreamId := { core := pcn, eng := .ap }
  match if (s.tractOf pcn).ticking then (s.stream id).hpend.find? (fun p => p.1 = d && p.2.2 = 0) else none with
  | none => .next s
  | some p =>
    .next (s.modStream id (fun m => { m.wh d p.2.1 with hpend := m.hpend.erase p }))

/-! ### Faults of a drill (R245) -/

/-- The drill's owner runs on a locked tract (R120, R246). -/
def State.drillLocked (s : State) (n : Nat) : Bool :=
  match (s.drill n).cmd.owner with
  | .kernel _ pcn => s.locked pcn
  | .queue _ => false

/-- A posted DRILL of a queue on a drill has reached IDLE, or will not: the job leaves the list. -/
def dropJob (n : Nat) : List DrillJob → Option DrillJob × List DrillJob
  | [] => (none, [])
  | j :: r =>
    if j.drill = n then (some j, r)
    else
      let (o, r') := dropJob n r
      (o, j :: r')

/-- A WSWRITE that goes no further gives the weight store up (R236). -/
def State.wsRelease (s : State) (n : Nat) : State :=
  match (s.drill n).push with
  | some m => if m.kind = .wswrite then s.modDie (n / 24) (fun d => { d with wsBusy := false }) else s
  | none => s

/-- A drill goes no further: its walk ends without effect, and what it read or asked for is dropped. -/
def State.quitDrill (s : State) (n : Nat) : State := (s.dismiss (.drill n)).forget (.drill n)

/-- A drill fault (R142, R245, R246): a kernel fault of the owner, or a DRILL fault of the owning queue, whose posted DRILL
has not ended until the drill is IDLE (R333). DEDUCED (assumption 65). -/
def State.drillFault (s : State) (n : Nat) (c : KFault) : State :=
  let D := s.drill n
  let s := ((s.wsRelease n).setDrill n { D with state := .faulted, push := none, seen := [] }).quitDrill n
  match D.cmd.owner with
  | .kernel k pcn =>
    s.kernelFault k { cls := 1, code := c, pcn := pcn, eng := 0, whr := word D.at_, recVa := D.cmd.list, detail := D.at_
                      drill := some n }
  | .queue q =>
    let j := (s.queue q).drills.find? (fun j => j.drill = n)
    let s := s.log (n / 24) 1 c.code (word D.at_) 0xFFFF (BitVec.ofNat 16 q)
    match j.bind (·.port) with
    | some p =>
      (s.portFault p .drill).modQueue q (fun Q => { Q with drills := Q.drills.map (fun j =>
        if j.drill = n then { j with port := none } else j) })
    | none =>
      let s := if (s.queue q).takesFault then
          s.modQueue q (fun Q => { Q with kcode := BitVec.ofNat 16 c.code, whr := word D.at_, recVa := D.cmd.list })
        else s
      s.queueFault q .drill 6 ((j.map (·.off)).getD 0)

/-- A translation fault of a drill (R246, R314). DEDUCED (assumption 101). -/
def State.drillWalkFault (s : State) (n : Nat) (c : WalkCause) (va : Word) : State :=
  if c = .format then s.drillFault n .pageFatal
  else if s.drillLocked n then s.drillFault n .frameFatal
  else
    let D := s.drill n
    let index := if c = .absent ∨ c = .write then 0x036 else 0x037
    let (pcn, q) : BitVec 16 × BitVec 16 := match D.cmd.owner with
      | .kernel k pcn => (BitVec.ofNat 16 pcn, BitVec.ofNat 16 (s.kernel k).queue)
      | .queue q => (0xFFFF, BitVec.ofNat 16 q)
    let s := s.log (n / 24) 1 index va pcn q
    (s.setDrill n { D with state := .paused }).askService (.drill n) D.cmd.asid c va.toNat

/-! ### Walks -/

/-- A translation fault of the front end (R334): served, or PAGE_FATAL for FORMAT. DEDUCED (assumption 101). -/
def State.feWalkFault (s : State) (q : Nat) (c : WalkCause) (va : Word) : State :=
  if c = .format then s.feBad q (s.queue q).feFor .pageFatal
  else
    let index := if c = .absent ∨ c = .write then 0x036 else 0x037
    let s := s.log (q / 1024) 0 index va 0xFFFF (BitVec.ofNat 16 q)
    (s.modQueue q (fun Q => { Q with fault? := some (c, va) })).askService (.queue q) (s.queue q).asid c va.toNat

/-- A walk's requester still waits for it: an AP at the address walked, a drill or the front end while the TLB does not serve
its access. -/
def State.walkWanted (s : State) (w : Walk) : Bool :=
  match w.who with
  | .ap pcn =>
    let m := s.stream { core := pcn, eng := .ap }
    (match m.wait with
     | .walk _ _ va => va = w.va && s.asidOf pcn = w.asid
     | .retrans h => word ((m.rh h).vpb.toNat * 2 ^ 16) = w.va && s.asidOf pcn = w.asid
     | _ => false)
  | _ =>
    match s.tlbHit (servingDie w.who) w.asid w.va.toNat with
    | some e => w.write && !e.wr
    | none => true

/-- A walk has ended in a fault, which its requester takes if it still waits for it. -/
def State.walkFault (s : State) (w : Walk) (c : WalkCause) : State :=
  if !(s.walkWanted w) then s
  else match w.who with
  | .ap pcn => s.apFault pcn c w.va
  | .drill n => s.drillWalkFault n c w.va
  | .queue q => s.feWalkFault q c w.va

/-- A walk's leaf reaches its requester (R310, R313, R315): a handle is on its way, or is made valid again; a drill and
the front end find the leaf in the TLB. -/
def State.walkLeaf (s : State) (w : Walk) (e : TlbEntry) : State :=
  if w.write && !e.wr then s.walkFault w .write
  else
    let s := s.tlbFill (servingDie w.who) e
    match w.who with
    | .ap pcn =>
      let id : StreamId := { core := pcn, eng := .ap }
      (match (s.stream id).wait with
       | .walk d kw va =>
         if va = w.va ∧ s.asidOf pcn = w.asid then
           (s.modStream id (fun m => { m with hpend := m.hpend ++ [(d, handleOf e kw, handleCycles)] })).complete id
         else s
       | .retrans h =>
         if word (((s.stream id).rh h).vpb.toNat * 2 ^ 16) = w.va ∧ s.asidOf pcn = w.asid then
           s.retransDone pcn h (some (handleOf e ((s.stream id).rh h).kw))
         else s
       | _ => s)
    | _ => s

/-- A stall on a migration lock is fatal for a kernel on a locked tract (R120, R309). -/
def State.migFatal (s : State) : Requester → Bool
  | .ap pcn => s.locked pcn
  | .drill n => s.drillLocked n
  | .queue _ => false

/-- What a walk found takes effect (R309). A walk that stalls stays where it stands, with the time at which it first read
that entry so; one whose entry has not been read yet asks for it. -/
def State.walkEnd (s : State) (k : Nat) (r : WalkRes) : State :=
  let w := s.walks.get {} k
  let gone := { (s.forget (.walk k)) with walks := s.walks.erase k }
  match r with
  | .held lvl node =>
    let at_ := some (lvl, node)
    ({ s with walks := s.walks.set k { w with
        node := at_, first := if w.node = at_ then w.first else none } }).awaitLoad (.walk k) (entryAt w.va.toNat lvl node)
  | .mig lvl node =>
    if s.migFatal w.who then gone.walkFault w .migrating
    else
      let at_ := if w.ha then w.node else some (lvl, node)
      { (s.forget (.walk k)) with walks := s.walks.set k { w with
        node := at_, first := some (if w.node = at_ then w.first.getD s.chron else s.chron), haSeq := none } }
  | .fail c => gone.walkFault w c
  | .leaf e => gone.walkLeaf w e

/-- PAGE_WALK (R307, R309, R310): the die's walker walks; a host-assisted walk waits for the driver's answer. -/
def execPageWalk (k : Nat) (s : State) : Out :=
  match s.walks.find? k with
  | none => .next s
  | some w => if w.ha ∨ w.first.isSome then .next s else .next (s.walkEnd k (s.walkOn k w))

/-- A stalled walk reads its entry again and goes on from it (R309); a host-assisted one asks its driver again, once its
request is answered. DESIGN CHOICE (assumption 114). -/
def State.reread (s : State) (k : Nat) (w : Walk) : State :=
  if !w.ha then s.walkEnd k (s.walkOn k w)
  else if w.haSeq.isSome then s
  else
    ({ s with walks := s.walks.set k { w with haSeq := some s.haSeq } }).haRequest 0 (servingDie w.who) w.va (word w.asid) k
      w.who

/-- WALK_REREAD (R309): every 1,000 ticks a stalled walk reads its entry again. DEDUCED (assumption 86). -/
def execWalkReread (k : Nat) (s : State) : Out :=
  match s.walks.find? k with
  | none => .next s
  | some w =>
    match w.first with
    | none => .next s
    | some t =>
      let age := (s.chron - t).toNat
      if Config.migReread ≤ age ∧ age < Config.migLimit then .next (s.reread k w) else .next s

/-- The migration lock of the entry at a place is still set. -/
def WalkRes.stallsAt (at_ : Option (Nat × Nat)) : WalkRes → Bool
  | .mig lvl node => at_ = some (lvl, node)
  | _ => false

/-- WALK_MIGRATING_TIMEOUT (R309): MIG is still set 64,000 ticks after the first read of the entry where the walk stands;
an entry of another package is read once more first. DEDUCED (assumption 86). -/
def execWalkMigratingTimeout (k : Nat) (s : State) : Out :=
  match s.walks.find? k with
  | none => .next s
  | some w =>
    match w.first with
    | none => .next s
    | some t =>
      if Config.migLimit ≤ (s.chron - t).toNat then
        let r := s.walkOn k w
        .next (s.walkEnd k (if w.ha ∨ r.stallsAt w.node then .fail .migrating else r))
      else .next s

/-- Fault service ends (R143, R246, R314, R334): resume, or decline as PAGE_FATAL. -/
def State.served (s : State) (who : Requester) (resume : Bool) : State :=
  match who with
  | .ap pcn =>
    let id : StreamId := { core := pcn, eng := .ap }
    (match (s.stream id).wait with
     | .halted c _ =>
       if resume then s.modStream id (fun m => { m with wait := .none }) else s.streamFault id .pageFatal c.num
     | _ => s)
  | .drill n =>
    if (s.drill n).state = .paused then
      if resume then s.setDrill n { (s.drill n) with state := .running } else s.drillFault n .pageFatal
    else s
  | .queue q =>
    if (s.queue q).fault?.isSome then
      let s := s.modQueue q (fun Q => { Q with fault? := none })
      if resume then s else s.feBad q (s.queue q).feFor .pageFatal
    else s

/-- FAULT_SERVICE_DONE (R314, R374): the service pair of the pilot die answers, after a takeover that of the new one; in
host-assisted mode HANSWER does. -/
def execFaultServiceDone (who : Requester) (resume : Bool) (s : State) : Out :=
  if s.helm.requests.any (fun r => r.func = 1 && r.who = who && !r.stale) ∨ !s.pilotServes then .next s
  else .next (s.served who resume)

/-- HANDLE_RETRANSLATE (R315): a handle that a halted cp word found invalid is translated again from VPB with KW. -/
def execHandleRetranslate (pcn : Nat) (s : State) : Out :=
  let id : StreamId := { core := pcn, eng := .ap }
  match (s.stream id).wait with
  | .retrans h =>
    let H := (s.stream id).rh h
    let va := H.vpb.toNat * 2 ^ 16
    if !s.live pcn && !s.resuming pcn then .next s
    else
      match s.tlbHit (pcn / 128) (s.asidOf pcn) va with
      | some e =>
        let s := s.endWalk (.ap pcn)
        if H.kw && !e.wr then .next (s.apFault pcn .write (word va))
        else .next (s.retransDone pcn h (some (handleOf e H.kw)))
      | none => .next (s.startWalk (.ap pcn) (s.asidOf pcn) va H.kw)
  | _ => .next s

/-! ### Shootdown (R317) -/

/-- Two spans of addresses overlap. -/
def overlap (lo hi a n : Nat) : Bool := decide (a < hi) && decide (lo < a + n)

/-- A handle's page overlaps a span. -/
def Handle.inside (h : Handle) (lo hi : Nat) : Bool := overlap lo hi (h.vpb.toNat * 2 ^ 16) (pageBytes h.sz.toNat)

/-- Cores that kernels of a context hold. -/
def State.coresOf (s : State) (asid : Nat) : List Nat :=
  (s.kernels.filter (fun p => p.2.asid = asid &&
    (p.2.state = .placed || p.2.state = .starting || p.2.state = .running || p.2.state = .draining
      || p.2.state = .faulted))).flatMap (fun p => p.2.seats.map (·.pcn))

/-- Step 1: a pinned handle of a launch of the context overlaps the range; a launch in PLACED holds its handles in its
save, if anywhere. DEDUCED (assumption 87). -/
def State.pinnedIn (s : State) (asid lo hi : Nat) : Bool :=
  (s.coresOf asid).any (fun p => (s.live p || s.resuming p) && ((s.core p).ap.h.toList.any (fun h => h.made && h.pin && h.inside lo hi)))

/-- Step 3: TLB entries and handles of the range. -/
def State.cutRange (s : State) (asid lo hi : Nat) : State :=
  let s := (List.range 4).foldl (fun s d => s.modDie d (fun D => { D with
    tlb := D.tlb.filter (fun e => !(e.asid = asid && overlap lo hi (e.vpb * 2 ^ 16) (pageBytes e.sz))) })) s
  (s.coresOf asid).foldl (fun s p => s.modCore p (fun c => { c with ap := { c.ap with
    h := c.ap.h.map (fun h => if h.inside lo hi then { h with hv := false } else h)
    hpend := c.ap.hpend.map (fun t => if t.2.1.inside lo hi then (t.1, { t.2.1 with hv := false }, t.2.2) else t) } })) s

/-- Step 4: a copy that took a translation of the range is still under way, a WRITE of the context has rows still to write,
or an access of the context that has left its issuer is not performed. -/
def State.usersIn (s : State) (asid lo hi : Nat) : Bool :=
  (s.coresOf asid).any (fun p =>
    let c := s.core p
    s.live p && (c.ldq ++ c.stq ++ c.ldFly ++ c.stFly).any (fun o =>
      o.pages.any (fun g => overlap lo hi (g.1 * 2 ^ 16) (pageBytes g.2))))
    || s.queues.any (fun q => q.2.asid = asid && !q.2.writes.isEmpty)
    || s.remotes.any (fun r => r.who != .agent && r.back.isNone && decide (s.issuerAsid r.who = asid))

/-- SDCTL's reserved bits are not written (R3, R317). -/
def sdctlMask (w : Word) : Word := w &&& 0x0000FFFFFFFF000C

/-- SDCTL of a die with ST, and GO while ST is BUSY (R317). -/
def State.setSd (s : State) (die st : Nat) : State :=
  s.modDie die (fun D => { D with sdctl := sdctlMask D.sdctl ||| word (num (st = 1) * 2 ^ 63 + st * 2 ^ 61) })

/-- A die's request is under way or waits its turn. -/
def State.sdBusy (s : State) (die : Nat) : Bool := bits (s.die die).sdctl 62 61 = 1

/-- The first of the requests that remain is served: step 1 refuses it, or it goes on (R317). A whole-context shootdown has
no such check (R321). -/
def State.shootNext (s : State) : List Shoot → State
  | [] => { s with shoots := [] }
  | t :: r =>
    match t.die with
    | none => { s with shoots := t :: r }
    | some d => if s.pinnedIn t.asid t.lo t.hi then (s.setSd d 3).shootNext r else { s with shoots := t :: r }

/-- A request joins those that are served in order. -/
def State.shootAt (s : State) (t : Shoot) : State :=
  if s.shoots.isEmpty then s.shootNext [t] else { s with shoots := s.shoots ++ [t] }

/-- The request that a die's SDVA and SDCTL make (R317). -/
def Die.shootOf (D : Die) (die : Nat) : Shoot :=
  let lo := D.sdva.toNat
  { die := some die, asid := bits D.sdctl 31 16, lo := lo
    hi := lo + (bits D.sdctl 47 32 + 1) * pageBytes (bits D.sdctl 3 2) }

/-- SHOOTDOWN (R317): a write of a die's SDCTL, or the progress of the request that is served. DEDUCED (assumption 87). -/
def execShootdown (go : SdTurn) (s : State) : Out :=
  match go with
  | .write die w =>
    if s.sdBusy die ∨ 4 ≤ die then .next s
    else
      let t := s.modDie die (fun D => { D with sdctl := sdctlMask w ||| (D.sdctl &&& 0x6000000000000000) })
      if !(bit w 63) then .next t else .next ((t.setSd die 1).shootAt ((t.die die).shootOf die))
  | .serve =>
    match s.shoots with
    | [] => .next s
    | t :: r =>
      if !t.cut then
        if s.walks.any (fun p => p.2.asid = t.asid) then .next s
        else .next { (s.cutRange t.asid t.lo t.hi) with shoots := { t with cut := true } :: r }
      else if s.usersIn t.asid t.lo t.hi then .next s
      else
        .next ((match t.die with
          | some d => s.setSd d 2
          | none => s).shootNext r)

end Sys2Proof.Machine
end

