-- ==== Sys2Proof/Machine/Copy.lean ====
section
/-! DEFINITION. Machine/Copy.lean: the copy unit with its queues, tokens and tags (R254 to R259, R390), the cp major but for
its drill words (R257), and the arrival barriers with the ab major (R249 to R253). -/

namespace Sys2Proof.Machine

/-! ### Pushing an operation -/

/-- Depths of LDQ and STQ, and of CMQ (R11). -/
def copyDepth : Nat := 16
def cmqDepth : Nat := 8

/-- The fields of a descriptor (R256). -/
def dMrow (x : Word) : Nat := bits x 63 39
def dSrow (x : Word) : Nat := bits x 38 23
def dRows (x : Word) : Nat := bits x 22 13 + 1
def dTag (x : Word) : Nat := bits x 12 7
def dFmt (x : Word) : Nat := bits x 6 3

/-- One more operation names a tag (R259). -/
def Core.tagUp (c : Core) (t : Nat) : Core := { c with tags := c.tags.setIfInBounds t (c.tags.toList.getD t 0 + 1) }
/-- An operation that names a tag has completed (R259). -/
def Core.tagDown (c : Core) (t : Nat) : Core := { c with tags := c.tags.setIfInBounds t (c.tags.toList.getD t 0 - 1) }
/-- Tokens of a FIFO (R258). -/
def Core.token (c : Core) (f : Nat) : Nat := c.tokens.toList.getD f 0
def Core.setToken (c : Core) (f n : Nat) : Core := { c with tokens := c.tokens.setIfInBounds f n }

/-- The queues of a copy unit. -/
inductive CopyQ where
  | ld | st | mx

/-- A macro-operation enters its queue, or its word waits while the queue is full (R254). It takes the number of its
core's next operation, the word's address, and the accesses its push releases (R257). -/
def State.pushCopy (s : State) (q : CopyQ) (o : CopyOp) : Out :=
  let c := s.myCore
  let o := { o with pc := s.me.pc, seq := s.me.seq, id := c.nextOp }
  let c' := { c with nextOp := c.nextOp + 1 }.tagUp o.tag
  let put (full : Bool) (c' : Core) : Out :=
    if full then .next (s.waitFor .again) else .next (s.setCore s.cur.core c')
  match q with
  | .ld => put (decide (copyDepth ≤ c.ldq.length)) { c' with ldq := c.ldq ++ [o] }
  | .st => put (decide (copyDepth ≤ c.stq.length)) { c' with stq := c.stq ++ [o] }
  | .mx => put (decide (cmqDepth ≤ c.cmq.length)) { c' with cmq := c.cmq ++ [o] }

/-- What a cp word finds of a handle (R312, R315). -/
inductive HandleUse where
  | fault (c : KFault)
  | invalid
  | ok (h : Handle)

def Stream.useHandle (m : Stream) (h : BitVec 4) (store : Bool) : HandleUse :=
  let H := m.rh h
  if !H.made then .fault .handleUnset
  else if store && !H.kw then .fault .handlePerm
  else if !H.hv then .invalid
  else .ok H

/-- HANDLE_INVALID (R143, R168, R315): FRAME_FATAL on a locked tract, else the AP halts for the retranslation; a
repetition is counted among those still to issue, and its `rep` issues again. -/
def State.handleInvalid (s : State) (h : BitVec 4) : Out :=
  if s.locked s.cur.core then s.fault .frameFatal
  else .next ((s.modMe (fun m => { m with repOn := false })).waitFor (.retrans h))

/-- Rows of main memory that n scratchpad rows in a bank's format take; none where elements do not fill whole rows. -/
def mainRows (store : Bool) (fmt : Nat) (bf : BitVec 32) (n : Nat) : Option Nat :=
  if store then dstRows (copyWay (bankSide bf) (mainSide fmt)) (bankSide bf) (mainSide fmt) n
  else srcRows (copyWay (mainSide fmt) (bankSide bf)) (mainSide fmt) (bankSide bf) n

/-- VPB and size of a handle's page, for shootdown (R257, R317). -/
def Handle.page (h : Handle) : Nat × Nat := (h.vpb.toNat, h.sz.toNat)

/-- `cp.ld` and `cp.st` (R256, R257): the handle checks, then COPY_RANGE, then the push. -/
def State.copyMain (s : State) (a b : BitVec 5) (store : Bool) : Out :=
  let x := s.rx b
  let h : BitVec 4 := a.setWidth 4
  if bit x 2 then s.fault .illegal
  else
    match s.me.useHandle h store with
    | .fault c => s.fault c
    | .invalid => s.handleInvalid h
    | .ok H =>
      let start := 64 * dMrow x
      let page := pageBytes H.sz.toNat
      if page ≤ start ∨ 65536 < dSrow x + dRows x then s.fault .copyRange
      else
        match mainRows store (dFmt x) (s.myCore.bfOf (dSrow x)) (dRows x) with
        | none => s.fault .copyRange
        | some n =>
          let kind (pa1 : Word) : CopyKind :=
            if store then .store (H.pa + word start) (page - start) pa1 else .load (H.pa + word start) (page - start) pa1
          let op (pa1 : Word) (pages : List (Nat × Nat)) : CopyOp :=
            { kind := kind pa1, srow := dSrow x, rows := dRows x, tag := dTag x, fmt := dFmt x, tw := bit x 1, ts := bit x 0
              pages := pages }
          let q : CopyQ := if store then .st else .ld
          if start + 64 * n ≤ page then s.pushCopy q (op 0 [H.page])
          else if h = 15 then s.fault .copyRange
          else if s.me.hpend.any (fun p => p.1 = h + 1) then .next (s.waitFor .again)
          else
            match s.me.useHandle (h + 1) store with
            | .fault c => s.fault c
            | .invalid => s.handleInvalid (h + 1)
            | .ok H' =>
              if pageBytes H'.sz.toNat < start + 64 * n - page then s.fault .copyRange
              else s.pushCopy q (op H'.pa [H.page, H'.page])

/-- `cp.ld` (R257). -/
def execCpLd (a b : BitVec 5) (s : State) : Out := s.copyMain a b false
/-- `cp.st` (R257). -/
def execCpSt (a b : BitVec 5) (s : State) : Out := s.copyMain a b true

/-- The scratchpad rows from a stream address on (R224); none where one of them reaches none. -/
def sourceRows (pcn : Nat) (ea : Word) (n : Nat) : Option (List (Nat × Nat)) :=
  (List.range n).mapM (fun i => (reachRow pcn (ea + word (64 * i))).map (fun t => (t.1, t.2.1)))

/-- `cp.mv` (R256, R257). -/
def execCpMv (a b : BitVec 5) (s : State) : Out :=
  let x := s.rx b
  let ea := s.rx a
  let pcn := s.cur.core
  if bit x 2 ∨ dMrow x ≠ 0 ∨ dFmt x ≠ 0 then s.fault .illegal
  else if 65536 < dSrow x + dRows x then s.fault .copyRange
  else
    match reachRow pcn ea with
    | none => s.fault .addrRange
    | some (c, r, _) =>
      let src := bankSide ((s.core c).bfOf r)
      let dst := bankSide (s.myCore.bfOf (dSrow x))
      match srcRows (copyWay src dst) src dst (dRows x) with
      | none => s.fault .copyRange
      | some n =>
        match sourceRows pcn ea n with
        | none => s.fault .addrRange
        | some _ =>
          s.pushCopy .ld { kind := .move ea, srow := dSrow x, rows := dRows x, tag := dTag x, tw := bit x 1, ts := bit x 0 }

/-- `cp.mx` (R257). -/
def execCpMx (a b : BitVec 5) (s : State) : Out :=
  let x := s.rx b
  if x &&& 0xFFFFFFFFFFFFE070 ≠ 0 then s.fault .illegal
  else
    s.pushCopy .mx { kind := .harrow (s.rx a), tag := dTag x, tw := bit x 3, tw2 := bit x 2, ts := bit x 1, ts2 := bit x 0 }

/-- `cp.tok` (R257). -/
def execCpTok (d n : BitVec 5) (s : State) : Out :=
  let k := s.myCore.token d.toNat + n.toNat
  if 8 < k then s.fault .tokenOvf else .next (s.modMyCore (fun c => c.setToken d.toNat k))
/-- `cp.tcnt` (R257). -/
def execCpTcnt (d a : BitVec 5) (s : State) : Out := .next (s.wx d (word (s.myCore.token a.toNat)))

/-! ### The copy unit at work -/

/-- The two sides of a popped operation. -/
def CopyOp.src (o : CopyOp) : Side :=
  match o.kind with
  | .load _ _ _ => mainSide o.fmt
  | .store _ _ _ => bankSide o.bf
  | _ => bankSide o.sbf
def CopyOp.dst (o : CopyOp) : Side :=
  match o.kind with
  | .store _ _ _ => mainSide o.fmt
  | _ => bankSide o.bf
def CopyOp.way (o : CopyOp) : CopyWay := copyWay o.src o.dst
/-- Destination rows of a popped operation. -/
def CopyOp.total (o : CopyOp) : Nat :=
  match o.kind with
  | .store _ _ _ => (dstRows o.way o.src o.dst o.rows).getD 0
  | _ => o.rows
/-- Source rows of a popped operation. -/
def CopyOp.takes (o : CopyOp) : Option Nat :=
  match o.kind with
  | .store _ _ _ => (dstRows o.way o.src o.dst o.rows).map (fun _ => o.rows)
  | _ => srcRows o.way o.src o.dst o.rows

/-- Rows in flight in a queue of the copy unit. -/
def Core.fly (c : Core) (st : Bool) : List CopyOp := if st then c.stFly else c.ldFly
def Core.setFly (c : Core) (st : Bool) (l : List CopyOp) : Core := if st then { c with stFly := l } else { c with ldFly := l }
def Core.waiting (c : Core) (st : Bool) : List CopyOp := if st then c.stq else c.ldq
def Core.setWaiting (c : Core) (st : Bool) (l : List CopyOp) : Core := if st then { c with stq := l } else { c with ldq := l }

/-- A fault of a copy at its pop (R257): ENG 0 and the address of the cp word. -/
def State.copyFault (s : State) (pcn : Nat) (o : CopyOp) (f : KFault) : State :=
  match (s.core pcn).kernel with
  | none => s
  | some k => s.kernelFault k { code := f, pcn := pcn, eng := 0, whr := word o.pc, recVa := (s.kernel k).krec }

/-- The accesses that a cp push releases have been performed (R257, R271). -/
def Core.released (c : Core) (o : CopyOp) : Bool := !(c.ap.pend.any (fun a => decide (a.seq < o.seq)))

/-- The format registers a pop reads: the destination's or source's bank, and a move's source bank (R35). -/
def State.readFormats (s : State) (pcn : Nat) (o : CopyOp) : CopyOp :=
  let bf := (s.core pcn).bfOf o.srow
  match o.kind with
  | .move ea =>
    (match reachRow pcn ea with
     | some (c, r, _) => { o with bf := bf, sbf := (s.core c).bfOf r }
     | none => { o with bf := bf })
  | _ => { o with bf := bf }

/-- n bytes of main memory lie in the pages of the handles the operation took (R256, R257). -/
def CopyOp.spanOk (o : CopyOp) (left n : Nat) : Bool :=
  decide (n ≤ left) || (match o.pages[1]? with
    | none => false
    | some g => decide (n - left ≤ pageBytes g.2))

/-- The checks at the pop (R36, R367, R390), and the row counts under the formats read then.
DEDUCED (assumption 63). -/
def State.popBad (s : State) (pcn : Nat) (o : CopyOp) : Option KFault :=
  if o.way = .bad ∨ !((s.core pcn).oneFormat o.srow o.rows) then some .formatMismatch
  else
    match o.takes with
    | none => some .copyRange
    | some n =>
      match o.kind with
      | .move ea =>
        (match sourceRows pcn ea n with
         | none => some .addrRange
         | some l => if l.all (fun t => (s.core t.1).bfOf t.2 = o.sbf) then none else some .formatMismatch)
      | .load _ left _ => if o.spanOk left (64 * n) then none else some .copyRange
      | .store _ left _ => if o.spanOk left (64 * o.total) then none else some .copyRange
      | .harrow _ => none

/-- COPY_POP (R254, R257, R258): the head of LDQ or STQ, once the operation before it has issued its rows, fewer than four
are in flight, its token is there and the accesses its push released are performed. -/
def execCopyPop (pcn : Nat) (st : Bool) (s : State) : Out :=
  let c := s.core pcn
  match c.waiting st with
  | [] => .next s
  | o :: rest =>
    let f := if st then 2 else 1
    if !s.live pcn ∨ 4 ≤ (c.fly st).length ∨ (c.fly st).any (fun p => decide (p.got.length < p.takes.getD 0)) ∨ !c.released o
        ∨ (o.tw ∧ c.token f = 0) then .next s
    else
      let o := s.readFormats pcn o
      match s.popBad pcn o with
      | some e => .next (s.copyFault pcn o e)
      | none =>
        let c := if o.tw then c.setToken f (c.token f - 1) else c
        .next (s.setCore pcn ((c.setWaiting st rest).setFly st (c.fly st ++ [o])))

/-- The main-memory address of row i of a copy (R256). -/
def CopyOp.rowPa (o : CopyOp) (i : Nat) : Nat :=
  match o.kind with
  | .load pa0 left pa1 => if 64 * i < left then pa0.toNat + 64 * i else pa1.toNat + (64 * i - left)
  | .store pa0 left pa1 => if 64 * i < left then pa0.toNat + 64 * i else pa1.toNat + (64 * i - left)
  | _ => 0

/-- A row of main memory for a copy: it, or the fault LINK_ROUTE, or a wait (R325, R350). -/
def State.mainRow (s : State) (who : Issuer) (pa : Nat) : Except (Option KFault) Row :=
  match s.route (paPkg pa) (paOdd pa) false with
  | .none => .error (some .linkRoute)
  | _ =>
    match s.loadFor who pa 64 with
    | none => .error none
    | some v => .ok (BitVec.ofNat 512 v)

/-- Source row j of a popped operation. -/
def State.sourceRow (s : State) (pcn : Nat) (o : CopyOp) (j : Nat) : Except (Option KFault) Row :=
  match o.kind with
  | .load _ _ _ => s.mainRow (.copy pcn o.id) (o.rowPa j)
  | .store _ _ _ => .ok ((s.core pcn).row (o.srow + j))
  | .move ea =>
    (match reachRow pcn (ea + word (64 * j)) with
     | some (c, r, _) => .ok ((s.core c).row r)
     | none => .error (some .addrRange))
  | .harrow _ => .error none

/-- The scales of element e of source row j where the source bank is block-scaled (R34). -/
def State.sourceScale (s : State) (pcn : Nat) (o : CopyOp) (j e : Nat) : Option (Nat × Nat) :=
  match o.kind with
  | .store _ _ _ => (s.core pcn).rowScale o.bf (o.srow + j) e
  | .move ea =>
    (match reachRow pcn (ea + word (64 * j)) with
     | some (c, r, _) => (s.core c).rowScale o.sbf r e
     | none => none)
  | _ => none

/-- A copy reads its next source row, and its scales with it (R34, R225, R254, R273). -/
def State.readCopyRow (s : State) (pcn : Nat) (st : Bool) (k : Nat) (o : CopyOp) : State :=
  let j := o.got.length
  if o.takes.getD 0 ≤ j then s
  else
    match s.sourceRow pcn o j with
    | .error (some f) => s.copyFault pcn o f
    | .error none => (match o.kind with
      | .load _ _ _ => s.awaitLoad (.copy pcn o.id) (o.rowPa j)
      | _ => s)
    | .ok row =>
      let sc := (List.range (512 / efmtWidth o.src.efmt)).filterMap (fun e => s.sourceScale pcn o j e)
      (s.modCore pcn (fun c => c.setFly st ((c.fly st).set k { o with
        got := o.got ++ [row], scs := if sc.isEmpty then o.scs else o.scs ++ [sc] }))).forget (.copy pcn o.id)

/-- Destination row i of a copy of n rows, once the source rows that it is made of are read. -/
def rowFrom (way : CopyWay) (src dst : Side) (n : Nat) (got : List Row) (scs : List (List (Nat × Nat))) (i : Nat) : Option Row :=
  if (copyNeeds way src dst n i).all (fun j => decide (j < got.length)) then
    some (copyDest way src dst n (fun j => got.getD j 0) (fun j e => (scs.getD j [])[e]?) i)
  else none

/-- Destination row i of an operation. -/
def CopyOp.rowOf (o : CopyOp) (i : Nat) : Option Row := rowFrom o.way o.src o.dst o.rows o.got o.scs i

/-- An earlier store of the core has still to write a row of main memory of another package, or to have it acknowledged
(R350, R357). -/
def State.rowHeld (s : State) (pcn : Nat) (o : CopyOp) (pa : Nat) : Bool :=
  paPkg pa != s.pkg
    && (s.remotes.any (fun r => r.kind = 1 && r.addr = rowAt pa && (match r.who with | .copy p _ => p = pcn | _ => false))
      || (s.core pcn).stFly.any (fun e => decide (e.id < o.id)
        && (List.range e.total).any (fun i => decide (e.done ≤ i) && e.rowPa i = pa)))

/-- A copy writes its next destination row (R225, R254, R273, R350). -/
def State.writeCopyRow (s : State) (pcn : Nat) (st : Bool) (k : Nat) (o : CopyOp) : State :=
  if o.total ≤ o.done then s
  else
    match o.rowOf o.done with
    | none => s
    | some row =>
      let step (s : State) : State :=
        s.modCore pcn (fun c => c.setFly st ((c.fly st).set k { o with done := o.done + 1 }))
      match o.kind with
      | .store _ _ _ =>
        let pa := o.rowPa o.done
        (match s.route (paPkg pa) (paOdd pa) false with
         | .none => s.copyFault pcn o .linkRoute
         | _ => if s.agentFull pa ∨ s.rowHeld pcn o pa then s else step (s.put (.copy pcn o.id) pa 64 row.toNat))
      | _ => step (s.writeRow pcn (o.srow + o.done) row)

/-- COPY_ROW (R225, R254, R273): of the k / 2-th operation in flight of LDQ or STQ, the next source row is read where k is
even, and the next destination row is written where k is odd. -/
def execCopyRow (pcn : Nat) (st : Bool) (k : Nat) (s : State) : Out :=
  match ((s.core pcn).fly st)[k / 2]? with
  | none => .next s
  | some o =>
    if !s.live pcn then .next s
    else .next (if k % 2 = 0 then s.readCopyRow pcn st (k / 2) o else s.writeCopyRow pcn st (k / 2) o)

/-- Tokens that a completion pushes. -/
def CopyOp.pushes (o : CopyOp) (q : CopyQueue) : List Nat :=
  match q with
  | .ldq => if o.ts then [0] else []
  | .stq => if o.ts then [3] else []
  | .cmq => (if o.ts then [1] else []) ++ (if o.ts2 then [2] else [])

def Core.flyOf (c : Core) : CopyQueue → List CopyOp
  | .ldq => c.ldFly
  | .stq => c.stFly
  | .cmq => c.cmFly
def Core.setFlyOf (c : Core) (q : CopyQueue) (l : List CopyOp) : Core :=
  match q with
  | .ldq => { c with ldFly := l }
  | .stq => { c with stFly := l }
  | .cmq => { c with cmFly := l }

/-- Every row of an operation is performed, or its operator has left RUNNING (R255, R357). -/
def State.copyDone (s : State) (pcn : Nat) (q : CopyQueue) (o : CopyOp) : Bool :=
  match q with
  | .cmq => decide (o.done = 1)
  | _ => decide (o.done = o.total) && !(s.owing (.copy pcn o.id))

/-- COPY_COMPLETE (R255, R257 to R259): the token first, then the tag; a completion that finds its FIFO full is held, and
holds those that come after it in the same queue. -/
def execCopyComplete (pcn : Nat) (q : CopyQueue) (k : Nat) (s : State) : Out :=
  let c := s.core pcn
  match (c.flyOf q)[k]? with
  | none => .next s
  | some o =>
    if !(s.copyDone pcn q o) ∨ (!o.held ∧ (c.flyOf q).any (·.held)) then .next s
    else if (o.pushes q).any (fun f => decide (8 ≤ c.token f)) then
      .next (s.setCore pcn (c.setFlyOf q ((c.flyOf q).set k { o with held := true })))
    else
      let c := (o.pushes q).foldl (fun c f => c.setToken f (c.token f + 1)) c
      .next (s.setCore pcn ((c.setFlyOf q ((c.flyOf q).eraseIdx k)).tagDown o.tag))

/-! ### Arrival barriers -/

/-- Fields of a configuration word (R249). -/
def ArrBar.rbase (b : ArrBar) : Nat := (b.cfg.extractLsb' 16 16).toNat
def ArrBar.en (b : ArrBar) : Bool := b.cfg.getLsbD 4
def ArrBar.w (b : ArrBar) : Nat := 2 ^ (b.cfg.extractLsb' 0 4).toNat

def Core.ab (c : Core) (n : Nat) : ArrBar := c.abs.toList.getD n {}
def Core.setAb (c : Core) (n : Nat) (b : ArrBar) : Core := { c with abs := c.abs.setIfInBounds n b }

/-- The arrived index A (R251): the least index, counted from L, whose row is admitted and not performed; I where there is
none. -/
def Core.abA (c : Core) (n : Nat) : BitVec 32 :=
  let b := c.ab n
  (c.drillRows.filter (fun r => decide (r.ab = n))).foldl
    (fun m r => if (r.idx - b.l).toNat < (m - b.l).toNat then r.idx else m) b.i

/-- A has reached n, counted from an L (R250). -/
def Core.reached (c : Core) (ab : Nat) (n l : BitVec 32) : Bool := decide ((n - l).toNat ≤ (c.abA ab - l).toNat)

/-- `ab.init` (R253): the releases of earlier `ab.aret` words stand. -/
def execAbInit (a b : BitVec 5) (s : State) : Out :=
  let x := s.rx b
  let cfg : BitVec 32 := x.setWidth 32
  let st : BitVec 32 := (x >>> 32).setWidth 32
  let n := a.toNat
  let new : ArrBar := { cfg := cfg, i := st, l := st }
  if bits x 15 5 ≠ 0 ∨ 12 < bits x 3 0 ∨ 65536 < new.rbase + new.w then s.fault .abRange
  else if (s.myCore.ab n).i ≠ s.myCore.abA n then s.fault .abBusy
  else .next (s.modMyCore (fun c => c.setAb n { new with rel := (c.ab n).rel }))

/-- `ab.await` (R253): what it waits for is judged by the L that stands at its issue. DESIGN CHOICE (assumption 123). -/
def execAbAwait (a b : BitVec 5) (s : State) : Out :=
  let n : BitVec 32 := (s.rx b).setWidth 32
  let bar := s.myCore.ab a.toNat
  if bar.w < (n - bar.l).toNat then s.fault .abRange
  else if s.myCore.reached a.toNat n bar.l then .next s
  else .next (s.waitFor (.await a.toNat n bar.l))

/-- AB_AWAIT_RETURN (R251, R253): A has reached n from the L of the word's issue, whatever an `ab.init` or `ab.aret` has made of
L since. DESIGN CHOICE (assumption 123). -/
def execAbAwaitReturn (pcn : Nat) (eng : Eng) (s : State) : Out :=
  let id : StreamId := { core := pcn, eng := eng }
  match (s.stream id).wait with
  | .await ab n l => if s.awake pcn && (s.core pcn).reached ab n l then .next (s.complete id) else .next s
  | _ => .next s

/-- `ab.aret` (R253): a release of every earlier access of the stream. -/
def execAbAret (a b : BitVec 5) (s : State) : Out :=
  let n : BitVec 32 := (s.rx b).setWidth 32
  let bar := s.myCore.ab a.toNat
  if (s.myCore.abA a.toNat - bar.l).toNat < (n - bar.l).toNat then s.fault .abRange
  else
    .next (s.modMyCore (fun c => c.setAb a.toNat { bar with
      l := n, rel := (bar.rel.filter (fun r => r.1 != s.cur.eng)) ++ [(s.cur.eng, s.me.seq)] }))

/-- `ab.rd` (R253). -/
def execAbRd (d a sel : BitVec 5) (s : State) : Out :=
  let b := s.myCore.ab a.toNat
  let v : BitVec 32 := match sel.toNat with
    | 0 => b.cfg
    | 1 => b.i
    | 2 => s.myCore.abA a.toNat
    | _ => b.l
  .next (s.wx d (v.setWidth 64))

end Sys2Proof.Machine
end

