-- ==== Sys2Proof/Machine/Harrow.lean ====
section
/-! DEFINITION. Machine/Harrow.lean: the harrow (R196 to R223): shadow bank and arming, the checks of swap-in, counting,
drains, multiply mode, write-back, the nest, and the mc, mg, mb and mw majors. -/

namespace Sys2Proof.Machine

/-! ### The shadow bank -/

/-- Reset values of the shadow registers (R207). -/
def shadowReset : Vector Word 12 := ({} : Harrow).shadow

/-- Reserved bits of a shadow register are not written (R3, R208 to R210). -/
def shadowMask (n : Nat) : Word :=
  if n = 0 then 0xFFFFFFFFF0000000
  else if n = 3 then 0x00000000FFFFFFE0
  else if n < 6 then 0x00000000FFFFFFFF
  else 0xFFFFFFFFFFFFFFC0

def Harrow.put (h : Harrow) (n : Nat) (v : Word) : Harrow :=
  { h with shadow := h.shadow.setIfInBounds n (v &&& shadowMask n) }

/-- The eight words of a descriptor row (R215). -/
def Harrow.putRow (h : Harrow) (r : Row) : Harrow :=
  [0, 1, 2, 3, 6, 7, 8, 9].zipIdx.foldl (fun h p => h.put p.1 (Row.lane 64 r p.2)) h

/-- Arming (R213): from IDLE with STEPS at 0, the swap-in follows at once; else the shadow bank waits. -/
def Harrow.arm (h : Harrow) (b : ArmBy) : Harrow :=
  { h with
    armed := true, armBy := b, steps := if h.state = .idle then 0 else h.steps
    seen := if h.state = .idle then [] else h.seen }

/-- HSTAT (R213); an operator armed at IDLE reads as RUNNING while its swap-in goes on. -/
def Harrow.hstat (h : Harrow) : Word :=
  let st : Nat := match h.state with
    | .idle => num h.armed
    | .running => 1
    | .stopped => 2
  word (h.steps.toNat * 2 ^ 32 + num (h.armed && h.state != .idle) * 4 + st)

/-! ### What an operator is made of -/

/-- One operand side: its descriptor (R209) and the format register read for it. -/
structure HSide where
  bank  : Nat := 0
  row0  : Nat := 0
  pitch : Nat := 0
  tr    : Bool := false
  col   : Nat := 0
  gen   : Nat := 0
  bf    : BitVec 32 := 0
  deriving DecidableEq, Repr, Inhabited

/-- An operator as swapped in, or the active bank as an mb word reads it. -/
structure HOp where
  a    : HSide := {}
  b    : HSide := {}
  shp  : Word := 0
  wb   : Word := 0
  bfW  : BitVec 32 := 0
  alp  : Word := 0
  gen  : Word := 0
  nst  : List Word := []
  perm : List Nat := []
  deriving DecidableEq, Repr, Inhabited

def hside (w : Word) (bf : BitVec 32) : HSide :=
  { bank := bits w 31 27, row0 := bits w 26 16, pitch := bits w 15 5, tr := bit w 4, col := bits w 3 3, gen := bits w 2 0
    bf := bf }

def HOp.kb (o : HOp) : Nat := bits o.shp 63 48
def HOp.dpb (o : HOp) : Nat := bits o.shp 47 39
def HOp.prec (o : HOp) : Nat := bits o.shp 38 34
def HOp.sqd (o : HOp) : Bool := bit o.shp 33
def HOp.nosc (o : HOp) : Bool := bit o.shp 32
def HOp.acc (o : HOp) : Nat := bits o.shp 31 31
def HOp.ping (o : HOp) : Bool := bit o.shp 30
def HOp.zinit (o : HOp) : Bool := bit o.shp 29
def HOp.wbOn (o : HOp) : Bool := bit o.shp 28
/-- ALPHA's value. -/
def HOp.alpha (o : HOp) : FVal := FFmt.fp32.decode (bits o.alp 31 0)
/-- Levels of the nest: count, and the signed rows of A, B and HWB (R210). -/
def nstCnt (w : Word) : Nat := bits w 63 48
def nstStride (w : Word) (x : Nat) : Int :=
  bitsInt 14 true (if x = 0 then bits w 47 34 else if x = 1 then bits w 33 20 else bits w 19 6)

/-- The operator that a bank of twelve words stands for, under format registers. -/
def hop (bank : Vector Word 12) (bfA bfB bfW : BitVec 32) (perm : List Nat) : HOp :=
  let r (n : Nat) : Word := bank.toList.getD n 0
  { a := hside (r 1) bfA, b := hside (r 2) bfB, shp := r 0, wb := r 3, bfW := bfW, alp := r 4, gen := r 5
    nst := (List.range 6).map (fun i => r (6 + i)), perm := perm }

/-- The PERM index row of a core (R206). -/
def Core.permRow (c : Core) (gen : Word) : List Nat :=
  let lo := c.bankRow (bits gen 31 27) (bits gen 26 16)
  let hi := c.bankRow (bits gen 31 27) (bits gen 26 16 + 1)
  (List.range 64).map (fun p => if p < 32 then rowBits lo (16 * p) 16 else rowBits hi (16 * (p - 32)) 16)

/-- A bank of twelve words read with the core's format registers and index rows as they stand (R35, R212). -/
def Core.readHop (c : Core) (bank : Vector Word 12) : HOp :=
  let r (n : Nat) : Word := bank.toList.getD n 0
  let bf (n : Nat) : BitVec 32 := c.bfmt.toList.getD n 0
  hop bank (bf (bits (r 1) 31 27)) (bf (bits (r 2) 31 27)) (bf (bits (r 3) 31 27)) (c.permRow (r 5))

/-- The running operator. -/
def Harrow.op (h : Harrow) : HOp := hop h.active h.fmtA h.fmtB h.fmtW h.perm

/-! ### Checks (R212, R219) -/

/-- Formats of the sides that read rows. -/
def HOp.reads (o : HOp) : List HSide := [o.a, o.b].filter (fun d => d.gen = 0)
/-- Counting mode: a side that reads rows lies in a block-scaled bank (R196). DEDUCED (assumption 58). -/
def HOp.counting (o : HOp) : Bool := o.reads.any (fun d => efmtBlock (bfEfmt d.bf))
/-- The format of a multiply operator: of the first side that reads rows (R203). -/
def HOp.efmt (o : HOp) : Nat := (o.reads.head?.map (fun d => bfEfmt d.bf)).getD 1
/-- Bytes of a write-back element (R220); 0 for a format it cannot take. -/
def wbBytes (e : Nat) : Nat :=
  if e = 0 ∨ e = 11 ∨ e = 5 then 4 else if e = 10 ∨ e = 9 ∨ e = 3 then 2 else if e = 8 ∨ e = 1 then 1 else 0
def wbFormatOk (bf : BitVec 32) : Bool := wbBytes (bfEfmt bf) != 0 && bfLay bf = 0

/-- FORMAT_MISMATCH (R203, R212, R220). -/
def HOp.formatOk (o : HOp) : Bool :=
  let es := o.reads.map (fun d => bfEfmt d.bf)
  (if o.counting then o.reads.all (fun d => efmtBlock (bfEfmt d.bf) && bfLay d.bf = 0)
   else o.reads.all (fun d => bfLay d.bf = 1)
     && (es.all (fun e => e = 1 || e = 2) || es.all (fun e => (e = 9 || e = 10 || e = 11) && e = o.efmt)))

/-- QUANT_AXIS (R196, R212). -/
def HOp.axisOk (o : HOp) : Bool := !o.counting || o.reads.all (fun d => bfAxis d.bf = num d.tr)

/-- SHAPE (R203, R206, R212), but for HWB's PITCH. DEDUCED (assumption 57). -/
def HOp.shapeOk (o : HOp) : Bool :=
  o.kb != 0 && o.dpb != 0 && (o.dpb = 1 || o.nosc) && decide (o.a.gen ≤ 4) && decide (o.b.gen ≤ 4)
    && (o.a.gen = 0 || o.b.gen = 0)
    && (if o.counting then [o.a, o.b].all (fun d => !d.tr || d.row0 % 64 = 0)
        else !o.sqd && [o.a, o.b].all (fun d => !d.tr && d.col = 0 && d.pitch = 0)
          && (if o.efmt = 11 then o.prec = 0 else if o.efmt ≤ 2 then decide (o.prec ≤ 8) else decide (o.prec ≤ 16)))

/-- The least and the greatest offset of the nest for x = A, B or HWB (R211). -/
def HOp.span (o : HOp) (x : Nat) : Int × Int :=
  o.nst.foldl (fun acc w =>
    let d : Int := ((nstCnt w : Int) - 1) * nstStride w x
    (acc.1 + min 0 d, acc.2 + max 0 d)) (0, 0)

/-- First and last bank row of a side for K-blocks k0 to k1 − 1. -/
def HOp.rowsOf (o : HOp) (d : HSide) (k0 k1 : Nat) : Nat × Nat :=
  if !o.counting then (d.row0 + k0 * planeRows o.efmt, d.row0 + k1 * planeRows o.efmt - 1)
  else if d.tr then (d.row0 + 64 * k0, d.row0 + 64 * k1 - 1)
  else (d.row0 + k0 / 2, d.row0 + 63 * d.pitch + (k1 - 1) / 2)

/-- OPERAND_RANGE of the operand rows (R212) at the least and the greatest offset of A and of B. R212 names rows past the bank's
end; a row below 0 counts so too. DESIGN CHOICE (assumption 121). -/
def HOp.operandsOk (o : HOp) (k0 k1 : Nat) (offA offB : Int × Int) : Bool :=
  let ok (d : HSide) (f : Int × Int) : Bool :=
    let r := o.rowsOf d k0 k1
    let lim : Nat := if o.counting then bfSbase d.bf else 2048
    d.gen != 0 || (decide (0 ≤ (r.1 : Int) + f.1) && decide ((r.2 : Int) + f.2 < lim))
  ok o.a offA && ok o.b offB

/-- OPERAND_RANGE of the PERM index rows (R206), of a nest without tiles too: the second, IROW + 1, may not lie past the bank.
DESIGN CHOICE (assumption 121). -/
def HOp.permOk (o : HOp) : Bool := (o.a.gen != 3 && o.b.gen != 3) || decide (bits o.gen 26 16 + 1 < 2048)

/-- OPERAND_RANGE of write-back rows of z bytes an element at offsets between two bounds (R212), a row below 0 among them.
DESIGN CHOICE (assumption 121). -/
def wbRangeOk (w : Word) (z : Nat) (f : Int × Int) : Bool :=
  decide (0 ≤ (bits w 26 16 : Int) + f.1) && decide ((bits w 26 16 + 63 * bits w 15 5 + z : Int) + f.2 ≤ 2048)

/-- No tile step (R211). -/
def HOp.empty (o : HOp) : Bool := o.nst.any (fun w => nstCnt w = 0)

/-- The checks of a swap-in (R212). DEDUCED (assumption 57). -/
def HOp.bad (o : HOp) : Option KFault :=
  let z := wbBytes (bfEfmt o.bfW)
  if !o.formatOk ∨ (o.wbOn ∧ !(wbFormatOk o.bfW)) then some .formatMismatch
  else if !o.axisOk then some .quantAxis
  else if !o.shapeOk ∨ (o.wbOn ∧ bits o.wb 15 5 < z) then some .shape
  else if !o.permOk then some .operandRange
  else if o.empty then none
  else if !(o.operandsOk 0 o.kb (o.span 0) (o.span 1)) ∨ (o.wbOn ∧ !(wbRangeOk o.wb z (o.span 2))) then
    some .operandRange
  else none

/-- The checks of `mb.count` and `mb.drain` for one block (R219). DEDUCED (assumption 59). -/
def HOp.badBlock (o : HOp) (kb : Option Nat) (below : Bool) : Option KFault :=
  if !o.counting ∨ !o.formatOk then some .formatMismatch
  else if !o.axisOk then some .quantAxis
  else if !o.shapeOk ∨ (below ∧ o.kb ≤ kb.getD 0) then some .shape
  else if !o.permOk then some .operandRange
  else
    match kb with
    | none => none
    | some k => if o.operandsOk k (k + 1) (0, 0) (0, 0) then none else some .operandRange

/-! ### Counting (R196 to R199) -/

/-- The generated element of position p at K-position k (R206). -/
def HOp.genBit (o : HOp) (g p k : Nat) : Bool :=
  match g with
  | 1 => k = p
  | 2 => true
  | 3 => k = o.perm.getD p 0
  | _ => decide ((k : Int) = (p : Int) + bitsInt 16 true (bits o.gen 15 0))

/-- The scratchpad row of a bank at a signed row number. -/
def bankAt (bank : Nat) (r : Int) : Nat := 2048 * bank + (r % 2048).toNat % 2048

/-- Scratchpad rows that the codes of K-block kb of a side are read from (R196, R206). -/
def HSide.codeRows (d : HSide) (off : Int) (kb : Nat) : List Nat :=
  if d.gen ≠ 0 then []
  else (List.range 64).map (fun p => bankAt d.bank (d.row0 + off + (if d.tr then 64 * kb + p else p * d.pitch + kb / 2 : Nat)))

/-- Scratchpad rows of the PERM indices that an operator's words ask for (R206). -/
def HOp.permRows (o : HOp) : List Nat :=
  if o.a.gen = 3 ∨ o.b.gen = 3 then
    [bankAt (bits o.gen 31 27) (bits o.gen 26 16), bankAt (bits o.gen 31 27) (bits o.gen 26 16 + 1)]
  else []

/-- A row of a bank at a signed row number. -/
def Core.bankRowI (c : Core) (bank : Nat) (r : Int) : Row := c.bankRow bank (r % 2048).toNat

/-- The codes of K-block kb of a side, by position and element (R196, R206). -/
def Core.codes (c : Core) (o : HOp) (d : HSide) (off : Int) (kb : Nat) : List (List Nat) :=
  let r64 := List.range 64
  if d.gen ≠ 0 then r64.map (fun p => r64.map (fun k => num (o.genBit d.gen p (64 * kb + k))))
  else if d.tr then
    let rows := r64.map (fun k => c.bankRowI d.bank (d.row0 + off + (64 * kb + k : Nat)))
    r64.map (fun p => rows.map (fun r => rowBits r (4 * (64 * d.col + p)) 4))
  else
    let rows := r64.map (fun p => c.bankRowI d.bank (d.row0 + off + (p * d.pitch + kb / 2 : Nat)))
    rows.map (fun r => r64.map (fun k => rowBits r (4 * (64 * (kb % 2) + k)) 4))

/-- Does a side count as NQ4 (R197, R206)? -/
def HSide.nq4 (d : HSide) : Bool := d.gen = 0 && bfEfmt d.bf = 12

/-- Magnitude index and sign of a code (R197); none for an INT4 zero. -/
def codeMag (nq : Bool) (c : Nat) : Option (Nat × Bool) :=
  if nq then some (c % 8, c / 8 = 1)
  else
    let v := bitsInt 4 true c
    if v = 0 then none else some (v.natAbs - 1, decide (v < 0))

/-- The counter that a pair of codes steps, and the step (R197). -/
def pairStep (na nb : Bool) (a b : Nat) : Option (Nat × Int) :=
  match codeMag na a, codeMag nb b with
  | some (u, sa), some (v, sb) =>
    let i := if na = nb then max u v * (max u v + 1) / 2 + min u v else if na then 8 * u + v else 8 * v + u
    some (i, if sa = sb then 1 else -1)
  | _, _ => none

/-- The value of a counter, in the unit of R44. DEDUCED (assumption 55). -/
def counterValue (na nb : Bool) (i : Nat) : Nat :=
  if na = nb then
    let hi := ((List.range 8).filter (fun h => decide (h * (h + 1) / 2 ≤ i))).length - 1
    let lo := i - hi * (hi + 1) / 2
    if 35 < i then 0 else if na then nq4Mag hi * nq4Mag lo else (hi + 1) * (lo + 1)
  else nq4Mag (i / 8) * (i % 8 + 1)

/-- The exponent of the unit of R44. -/
def countUnit (na nb : Bool) : Int := -(8 * (num na + num nb : Nat) : Int)

def zeroCell : List Int := List.replicate 64 0
def Bin.cell (b : Bin) (n : Nat) : List Int := b.cells.get zeroCell n

def Harrow.bin (h : Harrow) (n : Nat) : Bin := if n = 0 then h.bin0 else h.bin1
def Harrow.setBin (h : Harrow) (n : Nat) (b : Bin) : Harrow := if n = 0 then { h with bin0 := b } else { h with bin1 := b }

/-- A count step into a bin overruns its counters (R198). -/
def Harrow.tooDeep (h : Harrow) (bin : Nat) : Bool := decide (32767 < (h.bin bin).depth + 64 ∨ 65535 < h.edep + 64)

/-- A count step of block kb into a bin (R198), over the rows as a core has them. -/
def Harrow.count (h : Harrow) (c : Core) (o : HOp) (bin : Nat) (offA offB : Int) (kb : Nat) : Harrow :=
  let b := h.bin bin
  let A := c.codes o o.a offA kb
  let B := c.codes o o.b offB kb
  let na := o.a.nq4
  let nb := o.b.nq4
  let cell (n : Nat) : List Int :=
    ((A.getD (n / 64) []).zip (B.getD (n % 64) [])).foldl (fun l p =>
      match pairStep na nb p.1 p.2 with
      | none => l
      | some (i, st) => l.set i (l.getD i 0 + st)) (b.cell n)
  let edge (old : Tbl Nat) (S : List (List Nat)) : Tbl Nat :=
    Tbl.build 0 1024 (fun n => old.get 0 n + ((S.getD (n / 16) []).filter (fun e => e = n % 16)).length)
  let b' : Bin := { cells := Tbl.build zeroCell 4096 cell, depth := b.depth + 64, tag := some kb }
  { (h.setBin bin b') with edgeA := edge h.edgeA A, edgeB := edge h.edgeB B, edep := h.edep + 64 }

/-- Scratchpad rows that a count step reads. -/
def HOp.countRows (o : HOp) (offA offB : Int) (kb : Nat) : List Nat := o.a.codeRows offA kb ++ o.b.codeRows offB kb

/-- `mb.merge` (R199); none for BIN_DEPTH. -/
def Harrow.merge (h : Harrow) (dst src : Nat) : Option Harrow :=
  let d := h.bin dst
  let s := h.bin src
  if 32767 < d.depth + s.depth then none
  else
    let b : Bin := {
      cells := Tbl.build zeroCell 4096 (fun n => (d.cell n).zipWith (· + ·) (s.cell n))
      depth := d.depth + s.depth, tag := if d.depth ≠ 0 then d.tag else s.tag }
    some ((h.setBin dst b).setBin src {})

/-! ### Drains and products -/

/-- A tile's element (R200). -/
def Harrow.acc (h : Harrow) (t n : Nat) : BitVec 32 := (if t = 0 then h.acc0 else h.acc1).get 0 n
def Harrow.setTile (h : Harrow) (t : Nat) (f : Nat → BitVec 32) : Harrow :=
  if t = 0 then { h with acc0 := Tbl.build 0 4096 f } else { h with acc1 := Tbl.build 0 4096 f }
def Harrow.zeroTile (h : Harrow) (t : Nat) : Harrow := if t = 0 then { h with acc0 := [] } else { h with acc1 := [] }

/-- An integer times 2^e. -/
def dyadic (v : Int) (e : Int) : FVal := .fin (decide (v < 0)) v.natAbs e

/-- A sum of dyadic values, as a value; it stays exact. -/
def FVal.total (vs : List FVal) : FVal :=
  match FVal.sum vs with
  | .nan => .nan
  | .inf n => .inf n
  | .val n m _ e => .fin n m e

/-- A contribution added to an accumulator element with one rounding (R28); an exact zero counts as +0 (R200, R204). -/
def accSum (old : BitVec 32) (x : FVal) : BitVec 32 :=
  let x := match x with
    | .fin n m e => .fin (n && m != 0) m e
    | x => x
  BitVec.ofNat 32 (FFmt.fp32.arith false (FVal.sum [FFmt.fp32.decode old.toNat, x]))

/-- The contribution of a drain: a non-finite one is the canonical NaN (R200). -/
def accAdd (old : BitVec 32) (x : FVal) : BitVec 32 :=
  match x with
  | .fin _ _ _ => accSum old x
  | _ => BitVec.ofNat 32 FFmt.fp32.nan

/-- The block of position p in K-block kb of a side (R30, R34). -/
def HSide.blockOf (d : HSide) (off : Int) (kb p : Nat) : Nat :=
  let row : Nat := ((d.row0 + off + (if d.tr then 64 * kb else p * d.pitch + kb / 2 : Nat) : Int) % 2048).toNat
  blockNo (bfAxis d.bf) row (if d.tr then 64 * d.col + p else 64 * (kb % 2))

/-- The block scale of position p in block kb (R30, R34, R200); 1 under NOSC and for a generated side.
DEDUCED (assumption 58). -/
def Core.sideScale (c : Core) (o : HOp) (d : HSide) (off : Int) (kb p : Nat) : FVal :=
  if o.nosc ∨ d.gen ≠ 0 then .fin false 1 0
  else
    let (sup, s) := c.blockScale d.bank d.bf (d.blockOf off kb p)
    (FFmt.fp32.decode sup).mul (.fin false (s + 1) (-16))

/-- Scratchpad rows that the scales of a side's K-block are read from (R34). -/
def HOp.scaleRows (o : HOp) (d : HSide) (off : Int) (kb : Nat) : List Nat :=
  if o.nosc ∨ d.gen ≠ 0 then []
  else (List.range 64).flatMap (fun p =>
    let b := d.blockOf off kb p
    [bankAt d.bank (bfXbase d.bf + b / 64 : Nat), bankAt d.bank (bfSbase d.bf + b / 32 : Nat)])

/-- Scratchpad rows that a drain of a bin reads. -/
def Harrow.drainRows (h : Harrow) (o : HOp) (bin : Nat) (offA offB : Int) : List Nat :=
  let b := h.bin bin
  if b.depth = 0 then [] else o.scaleRows o.a offA (b.tag.getD 0) ++ o.scaleRows o.b offB (b.tag.getD 0)

/-- A drain of a bin into a tile (R200), over the rows as a core has them. DEDUCED (assumption 55). -/
def Harrow.drain (h : Harrow) (c : Core) (o : HOp) (bin t : Nat) (sqd : Bool) (offA offB : Int) : Harrow :=
  let b := h.bin bin
  if b.depth = 0 then h
  else
    let na := o.a.nq4
    let nb := o.b.nq4
    let kb := b.tag.getD 0
    let sc (d : HSide) (off : Int) : List FVal := (List.range 64).map (c.sideScale o d off kb)
    let SA := sc o.a offA
    let SB := sc o.b offB
    let vals : List Int := (List.range 64).map (fun i => (counterValue na nb i : Int))
    let sq (nq : Bool) (ed : Tbl Nat) (p : Nat) : FVal :=
      dyadic ((List.range 16).foldl (fun (acc : Int) e =>
        let v : Int := if nq then nq4Int e else bitsInt 4 true e
        acc + (ed.get 0 (16 * p + e) : Nat) * (v * v)) 0) (if nq then -16 else 0)
    let QA := if sqd then (List.range 64).map (sq na h.edgeA) else []
    let QB := if sqd then (List.range 64).map (sq nb h.edgeB) else []
    let contribution (n : Nat) : FVal :=
      let d : Int := ((b.cell n).zipWith (· * ·) vals).foldl (· + ·) 0
      let sa := SA.getD (n / 64) .nan
      let sb := SB.getD (n % 64) .nan
      let du := dyadic d (countUnit na nb)
      let x := if sqd then
          FVal.total [(sa.mul sa).mul (QA.getD (n / 64) .nan), (sb.mul sb).mul (QB.getD (n % 64) .nan),
            (((dyadic (-2) 0).mul sa).mul sb).mul du]
        else (sa.mul sb).mul du
      o.alpha.mul x
    { ((h.setTile t (fun n => accAdd (h.acc t n) (contribution n))).setBin bin {}) with edgeA := [], edgeB := [], edep := 0 }

/-- The plane rows of a K-block of an operand in plane form (R202). -/
def Core.planesOf (c : Core) (o : HOp) (d : HSide) (off : Int) (kb : Nat) : List Row :=
  if d.gen ≠ 0 then []
  else
    let base : Int := d.row0 + off + (kb * planeRows o.efmt : Nat)
    (List.range (8 * planeBits o.efmt)).map (fun j => c.bankRowI d.bank (base + (j : Nat)))

/-- The stored bits of element k of position p in a K-block's plane rows (R202), its first n planes.
DEDUCED (assumption 56). -/
def planeElem (w n : Nat) (planes : List Row) (p k : Nat) : Nat :=
  (List.range n).foldl (fun acc b =>
    acc + (Row.byte (planes.getD (k / 8 * w + b) 0) p).toNat / 2 ^ (k % 8) % 2 * 2 ^ b) 0

/-- The exponent of a position's K-block (R202): 0 for an integer format and a generated side. -/
def Core.planeExpOf (c : Core) (o : HOp) (d : HSide) (off : Int) (kb p : Nat) : Int :=
  if d.gen ≠ 0 ∨ o.efmt ≤ 2 then 0
  else
    let base : Int := d.row0 + off + (kb * planeRows o.efmt + 8 * planeBits o.efmt : Nat)
    bitsInt 16 true (rowBits (c.bankRowI d.bank (base + (p / 32 : Nat))) (16 * (p % 32)) 16)

/-- The bits of element k of K-block kb of position p, its first n planes (R203, R206). -/
def HOp.mulBits (o : HOp) (d : HSide) (planes : List Row) (kb n p k : Nat) : Nat :=
  if d.gen ≠ 0 then
    (if o.genBit d.gen p (64 * kb + k) then (if o.efmt ≤ 2 then 1 else if o.efmt = 11 then 2 ^ 30 else 2 ^ 14) else 0)
      % 2 ^ n
  else planeElem (planeBits o.efmt) n planes p k

/-- A side's own format: an integer side that is generated takes the other side's. -/
def HOp.sideFmt (o : HOp) (d : HSide) : Nat := if d.gen ≠ 0 then o.efmt else bfEfmt d.bf

/-- Scratchpad rows of a K-block of an operand in plane form (R202). -/
def HOp.blockRows (o : HOp) (d : HSide) (off : Int) (kb : Nat) : List Nat :=
  if d.gen ≠ 0 then []
  else (List.range (planeRows o.efmt)).map (fun j => bankAt d.bank (d.row0 + off + (kb * planeRows o.efmt + j : Nat)))

/-- Scratchpad rows that a block of multiply mode reads. -/
def HOp.multiplyRows (o : HOp) (offA offB : Int) (kb : Nat) : List Nat := o.blockRows o.a offA kb ++ o.blockRows o.b offB kb

/-- The contribution of a K-block to a tile in multiply mode (R203 to R205), over the rows as a core has them. -/
def Harrow.multiply (h : Harrow) (c : Core) (o : HOp) (t : Nat) (offA offB : Int) (kb : Nat) : Harrow :=
  let w := planeBits o.efmt
  let nB := if o.prec = 0 then w else o.prec
  let side (d : HSide) (off : Int) (n : Nat) : List (List Nat × Int) :=
    let planes := c.planesOf o d off kb
    (List.range 64).map (fun p => ((List.range 64).map (o.mulBits d planes kb n p), c.planeExpOf o d off kb p))
  let A := side o.a offA w
  let B := side o.b offB nB
  let val (d : HSide) (n v : Nat) : Int := bitsInt n (o.sideFmt d != 2) v
  let dot (f g : Nat → Int) (x y : List Nat) : Int := (x.zip y).foldl (fun acc p => acc + f p.1 * g p.2) 0
  let lo (v : Nat) : Int := bitsInt 16 true v
  let hi (v : Nat) : Int := bitsInt 16 true (v / 2 ^ 16)
  let contribution (n : Nat) : FVal :=
    let a := A.getD (n / 64) ([], 0)
    let b := B.getD (n % 64) ([], 0)
    if a.2 = 0x7FFF ∨ b.2 = 0x7FFF then .nan
    else
      let x :=
        if o.efmt = 11 then
          dyadic (dot hi hi a.1 b.1 * 2 ^ 30 + (dot lo hi a.1 b.1 + dot hi lo a.1 b.1) * 2 ^ 15) (a.2 + b.2 - 58)
        else dyadic (dot (val o.a w) (val o.b nB) a.1 b.1) (if o.efmt ≤ 2 then 0 else a.2 + b.2 - 28)
      o.alpha.mul x
  h.setTile t (fun n => accSum (h.acc t n) (contribution n))

/-! ### Write-back (R220) -/

/-- Element (i, j) of a tile in a write-back format. -/
def wbElem (e : Nat) (v : BitVec 32) : Nat := if e = 0 ∨ e = 11 then v.toNat else convElem 11 e v.toNat

/-- Row r (0 to z − 1) of tile row i. -/
def Harrow.wbRow (h : Harrow) (t e i r : Nat) : Row :=
  let z := wbBytes e
  if z = 0 then 0 else rowOfElems (8 * z) (fun j => wbElem e (h.acc t (64 * i + (64 / z) * r + j)))

/-- The scratchpad row of row r of tile row i under a layout word and an offset. -/
def wbPlace (w : Word) (off : Int) (i r : Nat) : Nat :=
  2048 * bits w 31 27 + ((bits w 26 16 + off + (i * bits w 15 5 + r : Nat) : Int) % 2048).toNat

/-! ### Events of the harrow -/

/-- A harrow may go on: the tract clock runs, and its core's kernel is alive, or has left an operator running that the
next kernel waits for in PLACED (R135). DEDUCED (assumption 61). -/
def State.harrowOn (s : State) (pcn : Nat) : Bool :=
  (s.tractOf pcn).ticking && (s.live pcn || (match (s.core pcn).kernel with
    | none => true
    | some k => (s.kernel k).state = .placed))

def State.setHarrow (s : State) (pcn : Nat) (h : Harrow) : State := s.modCore pcn (fun c => { c with harrow := h })

/-- A harrow fault (R212, R213, R257): STOPPED, and the record of whoever armed the operator. -/
def State.harrowFault (s : State) (pcn : Nat) (b : ArmBy) (f : KFault) : State :=
  let s := s.modCore pcn (fun c => { c with harrow := { c.harrow with state := .stopped, seen := [] } })
  match (s.core pcn).kernel with
  | none => s
  | some k =>
    let rec_ : FaultRec := match b with
      | .word pc => { code := f, pcn := pcn, eng := 2, whr := word pc, recVa := (s.kernel k).krec }
      | .cmq o => { code := f, pcn := pcn, eng := 0, whr := word o.pc, recVa := (s.kernel k).krec }
      | .record va => { code := f, pcn := pcn, eng := 2, whr := -1, recVa := va }
    s.kernelFault k rec_

/-- A step of an operator that reads rows (R284): it reads one a turn until it has read all of them; `k` makes the step over
the core as it read them. -/
def State.harrowRows (s : State) (pcn : Nat) (need : List Nat) (k : Core → Out) : Out :=
  let c := s.core pcn
  match s.readOne pcn c.harrow.seen need with
  | some got => .next (s.setHarrow pcn { c.harrow with seen := got }).drawn
  | none => k (c.seeing c.harrow.seen)

/-- HARROW_SWAP_IN (R35, R206, R211 to R213): with no operator running, the armed shadow bank becomes the active one, its
formats and index rows are read and checked, and the operator starts. -/
def execHarrowSwapIn (pcn : Nat) (s : State) : Out :=
  let c := s.core pcn
  let h := c.harrow
  if !h.armed ∨ h.state ≠ .idle ∨ !(s.harrowOn pcn) then .next s
  else
    let o := c.readHop h.shadow
    s.harrowRows pcn (if o.bad.isSome then [] else o.permRows) (fun seen =>
      let o := seen.readHop h.shadow
      let h' : Harrow := { h with
        active := h.shadow, armed := false, state := .running, steps := 0, runBy := h.armBy
        fmtA := o.a.bf, fmtB := o.b.bf, fmtW := o.bfW, perm := o.perm, run := { ended := o.empty }, seen := [] }
      let s := s.setHarrow pcn h'
      match o.bad with
      | some f => .next (s.harrowFault pcn h.armBy f)
      | none => .next s)

/-- The row offset of x = A, B or HWB in the present tile step (R211). -/
def Harrow.off (h : Harrow) (x : Nat) : Int :=
  ((h.op.nst.zip h.run.idx).foldl (fun acc p => acc + p.2 * nstStride p.1 x) 0)

/-- The tile of the present tile step (R211). -/
def Harrow.tile (h : Harrow) : Nat := if h.op.ping then (h.op.acc + h.run.step) % 2 else h.op.acc

/-- A K-block of the present tile step may be taken: the nest has not run out, no drain is due, and without PING the
write-back before it is done. -/
def Harrow.blockReady (h : Harrow) : Bool :=
  h.state = .running && !h.run.ended && !h.run.due && decide (h.run.kb < h.op.kb) && (h.op.ping || h.run.wb.isNone)

/-- ZINIT at the start of a tile step (R211). -/
def Harrow.tileStart (h : Harrow) : Harrow := if h.run.kb = 0 ∧ h.op.zinit then h.zeroTile h.tile else h

/-- HARROW_COUNT_STEP (R198, R211). -/
def execHarrowCountStep (pcn : Nat) (s : State) : Out :=
  let c := s.core pcn
  let h := c.harrow
  if !(s.harrowOn pcn) ∨ !h.blockReady ∨ !h.op.counting then .next s
  else
    let h := h.tileStart
    let kb := h.run.kb
    if h.tooDeep h.run.bin then .next ((s.setHarrow pcn h).harrowFault pcn h.runBy .binDepth)
    else
      s.harrowRows pcn (h.op.countRows (h.off 0) (h.off 1) kb) (fun seen =>
        let due := (kb + 1) % h.op.dpb = 0 || kb + 1 = h.op.kb
        .next (s.setHarrow pcn { (h.count seen h.op h.run.bin (h.off 0) (h.off 1) kb) with
          run := { h.run with kb := kb + 1, due := due }, seen := [] }))

/-- HARROW_DRAIN (R200, R211): the drain that the latest count step made due. -/
def execHarrowDrain (pcn : Nat) (s : State) : Out :=
  let c := s.core pcn
  let h := c.harrow
  if !(s.harrowOn pcn) ∨ h.state ≠ .running ∨ !h.run.due then .next s
  else
    s.harrowRows pcn (h.drainRows h.op h.run.bin (h.off 0) (h.off 1)) (fun seen =>
      .next (s.setHarrow pcn { (h.drain seen h.op h.run.bin h.tile h.op.sqd (h.off 0) (h.off 1)) with
        run := { h.run with due := false, bin := 1 - h.run.bin }, seen := [] }))

/-- HARROW_MULTIPLY_BLOCK (R204, R205, R211). -/
def execHarrowMultiplyBlock (pcn : Nat) (s : State) : Out :=
  let c := s.core pcn
  let h := c.harrow
  if !(s.harrowOn pcn) ∨ !h.blockReady ∨ h.op.counting then .next s
  else
    let h := h.tileStart
    s.harrowRows pcn (h.op.multiplyRows (h.off 0) (h.off 1) h.run.kb) (fun seen =>
      .next (s.setHarrow pcn { (h.multiply seen h.op h.tile (h.off 0) (h.off 1) h.run.kb) with
        run := { h.run with kb := h.run.kb + 1 }, seen := [] }))

/-- The next point of the nest, level 0 innermost (R211). -/
def nextIdx : List Word → List Nat → Option (List Nat)
  | w :: ws, i :: is =>
    if i + 1 < nstCnt w then some ((i + 1) :: is) else (nextIdx ws is).map (fun r => 0 :: r)
  | _, _ => none

/-- Every K-block of the present tile step is in its tile. -/
def Harrow.tileFull (h : Harrow) : Bool :=
  h.state = .running && !h.run.ended && !h.run.due && h.run.kb = h.op.kb

/-- Bank rows of a write-back. -/
def Harrow.wbRows (h : Harrow) : Nat := 64 * wbBytes (bfEfmt h.fmtW)

/-- HARROW_WRITE_BACK (R211, R216, R220): the next row of the write-back under way; without PING it begins once the
tile step's blocks are in. -/
def execHarrowWriteBack (pcn : Nat) (s : State) : Out :=
  let h := (s.core pcn).harrow
  let z := wbBytes (bfEfmt h.fmtW)
  if !(s.harrowOn pcn) then .next s
  else
    let r : HRun :=
      if h.run.wb.isNone ∧ h.tileFull ∧ h.op.wbOn ∧ !h.op.ping then
        { h.run with wb := some 0, wbTile := h.tile, wbOff := h.off 2 }
      else h.run
    match r.wb with
    | none => .next s
    | some n =>
      if h.state ≠ .running ∨ h.wbRows ≤ n ∨ z = 0 then .next s
      else
        let row := h.wbRow r.wbTile (bfEfmt h.fmtW) (n / z) (n % z)
        let done := if n + 1 = h.wbRows ∧ h.op.ping then none else some (n + 1)
        .next ((s.setHarrow pcn { h with run := { r with wb := done } }).writeRow pcn
          (wbPlace h.op.wb r.wbOff (n / z) (n % z)) row)

/-- HARROW_TILE_STEP (R211, R213): a tile step is done; with PING its write-back begins and overlaps the next. -/
def execHarrowTileStep (pcn : Nat) (s : State) : Out :=
  let h := (s.core pcn).harrow
  let ready : Bool :=
    if h.op.wbOn then (if h.op.ping then h.run.wb.isNone else h.run.wb = some h.wbRows) else true
  if !(s.harrowOn pcn) ∨ !h.tileFull ∨ !ready then .next s
  else
    let next := nextIdx h.op.nst h.run.idx
    let r : HRun := {
      idx := next.getD h.run.idx, ended := next.isNone, step := h.run.step + 1
      wb := if h.op.wbOn && h.op.ping then some 0 else none, wbTile := h.tile, wbOff := h.off 2 }
    .next (s.setHarrow pcn { h with run := r, steps := h.steps + 1 })

/-- The CMQ operation of a number has completed its operator. -/
def markDone (id : Nat) (l : List CopyOp) : List CopyOp := l.map (fun o => if o.id = id then { o with done := 1 } else o)

/-- HARROW_OPERATOR_DONE (R213, R216, R255): the last tile step and its write-back are done; an operator that waits in the
shadow bank swaps in next. DEDUCED (assumption 61). -/
def execHarrowOperatorDone (pcn : Nat) (s : State) : Out :=
  let c := s.core pcn
  let h := c.harrow
  if !(s.harrowOn pcn) ∨ h.state ≠ .running ∨ !h.run.ended ∨ h.run.wb.isSome then .next s
  else
    let c := match h.runBy with
      | .cmq o => { c with cmFly := markDone o.id c.cmFly }
      | _ => c
    .next (s.setCore pcn { c with harrow := { h with state := .idle, steps := if h.armed then 0 else h.steps } })

/-- The word that a stream issues next: behind a `rep` that has issued it is the repeated word (R165). -/
def Stream.nextWord (m : Stream) (code : List Byte) : Nat × BitVec 32 :=
  let at_ := if m.repOn then m.pc + 2 else m.pc
  (at_, codeWord code at_)

/-- The MX stands at an `mg.go` or `mg.go.ind` that arms in this cycle, or as soon as ARMED = 0: it goes before a pop of CMQ
(R213, R218). One that nothing lets issue in the cycle (an idling block, a qualifier or stage predicate, a fetch, a fence, a
register, a diversion) does not. -/
def State.goFirst (s : State) (pcn : Nat) : Bool :=
  let id : StreamId := { core := pcn, eng := .mx }
  let m := (s.core pcn).mx
  let w := m.nextWord (s.code pcn)
  let ind := w.2.extractLsb' 0 11 = 1#11
  s.live pcn && (s.tractOf pcn).issuing && m.phase = .live && m.busy = 0 && !m.fetching && m.fetched && !m.idling && !m.fenced
    && (m.wait = .none || m.wait = .again || m.wait = .harrow .armed)
    && (m.spent || (s.divertsTo id).isNone)
    && (w.2.extractLsb' 23 9 = 0x1E1#9 && (w.2.extractLsb' 0 11 = 0#11 || ind))
    && iqOk (w.2.extractLsb' 21 2) m.blocks && stageOk m.spw w.1 m.blocks
    && !(ind && s.pending id (.x (w.2.extractLsb' 11 5)))

/-- CMQ_POP (R213, R215, R254, R257, R258): with its tokens there and ARMED = 0, the head's descriptor row is read and
arms, after an `mg.go` that would arm in the same cycle. DEDUCED (assumption 63). -/
def execCmqPop (pcn : Nat) (s : State) : Out :=
  let c := s.core pcn
  match c.cmq with
  | [] => .next s
  | o :: rest =>
    if !(s.awake pcn) ∨ c.harrow.armed ∨ s.goFirst pcn ∨ !c.released o ∨ (o.tw ∧ c.token 0 = 0)
        ∨ (o.tw2 ∧ c.token 3 = 0) then .next s
    else
      match o.kind with
      | .harrow ea =>
        (match reachRow pcn ea with
         | none => .next (s.copyFault pcn o .addrRange)
         | some (t, r, _) =>
           let c := if o.tw then c.setToken 0 (c.token 0 - 1) else c
           let c := if o.tw2 then c.setToken 3 (c.token 3 - 1) else c
           .next (s.setCore pcn { c with
             cmq := rest, cmFly := c.cmFly ++ [o], harrow := (c.harrow.putRow ((s.core t).row r)).arm (.cmq o) }))
      | _ => .next s

/-! ### Waits of the MX -/

/-- The operator of a bank can write a tile (R211, R221). -/
def writesTile (bank : Vector Word 12) (t : Nat) : Bool :=
  let o := hop bank 0 0 0 []
  !o.empty && (o.acc = t || (o.ping && o.nst.any (fun w => decide (1 < nstCnt w))))

/-- The condition of a harrow wait holds (R213, R218, R219, R221). -/
def Harrow.waitOver (h : Harrow) : HWait → Bool
  | .armed => !h.armed
  | .idle => h.state = .idle && !h.armed
  | .tile t => !(h.state = .running && writesTile h.active t) && !(h.armed && writesTile h.shadow t)
  | .stored | .storedBad => true

/-- A word that waits for the harrow, or goes on. -/
def State.afterHarrow (s : State) (w : HWait) (k : Harrow → Out) : Out :=
  if s.myCore.harrow.waitOver w then k s.myCore.harrow else .next (s.waitFor (.harrow w))

/-- HARROW_WAIT_END (R213, R216): the condition holds, and the waiting word issues once more; a word whose rows are all
performed completes, or takes the fault of the first row that it could not reach (R222). -/
def execHarrowWaitEnd (pcn : Nat) (s : State) : Out :=
  let id : StreamId := { core := pcn, eng := .mx }
  match (s.stream id).wait with
  | .harrow .stored => if s.awake pcn && (s.stream id).pend.isEmpty then .next (s.complete id) else .next s
  | .harrow .storedBad =>
    if s.awake pcn && (s.stream id).pend.isEmpty then .next (s.streamFault id .addrRange 0) else .next s
  | .harrow w =>
    if s.awake pcn && (s.core pcn).harrow.waitOver w then .next (s.modStream id (fun m => { m with wait := .none }))
    else .next s
  | _ => .next s

def State.setMine (s : State) (h : Harrow) : State := s.setHarrow s.cur.core h

/-! ### mc -/

/-- `mc.set` (R217). -/
def execMcSet (d a : BitVec 5) (s : State) : Out :=
  s.afterHarrow .armed (fun h => .next (s.setMine (h.put d.toNat (s.rx a))))
/-- `mc.get` (R217). -/
def execMcGet (d a : BitVec 5) (s : State) : Out := .next (s.wx d (s.myCore.harrow.shadow.toList.getD a.toNat 0))
/-- `mc.geta` (R217). -/
def execMcGeta (d a : BitVec 5) (s : State) : Out := .next (s.wx d (s.myCore.harrow.active.toList.getD a.toNat 0))
/-- `mc.clr` (R217). -/
def execMcClr (s : State) : Out := s.afterHarrow .armed (fun h => .next (s.setMine { h with shadow := shadowReset }))

/-! ### mg -/

/-- `mg.go` (R213, R218). -/
def execMgGo (s : State) : Out := s.afterHarrow .armed (fun h => .next (s.setMine (h.arm (.word s.me.pc))))
/-- `mg.go.ind` (R215, R218). -/
def execMgGoInd (a : BitVec 5) (s : State) : Out :=
  s.afterHarrow .armed (fun h =>
    match reachRow s.cur.core (s.rx a) with
    | none => s.fault .addrRange
    | some (c, r, win) =>
      .next ((s.setMine ((h.putRow ((s.core c).row r)).arm (.word s.me.pc))).spend (latency win)))
/-- `mg.swap` (R218). -/
def execMgSwap (s : State) : Out := s.afterHarrow .armed (fun _ => .next s)
/-- `mg.stat` (R213, R218). -/
def execMgStat (d : BitVec 5) (s : State) : Out := .next (s.wx d s.myCore.harrow.hstat)
/-- `mg.wait` (R218). -/
def execMgWait (s : State) : Out := s.afterHarrow .idle (fun _ => .next s)

/-! ### mb -/

/-- `mb.clr` (R219). -/
def execMbClr (a : BitVec 5) (e : BitVec 1) (s : State) : Out :=
  s.afterHarrow .idle (fun h =>
    let h := h.setBin a.toNat {}
    .next (s.setMine (if e = 1 then { h with edgeA := [], edgeB := [], edep := 0 } else h)))
/-- A word that reads rows waits for the harrow to be idle, before its first row and after it (R219). -/
def State.mbIdle (s : State) (k : Harrow → Out) : Out :=
  if s.myCore.harrow.waitOver .idle then k s.myCore.harrow
  else .next ((s.setMine { s.myCore.harrow with mbSeen := [] }).waitFor (.harrow .idle))

/-- A word that reads rows (R284) reads one a turn until it has read all of them; `k` makes the step over the core as it
read them. -/
def State.mbRows (s : State) (need : List Nat) (k : Core → Out) : Out :=
  let c := s.myCore
  match s.readOne s.cur.core c.harrow.mbSeen need with
  | some got => .next ((s.setMine { c.harrow with mbSeen := got }).waitFor .again).drawn
  | none => k (c.seeing c.harrow.mbSeen)

/-- The active bank as an mb word reads it: with the PERM indices of the swap-in (R219) and, as R35 names no other time, with
the BFMT registers as they stand at the word. DESIGN CHOICE (assumption 118). -/
def State.mbHop (s : State) : HOp := { s.myCore.readHop s.myCore.harrow.active with perm := s.myCore.harrow.perm }

/-- `mb.count` (R198, R206, R219): BFMT is read as the word takes effect. DESIGN CHOICE (assumption 118). -/
def execMbCount (a b : BitVec 5) (s : State) : Out :=
  s.mbIdle (fun h =>
    let o := s.mbHop
    let kb := (s.rx b).toNat
    match o.badBlock (some kb) true with
    | some f => s.fault f
    | none =>
      if h.tooDeep a.toNat then s.fault .binDepth
      else
        s.mbRows (o.countRows 0 0 kb) (fun seen =>
          .next ((s.setMine { (h.count seen o a.toNat 0 0 kb) with mbSeen := [] }).spend 7)))
/-- `mb.merge` (R199, R219). -/
def execMbMerge (d a : BitVec 5) (s : State) : Out :=
  s.afterHarrow .idle (fun h =>
    match h.merge d.toNat a.toNat with
    | none => s.fault .binDepth
    | some h => .next ((s.setMine h).spend 1))
/-- `mb.drain` (R200, R219): BFMT is read as the word takes effect. DEDUCED (assumption 59). DESIGN CHOICE (assumption 118). -/
def execMbDrain (d a : BitVec 5) (f : BitVec 1) (s : State) : Out :=
  s.mbIdle (fun h =>
    let o := s.mbHop
    match o.badBlock (h.bin a.toNat).tag false with
    | some f => s.fault f
    | none =>
      s.mbRows (h.drainRows o a.toNat 0 0) (fun seen =>
        .next ((s.setMine { (h.drain seen o a.toNat d.toNat (f = 1) 0 0) with mbSeen := [] }).spend 3)))
/-- `mb.depth` (R219). -/
def execMbDepth (d a : BitVec 5) (s : State) : Out := .next (s.wx d (word (s.myCore.harrow.bin a.toNat).depth))

/-- What `mb.rdc` reads (R219). -/
def Harrow.counter (h : Harrow) (bin : Nat) (x : Word) : Word :=
  let i := bits x 17 12
  match bits x 19 18 with
  | 0 => sword (((h.bin bin).cell (64 * i + bits x 11 6)).getD (bits x 5 0) 0)
  | 1 => word (h.edgeA.get 0 (16 * i + bits x 3 0))
  | 2 => word (h.edgeB.get 0 (16 * i + bits x 3 0))
  | _ => word h.edep
/-- `mb.rdc` (R219). -/
def execMbRdc (d a b : BitVec 5) (s : State) : Out := .next (s.wx d (s.myCore.harrow.counter a.toNat (s.rx b)))

/-! ### mw -/

/-- Whole rows stored by the word in class 15, in order; it completes, or faults, when they are performed (R216). -/
def State.storeRows (s : State) (w : HWait) (l : List (Nat × Nat × Bool × Row)) : State :=
  (l.foldl (fun s t => s.issue 15 (.bank t.1 t.2.1) 0 t.2.2.1 (.storeV t.2.2.2)) s).waitFor (.harrow w)

/-- `mw.wb` (R216, R220, R221): BFMT is read as the word takes effect. DEDUCED (assumption 60). DESIGN CHOICE (assumption 118). -/
def execMwWb (d : BitVec 5) (z : BitVec 1) (b : BitVec 5) (s : State) : Out :=
  s.afterHarrow (.tile d.toNat) (fun h =>
    let w := s.rx b
    let e := bfEfmt (s.myCore.bfmt.toList.getD (bits w 31 27) 0)
    let n := wbBytes e
    if !(wbFormatOk (s.myCore.bfmt.toList.getD (bits w 31 27) 0)) then s.fault .formatMismatch
    else if !(wbRangeOk w n (0, 0)) then s.fault .operandRange
    else
      let s' := s.storeRows .stored ((List.range (64 * n)).map (fun i =>
        (s.cur.core, wbPlace w 0 (i / n) (i % n), false, h.wbRow d.toNat e (i / n) (i % n))))
      let s' := if z = 1 then s'.setMine (h.zeroTile d.toNat) else s'
      .next (s'.spend (64 * n - 1)))

/-- Element j ranks before element j' of a row (R222). -/
def ranksBefore (sqd : Bool) (f : Nat → BitVec 32) (j j' : Nat) : Bool :=
  let a := FFmt.fp32.decode (f j).toNat
  let b := FFmt.fp32.decode (f j').toNat
  match a, b with
  | .nan, .nan => decide (j < j')
  | .nan, _ => false
  | _, .nan => true
  | _, _ =>
    if a.eqv b then decide (j < j') else if sqd then a.le b else b.le a

/-- The row of a tile row's k best (R222). -/
def topRow (sqd : Bool) (k : Nat) (f : Nat → BitVec 32) : Row :=
  let rank (j : Nat) : Nat := ((List.range 64).filter (fun j' => ranksBefore sqd f j' j)).length
  rowOfElems 64 (fun e =>
    if e < k then
      match (List.range 64).find? (fun j => rank j = e) with
      | some j => (f j).toNat + 2 ^ 32 * j
      | none => 0
    else 0)

/-- The rows of a `mw.topk` up to the first that cannot be reached (R222). -/
def topRows (pcn : Nat) (base : Word) (row : Nat → Row) : List Nat → List (Nat × Nat × Bool × Row)
  | [] => []
  | i :: r =>
    match reachRow pcn (base + word (64 * i)) with
    | none => []
    | some (c, n, win) => (c, n, win, row i) :: topRows pcn base row r

/-- `mw.topk` (R216, R221, R222): where a row cannot be reached, those before it are written, and it faults. -/
def execMwTopk (d : BitVec 5) (q : BitVec 1) (k : BitVec 3) (b : BitVec 5) (s : State) : Out :=
  s.afterHarrow (.tile d.toNat) (fun h =>
    let row (i : Nat) : Row := topRow (q = 1) (k.toNat + 1) (fun j => h.acc d.toNat (64 * i + j))
    let dest := topRows s.cur.core (s.rx b) row (List.range 64)
    if dest.isEmpty then s.fault .addrRange
    else .next ((s.storeRows (if dest.length < 64 then .storedBad else .stored) dest).spend 71))
/-- `mw.zero` (R221). -/
def execMwZero (d : BitVec 5) (s : State) : Out :=
  s.afterHarrow (.tile d.toNat) (fun h => .next ((s.setMine (h.zeroTile d.toNat)).spend 1))
/-- `mw.rd` (R221). -/
def execMwRd (d a b : BitVec 5) (s : State) : Out :=
  s.afterHarrow (.tile a.toNat) (fun h =>
    let x := s.rx b
    .next (s.wx d ((h.acc a.toNat (64 * bits x 11 6 + bits x 5 0)).setWidth 64)))

end Sys2Proof.Machine
end

