-- ==== Sys2Proof/Machine/Drills.lean ====
section
/-! DEFINITION. Machine/Drills.lean: the drills (R240 to R248, R251, R252, R303), `cp.drill` and `cp.dstop` (R257), and the
refresh of the weight store (R236 to R238). -/

namespace Sys2Proof.Machine

/-! ### Owners -/

/-- The owner of a run or a command is still there: its kernel has not retired, been saved or faulted (R241, R246). -/
def State.ownerOn (s : State) : DOwner → Bool
  | .kernel k _ => let st := (s.kernel k).state; !(st = .retired || st = .saved || st = .faulted)
  | .queue _ => true

/-- The start commands of a drill, less those that are discarded (R241). -/
def State.commands (s : State) (n : Nat) : List StartCmd := (s.drill n).fifo.filter (fun c => s.ownerOn c.owner)

/-- The kernel that owns a drill's run. -/
def Drill.kernelOwner (D : Drill) : Option Nat :=
  match D.cmd.owner with
  | .kernel k _ => some k
  | .queue _ => none

/-- An AP that waits in `cp.dstop` for a drill has its answer: PUSHED of its kernel's last run (R257). -/
def State.answerStop (s : State) (n pcn : Nat) : State :=
  match (s.core pcn).ap.wait, (s.core pcn).kernel with
  | .dstop d m none, some k =>
    if m = n then
      s.modStream { core := pcn, eng := .ap } (fun m' => { m' with
        wait := .dstop d n (some (word ((s.kernel k).drills.get 0 n))) })
    else s
  | _, _ => s

/-- A drill enters IDLE (R246): a kernel's run leaves its PUSHED (R257), a queue's posted DRILL completes (R333). -/
def State.drillIdle (s : State) (n : Nat) : State :=
  let D := s.drill n
  let s := (s.wsRelease n).quitDrill n
  let s := s.setDrill n { D with state := .idle, push := none, stop := false, pat := none, loops := [], conv := none, seen := [] }
  let s := match D.cmd.owner with
    | .kernel k _ => s.modKernel k (fun K => { K with drills := K.drills.set n D.pushed })
    | .queue q =>
      let (j, l) := dropJob n (s.queue q).drills
      let s := s.modQueue q (fun Q => { Q with drills := l })
      (match j with
       | some j => s.postedDone q j.notify j.port j.lvl j.off
       | none => s)
  (s.cores.map (·.1)).foldl (fun s p => s.answerStop n p) s

/-! ### cp.drill and cp.dstop -/

/-- A start row that R242 accepts. -/
def startRowOk (w : List Word) : Bool :=
  (w.getD 0 0).toNat % 32 = 0 && decide ((w.getD 1 0).toNat < 24) && w.getD 6 0 = 0 && w.getD 7 0 = 0

/-- The start command of a row (R242). -/
def startCmd (w : List Word) (o : DOwner) (asid : Nat) : StartCmd :=
  { list := w.getD 0 0, p := #v[w.getD 2 0, w.getD 3 0, w.getD 4 0, w.getD 5 0], owner := o, asid := asid }

/-- `cp.drill` (R240, R242, R257): the start row is read in class 15, after every earlier access; a full FIFO waits.
DEDUCED (assumption 63). -/
def execCpDrill (a : BitVec 5) (s : State) : Out :=
  match reachRow s.cur.core (s.rx a), s.myCore.kernel with
  | none, _ => s.fault .addrRange
  | _, none => .next s
  | some (c, r, win), some k =>
    if !s.me.pend.isEmpty then .next (s.waitFor .again)
    else
      let row := (s.core c).row r
      let w := (List.range 8).map (fun i => Row.lane 64 row i)
      if !(startRowOk w) then s.fault .drillForm
      else
        let n := 24 * (s.cur.core / 128) + (w.getD 1 0).toNat
        let l := s.commands n
        if 4 ≤ l.length then .next (s.waitFor .again)
        else
          let s := s.setDrill n { (s.drill n) with
            fifo := l ++ [startCmd w (.kernel k s.cur.core) (s.asidOf s.cur.core)] }
          .next ((s.modKernel k (fun K => { K with drills := K.drills.set n (K.drills.get 0 n) })).spend (latency win))

/-- `cp.dstop` (R246, R257). DEDUCED (assumption 63). -/
def execCpDstop (d a : BitVec 5) (s : State) : Out :=
  let x := s.rx a
  let n := 24 * (s.cur.core / 128) + x.toNat
  if bits x 63 5 ≠ 0 then s.fault .illegal
  else
    match s.myCore.kernel with
    | none => .next s
    | some k =>
      let D := s.drill n
      match (s.kernel k).drills.find? n with
      | none => s.fault .drillOwner
      | some pushed =>
        if 24 ≤ x.toNat then s.fault .drillOwner
        else if D.state = .idle then .next (s.wx d (word pushed))
        else
          let s := if D.kernelOwner = some k ∧ D.state ≠ .faulted then s.setDrill n { D with stop := true } else s
          .next (s.waitFor (.dstop d n none))

/-- DSTOP_RETURN (R257). -/
def execDstopReturn (pcn : Nat) (s : State) : Out :=
  let id : StreamId := { core := pcn, eng := .ap }
  match (s.stream id).wait with
  | .dstop d _ (some v) =>
    if s.awake pcn then .next ((s.modStream id (fun m => m.wx d v)).complete id) else .next s
  | _ => .next s

/-! ### Runs -/

/-- DRILL_START (R240, R246): the head of the FIFO runs. -/
def execDrillStart (n : Nat) (s : State) : Out :=
  if (s.drill n).state ≠ .idle then .next s
  else
    match s.commands n with
    | [] => .next s
    | c :: r =>
      .next (s.setDrill n { state := .running, fifo := r, cmd := c })

/-- The drill may go on: it is RUNNING or WAITING, nothing stops it, and its remote writes are acknowledged (R246, R357). -/
def State.drillOn (s : State) (n : Nat) : Bool :=
  let D := s.drill n
  (D.state = .running || D.state = .waiting) && !D.stop && s.ownerOn D.cmd.owner && !(s.owing (.drill n))

/-- DRILL_STOP (R241, R246): `cp.dstop` by the owner, or the owner has left; a FAULTED drill once its kernel has left
FAULTED, or its queue is being reset. -/
def execDrillStop (n : Nat) (s : State) : Out :=
  let D := s.drill n
  match D.state with
  | .idle => .next s
  | .faulted =>
    (match D.cmd.owner with
     | .kernel k _ => if (s.kernel k).state = .faulted then .next s else .next (s.drillIdle n)
     | .queue q => if (s.queue q).state = .resetting then .next (s.drillIdle n) else .next s)
  | _ => if D.stop ∨ !(s.ownerOn D.cmd.owner) then .next (s.drillIdle n) else .next s

/-- The address that an access of a drill reaches (R242, R314, R350): else the state in which it waits, or the fault
taken. DEDUCED (assumption 62). -/
def State.drillXl (s : State) (n : Nat) (va : Nat) (write : Bool) : Except State Nat :=
  let D := s.drill n
  let walk : State :=
    if s.drillLocked n ∧ s.assisted 0 then s.drillFault n .frameFatal
    else s.startWalk (.drill n) D.cmd.asid va write
  if 2 ^ 56 ≤ va then .error (s.drillFault n .vaRange)
  else
    match s.tlbHit (n / 24) D.cmd.asid va with
    | none => .error walk
    | some e =>
      if write && !e.wr then .error walk
      else
        match s.route (paPkg (e.phys va)) (paOdd (e.phys va)) false with
        | .none => .error (s.drillFault n .linkRoute)
        | _ => .ok (e.phys va)

/-- m bytes within a row read by a drill. -/
def State.drillRead (s : State) (n va m : Nat) : Except State Nat :=
  match s.drillXl n va false with
  | .error s => .error s
  | .ok pa => s.read (.drill n) pa m

/-- The operation at the drill's place in its list: four words (R243). -/
def State.drillOp (s : State) (n : Nat) : Except State (List Word) :=
  match s.drillRead n (((s.drill n).cmd.list.toNat + (s.drill n).at_) % 2 ^ 64) 32 with
  | .error s => .error s
  | .ok v => .ok ((List.range 4).map (fun i => word (v / 2 ^ (64 * i))))

/-- Bits that an operation's words may set (R243). -/
def opMask (opc : Nat) : List Word :=
  let op : Word := 0xFF00000000000000
  match opc with
  | 1 => [op ||| 0x00FFC00000000000, -1, -1, -1]
  | 2 => [op ||| 0x00FFF00000000000, 0xFFFFFFFF, 0, 0]
  | 3 => [op, -1, 0, 0]
  | 4 => [op ||| 0xFFFFFFFF, 0xFFFFFFFF, 0, 0]
  | 6 => [op ||| 0x00F000000000FFFF, 0xFFFFFFFF, 0, 0]
  | 7 => [op ||| 0x0000C00000000000, -1, -1, 0]
  | 8 => [op ||| 0x0000C00000000000, -1, -1, 0]
  | 9 => [op ||| 0x0000C00000000000, -1, 0xFFFFFFFF, 0]
  | 10 => [op ||| 0x00FFF00000000000, 0xFFFFFFFF, 0, 0]
  | _ => [op, 0, 0, 0]

/-- The next operation of a RUNNING drill has an opcode and sets no bit it must not; `k` has its words.
DEDUCED (assumption 62). -/
def State.withDrillOp (s : State) (n opc : Nat) (k : List Word → State → Out) : Out :=
  let D := s.drill n
  if !(s.drillOn n) ∨ D.state ≠ .running ∨ D.push.isSome then .next s
  else
    match s.drillOp n with
    | .error s => .next s
    | .ok w =>
      if bits (w.getD 0 0) 63 56 ≠ opc then .next s
      else if (w.zip (opMask opc)).any (fun p => p.1 &&& ~~~p.2 != 0) then .next (s.drillFault n .drillForm)
      else k w s

/-- UNASSIGNED_DRILL_OPCODE (R243). -/
def execUnassignedDrillOpcode (n : Nat) (s : State) : Out :=
  let D := s.drill n
  if !(s.drillOn n) ∨ D.state ≠ .running ∨ D.push.isSome then .next s
  else
    match s.drillOp n with
    | .error s => .next s
    | .ok w =>
      let o := bits (w.getD 0 0) 63 56
      if o = 0 ∨ 12 < o then .next (s.drillFault n .drillForm) else .next s

/-- The drill changed, at its next operation. -/
def State.drillNext (s : State) (n : Nat) (f : Drill → Drill) : State :=
  (s.setDrill n { f (s.drill n) with at_ := (s.drill n).at_ + 32, state := .running, push := none, seen := [] }).drillPast n

/-- P[PSEL] + OFF, mod 2^64 (R244). -/
def Drill.base (D : Drill) (w : List Word) : Word :=
  D.cmd.p.toList.getD (bits (w.getD 0 0) 47 46) 0 + w.getD 1 0

/-! ### Patterns -/

/-- Rows of a pattern. -/
def Pattern.rows (p : Pattern) : Nat := p.counts.foldl (· * ·) 1

/-- Bits of two numbers interleaved (R244, MORT). -/
def morton (a b : Nat) : Nat :=
  (List.range 16).foldl (fun acc i => acc + a / 2 ^ i % 2 * 2 ^ (2 * i) + b / 2 ^ i % 2 * 2 ^ (2 * i + 1)) 0

/-- The row offset of pattern row j (R244). -/
def Pattern.offset (p : Pattern) (j : Nat) : Int :=
  let c (i : Nat) : Nat := p.counts.getD i 1
  let st (i : Nat) : Int := p.strides.getD i 0
  let i0 := j % c 0
  let i1 := j / c 0 % c 1
  let i2 := j / (c 0 * c 1) % c 2
  let i3 := j / (c 0 * c 1 * c 2)
  (if p.mort then (morton i0 i1 : Int) else i0 * st 0 + i1 * st 1) + i2 * st 2 + i3 * st 3

/-- The address of pattern row j. -/
def Pattern.addr (p : Pattern) (j : Nat) : Word := p.base + sword (64 * p.offset j)

/-- Every row of a weight-store pattern lies below 2^32 (R244). -/
def Pattern.below (p : Pattern) : Bool :=
  let ext (i : Nat) : Int × Int :=
    let d : Int := ((p.counts.getD i 1 : Nat) - 1 : Int) * p.strides.getD i 0
    (min 0 d, max 0 d)
  let m : Int := if p.mort then ((p.counts.getD 0 1 * p.counts.getD 1 1 : Nat) : Int) - 1 else 0
  let lo := (ext 0).1 + (ext 1).1 + (ext 2).1 + (ext 3).1
  let hi := (ext 0).2 + (ext 1).2 + (ext 2).2 + (ext 3).2 + m
  !p.ws || (decide (0 ≤ (p.base.toNat : Int) + 64 * lo) && decide ((p.base.toNat : Int) + 64 * hi < 2 ^ 32))

/-- Bits of the pattern from its position on. -/
def Drill.leftBits (D : Drill) : Nat :=
  match D.pat with
  | none => 0
  | some p => 512 * p.rows - p.pos

/-- A subarray stands in a refresh window (R237). -/
def State.refreshing (s : State) (die sub : Nat) : Bool :=
  (s.windowOn die sub).isSome || (s.die die).window.any (fun w => w = sub)

/-- A drill stalls on a refresh window, on its barrier, or on another condition (R246). -/
def State.drillWaits (s : State) (n : Nat) : State :=
  (s.setDrill n { (s.drill n) with state := .waiting }).drillPast n

/-- One row of the drill's pattern (R235, R237, R242, R244). -/
def State.patternRow (s : State) (n : Nat) (p : Pattern) (j : Nat) : Except State Row :=
  let a := (p.addr j).toNat
  if p.ws then
    if 2 ^ 32 ≤ a then .error (s.drillFault n .drillForm)
    else if s.refreshing (n / 24) (a / 2 ^ 27) then .error (s.drillWaits n)
    else .ok (Mem.row (s.die (n / 24)).ws a)
  else
    match s.drillRead n a 64 with
    | .error s => .error s
    | .ok v => .ok (BitVec.ofNat 512 v)

/-- Rows lo to lo + m − 1 of the pattern, which the drill reads one a turn (R225, R273). -/
def State.patternRows (s : State) (n : Nat) (p : Pattern) (lo m : Nat) : Except State (List Row) :=
  let need := (List.range m).map (lo + ·)
  let D := s.drill n
  match missing D.seen need with
  | [] => .ok (need.map (fun j => D.seen.get 0 j))
  | l =>
    let j := s.pick l
    match s.patternRow n p j with
    | .error s => .error s
    | .ok r => .error (s.setDrill n { D with seen := D.seen.set j r }).drawn

/-- m bits of the pattern from a position, as rows numbered from 0, the last padded. -/
def State.patternBits (s : State) (n : Nat) (p : Pattern) (pos m : Nat) : Except State (Nat → Row) :=
  match s.patternRows n p (pos / 512) ((pos % 512 + m + 511) / 512) with
  | .error s => .error s
  | .ok rs =>
    .ok (fun j =>
      let v := (rs.getD j 0).toNat / 2 ^ (pos % 512) + (rs.getD (j + 1) 0).toNat * 2 ^ (512 - pos % 512)
      BitVec.ofNat 512 v)

/-- DRILL_STREAM (R244, R245). -/
def execDrillStream (n : Nat) (s : State) : Out :=
  s.withDrillOp n 1 (fun w s =>
    let D := s.drill n
    let w0 := w.getD 0 0
    let c := (List.range 4).map (fun i => bits (w.getD 2 0) (16 * i + 15) (16 * i))
    let st := (List.range 4).map (fun i => bitsInt 16 true (bits (w.getD 3 0) (16 * i + 15) (16 * i)))
    let p : Pattern := { ws := bit w0 55, mort := bit w0 54, fmt := bits w0 53 50, ndm1 := bits w0 49 48
                         base := D.base w, counts := c, strides := st }
    let c0 := c.getD 0 0
    if p.ws = decide (n % 24 < 16) ∨ 13 < p.fmt ∨ p.base.toNat % 64 ≠ 0 ∨ c.any (fun x => x = 0)
        ∨ (c.drop (p.ndm1 + 1)).any (fun x => x != 1)
        ∨ (p.mort ∧ (p.ndm1 = 0 ∨ c0 ≠ c.getD 1 0 ∨ c0 ≠ 2 ^ Nat.log2 c0 ∨ st.getD 0 0 ≠ 0 ∨ st.getD 1 0 ≠ 0))
        ∨ !p.below then .next (s.drillFault n .drillForm)
    else .next (s.drillNext n (fun D => { D with pat := some p })))

/-- DRILL_WINDOW (R244). -/
def execDrillWindow (n : Nat) (s : State) : Out :=
  s.withDrillOp n 3 (fun w s =>
    let adv := w.getD 1 0
    let p' := (s.drill n).pat.map (fun p => { p with base := p.base + adv, pos := 0 })
    if adv.toNat % 64 ≠ 0 ∨ (p'.any (fun p => !p.below)) then .next (s.drillFault n .drillForm)
    else .next (s.drillNext n (fun D => { D with pat := p' })))

/-! ### Control -/

/-- DRILL_LOOP (R243 to R245): the ENDL stands SKIP places after the LOOP. -/
def execDrillLoop (n : Nat) (s : State) : Out :=
  s.withDrillOp n 4 (fun w s =>
    let D := s.drill n
    let skip := bits (w.getD 1 0) 31 0
    let count := bits (w.getD 0 0) 31 0
    if skip = 0 ∨ 4 ≤ D.loops.length then .next (s.drillFault n .drillForm)
    else
      match s.drillRead n ((D.cmd.list.toNat + D.at_ + 32 * skip) % 2 ^ 64) 8 with
      | .error s => .next s
      | .ok v =>
        if v / 2 ^ 56 ≠ 5 then .next (s.drillFault n .drillForm)
        else if count = 0 then .next ((s.setDrill n { D with at_ := D.at_ + 32 * skip + 32 }).drillPast n)
        else .next (s.drillNext n (fun D => { D with loops := (D.at_ + 32, count) :: D.loops })))

/-- DRILL_ENDL (R244). -/
def execDrillEndl (n : Nat) (s : State) : Out :=
  s.withDrillOp n 5 (fun _ s =>
    let D := s.drill n
    match D.loops with
    | [] => .next (s.drillFault n .drillForm)
    | (body, c) :: r =>
      if 1 < c then .next ((s.setDrill n { D with at_ := body, loops := (body, c - 1) :: r }).drillPast n)
      else .next (s.drillNext n (fun D => { D with loops := r })))

/-- DRILL_CONVERT (R244, R245). -/
def execDrillConvert (n : Nat) (s : State) : Out :=
  s.withDrillOp n 6 (fun w s =>
    let t := bits (w.getD 0 0) 55 52
    let sup := bits (w.getD 1 0) 31 0
    let good : Bool := match FFmt.fp32.decode sup with
      | .fin _ m _ => m != 0
      | _ => false
    if t = 0 then .next (s.drillNext n (fun D => { D with conv := none }))
    else if (t = 12 ∨ t = 13) ∧ good then
      .next (s.drillNext n (fun D => { D with
        conv := some (t, BitVec.ofNat 16 (bits (w.getD 0 0) 15 0), BitVec.ofNat 32 sup) }))
    else .next (s.drillFault n .drillForm))

/-- DRILL_WAITSIG (R244): the word is compared unsigned. R120 counts a wait on signal wake-up as one on a host-assisted
function; R341 and R386 give that function to the WAIT packet alone, so a drill's WAITSIG is none.
DESIGN CHOICE (assumption 111). -/
def execDrillWaitsig (n : Nat) (s : State) : Out :=
  s.withDrillOp n 7 (fun w s =>
    let va := ((s.drill n).base w).toNat
    if va % 8 ≠ 0 then .next (s.drillFault n .drillForm)
    else
      match s.drillRead n va 8 with
      | .error s => .next s
      | .ok v => if (w.getD 2 0).toNat ≤ v then .next (s.drillNext n id) else .next (s.drillWaits n))

/-- Every row that the drill has pushed or filled is performed (R244). -/
def State.rowsLanded (s : State) (n : Nat) : Bool :=
  s.cores.all (fun p => !(p.2.drillRows.any (fun r => r.drill = n)))

/-- DRILL_SIGNAL (R244, R357). -/
def execDrillSignal (n : Nat) (s : State) : Out :=
  s.withDrillOp n 8 (fun w s =>
    let va := ((s.drill n).base w).toNat
    if va % 8 ≠ 0 then .next (s.drillFault n .drillForm)
    else if !(s.rowsLanded n) then .next s
    else
      match s.drillXl n va true with
      | .error s => .next s
      | .ok pa =>
        if s.agentFull pa then .next s else .next ((s.signal (.drill n) pa (w.getD 2 0)).drillNext n id))

/-- DRILL_HALT (R244, R246). -/
def execDrillHalt (n : Nat) (s : State) : Out := s.withDrillOp n 11 (fun _ s => .next (s.drillIdle n))
/-- DRILL_NOP (R244). -/
def execDrillNop (n : Nat) (s : State) : Out := s.withDrillOp n 12 (fun _ s => .next (s.drillNext n id))

/-! ### Pushes -/

/-- The cores that a push goes to (R244). -/
def Moving.cores (m : Moving) : List Nat := if m.mc then (List.range 8).map (fun c => m.pcn + c) else [m.pcn]

/-- A destination that R241 allows. -/
def State.targetAllowed (s : State) (n pcn : Nat) : Bool :=
  match (s.core pcn).kernel, (s.drill n).cmd.owner with
  | some k, .kernel o _ => k = o
  | some k, .queue _ => (s.kernel k).asid = (s.drill n).cmd.asid
  | none, _ => false

/-- A barrier admits the next row (R252, R253): EN, the window, and the accesses that releases of its slot awaited. -/
def Core.admits (c : Core) (ab : Nat) : Bool :=
  let b := c.ab ab
  b.en && decide ((b.i - b.l).toNat < b.w)
    && b.rel.all (fun r => !((c.stream r.1).pend.any (fun a => decide (a.seq < r.2))))

/-- The slot that a barrier's next row takes (R252). -/
def Core.slot (c : Core) (ab : Nat) : Nat := ((c.ab ab).rbase + (c.ab ab).i.toNat % (c.ab ab).w) % 65536

/-- A row enters the ring of a core under the next index (R252). -/
def Core.takeRow (c : Core) (n ab : Nat) (r : Row) : Core :=
  let b := c.ab ab
  { (c.setAb ab { b with i := b.i + 1 }) with
    drillRows := c.drillRows ++ [{ drill := n, ab := ab, idx := b.i, row := c.slot ab, data := r }] }

/-- DRILL_PUSH and DRILL_FILL begin (R244, R245): the checks that no destination row decides. -/
def State.beginPush (s : State) (n : Nat) (w : List Word) (fill : Bool) : Out :=
  let D := s.drill n
  let w0 := w.getD 0 0
  let rows := bits (w.getD 1 0) 31 0
  let m : Moving := {
    kind := if fill then .fill else .push, mc := bit w0 55, ab := bits w0 54 51
    pcn := 128 * (n / 24) + 8 * bits w0 47 44 + bits w0 50 48
    left := if rows = 0 then none else some rows }
  let raw : Bool := match D.pat with
    | none => true
    | some p => p.fmt = 0
  if (m.mc ∧ bits w0 50 48 ≠ 0) ∨ (fill ∧ rows = 0) then .next (s.drillFault n .drillForm)
  else if !(m.cores.all (s.targetAllowed n)) then .next (s.drillFault n .drillTarget)
  else if !fill ∧ raw ∧ D.leftBits < 512 * rows then .next (s.drillFault n .drillRange)
  else if !fill ∧ rows = 0 ∧ D.leftBits = 0 then .next (s.drillNext n id)
  else .next ((s.setDrill n { D with push := some m }).drillPast n)

/-- DRILL_PUSH (R244). -/
def execDrillPush (n : Nat) (s : State) : Out := s.withDrillOp n 2 (fun w s => s.beginPush n w false)
/-- DRILL_FILL (R244). -/
def execDrillFill (n : Nat) (s : State) : Out := s.withDrillOp n 10 (fun w s => s.beginPush n w true)

/-- What a push makes of its next row (R244, R245, R303). -/
inductive RowWay where
  | bad | bytes | elems | planes | quant | free
  deriving DecidableEq, Repr

/-- The way of a row under FMT, CONVERT and the BFMT of its slot (R244, R245, R303). DESIGN CHOICE (assumption 26). -/
def rowWay (fmt : Nat) (conv : Option Nat) (bf : BitVec 32) : RowWay :=
  if fmt = 0 then .bytes
  else
    match conv with
    | some t =>
      if bfLay bf = 1 ∨ bfEfmt bf ≠ t then .bad
      else if efmtBlock fmt then (if fmt = t then .free else .bad) else .quant
    | none =>
      if efmtBlock (bfEfmt bf) then .bad
      else
        match copyWay (mainSide fmt) (bankSide bf) with
        | .bytes => .bytes
        | .elems => .elems
        | .planes => .planes
        | .bad => .bad

/-- Pattern bits that a destination row takes. -/
def rowNeed (fmt : Nat) (bf : BitVec 32) : RowWay → Nat
  | .bytes => 512
  | .elems => 512 / efmtWidth (bfEfmt bf) * efmtWidth fmt
  | .quant => 128 * efmtWidth fmt
  | .free => 512
  | _ => 0

/-- The codes of a quantised row (R244, CONVERT). -/
def quantRow (fmt t sup sc : Nat) (src : Nat → Row) : Row :=
  rowOfElems 4 (fun k => quantise t sup sc (elemExact fmt (elemAt src (efmtWidth fmt) k)))

/-- A row admitted to every core of a push, and the push's place after it (R244, R246, R252). -/
def State.pushRow (s : State) (n : Nat) (m : Moving) (pos : Nat) (data : Nat → Row) : State :=
  let s := m.cores.foldl (fun s p => s.modCore p (fun c => c.takeRow n m.ab (data p))) s
  let D := s.drill n
  let m := { m with left := m.left.map (· - 1) }
  let D := { D with
    pushed := D.pushed + 1, state := .running, pat := D.pat.map (fun p => { p with pos := pos })
    seen := if m.mrow = m.mtot then [] else D.seen }
  let last : Bool := m.mtot = m.mrow && (match m.left with
    | some k => k = 0
    | none => D.leftBits = 0)
  if last then (s.setDrill n D).drillNext n id else (s.setDrill n { D with push := some m }).drillPast n

/-- The next row of a PUSH that is converted, quantised or moved unchanged. R244 and R390 do not say how far a multicast row
takes the pattern whose slots lie in banks of unlike formats: it goes by what the first core's row holds, a core whose row holds
more is padded at the pattern's end, and a slot in plane form, or of a format that the row cannot take, faults.
DESIGN CHOICE (assumption 119). -/
def State.pushPlain (s : State) (n : Nat) (m : Moving) (p : Pattern) : Out :=
  let D := s.drill n
  let bfOf (c : Nat) : BitVec 32 := (s.core c).bfOf ((s.core c).slot m.ab)
  let conv := D.conv.map (·.1)
  let way := rowWay p.fmt conv (bfOf m.pcn)
  let need := rowNeed p.fmt (bfOf m.pcn) way
  if way = .bad ∨ m.cores.any (fun c => decide (rowWay p.fmt conv (bfOf c) = .bad ∨ rowWay p.fmt conv (bfOf c) = .planes)) then
    .next (s.drillFault n .formatMismatch)
  else if D.leftBits < need then .next (s.drillFault n .drillRange)
  else
    let all := m.cores.foldl (fun a c => max a (rowNeed p.fmt (bfOf c) (rowWay p.fmt conv (bfOf c)))) need
    match s.patternBits n p p.pos (min all D.leftBits) with
    | .error s => .next s
    | .ok src =>
      let row (c : Nat) : Row :=
        match rowWay p.fmt conv (bfOf c), D.conv with
        | .elems, _ => copyDest .elems (mainSide p.fmt) (bankSide (bfOf c)) 1 src (fun _ _ => none) 0
        | .quant, some (t, sc, sup) => quantRow p.fmt t sup.toNat sc.toNat src
        | .free, _ => Config.freeRow s.freeCtr
        | _, _ => src 0
      let s := if way = .free then { s with freeCtr := s.freeCtr + 1 } else s
      .next (s.pushRow n m (p.pos + need) row)

/-- The next row of a PUSH in plane form (R244, R367): a matrix of whole K-blocks is begun where none is under way.
DEDUCED (assumption 62). Slots of a multicast whose banks differ in BFMT fault. DESIGN CHOICE (assumption 119). -/
def State.pushPlane (s : State) (n : Nat) (m : Moving) (p : Pattern) (bf : BitVec 32) : Out :=
  let D := s.drill n
  let e := bfEfmt bf
  let rpb := planeRows e
  let ws := efmtWidth p.fmt
  let fresh : Bool := m.mrow = m.mtot
  let whole := match m.left with
    | some k => k
    | none => D.leftBits / (4096 * ws) * rpb
  let exact : Bool := match m.left with
    | some k => k % rpb = 0
    | none => D.leftBits % (4096 * ws) = 0
  let m := if fresh then { m with mrow := 0, mtot := whole, mpos := p.pos, mbf := bf } else m
  if fresh ∧ (!exact ∨ whole = 0 ∨ D.leftBits < whole / rpb * 4096 * ws) then .next (s.drillFault n .drillRange)
  else if (m.mrow % rpb ≠ 0 ∧ bf ≠ m.mbf) ∨ bfEfmt m.mbf ≠ e
      ∨ m.cores.any (fun c => (s.core c).bfOf ((s.core c).slot m.ab) != bf) then .next (s.drillFault n .formatMismatch)
  else
    match s.patternBits n p m.mpos (m.mtot / rpb * 4096 * ws) with
    | .error s => .next s
    | .ok src =>
      let row := copyDest .planes (mainSide p.fmt) (bankSide bf) m.mtot src (fun _ _ => none) m.mrow
      let m := { m with mrow := m.mrow + 1, mbf := bf }
      let pos := if m.mrow = m.mtot then m.mpos + m.mtot / rpb * 4096 * ws else p.pos
      .next (s.pushRow n m pos (fun _ => row))

/-- DRILL_ROW_ADMIT (R241, R244, R245, R252): the next row of a PUSH or FILL is admitted to its ring, or the drill
waits. DEDUCED (assumption 62). -/
def execDrillRowAdmit (n : Nat) (s : State) : Out :=
  let D := s.drill n
  match D.push with
  | none => .next s
  | some m =>
    if !(s.drillOn n) ∨ m.kind = .wswrite then .next s
    else if !(m.cores.all (s.targetAllowed n)) then .next (s.drillFault n .drillTarget)
    else if !(m.cores.all (fun c => (s.core c).admits m.ab)) then .next (s.drillWaits n)
    else if m.cores.any (fun c => ((s.core c).ab m.ab).i != ((s.core m.pcn).ab m.ab).i) then
      .next (s.drillFault n .abSkew)
    else
      let bf := (s.core m.pcn).bfOf ((s.core m.pcn).slot m.ab)
      match m.kind, D.pat with
      | .fill, p => .next (s.pushRow n m ((p.map (·.pos)).getD 0) (fun _ => 0))
      | _, none => .next (s.drillFault n .drillRange)
      | _, some p =>
        if rowWay p.fmt (D.conv.map (·.1)) bf = .planes ∨ m.mrow ≠ m.mtot then
          (if rowWay p.fmt (D.conv.map (·.1)) bf = .planes then s.pushPlane n m p bf
           else .next (s.drillFault n .formatMismatch))
        else s.pushPlain n m p

/-! ### The weight store -/

/-- Kernels with a core on a die in STARTING, RUNNING or DRAINING (R236). -/
def State.dieBusy (s : State) (die : Nat) : Bool :=
  s.kernels.any (fun p => (p.2.state = .starting || p.2.state = .running || p.2.state = .draining)
    && p.2.seats.any (fun t => decide (t.pcn / 128 = die)))

/-- A write to a die's weight store may begin (R236). -/
def State.wsFree (s : State) (die : Nat) : Bool := !((s.die die).wsBusy) && !(s.dieBusy die)

/-- DRILL_WSWRITE (R236, R244, R245): begins once no kernel runs on the die, then writes the pattern's next row each time,
until NROWS are written. DEDUCED (assumption 102). -/
def execDrillWswrite (n : Nat) (s : State) : Out :=
  let D := s.drill n
  match D.push with
  | some m =>
    if !(s.drillOn n) ∨ m.kind ≠ .wswrite then .next s
    else
      (match D.pat with
       | none => .next s
       | some p =>
         match s.patternBits n p p.pos 512 with
         | .error s => .next s
         | .ok src =>
           let s := s.modDie (n / 24) (fun d => { d with ws := Mem.setRow d.ws m.off (src 0) })
           let left := (m.left.getD 1) - 1
           let D := { D with pat := some { p with pos := p.pos + 512 }, seen := [] }
           if left = 0 then
             .next (((s.setDrill n D).modDie (n / 24) (fun d => { d with wsBusy := false })).drillNext n id)
           else .next ((s.setDrill n { D with push := some { m with left := some left, off := m.off + 64 } }).drillPast n))
  | none =>
    s.withDrillOp n 9 (fun w s =>
      let D := s.drill n
      let b := (D.base w).toNat
      let rows := bits (w.getD 2 0) 31 0
      if 16 ≤ n % 24 then .next (s.drillFault n .drillForm)
      else if D.kernelOwner.isSome then .next (s.drillFault n .wsWrite)
      else if b % 64 ≠ 0 ∨ 2 ^ 32 < b + 64 * rows then .next (s.drillFault n .drillForm)
      else if D.leftBits < 512 * rows then .next (s.drillFault n .drillRange)
      else if rows = 0 then .next (s.drillNext n id)
      else if !(s.wsFree (n / 24)) then .next (s.drillWaits n)
      else
        .next (((s.setDrill n { D with push := some { kind := .wswrite, left := some rows, off := b } }).modDie (n / 24)
          (fun d => { d with wsBusy := true })).drillPast n))

/-- The condition that a WAITING drill waits for holds (R246); else the state it waits in. -/
def State.waitHolds (s : State) (n : Nat) : Except State Bool :=
  let D := s.drill n
  match D.push with
  | some m =>
    .ok ((m.kind = .wswrite || m.cores.all (fun c => (s.core c).admits m.ab)) &&
      (match D.pat with
       | some p => !p.ws || !(s.refreshing (n / 24) ((p.addr (p.pos / 512)).toNat / 2 ^ 27))
       | none => true))
  | none =>
    match s.drillOp n with
    | .error s => .error s
    | .ok w =>
      if bits (w.getD 0 0) 63 56 = 7 then
        match s.drillRead n (D.base w).toNat 8 with
        | .error s => .error s
        | .ok v => .ok (decide ((w.getD 2 0).toNat ≤ v))
      else .ok (s.wsFree (n / 24))

/-- DRILL_WAIT_END (R246): WAITING ends, and the drill continues at the same row or operation. -/
def execDrillWaitEnd (n : Nat) (s : State) : Out :=
  if (s.drill n).state ≠ .waiting ∨ !(s.drillOn n) then .next s
  else
    match s.waitHolds n with
    | .error s => .next s
    | .ok b => if b then .next (s.setDrill n { (s.drill n) with state := .running }) else .next (s.drillPast n)

/-! ### Refresh -/

/-- REFRESH_WINDOW_START (R237): a subarray's window begins. -/
def execRefreshWindowStart (die sub : Nat) (s : State) : Out :=
  if decide (sub < 32) && (s.windowOn die sub).isSome && !((s.die die).window.any (fun w => w = sub)) then
    .next (s.modDie die (fun d => { d with window := d.window ++ [sub] }))
  else .next s

/-- REFRESH_WINDOW_END (R237): it ends 512 ticks later, and reads that stalled on it go on. -/
def execRefreshWindowEnd (die sub : Nat) (s : State) : Out :=
  if (s.windowOn die sub).isSome then .next s
  else .next (s.modDie die (fun d => { d with window := d.window.filter (fun w => w != sub) }))

/-- REFRESH_PERIOD (R237, R238): a new period begins, and the phases declared for it come into force. -/
def execRefreshPeriod (die : Nat) (s : State) : Out :=
  if (s.die die).period < s.period then .next (s.modDie die (fun d => d.toPeriod s.period)) else .next s

end Sys2Proof.Machine
end

