-- ==== Sys2Proof/Machine/TractEvents.lean ====
section
/-! DEFINITION. Machine/TractEvents.lean: locking a tract (R105, R113), the outcome of a lock, and the TRACT packets
(R339, R340). -/

namespace Sys2Proof.Machine

/-! ### The checks of R105 -/

/-- The clock rate × N/M against the ceiling in force and the 50 MHz floor (R105). DEDUCED (assumption 43). -/
def State.rateBad (s : State) (num den n m : Nat) : Option QFault :=
  if s.ceiling * den * m < num * n then some .lockCeil
  else if num * n < Config.floorHz * den * m then some .lockFloor
  else none

/-- A source lies in the range that its KIND gives (R104, R105). -/
def sourceOk (kind src : Nat) : Bool :=
  match kind with
  | 0 => false
  | 1 => decide (src < 32)
  | 2 => decide (src < 16)
  | _ => decide (src < 12)
def srcOk (w : Word) : Bool := sourceOk (tctlKind w) (tctlSrc w)

/-- The checks made when a lock request arrives (R105). DEDUCED (assumption 43). -/
def State.lockBad (s : State) (w : Word) : Option QFault :=
  if tctlN w < tctlM w ∨ !(srcOk w) then some .lockRatio
  else if tctlKind w = 2 then
    let p := s.pace (tctlSrc w)
    s.rateBad p.num p.den (tctlN w) (tctlM w)
  else none

/-- A bind from FREE is accepted (R113). -/
def State.beginLock (s : State) (pcl : Nat) (w : Word) (by_ : LockBy) (q asid : Nat) : State :=
  let t := s.tract pcl
  (s.setTract pcl { t with
    state := .locking, tctl := w, slipc := 0, slip := false, range := false, ceil := false, evt := false, frames := 0
    acq := [], fresh := [], since := s.chron, asker := some by_, queue := some q, asid := asid, off := false
    old := some { tctl := t.tctl, state := .free, rate := t.rate }, relock := none, restart := false, held := false
    back := false, alternate := false, haSeq := none }).stileFlow pcl

/-! ### Outcomes -/

/-- A lock fault of a launch takes its kernel to FAULTED (R105, R135, R288); a kernel still PLACED gives its cores back
(R291). DEDUCED (assumption 67). -/
def State.startFault (s : State) (k : Nat) (f : QFault) : State :=
  let K := s.kernel k
  if K.state = .placed ∨ K.state = .starting then
    (s.takeDown k).launchFault K.queue f 5 (((s.queue K.queue).launch.map (·.idx)).getD 0)
  else s

/-- Kernels that wait in STARTING for the lock of a cluster's tract (R135, R288). -/
def State.awaitingLock (s : State) (pcl : Nat) : List Nat :=
  (s.kernels.filter (fun p => p.2.state = .starting && p.2.hdr.tkind != 0
    && p.2.seats.any (fun t => decide (t.pcn / 8 = pcl)))).map (·.1)

/-- A lock fails (R105, R113): the previous binding and state resume, COAST running on at its last frequency and LOCKED and
SLIPPED with the next sample; the queue that bound the tract stays its own, a failed bind leaving none (R115). The
requester has the fault, and every launch that waits on the lock takes it too. DEDUCED (assumption 45). -/
def State.lockFail (s : State) (pcl : Nat) (f : QFault) : State :=
  let t := s.tract pcl
  let o := t.old.getD { tctl := 0, state := .free, rate := (0, 1) }
  let s := (s.setTract pcl { t with
    tctl := o.tctl, state := o.state, rate := o.rate, old := none, asker := none, haSeq := none, acq := [], fresh := []
    edge := .framed, fcyc := 0, sidx := 0, restart := o.state = .locked || o.state = .slipped, lastEdge := s.chron
    off := false }).stileFlow pcl
  let s := s.tractEvent pcl (f.code % 4096)
  let s := if o.state = .free then s.modTract pcl (fun t => { t with queue := none }) else s
  let s := match t.asker with
    | some (.packet q) => (s.modQueue q (fun Q => { Q with lock := none })).packetFault q f
    | _ => s
  if o.state = .free then (s.awaitingLock pcl).foldl (fun s k => s.startFault k f) s else s

/-- A lock succeeds (R113): LOCKED, frame cycle 0 at the boundary of the next sample; the queue whose packet asked for it
has bound the tract, and the packet completes (R115, R340). Only a pace tract is held for alternate frames (R382). -/
def State.lockDone (s : State) (pcl : Nat) : State :=
  let t := s.tract pcl
  let s := s.enterTract pcl { t with
    state := .locked, edge := .framed, fcyc := 0, sidx := 0, restart := true, fresh := [], acq := [], old := none
    asker := none, haSeq := none, stale := false, off := false, alternate := t.alternate && tctlKind t.tctl = 2
    queue := match t.asker with | some (.packet q) => some q | _ => t.queue }
  match t.asker with
  | some (.packet q) =>
    (match (s.queue q).lock with
     | some (_, h) => (s.modQueue q (fun Q => { Q with lock := none })).packetDone q { hdr := h }
     | none => s)
  | _ => s

/-- The rate a LOCKING tract has measured, once it can (R105). -/
def State.measured (s : State) (pcl : Nat) : Option (Nat × Nat) :=
  let t := s.tract pcl
  if tctlKind t.tctl = 2 then
    if t.acq.isEmpty then none
    else
      let p := s.pace (tctlSrc t.tctl)
      some (p.num, p.den)
  else
    match t.acq.head?, t.acq[15]? with
    | some a, some b => some (15 * 10 ^ 9, (b - a).toNat)
    | _, _ => none

/-- A LOCKING tract has had its 16,000,000 ticks (R105). -/
def State.lockLate (s : State) (pcl : Nat) : Bool := decide (Config.lockTicks < (s.chron - (s.tract pcl).since).toNat)

/-- LOCK_ACQUIRED (R105, R113, R386). -/
def execLockAcquired (pcl : Nat) (s : State) : Out :=
  let t := s.tract pcl
  if t.state ≠ .locking ∨ t.haSeq.isSome ∨ s.lockLate pcl then .next s
  else
    match s.measured pcl with
    | none => .next s
    | some (num, den) =>
      match s.rateBad num den t.n t.m with
      | some f => .next (s.lockFail pcl f)
      | none =>
        if s.assisted 8 then
          let s' := s.setTract pcl { t with rate := (num, den), haSeq := some s.haSeq }
          .next (s'.haRequest 8 pcl (word (num * 1000 / den)) t.tctl pcl (.queue 0))
        else .next ((s.setTract pcl { t with rate := (num, den) }).lockDone pcl)

/-- LOCK_TIMEOUT (R105). -/
def execLockTimeout (pcl : Nat) (s : State) : Out :=
  let t := s.tract pcl
  if t.state = .locking ∧ s.lockLate pcl then .next (s.lockFail pcl .lockTimeout)
  else .next s

/-! ### TRACT packets -/

/-- Words that follow word 1 for an OP (R340). -/
def tractWords (op : Nat) : Nat := #[2, 2, 0, 1, 1, 4, 1, 1].getD op 0

/-- A TRACT packet of an OP with the COUNT it takes (R340). -/
def State.withTract (s : State) (q op : Nat) (k : Packet → State → Out) : Out :=
  s.withPacket q 10 (fun p s =>
    let o := p.w 1 % 16
    if 7 < o then .next (s.packetFault q .badPkt)
    else if o ≠ op then .next s
    else if p.count ≠ 1 + tractWords op then .next (s.packetFault q .badPkt)
    else k p s)

/-- A kernel holds a core of the cluster. -/
def State.placedIn (s : State) (pcl : Nat) : List Nat :=
  (List.range 8).filterMap (fun c => (s.core (8 * pcl + c)).kernel)

/-- R339: a kernel of another context holds a core, or the binding is another context's. -/
def State.tractTaken (s : State) (pcl asid : Nat) : Bool :=
  (s.placedIn pcl).any (fun k => (s.kernel k).asid != asid)
    || ((s.tract pcl).state != .free && (s.tract pcl).asid != asid)

/-- A context in PRECOPY or STOPCOPY (R323). -/
def State.migrating (s : State) (asid : Nat) : Bool :=
  (s.ctx asid).state = .precopy || (s.ctx asid).state = .stopcopy

/-- A TCTL that R323 keeps from a migrating context. DEDUCED (assumption 102). -/
def State.lockDenied (s : State) (asid : Nat) (w : Word) : Bool :=
  s.migrating asid && (tctlKind w = 1 || tctlKind w = 3)

/-- The TCTL of a TRACT packet; its reserved bit is not written (R3, R104). -/
def Packet.tctl (p : Packet) : Word := word (p.w2 2) &&& ~~~0x20#64

/-- A kernel with a budget that is not N holds a core of the cluster (R105, LOCK_BUDGET). DEDUCED (assumption 43). -/
def State.budgetBad (s : State) (pcl : Nat) (w : Word) : Bool :=
  (s.placedIn pcl).any (fun k => (s.kernel k).hdr.budget != 0 && (s.kernel k).hdr.budget != tctlN w)

/-- The checks of R105 on a TRACT packet's request, as it arrives. -/
def State.requestBad (s : State) (pcl : Nat) (w : Word) : Option QFault :=
  if s.budgetBad pcl w then some .lockBudget else s.lockBad w

/-- The lock under way is given up for another request: the packet that asked for it faults LOCK_TIMEOUT, as its LOCKING
does not complete, and the fault is an event (R115). DEDUCED (assumption 44). -/
def State.dropAsker (s : State) (pcl : Nat) : State :=
  match (s.tract pcl).asker with
  | some (.packet o) =>
    ((s.modQueue o (fun Q => { Q with lock := none })).packetFault o .lockTimeout).tractEvent pcl
      (QFault.lockTimeout.code % 4096)
  | _ => s

/-- The cluster of a TRACT packet (R340). -/
def Packet.cluster (p : Packet) : Nat := p.w 1 / 2 ^ 8 % 64

/-- TRACT_BIND (R105, R113, R323, R339, R340). DEDUCED (assumption 44). -/
def execTractBind (q : Nat) (s : State) : Out :=
  s.withTract q 0 (fun p s =>
    let pcl := p.cluster
    let w := p.tctl
    let asid := (s.queue q).asid
    if s.tractTaken pcl asid ∨ (s.tract pcl).state ≠ .free then .next (s.packetFault q .tractBusy)
    else if s.lockDenied asid w then .next (s.packetFault q .ctxMigrating)
    else
      match s.requestBad pcl w with
      | some f => .next ((s.packetFault q f).tractEvent pcl (f.code % 4096))
      | none =>
        .next ((s.modQueue q (fun Q => { Q with lock := some (pcl, p.hdr) })).beginLock pcl w (.packet q) q asid))

/-- TRACT_RELOCK (R113, R323, R339, R340): at the next frame boundary, or at once where no clock runs.
DEDUCED (assumption 44). -/
def execTractRelock (q : Nat) (s : State) : Out :=
  s.withTract q 1 (fun p s =>
    let pcl := p.cluster
    let w := p.tctl
    let asid := (s.queue q).asid
    let t := s.tract pcl
    if s.tractTaken pcl asid ∨ t.state = .free then .next (s.packetFault q .tractBusy)
    else if s.lockDenied asid w then .next (s.packetFault q .ctxMigrating)
    else
      match s.requestBad pcl w with
      | some f => .next ((s.packetFault q f).tractEvent pcl (f.code % 4096))
      | none =>
        let s := (s.dropAsker pcl).modQueue q (fun Q => { Q with lock := some (pcl, p.hdr) })
        let s := s.modTract pcl (fun t => { t with asker := some (.packet q), relock := some w })
        if t.ticking && t.edge != .framed then .next s else .next (s.beginRelock pcl w))

/-- TRACT_UNBIND (R113, R339, R340). DEDUCED (assumption 44). -/
def execTractUnbind (q : Nat) (s : State) : Out :=
  s.withTract q 2 (fun p s =>
    let pcl := p.cluster
    let t := s.tract pcl
    if s.tractTaken pcl (s.queue q).asid ∨ !((s.placedIn pcl).isEmpty) then .next (s.packetFault q .tractBusy)
    else
      let s := s.dropAsker pcl
      let s := (s.setTract pcl { t with
        state := .free, tctl := 0, queue := none, asker := none, relock := none, old := none, haSeq := none, acq := []
        fresh := [], restart := false, held := false, back := false, alternate := false, edge := .framed
        fcyc := 0, sidx := 0 }).stileFlow pcl
      .next (s.packetDone q p))

/-- TRACT_SINK (R108, R339, R340); reserved bits are not written (R3). -/
def execTractSink (q : Nat) (s : State) : Out :=
  s.withTract q 3 (fun p s =>
    if s.tractTaken p.cluster (s.queue q).asid then .next (s.packetFault q .tractBusy)
    else
      .next ((s.modTract p.cluster (fun t => { t with tsnk := BitVec.ofNat 32 (p.w 2) &&& 0x00000F1F })).packetDone q p))

/-- A STILE packet meets a binding of another context, or acts on a cluster that is taken (R339): those the new STCFG
crosses, or the old one when it unbinds. DEDUCED (assumption 44). -/
def State.stileTaken (s : State) (n : Nat) (c : BitVec 32) (asid : Nat) : Bool :=
  let t : Stile := if (c.extractLsb' 30 2).toNat = 0 then s.stile n else { cfg := c }
  (t.mode != 0) && (((s.stile n).state != 0 && (s.stile n).asid != asid) || s.tractTaken (n / 32 * 16 + t.sclu) asid
    || s.tractTaken (n / 32 * 16 + t.dclu) asid)

/-- TRACT_STILE (R125, R127, R339, R340). -/
def execTractStile (q : Nat) (s : State) : Out :=
  s.withTract q 4 (fun p s =>
    let n := p.w 1 / 2 ^ 16 % 4 * 32 + p.w 1 / 2 ^ 18 % 32
    let c : BitVec 32 := BitVec.ofNat 32 (p.w 2) &&& 0xEFFFFFFF
    let t : Stile := { cfg := c }
    if s.stileTaken n c (s.queue q).asid then .next (s.packetFault q .tractBusy)
    else if t.mode ≠ 0 ∧ ((t.out ∧ t.mode = 3) ∨ t.sclu = t.dclu) then .next (s.packetFault q .badPkt)
    else
      let s := s.writeStile n c
      .next ((s.setStile n { (s.stile n) with asid := (s.queue q).asid }).packetDone q p))

/-- TRACT_PACE (R103, R340). -/
def execTractPace (q : Nat) (s : State) : Out :=
  s.withTract q 5 (fun p s =>
    let k := p.w 1 / 2 ^ 16 % 16
    let a := p.w2 2
    let b := p.w2 4
    if 2 ^ 63 ≤ a ∨ 2 ^ 63 ≤ b ∨ (b = 0 ∧ a ≠ 0) then .next (s.packetFault q .badPkt)
    else if a = 0 then .next ((s.setPace k { (s.pace k) with on := false, num := 0, dnum := 0 }).packetDone q p)
    else
      .next ((s.setPace k { on := true, num := a, den := b, dnum := a, dden := b, t0 := s.chron }).packetDone q p))

/-- TRACT_PORT (R109, R340). DEDUCED (assumption 44). -/
def execTractPort (q : Nat) (s : State) : Out :=
  s.withTract q 6 (fun p s =>
    let n := p.w 1 / 2 ^ 16 % 32
    let c : BitVec 32 := BitVec.ofNat 32 (p.w 2)
    if !((s.queue q).priv) then .next (s.packetFault q .priv)
    else if c &&& 0x7FFFFFC0 ≠ 0 then .next (s.packetFault q .badPkt)
    else if p.w 1 / 2 ^ 8 % 2 = 0 then .next ({ s with spcfg := s.spcfg.set n c }.packetDone q p)
    else .next ((s.setSink n { (s.sink n) with cfg := c }).packetDone q p))

/-- TRACT_LINKCFG (R109, R340). -/
def execTractLinkcfg (q : Nat) (s : State) : Out :=
  s.withTract q 7 (fun p s =>
    let l := p.w 1 / 2 ^ 16 % 16
    let c : BitVec 32 := BitVec.ofNat 32 (p.w 2)
    if !((s.queue q).priv) then .next (s.packetFault q .priv)
    else if c &&& 0x7FFFE0C0 ≠ 0 ∨ 12 ≤ l then .next (s.packetFault q .badPkt)
    else .next ((s.setLink l { (s.link l) with cfg := c }).packetDone q p))

end Sys2Proof.Machine
end

