-- ==== Sys2Proof/Machine/Chain.lean ====
section
/-! DEFINITION. Machine/Chain.lean: the units of a LAUNCH as the front end reads and checks them: operator records (R336,
R337), the executable image (R91, R92), the program header with its tables (R93, R94, R96), the group descriptor (R285
to R287), the pinning of buffers (R95, R119), and the saved kernel that a unit resumes (R147, R327). -/

namespace Sys2Proof.Machine

/-! ### Reads that a check may end -/

/-- What a read of the front end for a LAUNCH comes to: a value, a launch fault at a record of the chain, or the state in
which it waits. -/
inductive Rd (α : Type) where
  | got (v : α)
  | bad (f : QFault) (i : Nat)
  | wait (s : State)

/-- A read followed by another. -/
def Rd.bind {α β : Type} (r : Rd α) (k : α → Rd β) : Rd β :=
  match r with
  | .got v => k v
  | .bad f i => .bad f i
  | .wait s => .wait s

/-- A check: it goes on, or faults at record i. -/
def Rd.check {β : Type} (ok : Bool) (f : QFault) (i : Nat) (k : Rd β) : Rd β := if ok then k else .bad f i

/-- n bytes from a virtual address, read for record i of a queue's chain; past bit 55 there are none (R307). -/
def State.rdBytes (s : State) (q i va n : Nat) : Rd (List Nat) :=
  if 2 ^ 56 < va + n then .bad .badChain i
  else
    match s.feReads q (.record i) 1 ((List.range n).map (va + ·)) with
    | .error s => .wait s
    | .ok l => .got l

/-- The little-endian number in n bytes of a list (R2). -/
def leNum (l : List Nat) (off n : Nat) : Nat := ((l.drop off).take n).foldr (fun b acc => b + 256 * acc) 0

/-- A list of bytes as 64-bit words (R2). -/
def leWords (l : List Nat) : List Word := (List.range (l.length / 8)).map (fun k => word (leNum l (8 * k) 8))

/-! ### The group descriptor -/

/-- GD0 to GD3 (R285). -/
def gdOf (g : BitVec 32) : Nat × Nat × Nat × Nat :=
  ((g.extractLsb' 0 2).toNat + 1, (g.extractLsb' 2 4).toNat + 1, (g.extractLsb' 6 3).toNat + 1,
   (g.extractLsb' 9 4).toNat + 1)

/-- FIX, ODIE, OCLU and OCOR (R285). -/
def gshpFix (g : BitVec 32) : Bool := g.getLsbD 23
def gshpOrigin (g : BitVec 32) : Nat × Nat × Nat :=
  ((g.extractLsb' 14 2).toNat, (g.extractLsb' 16 4).toNat, (g.extractLsb' 20 3).toNat)

/-- Cores of a group (R287). -/
def gdCores (g : BitVec 32) : Nat :=
  let (a, b, c, d) := gdOf g
  a * b * c * d

/-- A shape that R287 accepts. -/
def shapeOk (g : BitVec 32) : Bool :=
  let (g0, g1, g2, g3) := gdOf g
  let (od, oc, ok) := gshpOrigin g
  (g.extractLsb' 24 8).toNat = 0 && !g.getLsbD 13 && decide (gdCores g ≤ 512)
    && (!gshpFix g || (decide (od + g0 ≤ 4) && decide (oc + g3 * g1 ≤ 16) && decide (ok + g2 ≤ 8)))

/-! ### The image (R91, R92) -/

/-- A section of an image. -/
structure Section where
  type : Nat := 0
  kidx : Nat := 0
  unit : Nat := 0
  off  : Nat := 0
  size : Nat := 0
  addr : Nat := 0
  deriving DecidableEq, Repr, Inhabited

/-- An entry of the section table. -/
def sectionOf (l : List Nat) : Section :=
  { type := leNum l 0 1, kidx := leNum l 4 2, unit := leNum l 6 2, off := leNum l 8 8, size := leNum l 16 8
    addr := leNum l 24 8 }

/-- UNIT of an entry of a type (R92). -/
def unitOk (type unit : Nat) : Bool :=
  if type = 3 then decide (unit < 32) else if type = 2 then decide (unit < 0xFFFF) else unit = 0xFFFF

/-- An entry that R92 allows; a row image lies in one bank. R92 calls a file invalid for a TYPE outside its table; the
model takes every other departure from the table so too, but for a KIDX that is neither 0xFFFF nor a kernel of the image: such
a section belongs to no kernel and is passed over. DESIGN CHOICE (assumption 106). -/
def sectionOk (l : List Nat) : Bool :=
  let t := sectionOf l
  decide (1 ≤ t.type ∧ t.type ≤ 6) && leNum l 1 1 = 0 && decide (leNum l 2 2 ≤ 1) && unitOk t.type t.unit
    && (t.type != 3 || (t.addr % 64 = 0 && decide (t.addr + t.size ≤ 0x20000)))

/-- A file header that R91 allows in an executable. -/
def fileOk (l : List Nat) : Bool :=
  leNum l 0 4 = 0x01464F5A && leNum l 4 2 = 1 && leNum l 6 2 = 1 && leNum l 56 8 % 0x10000 = 0

/-- LISTVA is 0 in a file that has no drill-list and no Sextant-block section (R91). -/
def listOk (l : List Nat) (secs : List Section) : Bool := leNum l 56 8 = 0 || secs.any (fun t => t.type = 4 || t.type = 5)

/-- The offset of the program header table and the sections of a valid executable that has a kernel's header (R337). -/
def State.rdImage (s : State) (q i image kidx : Nat) : Rd (Nat × List Section) :=
  (s.rdBytes q i image 64).bind fun l =>
  Rd.check (fileOk l && decide (kidx < leNum l 28 4)) .badChain i <|
  (s.rdBytes q i (image + leNum l 8 8) (48 * leNum l 24 4)).bind fun t =>
  let es := (List.range (leNum l 24 4)).map (fun k => (t.drop (48 * k)).take 48)
  Rd.check (es.all sectionOk && listOk l (es.map sectionOf)) .badChain i <|
  .got (leNum l 16 8, es.map sectionOf)

/-- The contents of sections. -/
def State.rdContents (s : State) (q i image : Nat) : List Section → Rd (List (Section × List Nat))
  | [] => .got []
  | t :: r =>
    (s.rdBytes q i (image + t.off) t.size).bind fun b =>
    (s.rdContents q i image r).bind fun bs =>
    .got ((t, b) :: bs)

/-- A kernel's code section, its pieces at their load offsets (R92). -/
def codeImage (bs : List (Section × List Nat)) : List Byte :=
  let len := bs.foldl (fun n p => max n (p.1.addr + p.2.length)) 0
  bs.foldl (fun c p => c.take p.1.addr ++ p.2.map (BitVec.ofNat 8) ++ c.drop (p.1.addr + p.2.length)) (List.replicate len 0)

/-- The code of a kernel of an image, sections shared by all kernels included (R92). -/
def State.rdCode (s : State) (q i image kidx : Nat) (secs : List Section) : Rd (List Byte) :=
  (s.rdContents q i image (secs.filter (fun t => t.type = 1 && (t.kidx = kidx || t.kidx = 0xFFFF)))).bind fun bs =>
  .got (codeImage bs)

/-- The row images of a kernel, with those shared by all: bytes to write from a scratchpad address on (R92). -/
def State.rdRows (s : State) (q i image kidx : Nat) (secs : List Section) : Rd (List (Nat × List Nat)) :=
  (s.rdContents q i image (secs.filter (fun t => t.type = 3 && (t.kidx = kidx || t.kidx = 0xFFFF)))).bind fun bs =>
  .got (bs.map (fun p => (0x20000 * p.1.unit + p.1.addr, p.2)))

/-! ### The program header (R93, R94, R96) -/

/-- A drain-stub entry, and whether its reserved fields are clear. -/
def stubOf (l : List Nat) : Stub :=
  { start := leNum l 0 4, stop := leNum l 4 4, stub := leNum l 8 4, eng := BitVec.ofNat 3 (leNum l 12 1) }
def stubOk (l : List Nat) : Bool := decide (leNum l 12 1 < 8) && leNum l 13 3 = 0

/-- A refresh entry. -/
def refreshOf (l : List Nat) : Nat × Nat := (leNum l 0 1, leNum l 4 4)
def refreshOk (l : List Nat) : Bool :=
  decide (leNum l 0 1 < 32) && leNum l 1 3 = 0 && decide (leNum l 4 4 < Config.refreshPeriod)

/-- The fields of a program header, its tables apart. -/
def headerOf (l : List Nat) : Header :=
  { entry := leNum l 0 4, streams := BitVec.ofNat 3 (leNum l 4 1)
    xk := #v[leNum l 5 1, leNum l 6 1, leNum l 7 1], vm := leNum l 8 1
    tkind := leNum l 9 1, tsrc := leNum l 10 2, tn := leNum l 12 4, tm := leNum l 16 2 + 1, thold := leNum l 18 2
    pnum := leNum l 24 8, pden := leNum l 32 8, budget := leNum l 40 4
    spill := #v[leNum l 44 2, leNum l 46 2, leNum l 48 2], spillv := leNum l 50 2
    bankMask := BitVec.ofNat 32 (leNum l 92 4)
    bfmt := vecOf 32 0 ((List.range 32).map (fun n => BitVec.ofNat 32 (leNum l (96 + 4 * n) 4))) }

/-- The ranges that R93 gives the tract declaration. R93 gives TSRC none, and R105 has a launch with a source outside the
range of its KIND fault LOCK_RATIO as its lock is asked for. -/
def declOk (h : Header) : Bool :=
  let pace := decide (1 ≤ h.pnum ∧ h.pnum < 2 ^ 63 ∧ 1 ≤ h.pden ∧ h.pden < 2 ^ 63)
  let plain := h.pnum = 0 && h.pden = 0
  decide (1 ≤ h.tn ∧ h.tn ≤ 2 ^ 24) && match h.tkind with
  | 0 => h.budget = 0 && plain
  | k =>
    decide (k ≤ 3) && h.budget = h.tn
      && (if k = 2 then pace else plain)

/-- The conditions of R94 that the header itself decides. A BFMT word that BANKMASK selects and that R33 would not let
`sys.wr` write is taken as out of its field's range. DESIGN CHOICE (assumption 107). -/
def headerOk (l : List Nat) : Bool :=
  let h := headerOf l
  h.entry % 2 = 0 && decide (leNum l 4 1 < 8)
    && (List.range 3).all (fun e =>
        let k := h.xk.toList.getD e 0
        if h.streams.getLsbD e then decide (1 ≤ k ∧ k ≤ 32) else k = 0)
    && decide (h.vm ≤ 32) && declOk h && leNum l 20 4 = 0 && leNum l 52 4 = 0
    && h.spill.toList.all (fun n => decide (n ≤ 256)) && decide (h.spillv ≤ 64) && decide (leNum l 64 4 ≤ 65535)
    && (List.range 32).all (fun n => !h.bankMask.getLsbD n || bfmtOk (h.bfmt.toList.getD n 0))

/-- The entries of a table. -/
def State.rdTable (s : State) (q i va n size : Nat) : Rd (List (List Nat)) :=
  (s.rdBytes q i va (n * size)).bind fun l => .got ((List.range n).map (fun k => (l.drop (size * k)).take size))

/-- The program header of a kernel of an image, checked (R94), with the pinning of its buffers (R119). R94 speaks of the
header's own fields: a drain-stub or refresh entry with a reserved bit set or a field out of range is taken as one that
makes the header invalid. DEDUCED (assumption 49). DESIGN CHOICE (assumption 107). -/
def State.rdHeader (s : State) (q i image kidx : Nat) : Rd Header :=
  (s.rdImage q i image kidx).bind fun (ph, secs) =>
  (s.rdBytes q i (image + ph + 224 * kidx) 224).bind fun l =>
  Rd.check (headerOk l) .hdrInvalid i <|
  (s.rdCode q i image kidx secs).bind fun code =>
  let h := headerOf l
  Rd.check (decide (h.entry + 4 ≤ code.length) && isHeader (codeWord code h.entry)) .hdrInvalid i <|
  (s.rdTable q i (image + leNum l 72 8) (leNum l 68 4) 16).bind fun st =>
  (s.rdTable q i (image + leNum l 80 8) (leNum l 88 4) 8).bind fun rf =>
  Rd.check (st.all stubOk && rf.all refreshOk) .hdrInvalid i <|
  (if h.tkind = 1 ∨ h.tkind = 3 then s.rdTable q i (image + leNum l 56 8) (leNum l 64 4) 32 else .got []).bind fun bu =>
  Rd.check (bu.all (fun b => leNum b 10 2 % 2 = 1)) .notPinned i <|
  .got { h with stubs := st.map stubOf, refresh := rf.map refreshOf }

/-- The TCTL that a program header declares (R93, R104), the low bits of its TSRC as SRC. -/
def Header.decl (h : Header) : Word :=
  word ((h.tn - 1) * 2 ^ 40 + (h.tm - 1) * 2 ^ 24 + h.thold * 2 ^ 8 + h.tkind * 2 ^ 6 + h.tsrc % 2 ^ 5)

/-- TSRC lies in the range of the declared KIND (R104, R105). -/
def Header.sourced (h : Header) : Bool := sourceOk h.tkind h.tsrc

/-- The BFMT of a bank as a fresh start gives it (R93, R132). -/
def Header.bank (h : Header) (n : Nat) : BitVec 32 :=
  if h.bankMask.getLsbD n then bfmtMask (h.bfmt.toList.getD n 0) else 0

/-! ### Operator records (R336, R337) -/

/-- KIND and NEXT. -/
def recKind (w : List Word) : Nat := bits (w.getD 0 0) 63 60
def recNext (w : List Word) : Nat := bits (w.getD 0 0) 55 0
/-- Bits [59:56] of word 0 are 0. -/
def recTop (w : List Word) : Bool := bits (w.getD 0 0) 59 56 = 0
/-- Words from one on are 0. -/
def recZero (w : List Word) (k : Nat) : Bool := (w.drop k).all (fun v => v = 0)

/-- The record checks that need no more than the record. -/
def kernelRecOk (w : List Word) : Bool := recTop w && decide ((w.getD 3 0).toNat ≤ 1) && recZero w 4
def mxopRecOk (w : List Word) : Bool :=
  recTop w && (List.range 7).all (fun n => w.getD (n + 1) 0 &&& ~~~(shadowMask n) = 0)
def copyRecOk (w : List Word) : Bool :=
  let d := w.getD 3 0
  recTop w && vaOk (w.getD 1 0).toNat 64 && d &&& 0xFFFFFF8000001F86 = 0 && recZero w 4
    && decide (dSrow d + dRows d ≤ 65536)
def sextantRecOk (w : List Word) : Bool := recTop w && decide ((w.getD 2 0).toNat < 64) && recZero w 3

/-- A record at a virtual address. -/
def State.rdRecord (s : State) (q i va : Nat) : Rd (List Word) :=
  if va % 64 ≠ 0 then .bad .badChain i else (s.rdBytes q i va 64).bind fun l => .got (leWords l)

/-- A unit as read: its records with their addresses, and where the next unit begins, 0 for none. -/
structure UnitIn where
  recs : List (Nat × List Word) := []
  next : Nat := 0
  deriving DecidableEq, Repr, Inhabited

/-- The records after the first of a KERNEL unit: at most one MXOP and at most 16 COPY (R337). `ix` numbers a record of
the unit in the chain. -/
def State.rdMore (s : State) (q : Nat) (ix : Nat → Nat) : Nat → Nat → List (Nat × List Word) → Rd UnitIn
  | 0, _, acc => .bad .badChain (ix acc.length)
  | n + 1, va, acc =>
    if va = 0 then .got { recs := acc, next := 0 }
    else
      (s.rdRecord q (ix acc.length) va).bind fun w =>
      match recKind w with
      | 1 => .got { recs := acc, next := va }
      | 4 => .got { recs := acc, next := va }
      | 2 =>
        Rd.check (mxopRecOk w && !(acc.any (fun r => recKind r.2 = 2))) .badChain (ix acc.length) <|
        s.rdMore q ix n (recNext w) (acc ++ [(va, w)])
      | 3 =>
        Rd.check (copyRecOk w && decide ((acc.filter (fun r => recKind r.2 = 3)).length < 16)) .badChain (ix acc.length) <|
        s.rdMore q ix n (recNext w) (acc ++ [(va, w)])
      | _ => .bad .badChain (ix acc.length)

/-- A KERNEL unit from its first record on. -/
def State.rdUnit (s : State) (q : Nat) (ix : Nat → Nat) (va : Nat) : Rd UnitIn :=
  (s.rdRecord q (ix 0) va).bind fun w =>
  Rd.check (recKind w = 1 && kernelRecOk w) .badChain (ix 0) <|
  s.rdMore q ix 20 (recNext w) [(va, w)]

/-- The COPY records of a unit (R336). -/
def copyRecs (u : UnitIn) : List CopyRec :=
  (u.recs.zipIdx.filter (fun p => recKind p.1.2 = 3)).map (fun p =>
    let w := p.1.2
    let d := w.getD 3 0
    { va := w.getD 1 0, stride := w.getD 2 0, srow := dSrow d, rows := dRows d, fmt := dFmt d, out := bit d 0
      recVa := word p.1.1, pos := p.2 })

/-- The main-memory address of a COPY record for the core of group index g (R337). -/
def CopyRec.base (r : CopyRec) (g : Nat) : Word := r.va + r.stride * word g

/-- The checks of a COPY record that no scratchpad decides (R337, R367): every core's address, and of an in-copy the rows
that its elements fill. DEDUCED (assumption 69). -/
def copyUnitOk (h : Header) (g : BitVec 32) (resume : Bool) (r : CopyRec) : Bool :=
  (List.range (gdCores g)).all (fun n => vaOk (r.base n).toNat 64)
    && (r.out || resume || (mainRows false r.fmt (h.bank (bankOf r.srow)) r.rows).isSome)

/-- A save of a context that a unit may take: its identifier and its address; none while another unit that waits for its
cores has taken it (R327, R337). -/
def State.savedKernel (s : State) (asid : Nat) (kid : BitVec 16) : Option (Word × Nat) :=
  ((s.ctx asid).saves.find? (fun t => t.1 = kid.toNat && !(s.kernels.any (fun p =>
    (p.2.state = .loaded || p.2.state = .placed) && p.2.resume && p.2.asid = asid && p.2.saveAt = some t.2.1)))).map (·.2)

/-- RUN of the kernel that a save holds (R133, R327). -/
def State.runOf (s : State) (at_ : Word) : Word := word ((s.load (at_.toNat + saveHeader + 8) 4).getD 0)

/-- The saved kernel that left a save, while its entry stands. -/
def State.savedEntry (s : State) (asid : Nat) (at_ : Word) : Kernel :=
  match List.find? (fun (p : Nat × Kernel) => p.2.state = .saved && p.2.asid = asid && p.2.saveAt = some at_) s.kernels with
  | some p => p.2
  | none => {}

/-- A unit's kernel, once everything that R337 checks before placement holds: its image, its header, its buffers, its
copies, its shape, its context (R323), and the save that it resumes; `again` relaunches whatever RESUME says. -/
def State.rdKernel (s : State) (q : Nat) (ix : Nat → Nat) (u : UnitIn) (again : Bool) : Rd Kernel :=
  match u.recs with
  | [] => .bad .badChain (ix 0)
  | (va, w) :: _ =>
    let asid := (s.queue q).asid
    let w2 := w.getD 2 0
    let g : BitVec 32 := BitVec.ofNat 32 (bits w2 63 32)
    let kid : BitVec 16 := BitVec.ofNat 16 (bits w2 31 16)
    let kidx := bits w2 15 0
    let image := (w.getD 1 0).toNat
    let resume := again || bit (w.getD 3 0) 0
    (s.rdHeader q (ix 0) image kidx).bind fun h =>
    Rd.check (shapeOk g) .groupShape (ix 0) <|
    Rd.check (!(s.migrating asid && (h.tkind = 1 || h.tkind = 3))) .ctxMigrating (ix 0) <|
    match (copyRecs u).find? (fun r => !(copyUnitOk h g resume r)) with
    | some r => .bad .badChain (ix r.pos)
    | none =>
      match s.feXl q (.record (ix 0)) va false with
      | .error s => .wait s
      | .ok pa =>
        let mx := u.recs.find? (fun r => recKind r.2 = 2)
        let K : Kernel := {
          queue := q, asid := asid, kid := kid, kidx := kidx, gshp := g, image := w.getD 1 0, krec := word va
          krecPa := word pa, hdr := h, mxop := mx.map (fun r => (r.2.drop 1).take 7)
          mxrec := word ((mx.map (·.1)).getD 0), copies := copyRecs u, resume := resume }
        if resume then
          match s.savedKernel asid kid with
          | none => .bad .badChain (ix 0)
          | some (at_, _) =>
            let O := s.savedEntry asid at_
            .got { K with saveAt := some at_, run := s.runOf at_ + 1, kept := O.kept, left := O.left
                          was := if O.saveAt.isSome then some O.hdr else none, drills := O.drills
                          from_ := if O.moving then O.seats.map (fun t => t.pcn / 8) else [] }
        else .got K

/-- A unit is accepted (R337, R345, R386): its kernel is LOADED and its request stands before the placer; in
host-assisted mode the driver is asked first. DEDUCED (assumption 100). -/
def State.acceptKernel (s : State) (q : Nat) (K : Kernel) : State :=
  let n := s.nextKernel
  let ha := s.assisted 3
  let s := { s with
    kernels := s.kernels.set n { K with order := n, granted := !ha }, nextKernel := n + 1, passDue := true }
  let s := s.modQueue q (fun Q => { Q with
    oper := if K.sx.isSome then Q.oper else K.krec, launch := Q.launch.map (fun l => { l with kernel := some n, again := false }) })
  if ha then s.haRequest 3 q (word (s.queue q).eprio) 0 n (.queue q) else s

/-- The unit at a LAUNCH's `next` may be read now. -/
def State.unitDue (s : State) (q : Nat) : Option Launch :=
  match (s.queue q).launch with
  | none => none
  | some l =>
    if l.ended.isNone ∧ l.kernel.isNone ∧ (l.idx = 0 ∨ l.next ≠ 0 ∨ l.again ∨ l.sx.isSome) ∧ s.ctxOpen (s.queue q).asid
        ∧ (s.queue q).fault?.isNone ∧ !(s.queue q).held ∧ (s.queue q).state ≠ .disabled
        ∧ (s.queue q).state ≠ .resetting then some l
    else none

/-- What a unit of a queue's chain comes to. -/
def State.takeUnit (s : State) (q : Nat) (r : Rd (Kernel × Nat)) : State :=
  match r with
  | .wait s => s
  | .bad f i => s.launchFault q f 5 i
  | .got (K, next) =>
    (s.acceptKernel q K).modQueue q (fun Q => { Q with launch := Q.launch.map (fun l => { l with next := word next }) })

/-- The units that a Sextant launches, as it read them (R358). -/
def unitOfWords : List Word → List (Nat × List Word)
  | va :: a :: b :: c :: d :: e :: f :: g :: h :: r => (va.toNat, [a, b, c, d, e, f, g, h]) :: unitOfWords r
  | _ => []

/-- The unit of a Sextant's role: 0 factor, 1 correction, 2 trap. -/
def Sextant.unit (x : Sextant) (role : Nat) : UnitIn := { recs := unitOfWords (x.recs.getD role []), next := 0 }

/-- The role of the kernel that a Sextant's state runs (R360). -/
def Sextant.role (x : Sextant) : Nat := if x.state = 1 then 0 else if x.state = 2 then 1 else 2

/-- The Sextant stands in a state that runs a kernel (R360). -/
def Sextant.launches (x : Sextant) : Bool := x.state = 1 || x.state = 2 || x.state = 4

/-- The unit of a Sextant's role as a kernel, confined to its cluster (R361); its faults name the SEXTANT record. -/
def State.rdSextantKernel (s : State) (q pcl role i : Nat) (again : Bool) : Rd Kernel :=
  (s.rdKernel q (fun _ => i) ((s.sextant pcl).unit role) again).bind fun K => .got { K with sx := some (pcl, role) }

/-- KERNEL_RECORD (R94, R119, R287, R323, R336, R337): the next unit of a chain, or the unit that relaunches, is read and
checked whole, and placement is requested. A SEXTANT record is SEXTANT_RECORD's. -/
def execKernelRecord (q : Nat) (s : State) : Out :=
  match s.unitDue q with
  | none => .next s
  | some l =>
    match l.sx with
    | some pcl =>
      if (s.sextant pcl).launches then
        .next (s.takeUnit q ((s.rdSextantKernel q pcl (s.sextant pcl).role l.idx l.again).bind fun K => .got (K, l.next.toNat)))
      else .next s
    | none =>
      if l.packet.isSome then .next s
      else
        match s.rdRecord q l.idx l.next.toNat with
        | .wait s => .next s
        | .bad f i => .next (s.launchFault q f 5 i)
        | .got w =>
          if recKind w = 4 ∧ !l.again then .next s
          else
            .next (s.takeUnit q
              ((s.rdUnit q (fun n => l.idx + n) l.next.toNat).bind fun u =>
               (s.rdKernel q (fun n => l.idx + n) u l.again).bind fun K => .got (K, u.next)))

end Sys2Proof.Machine
end

