-- ==== Sys2Proof/Machine/Kernels.lean ====
section
/-! DEFINITION. Machine/Kernels.lean: the life of a kernel from its request to its end: placement (R286, R288 to R291,
R345, R361), STARTING and RUNNING (R132, R135, R147, R288, R337), the copies of COPY records (R337, R366, R367),
retirement (R140), diversion (R144, R169, R301) and the save (R146, R327). -/

namespace Sys2Proof.Machine

/-! ### The chronometer -/

/-- One chronometer tick (R100): a correction forward advances 2, one backward holds the count. -/
def State.tickOn (s : State) : State :=
  if 0 < s.adjust then { s with chron := s.chron + 2, adjust := s.adjust - 1 }
  else if s.adjust < 0 then { s with adjust := s.adjust + 1 }
  else { s with chron := s.chron + 1 }

/-! ### Placement -/

/-- The tract of a cluster suits a program header (R288). DEDUCED (assumption 66). -/
def State.tractSuits (s : State) (K : Kernel) (pcl : Nat) : Bool :=
  let t := s.tract pcl
  if K.hdr.tkind = 0 then tctlKind t.tctl = 2 && t.state = .locked
  else if t.state = .free then (s.placedIn pcl).isEmpty
  else K.hdr.sourced && t.tctl = K.hdr.decl

/-- A core is eligible for a kernel (R288). -/
def State.eligible (s : State) (K : Kernel) (pcn : Nat) : Bool :=
  (s.core pcn).kernel.isNone && (s.placedIn (pcn / 8)).all (fun k => (s.kernel k).asid = K.asid)
    && s.tractSuits K (pcn / 8)

/-- The box of a stage at an origin (R286); none where it wraps. -/
def boxAt (g : BitVec 32) (stg od oc ok : Nat) : Option (List Seat) :=
  let (g0, g1, g2, _) := gdOf g
  if od + g0 ≤ 4 ∧ oc + g1 ≤ 16 ∧ ok + g2 ≤ 8 then
    some ((List.range g0).flatMap (fun d => (List.range g1).flatMap (fun c => (List.range g2).map (fun r =>
      { pcn := 128 * (od + d) + 8 * (oc + c) + ok + r, die := d, clu := c, cor := r, stg := stg }))))
  else none

/-- The origins that a stage may take, in order (R286, R289): every core, or the one that FIX names; a Sextant's kernel
stays in its cluster (R361). -/
def origins (K : Kernel) (stg : Nat) : List (Nat × Nat × Nat) :=
  let (od, oc, ok) := gshpOrigin K.gshp
  let (_, g1, _, _) := gdOf K.gshp
  match K.sx with
  | some (pcl, _) =>
    if gshpFix K.gshp then [(pcl / 16, pcl % 16, ok)] else (List.range 8).map (fun c => (pcl / 16, pcl % 16, c))
  | none =>
    if gshpFix K.gshp then [(od, oc + stg * g1, ok)]
    else (List.range 512).map (fun p => (p / 128, p / 8 % 16, p % 8))

/-- Junction temperature of a cluster as the helm metered it, in 1/16 °C (R380). -/
def State.temp (s : State) (pcl : Nat) : Nat := s.helm.meter.temps.getD pcl 0

/-- A seat that a move of the helm allows (R383): 6 °C cooler than the cluster it leaves, and not one left lately. `n`
counts the seats before it. DEDUCED (assumption 95). -/
def State.coolSeat (s : State) (K : Kernel) (n : Nat) (t : Seat) : Bool :=
  match K.from_[n]? with
  | none => true
  | some c =>
    decide (s.temp (t.pcn / 8) + 96 ≤ s.temp c)
      && K.left.all (fun l => l.1 != t.pcn / 8 || decide (4000000000 ≤ (s.chron - l.2).toNat))

/-- The first origin whose box is all eligible and disjoint from the earlier stages (R289). -/
def State.fitStage (s : State) (K : Kernel) (taken : List Seat) (stg : Nat) : Option (List Seat) :=
  (origins K stg).findSome? (fun o =>
    match boxAt K.gshp stg o.1 o.2.1 o.2.2 with
    | none => none
    | some b =>
      if b.zipIdx.all (fun t => s.eligible K t.1.pcn && !(taken.any (fun u => u.pcn = t.1.pcn))
          && s.coolSeat K (taken.length + t.2) t.1) then some b else none)

/-- The stages from one on, in turn (R289). -/
def State.fitFrom (s : State) (K : Kernel) (taken : List Seat) : List Nat → Option (List Seat)
  | [] => some taken
  | g :: r =>
    match s.fitStage K taken g with
    | none => none
    | some b => s.fitFrom K (taken ++ b) r

/-- The seats that a request would take now (R289). -/
def State.fit (s : State) (K : Kernel) : Option (List Seat) :=
  s.fitFrom K [] (List.range (gdOf K.gshp).2.2.2)

/-- The effective priority of a kernel's queue (R345). -/
def State.eprioOf (s : State) (k : Nat) : Nat := (s.queue (s.kernel k).queue).eprio

/-- Requests that wait for placement, and those of them that the placer may consider (R289, R322, R386). -/
def State.waitingKernels (s : State) : List Nat := (s.kernels.filter (fun p => p.2.state = .loaded)).map (·.1)
def State.requests (s : State) : List Nat :=
  s.waitingKernels.filter (fun k => (s.kernel k).granted
    && ((s.ctx (s.kernel k).asid).state = .live || (s.ctx (s.kernel k).asid).state = .precopy))

/-- The order of service (R345): EPRIO, highest first; among equals round-robin from the queue after the one last
served at that level. DESIGN CHOICE (assumption 15). -/
def State.serveKey (s : State) (k : Nat) : Nat :=
  let e := s.eprioOf k
  (7 - e) * 4096 + ((s.kernel k).queue + 8191 - s.rr.get 4095 e) % 4096

/-- A list put in rising order of a key. -/
def insertBy (key : Nat → Nat) (x : Nat) : List Nat → List Nat
  | [] => [x]
  | y :: r => if key x ≤ key y then x :: y :: r else y :: insertBy key x r
def sortBy (key : Nat → Nat) : List Nat → List Nat
  | [] => []
  | x :: r => insertBy key x (sortBy key r)

/-- A blocking request holds back those of its own priority or lower (R290); two that block at one priority do not hold
back each other. DEDUCED (assumption 66). -/
def State.heldBack (s : State) (k : Nat) : Bool :=
  s.requests.any (fun b => b != k && decide (64 ≤ (s.kernel b).passed)
    && (if 64 ≤ (s.kernel k).passed then decide (s.eprioOf k < s.eprioOf b) else decide (s.eprioOf k ≤ s.eprioOf b)))

/-- The next request that can be placed, with its seats. -/
def State.nextPlacement (s : State) : Option (Nat × List Seat) :=
  (sortBy s.serveKey s.requests).findSome? (fun k =>
    if s.heldBack k then none else (s.fit (s.kernel k)).map (fun b => (k, b)))

/-- A queue is passed over by another queue's placement (R345). -/
def Queue.passOver (Q : Queue) : Queue :=
  if 63 ≤ Q.pass then { Q with pass := 0, eprio := min 7 (Q.eprio + 1) } else { Q with pass := Q.pass + 1 }

/-- A declared refresh phase differs from the one that another holder on the die declares (R238); kernels that fault
themselves in the pass hold none. DEDUCED (assumption 64). -/
def State.refreshConflict (s : State) (k : Nat) (bad : List Nat) : Bool :=
  let K := s.kernel k
  let dies (L : Kernel) : List Nat := L.seats.map (fun t => t.pcn / 128)
  s.kernels.any (fun p => p.1 != k && !(bad.contains p.1)
    && (p.2.state = .placed || p.2.state = .starting || p.2.state = .running || p.2.state = .draining)
    && (dies p.2).any (fun d => (dies K).contains d)
    && p.2.hdr.refresh.any (fun a => K.hdr.refresh.any (fun b => a.1 = b.1 && a.2 != b.2)))

/-- A request is placed (R289 to R291, R345): its cores are reserved in one step, and the requests it passes count it. -/
def State.placeKernel (s : State) (k : Nat) (seats : List Seat) : State :=
  let K := s.kernel k
  let e := s.eprioOf k
  let s := s.waitingKernels.foldl (fun s w =>
    if w = k then s
    else
      let W := s.kernel w
      let s := if W.order < K.order ∧ e ≤ s.eprioOf w then s.setKernel w { W with passed := W.passed + 1 } else s
      if W.queue = K.queue then s else s.modQueue W.queue Queue.passOver) s
  let s := { s with rr := s.rr.set e K.queue }.modQueue K.queue (fun Q => { Q with pass := 0, eprio := Q.prio })
  let s := seats.foldl (fun s t => s.modCore t.pcn (fun c => { c with
    kernel := some k, gdie := t.die, gclu := t.clu, gcor := t.cor, stg := t.stg })) s
  s.setKernel k { K with state := .placed, seats := seats, released := false, since := s.chron }

/-- One pass: requests are placed one at a time until none fits. Those whose refresh phases conflict fault as it ends, so
that their cores are free from the next pass on (R238, R289). -/
def State.placeAll (s : State) (bad : List Nat) : Nat → State
  | 0 => bad.foldl (fun s k => s.startFault k .refreshConflict) s
  | n + 1 =>
    match s.nextPlacement with
    | none => bad.foldl (fun s k => s.startFault k .refreshConflict) s
    | some (k, b) =>
      let s := s.placeKernel k b
      s.placeAll (if s.refreshConflict k bad then bad ++ [k] else bad) n

/-- The placer's work at the end of a tick in which a launch was accepted or cores were released (R289). -/
def State.placePass (s : State) : State :=
  if s.passDue then { s with passDue := false }.placeAll [] s.waitingKernels.length else s

/-- PLACEMENT_PASS (R289): the tick ends, and with it the pass that its acceptances and releases call for.
DEDUCED (assumption 66). -/
def execPlacementPass (s : State) : Out := .next (if s.passDue then s.placePass.tickOn else s)

/-! ### STARTING -/

/-- The clusters of a kernel's group. -/
def Kernel.clusters (K : Kernel) : List Nat := (K.seats.map (fun t => t.pcn / 8)).dedup
/-- The kernel runs on a locked tract by its declaration (R119). -/
def Kernel.onLocked (K : Kernel) : Bool := K.hdr.tkind = 1 || K.hdr.tkind = 3

/-- The previous operator of a core has retired and none waits in its shadow bank (R135). DEDUCED (assumption 61). -/
def Core.operatorGone (c : Core) : Bool := c.harrow.state != .running && (!c.harrow.armed || c.harrow.state = .stopped)

/-- The pace source of a TKIND 2 launch (R288): started if it stands, used at its declared rate, else LOCK_RATIO. -/
def State.startPace (s : State) (K : Kernel) : Option State :=
  if K.hdr.tkind ≠ 2 then some s
  else
    let p := s.pace K.hdr.tsrc
    if !p.on then
      some (s.setPace K.hdr.tsrc { on := true, num := K.hdr.pnum, den := K.hdr.pden, dnum := K.hdr.pnum, dden := K.hdr.pden
                                   t0 := s.chron })
    else if p.dnum * K.hdr.pden = K.hdr.pnum * p.dden then some s
    else none

/-- The tracts of the group that stand FREE are bound (R105, R288); a lock fault is the launch's, and leaves a pace source
that the launch has started running.
DEDUCED (assumption 67). -/
def State.bindTracts (s : State) (k : Nat) : Except (QFault × State) State :=
  let K := s.kernel k
  if K.hdr.tkind = 0 then .ok s
  else if !K.hdr.sourced then .error (.lockRatio, s)
  else
    match s.startPace K with
    | none => .error (.lockRatio, s)
    | some s =>
      let free := K.clusters.filter (fun c => (s.tract c).state = .free)
      if free.isEmpty then .ok s
      else if s.lockDenied K.asid K.hdr.decl then .error (.ctxMigrating, s)
      else
        match s.lockBad K.hdr.decl with
        | some f => .error (f, s)
        | none => .ok (free.foldl (fun s c => s.beginLock c K.hdr.decl (.kernel k) K.queue K.asid) s)

/-- A kernel's refresh entries are applied on its dies (R238). -/
def State.applyRefresh (s : State) (k : Nat) : State :=
  (s.kernel k).dies.foldl (fun s d =>
    s.modDie d (fun D => (s.kernel k).hdr.refresh.foldl (fun D e => D.setPhase s.period e.1 (some e.2)) D)) s

/-- A stream at a fresh start (R69, R132); the a registers of an AP hold free values (assumption 14). -/
def Header.freshStream (h : Header) (ctr : Nat) (e : Eng) : Stream :=
  if h.streams.getLsbD e.num then
    { phase := .live, xk := h.xk.toList.getD e.num 0, vm := if e = .xp then h.vm else 0, pc := h.entry, npc := h.entry
      a := if e = .ap then Vector.ofFn (fun i => Config.freeAddr (ctr + i)) else Vector.replicate 16 0 }
  else {}

/-- A core at a fresh start (R132, R214, R249, R259, R293): everything at its reset value but for its place; monitors that
other cores armed here stand (R234). -/
def bareCore (old : Core) (k : Nat) (t : Seat) : Core :=
  { kernel := some k, gdie := t.die, gclu := t.clu, gcor := t.cor, stg := t.stg, nextOp := old.nextOp
    monitors := old.monitors.filter (fun m => m.who.core != t.pcn) }

/-- A core's streams begin anew: no bank keeps a monitor that they armed before (R233), and no walk of its AP goes on. -/
def State.dropMonitors (s : State) (pcn : Nat) : State :=
  let s := s.dismiss (.ap pcn)
  (List.range 8).foldl (fun s c => s.modCore (pcn / 8 * 8 + c) (fun C =>
    if C.monitors.isEmpty then C else { C with monitors := C.monitors.filter (fun m => m.who.core != pcn) })) s

/-- The rows of a core have been written as its kernel starts, and the monitors armed on them are tested again (R132,
R233). -/
def State.retestCore (s : State) (pcn : Nat) : State :=
  ((s.core pcn).monitors.map (·.row)).dedup.foldl (fun s r => s.retest pcn r) s

/-- Row images written (R92). -/
def writeImages (m : Mem) (rows : List (Nat × List Nat)) : Mem :=
  rows.foldl (fun m r => (r.2.foldl (fun (p : Mem × Nat) b => (Mem.setByte p.1 p.2 (BitVec.ofNat 8 b), p.2 + 1)) (m, r.1)).1) m

/-- A core of a kernel that starts fresh, with its row images and BFMT (R92, R93, R132). -/
def Kernel.freshCore (K : Kernel) (ctr : Nat) (old : Core) (k : Nat) (t : Seat) (rows : List (Nat × List Nat)) : Core :=
  { bareCore old k t with
    ap := K.hdr.freshStream ctr .ap, xp := K.hdr.freshStream ctr .xp, mx := K.hdr.freshStream ctr .mx
    sp := writeImages [] rows
    bfmt := vecOf 32 0 ((List.range 32).map K.hdr.bank) }

/-- The core record of a save that holds group coordinates (R147, R327). -/
def State.recordOf (s : State) (base : Nat) (t : Seat) : Option Nat :=
  let n := (s.load (base + 12) 4).getD 0
  ((List.range n).map (fun i => base + saveHeader + i * saveCoreBytes)).find? (fun a =>
    Mem.num s.mem (a + 2) 1 = t.die && Mem.num s.mem (a + 3) 1 = t.clu && Mem.num s.mem (a + 4) 1 = t.cor
      && Mem.num s.mem (a + 5) 1 = t.stg)

/-- Slots kept beside a save come back, or read zero: each one's choice is a free value (R90, assumption 21). -/
def keepSlots {α : Type} (ctr : Nat) (t kept : Tbl α) : Tbl α :=
  kept.zipIdx.foldl (fun t p => if Config.freeKeepSlot (ctr + p.2) then t.set p.1.1 p.1.2 else t) t

/-- A core's streams with the slots that were kept for its record. -/
def Core.keep (c : Core) (ctr idx : Nat) (kept : List KeptSlots) : Core :=
  kept.foldl (fun c k =>
    if k.idx = idx then
      let m := c.stream k.eng
      c.setStream k.eng { m with spill := keepSlots (ctr + 512 * k.eng.num) m.spill k.spill
                                 vspill := keepSlots (ctr + 512 * k.eng.num + 256) m.vspill k.vspill }
    else c) c

/-- A core of a kernel that resumes on a group of the same shape (R147): restored, its handles to be translated again. -/
def State.resumedCore (s : State) (K : Kernel) (k : Nat) (t : Seat) (base : Nat) (code : List Byte) : Core :=
  let f := bareCore (s.core t.pcn) k t
  match s.recordOf base t with
  | none => f
  | some a =>
    let idx := (a - base - saveHeader) / saveCoreBytes
    let c := (f.restore s.mem a code K.hdr (K.was.getD K.hdr)).keep (s.freeCtr + 2048 * idx) idx K.kept
    { c with ap := if c.ap.phase = .live then { c.ap with wait := c.ap.retransNext 0 } else c.ap }

/-- The save that a kernel resumes from, when its group has the saved shape (R147). -/
def State.sameShape (s : State) (K : Kernel) : Option Nat :=
  match K.resume, K.saveAt with
  | true, some a =>
    if (s.load (a.toNat + 8) 4).getD 0 % 2 ^ 13 = K.gshp.toNat % 2 ^ 13 then some a.toNat else none
  | _, _ => none

/-- The cores as STARTING leaves them (R132, R147). -/
def State.fillCores (s : State) (k : Nat) (code : List Byte) (rows : List (Nat × List Nat)) : State :=
  let K := s.kernel k
  match s.sameShape K with
  | some base =>
    let s' := K.seats.foldl (fun r t =>
      let r := r.dropMonitors t.pcn
      r.setCore t.pcn (r.resumedCore K k t base code)) s
    let s' := K.seats.foldl (fun r t => r.retestCore t.pcn) s'
    { s' with freeCtr := s.freeCtr + 2048 * K.seats.length }
  | none =>
    let s' := K.seats.foldl (fun r t =>
      let r := r.dropMonitors t.pcn
      r.setCore t.pcn (K.freshCore (r.freeCtr + 16 * t.pcn) (r.core t.pcn) k t rows)) s
    let s' := K.seats.foldl (fun r t => r.retestCore t.pcn) s'
    { s' with freeCtr := s.freeCtr + 8192 }

/-- The save that a relaunch takes is freed (R327). -/
def State.freeSave (s : State) (asid : Nat) (at_ : Option Word) : State :=
  match at_ with
  | none => s
  | some a =>
    let s := s.setCtx asid { (s.ctx asid) with saves := (s.ctx asid).saves.filter (fun t => t.2.1 != a) }
    { s with kernels := s.kernels.map (fun (p : Nat × Kernel) =>
      if p.2.state = .saved ∧ p.2.asid = asid ∧ p.2.saveAt = some a then (p.1, { p.2 with saveAt := none }) else p) }

/-- A kernel's code and row images as they stand now (R46, R92). -/
def State.rdStart (s : State) (K : Kernel) (i : Nat) : Rd (List Byte × List (Nat × List Nat)) :=
  (s.rdImage K.queue i K.image.toNat K.kidx).bind fun (_, secs) =>
  (s.rdCode K.queue i K.image.toNat K.kidx secs).bind fun code =>
  (s.rdRows K.queue i K.image.toNat K.kidx secs).bind fun rows => .got (code, rows)

/-- FOFF of a kernel's unit (R330). -/
def State.unitIdx (s : State) (k : Nat) : Nat := ((s.queue (s.kernel k).queue).launch.map (·.idx)).getD 0

/-- A placed kernel may enter STARTING: its cores' operators are gone, and no write of a weight store of its dies is under
way (R135, R236). -/
def State.mayStart (s : State) (k : Nat) : Bool :=
  let K := s.kernel k
  K.state = .placed && K.seats.all (fun t => (s.core t.pcn).operatorGone) && K.dies.all (fun d => !(s.die d).wsBusy)

/-- KERNEL_STARTING (R46, R89, R92, R105, R132, R135, R147, R236, R238, R288, R291): tracts are bound or checked, and each
core takes its row images, BFMT and streams, or its save. DEDUCED (assumption 67). -/
def execKernelStarting (k : Nat) (s : State) : Out :=
  let K := s.kernel k
  if !s.mayStart k then .next s
  else
    match s.rdStart K (s.unitIdx k) with
    | .wait s => .next s
    | .bad f _ => .next (s.startFault k f)
    | .got (code, rows) =>
      match s.bindTracts k with
      | .error (f, s) =>
        .next ((if 0x10 ≤ f.code ∧ f.code < 0x15 then K.clusters else []).foldl
          (fun s c => s.tractEvent c f.code) (s.startFault k f))
      | .ok s =>
        let s := s.fillCores k code rows
        let s := s.modKernel k (fun K => { K with state := .starting, code := code, saveAt := none, kept := [] })
        .next (((s.applyRefresh k).freeSave K.asid (if K.resume then K.saveAt else none)).forget (.queue K.queue))

/-! ### Records of the unit at work -/

/-- MXOP_RECORD (R207, R337): in STARTING the words go into each core's shadow bank; a resume does not take them again. -/
def execMxopRecord (k : Nat) (s : State) : Out :=
  let K := s.kernel k
  match K.mxop with
  | none => .next s
  | some ws =>
    if K.state ≠ .starting ∨ K.resume ∨ K.mxLoaded then .next s
    else
      let load (c : Core) : Core := { c with
        harrow := ws.zipIdx.foldl (fun h p => h.put p.2 p.1) { c.harrow with shadow := shadowReset } }
      .next ((K.seats.foldl (fun s t => s.modCore t.pcn load) s).modKernel k (fun K => { K with mxLoaded := true }))

/-- COPY_RECORD (R336, R337): the unit's next COPY record names its copy. -/
def execCopyRecord (k i : Nat) (s : State) : Out :=
  let K := s.kernel k
  if K.state ≠ .starting ∧ K.state ≠ .running ∧ K.state ≠ .draining then .next s
  else if i = K.named ∧ i < K.copies.length then .next (s.setKernel k { K with named := i + 1 })
  else .next s

/-- A COPY record's fault (R337, R367): FORMAT_MISMATCH is a kernel fault whose record names the record's address. -/
def State.recordMismatch (s : State) (k pcn : Nat) (r : CopyRec) : State :=
  s.kernelFault k { code := .formatMismatch, pcn := pcn, eng := 0, whr := -1, recVa := r.recVa }

/-- The seat of a core in a group, and its group core index g (R337). -/
def Kernel.groupIndex (K : Kernel) (pcn : Nat) : Option Nat :=
  let (g0, g1, g2, _) := gdOf K.gshp
  (K.seats.find? (fun t => t.pcn = pcn)).map (fun t => ((t.stg * g0 + t.die) * g1 + t.clu) * g2 + t.cor)

/-- The addresses of n rows of a COPY record's main-memory side. -/
def CopyRec.rowsAt (r : CopyRec) (g n : Nat) : List Nat := (List.range n).map (fun j => (r.base g).toNat + 64 * j)

/-- Where a kernel's copy of record i for a core stands. -/
def Kernel.copyAt (K : Kernel) (i pcn : Nat) : CopyAt := K.copying.get {} (512 * i + pcn)
def State.setCopyAt (s : State) (k i pcn : Nat) (a : CopyAt) : State :=
  s.modKernel k (fun K => { K with copying := K.copying.set (512 * i + pcn) a })

/-- A COPY record's copy for a core is done (R337). -/
def State.copyMade (s : State) (k i pcn : Nat) : State :=
  s.modKernel k (fun K => { K with copied := (i, pcn) :: K.copied, copying := K.copying.erase (512 * i + pcn) })

/-- A copy that has read some rows of n may write its next destination row; whether it does so before it has read them all is
free (R273). DESIGN CHOICE (assumption 117). -/
def State.writesNext (s : State) (a : CopyAt) (n : Nat) (row : Option Row) : Bool :=
  row.isSome && (decide (n ≤ a.got.length) || Config.freePick s.freeCtr % 2 = 0)

/-- IN_COPY (R36, R225, R337, R367, R390): one core's in-copy of a COPY record, in STARTING, reads or writes its next row.
DEDUCED (assumption 69). -/
def execInCopy (k i pcn : Nat) (s : State) : Out :=
  let K := s.kernel k
  match K.copies[i]?, K.groupIndex pcn with
  | some r, some g =>
    if K.state ≠ .starting ∨ K.resume ∨ r.out ∨ K.named ≤ i ∨ (K.mxop.isSome ∧ !K.mxLoaded) ∨ K.copied.contains (i, pcn) then
      .next s
    else
      let c := s.core pcn
      let src := mainSide r.fmt
      let dst := bankSide (c.bfOf r.srow)
      let way := copyWay src dst
      let ix := s.unitIdx k + r.pos
      if way = .bad ∨ !c.oneFormat r.srow r.rows then .next (s.recordMismatch k pcn r)
      else
        match srcRows way src dst r.rows with
        | none => .next (s.launchFault K.queue .badChain 5 ix)
        | some n =>
          let a := K.copyAt i pcn
          let row := rowFrom way src dst r.rows a.got [] a.done
          if s.writesNext a n row then
            let s := (s.writeRow pcn (r.srow + a.done) (row.getD 0)).drawn
            .next (if a.done + 1 = r.rows then s.copyMade k i pcn else s.setCopyAt k i pcn { a with done := a.done + 1 })
          else
            match s.feRead K.queue (.record ix) ((r.base g).toNat + 64 * a.got.length) 64 with
            | .error s => .next s
            | .ok v =>
              .next (((s.setCopyAt k i pcn { a with got := a.got ++ [BitVec.ofNat 512 v] }).drawn).fePast K.queue
                (fun w => w = .record ix))
  | _, _ => .next s

/-- Every declared stream of a kernel's cores has ended, none by `kn.yield` (R140). -/
def State.allEnded (s : State) (k : Nat) : Bool :=
  let K := s.kernel k
  K.seats.all (fun t => [Eng.ap, .xp, .mx].all (fun e =>
    !(K.hdr.streams.getLsbD e.num) || (s.stream { core := t.pcn, eng := e }).phase = .ended))

/-- Every access of a kernel's streams is performed, remote writes of its copies acknowledged (R140, R357). -/
def State.allPerformed (s : State) (k : Nat) : Bool :=
  (s.kernel k).seats.all (fun t =>
    [Eng.ap, .xp, .mx].all (fun e => (s.stream { core := t.pcn, eng := e }).pend.isEmpty)
      && !(s.remotes.any (fun r => r.kind != 0 && (match r.who with | .copy p _ => p = t.pcn | _ => false))))

/-- The kernel's streams have all ended and what they did is performed: its out-copies may run (R140, R337, R366). -/
def State.ending (s : State) (k : Nat) : Bool :=
  ((s.kernel k).state = .running || (s.kernel k).state = .draining) && s.allEnded k && s.allPerformed k

/-- The next source row of an out-copy is read, and its scales with it (R34, R273). -/
def CopyAt.read (a : CopyAt) (c : Core) (bf : BitVec 32) (row : Nat) : CopyAt :=
  let sc := (List.range (512 / efmtWidth (bfEfmt bf))).filterMap (fun e => c.rowScale bf row e)
  { a with got := a.got ++ [c.row row], scs := if sc.isEmpty then a.scs else a.scs ++ [sc] }

/-- OUT_COPY (R36, R225, R325, R337, R366, R367, R390): one core's out-copy, after every stream has ended, reads or writes its
next row; every address translates before the first row is read. DEDUCED (assumption 69). -/
def execOutCopy (k i pcn : Nat) (s : State) : Out :=
  let K := s.kernel k
  match K.copies[i]?, K.groupIndex pcn with
  | some r, some g =>
    if !s.ending k ∨ !r.out ∨ K.named ≤ i ∨ K.copied.contains (i, pcn) then .next s
    else
      let c := s.core pcn
      let bf := c.bfOf r.srow
      let src := bankSide bf
      let dst := mainSide r.fmt
      let way := copyWay src dst
      let ix := s.unitIdx k + r.pos
      if way = .bad ∨ !c.oneFormat r.srow r.rows then .next (s.recordMismatch k pcn r)
      else
        match dstRows way src dst r.rows with
        | none => .next (s.launchFault K.queue .badChain 5 ix)
        | some n =>
          let a := K.copyAt i pcn
          let row := rowFrom way src dst r.rows a.got a.scs a.done
          match s.feWritable K.queue (.record ix) (if a.got.isEmpty then r.rowsAt g n
            else if s.writesNext a r.rows row then [(r.base g).toNat + 64 * a.done] else []) with
          | .error s => .next s
          | .ok pas =>
            if a.got.isEmpty ∨ !s.writesNext a r.rows row then
              .next ((s.setCopyAt k i pcn (a.read c bf (r.srow + a.got.length))).drawn)
            else
              let s := (s.put (.queue K.queue) (pas.getD 0 0) 64 (row.getD 0).toNat).drawn
              .next (if a.done + 1 = n then s.copyMade k i pcn else s.setCopyAt k i pcn { a with done := a.done + 1 })
  | _, _ => .next s

/-- Every core has made the copies of one direction. -/
def Kernel.copiesDone (K : Kernel) (out : Bool) : Bool :=
  K.copies.zipIdx.all (fun p => p.1.out != out || K.seats.all (fun t => K.copied.contains (p.2, t.pcn)))

/-! ### RUNNING -/

/-- Every core of a kernel in STARTING is ready (R135, R147, R288, R337): tracts bound, records applied, handles
translated again. DEDUCED (assumption 67). -/
def State.ready (s : State) (k : Nat) : Bool :=
  let K := s.kernel k
  K.state = .starting
    && K.clusters.all (fun c => (s.tract c).state != .free && (s.tract c).state != .locking)
    && (K.resume || ((K.mxop.isNone || K.mxLoaded) && K.copiesDone false))
    && K.seats.all (fun t => match (s.core t.pcn).ap.wait with | .retrans _ => false | _ => true)

/-- A core's streams begin or resume (R132, R147): on a locked tract each waits for frame cycle 0. -/
def Core.setOff (c : Core) (locked : Bool) (mx : Option Word) : Core :=
  let go (m : Stream) : Stream := if locked ∧ m.phase = .live then { m with wait := .frame } else m
  { c with ap := go c.ap, xp := go c.xp, mx := go c.mx
           harrow := match mx with | some va => c.harrow.arm (.record va) | none => c.harrow }

/-- KERNEL_RUNNING (R132, R135, R147, R337): the streams begin, the MXOP operator is armed, and a request that was held
diverts. -/
def execKernelRunning (k : Nat) (s : State) : Out :=
  if !s.ready k then .next s
  else
    let K := s.kernel k
    let mx := if K.mxop.isSome ∧ !K.resume then some K.mxrec else none
    let s := K.seats.foldl (fun s t => s.modCore t.pcn (fun c => c.setOff K.onLocked mx)) s
    .next (s.setKernel k { K with state := if K.preempt then .draining else .running, since := s.chron })

/-! ### The end -/

/-- Records of a unit. -/
def Kernel.records (K : Kernel) : Nat := 1 + (if K.mxop.isSome then 1 else 0) + K.copies.length

/-- The unit of a kernel is over: the chain goes on behind it (R337). A Sextant's kernel is seen by its Sextant. -/
def Queue.unitOver (Q : Queue) (K : Kernel) (k : Nat) : Queue :=
  match Q.launch with
  | none => Q
  | some l =>
    if l.kernel ≠ some k ∨ K.sx.isSome then Q
    else { Q with oper := 0, launch := some { l with kernel := none, idx := l.idx + K.records } }

/-- KERNEL_RETIRE (R135, R140, R238, R291, R337): every stream has ended, its work and the out-copies are performed, and
the cores are freed. DEDUCED (assumption 68). -/
def execKernelRetire (k : Nat) (s : State) : Out :=
  let K := s.kernel k
  if !s.ending k ∨ !K.copiesDone true ∨ s.owing (.queue K.queue) then .next s
  else
    let s := (s.releaseCores k).modKernel k (fun K => { K with state := .retired, preempt := false })
    .next ((s.dropRefresh k).modQueue K.queue (fun Q => Q.unitOver K k))

/-! ### Diversion -/

/-- The wait of a stream that diverts is taken back: an arrival at a barrier, an armed monitor (R144, R233, R301). -/
def State.withdraw (s : State) (id : StreamId) : State :=
  match (s.stream id).wait with
  | .barSync n _ =>
    let s := s.barMark id.core n
    let b := s.bar id.core n
    s.setBar id.core n { b with arr := b.arr &&& ~~~(1#3 <<< id.eng.num), loc := false }
  | .monitor _ =>
    let s := { s with cores := s.cores.map (fun (p : Nat × Core) =>
      (p.1, { p.2 with monitors := p.2.monitors.filter (fun t => t.who != id) })) }
    s.modStream id (fun m => { m with
      pend := m.pend.filter (fun a => match a.kind with | .monitor _ _ _ _ => false | _ => true) })
  | _ => s

/-- A diverted stream: what the save takes, an empty block stack, and fetch at the stub (R144). -/
def Stream.divert (m : Stream) (stub : Nat) : Stream :=
  { m with saved := some m.snapshot, dpc := m.nextAt, blocks := [], window := none, wait := .none, repOn := false
           repOld := true, pc := stub, npc := stub, fetching := false, passed := false }

/-- A stream diverts; a walk or fault service that its halted word asked for is given up (R144). -/
def State.divert (s : State) (id : StreamId) (t : Stub) : State :=
  let s := (s.withdraw id).modStream id (fun m => m.divert t.stub)
  match id.eng with
  | .ap => s.dismiss (.ap id.core)
  | .xp => s
  | .mx => s.modCore id.core (fun c => { c with harrow := { c.harrow with mbSeen := [] } })

/-- DIVERSION (R88, R121, R144, R169, R301). -/
def execDiversion (pcn : Nat) (eng : Eng) (s : State) : Out :=
  let id : StreamId := { core := pcn, eng := eng }
  match s.divertsTo id with
  | none => .next s
  | some t => .next (s.divert id t)

/-! ### The save -/

/-- Every stream of a draining kernel has yielded or ended, and one at least has yielded (R135). -/
def State.drained (s : State) (k : Nat) : Bool :=
  let K := s.kernel k
  K.state = .draining && K.seats.all (fun t => s.coreStopped t.pcn && s.corePerformed t.pcn)
    && K.seats.any (fun t => s.coreYielded t.pcn)

/-- The cores of a save that are still to be written. -/
def State.saveRest (s : State) (k base : Nat) : State :=
  (s.kernel k).seats.foldl (fun s t => if (s.kernel k).saved.contains t.pcn then s else s.saveOne k t.pcn base) s

/-- The kernel is SAVED (R135, R146, R338): its save stands in the context's list, its cores are freed, and its LAUNCH ends
as SAVED after PREEMPT, or waits for its relaunch; the clusters that it leaves are kept with the tick (R383).
DEDUCED (assumption 70). -/
def State.kernelSaved (s : State) (k base : Nat) : State :=
  let s := s.saveHead k base
  let K := s.kernel k
  let c := s.ctx K.asid
  let s := s.setCtx K.asid { c with saves := c.saves ++ [(K.kid.toNat, word base, saveBytes K.seats.length)] }
  let s := (s.releaseCores k).modKernel k (fun K => { K with
    state := .saved, preempt := false, saveAt := some (word base)
    left := K.left ++ K.clusters.map (fun c => (c, s.chron)) })
  (s.dropRefresh k).modQueue K.queue (fun Q => { Q with launch := Q.launch.map (fun l =>
    if l.kernel ≠ some k then l
    else if l.pre then { l with kernel := none, ended := some .saved, idx := l.idx + K.records }
    else { l with kernel := none, again := true, next := if l.sx.isSome then l.next else K.krec }) })

/-- KERNEL_SAVED (R135, R146, R327, R386): the save goes where R327 places it, or where the driver answers; while there is
no place, the cores hold their state. DEDUCED (assumption 68). -/
def execKernelSaved (k : Nat) (s : State) : Out :=
  let K := s.kernel k
  if !s.drained k then .next s
  else
    match K.saveAt with
    | some a => if s.saveOpen k a.toNat then .next ((s.saveRest k a.toNat).kernelSaved k a.toNat) else .next s
    | none =>
      if s.helm.requests.any (fun r => r.func = 9 && r.key = k) then .next s
      else if s.assisted 9 then
          .next (s.haRequest 9 K.queue (word (saveBytes K.seats.length)) (K.kid.setWidth 64) k (.queue K.queue))
      else
        match s.savePlace k with
        | none => .next s
        | some a => if s.saveOpen k a then .next ((s.saveRest k a).kernelSaved k a) else .next s

end Sys2Proof.Machine
end

