-- ==== Sys2Proof/Machine/Packets.lean ====
section
/-! DEFINITION. Machine/Packets.lean: the doorbell (R331), the packets but for TRACT (R333 to R335, R341, R343), the end of
a LAUNCH (R338), and the coalescing timer (R347). -/

namespace Sys2Proof.Machine

/-! ### Doorbell and timer -/

/-- An idle queue with packets begins to fetch (R343), while its context lets it (R322). -/
def State.wake (s : State) (q : Nat) : State :=
  let Q := s.queue q
  if Q.state = .idle ∧ (Q.rptr ≠ Q.wptr ∨ Q.hand.isSome) ∧ s.ctxOpen Q.asid ∧ !Q.held then s.setQueue q { Q with state := .fetching }
  else s

/-- A function reaches a queue's doorbell (R368): 0 the physical function, n + 1 virtual function n, which reaches the queues
of its partition. -/
def State.rings (s : State) (fn q : Nat) : Bool := fn = 0 || fn = (s.queue q).part + 1

/-- DOORBELL (R331, R341, R343, R368): the whole value is tested; in RESETTING a write is discarded. -/
def execDoorbell (q : Bell) (w : Word) (s : State) : Out :=
  let fn := q.fn
  let q := q.queue
  let Q := s.queue q
  let bad : Bool := w.toNat % 4 != 0 || decide (Q.capLen 0 ≤ w.toNat)
  if !(s.rings fn q) ∨ Q.state = .disabled ∨ (Q.state = .resetting ∧ bad) then .next s
  else if bad then .next (s.queueFault q .badPtr 0 Q.rptr)
  else .next ((s.setQueue q { Q with wptr := bits w 31 0, recheck := true }).wake q)

/-- COAL_TIMER (R347). -/
def execCoalTimer (q : Nat) (s : State) : Out :=
  let Q := s.queue q
  match Q.timer with
  | none => .next s
  | some t =>
    if s.chron.toNat < t.toNat then .next s
    else if Q.seq = Q.sent then .next (s.setQueue q { Q with timer := none })
    else .next (s.sendIrq q)

/-! ### Packets without posted work -/

/-- NOP_PACKET (R334). -/
def execNopPacket (q : Nat) (s : State) : Out := s.withPacket q 0 (fun p s => .next (s.packetDone q p))

/-- The queue steps over a packet of its present buffer, whose level stays (R335). -/
def Queue.stepOver (Q : Queue) (p : Packet) : Queue :=
  match Q.hand, Q.stack with
  | some _, _ => { Q with hand := none }
  | none, (o, e) :: r => { Q with stack := (o + p.bytes, e) :: r }
  | none, [] => Q.advance p.bytes

/-- IB (R335). DEDUCED (assumption 74). -/
def execIb (q : Nat) (s : State) : Out :=
  s.withPacket q 2 (fun p s =>
    let off := p.w 1
    let len := p.w 2
    let Q := s.queue q
    if off % 4 ≠ 0 ∨ len % 4 ≠ 0 ∨ len < 4 then .next (s.packetFault q .badPkt)
    else if 4 ≤ Q.stack.length then .next (s.packetFault q .ibDepth)
    else if Q.capLen 1 < off + len then .next (s.packetFault q .capBounds)
    else
      let port := Q.handPort
      let (no, s) := s.notifyNo q p
      let s := s.modQueue q (fun Q =>
        let Q := Q.stepOver p
        { Q with stack := (off, off + len) :: Q.stack, performed := false, skip := 0 }.settle)
      .next (((s.fePacketPast q).portDone port).completed q no Q.stack.length Q.place))

/-- The words of a WRITE that lie in the row of the next of them are written, as one access (R334). -/
def State.writeOn (s : State) (q : Nat) : State :=
  match (s.queue q).writes with
  | [] => s
  | w :: r =>
    let (now, later) := (w :: r).span (fun t => rowAt t.1 = rowAt w.1)
    if s.agentFull w.1 then s
    else
      (s.modQueue q (fun Q => { Q with writes := later })).put (.queue q) w.1 (4 * now.length)
        (now.foldr (fun t n => t.2 + 2 ^ 32 * n) 0)

/-- A packet that has begun to write completes once it has written everything, in another package once that is acknowledged
(R333, R357). -/
def State.writeEnd (s : State) (q : Nat) (p : Packet) : State :=
  if (s.queue q).writes.isEmpty && !(s.owing (.queue q)) then s.packetDone q p
  else s.modQueue q (fun Q => { Q with performed := true })

/-- A packet that writes memory begins once all earlier work has completed (R333, R343); `k` begins it. -/
def State.afterWork (s : State) (q : Nat) (p : Packet) (k : State → Except State State) : Out :=
  let Q := s.queue q
  if Q.performed then .next ((s.writeOn q).writeEnd q p)
  else if !Q.quiet then .next (s.awaitWork q)
  else
    match k s with
    | .error s => .next s
    | .ok s => .next ((s.writeOn q).writeEnd q p)

/-- SIGNAL (R333, R334). -/
def execSignal (q : Nat) (s : State) : Out :=
  s.withPacket q 3 (fun p s =>
    if !(vaOk (p.w2 1) 8) then .next (s.packetFault q .badPkt)
    else
      s.afterWork q p (fun s =>
        match s.feWritable q .packet [p.w2 1] with
        | .error s => .error s
        | .ok pas => .ok (s.signal (.queue q) (pas.getD 0 0) (word (p.w2 3)))))

/-- WRITE (R225, R333, R334): every address translates before the first word is written, so that a fault has no effect
(R332); then each turn writes one row, in ascending order. DEDUCED (assumption 76). -/
def execWrite (q : Nat) (s : State) : Out :=
  s.withPacket q 5 (fun p s =>
    if !(vaOk (p.w2 1) 4) then .next (s.packetFault q .badPkt)
    else
      s.afterWork q p (fun s =>
        match s.feWritable q .packet ((List.range (p.count - 2)).map (fun i => p.w2 1 + 4 * i)) with
        | .error s => .error s
        | .ok pas => .ok (s.modQueue q (fun Q => { Q with writes := pas.zipIdx.map (fun a => (a.1, p.w (3 + a.2))) }))))

/-- STAMP (R333, R334): the chronometer value at performance. -/
def execStamp (q : Nat) (s : State) : Out :=
  s.withPacket q 7 (fun p s =>
    if !(vaOk (p.w2 1) 8) then .next (s.packetFault q .badPkt)
    else
      s.afterWork q p (fun s =>
        match s.feWritable q .packet [p.w2 1] with
        | .error s => .error s
        | .ok pas => .ok (s.put (.queue q) (pas.getD 0 0) 8 s.chron.toNat)))

/-- FENCE (R333, R334). -/
def execFence (q : Nat) (s : State) : Out :=
  s.withPacket q 6 (fun p s => if (s.queue q).quiet then .next (s.packetDone q p) else .next (s.awaitWork q))

/-! ### WAIT (R341) -/

/-- The word of a WAIT is read: it completes, or the queue waits. -/
def State.tryWait (s : State) (q : Nat) (p : Packet) (va v : Word) : State :=
  match s.feRead q .packet va.toNat 8 with
  | .error s => s
  | .ok n =>
    if v.toNat ≤ n then (s.modQueue q (fun Q => { Q with wait := none, recheck := false })).packetDone q p
    else (s.modQueue q (fun Q => { Q with
      wait := some (va, v), waitHa := if Q.wait.isSome then Q.waitHa else s.assisted 2
      recheck := false, state := .waiting })).fePacketPast q

/-- WAIT (R334, R341). -/
def execWait (q : Nat) (s : State) : Out :=
  s.withPacket q 4 (fun p s =>
    if !(vaOk (p.w2 1) 8) then .next (s.packetFault q .badPkt)
    else .next (s.tryWait q p (word (p.w2 1)) (word (p.w2 3))))

/-- WAIT_REEVALUATE (R283, R326, R341): in hardware wake-up at any write of the word's row; in host-assisted wake-up after
a doorbell; and at a RESUME. -/
def execWaitReevaluate (q : Nat) (s : State) : Out :=
  let Q := s.queue q
  match Q.wait with
  | none => .next s
  | some (va, v) =>
    if Q.state ≠ .waiting ∨ !(s.ctxOpen Q.asid) ∨ Q.held ∨ Q.fault?.isSome ∨ (Q.waitHa ∧ !Q.recheck) then .next s
    else
      match s.fetchPacket q with
      | .error s => .next s
      | .ok p => .next (s.tryWait q p va v)

/-! ### Posted packets -/

/-- LAUNCH (R333, R334, R336 to R338). -/
def execLaunch (q : Nat) (s : State) : Out :=
  s.withPacket q 1 (fun p s =>
    let Q := s.queue q
    if !(vaOk (p.w2 1) 64) then .next (s.packetFault q .badPkt)
    else if Q.launch.isSome then .next (s.awaitRoom q)
    else
      let (no, port, s) := s.accept q p
      .next (s.modQueue q (fun R => { R with launch := some {
        head := word (p.w2 1), next := word (p.w2 1), notify := no, port := port, off := Q.place, lvl := Q.stack.length } })))

/-- Which of the queues that wait on a Sextant, and that may go on, it accepts first (R361): the highest EPRIO, then its own
round-robin. -/
def State.sextantFirst (s : State) (pcl : Nat) (q : Nat) : Bool :=
  let x := s.sextant pcl
  let key (r : Nat) : Nat := (7 - (s.queue r).eprio) * 4096 + (r + 8191 - x.rr) % 4096
  x.waits.all (fun r => (s.queue r).state = .faulted || !(s.ctxOpen (s.queue r).asid) || decide (key q ≤ key r))

/-- A Sextant accepts a queue's unit (R361): it is IDLE, unclaimed, and no other waiting queue comes first. Else the queue
is among those that wait. -/
def State.claimSextant (s : State) (pcl q : Nat) : Option State × State :=
  let x := s.sextant pcl
  let y := { x with waits := if x.waits.contains q then x.waits else x.waits ++ [q] }
  let wait := s.setSextant pcl y
  if x.claim = some q then (some s, s)
  else if x.state = 0 ∧ x.claim.isNone ∧ s.sextantFirst pcl q then
    let s' := s.setSextant pcl { x with claim := some q, rr := q, waits := x.waits.filter (fun r => r != q) }
    (some s', s')
  else (none, wait)

/-- SEXTANT (R333, R334, R361): a LAUNCH of one SEXTANT record built from the payload, once the Sextant accepts it. -/
def execSextant (q : Nat) (s : State) : Out :=
  s.withPacket q 9 (fun p s =>
    let Q := s.queue q
    if !(vaOk (p.w2 1) 64) ∨ 64 ≤ p.w 3 then .next (s.packetFault q .badPkt)
    else if Q.launch.isSome then .next (s.awaitRoom q)
    else
      match s.claimSextant (p.w 3) q with
      | (none, s) => .next (s.awaitRoom q)
      | (some s, _) =>
        let (no, port, s) := s.accept q p
        .next (s.modQueue q (fun R => { R with launch := some {
          packet := some p.pay, notify := no, port := port, off := Q.place, lvl := Q.stack.length } })))

/-- DRILL (R241, R242, R333, R334, R343): the start row is read and its command pushed, once the FIFO has room; a row that
breaks R242 is DRILL_FORM. DEDUCED (assumption 65). -/
def execDrill (q : Nat) (s : State) : Out :=
  s.withPacket q 8 (fun p s =>
    let va := p.w2 1
    let Q := s.queue q
    if !(vaOk va 64) then .next (s.packetFault q .badPkt)
    else
      match s.feReads q .packet 8 ((List.range 8).map (fun i => va + 8 * i)) with
      | .error s => .next s
      | .ok vs =>
        let w := vs.map word
        if !(startRowOk w) then
          let s := if Q.hand.isSome then s else s.modQueue q (fun Q => { Q with
            kcode := BitVec.ofNat 16 KFault.drillForm.code, whr := 0, recVa := w.getD 0 0, fchron := s.chron })
          .next ((s.log (q / 1024) 1 KFault.drillForm.code 0 0xFFFF (BitVec.ofNat 16 q)).packetFault q .drill)
        else
          let n := 24 * (q / 1024) + (w.getD 1 0).toNat
          let l := s.commands n
          if 4 ≤ l.length then .next (s.awaitRoom q)
          else
            let (no, port, s) := s.accept q p
            let s := s.setDrill n { (s.drill n) with fifo := l ++ [startCmd w (.queue q) Q.asid] }
            .next (s.modQueue q (fun R => { R with
              drills := R.drills ++ [{ drill := n, notify := no, port := port, off := Q.place, lvl := Q.stack.length }] })))

/-- WSLOAD (R235, R333, R334). -/
def execWsload (q : Nat) (s : State) : Out :=
  s.withPacket q 11 (fun p s =>
    let Q := s.queue q
    if !(vaOk (p.w2 1) 64) ∨ 4 ≤ p.w 3 ∨ p.w 4 % 64 ≠ 0 ∨ p.w 5 = 0 ∨ 2 ^ 32 < p.w 4 + 64 * p.w 5 then
      .next (s.packetFault q .badPkt)
    else
      let (no, port, s) := s.accept q p
      .next (s.modQueue q (fun R => { R with wsl := R.wsl ++ [{
        va := word (p.w2 1), die := p.w 3, off := p.w 4, rows := p.w 5, notify := no, port := port
        fof := Q.place, lvl := Q.stack.length }] })))

/-- WSLOAD_COMPLETE (R92, R225, R236, R333): between kernels the next row is read and written; with the last the packet
completes. -/
def execWsloadComplete (q : Nat) (s : State) : Out :=
  match (s.queue q).wsl with
  | [] => .next s
  | l :: r =>
    if !l.on ∧ (!(s.wsFree l.die) ∨ !(s.ctxOpen (s.queue q).asid)) then .next s
    else
      match s.feRead q .wsload (l.va.toNat + 64 * l.done) 64 with
      | .error s => .next s
      | .ok v =>
        let last := decide (l.rows ≤ l.done + 1)
        let s := s.modDie l.die (fun D => { D with ws := Mem.setNum D.ws (l.off + 64 * l.done) v 64, wsBusy := !last })
        let s := (s.modQueue q (fun Q => { Q with
          wsl := if last then r else { l with on := true, done := l.done + 1 } :: r })).fePast q (fun w => w = .wsload)
        .next (if last then s.postedDone q l.notify l.port l.lvl l.fof else s)

/-! ### The end of a LAUNCH -/

/-- The outcome that a LAUNCH has come to (R338): SAVED through PREEMPT, or RETIRED with its last unit. One that FAULTED
stays until CLEAR or RESET (R343). -/
def Launch.outcome (l : Launch) : Option Outcome3 :=
  match l.ended with
  | some .saved => some .saved
  | some _ => none
  | none => if l.kernel.isNone ∧ l.sx.isNone ∧ l.idx ≠ 0 ∧ l.next = 0 ∧ !l.again then some .retired else none

/-- LAUNCH_END (R333, R338, R347): LAST records the outcome, and the packet completes. -/
def execLaunchEnd (q : Nat) (s : State) : Out :=
  match (s.queue q).launch with
  | none => .next s
  | some l =>
    match l.outcome with
    | none => .next s
    | some o =>
      if s.owing (.queue q) then .next s
      else .next ((s.modQueue q (fun Q => { Q with
        launch := none, oper := 0, last := if o = .saved then 1 else 0 })).postedDone q l.notify l.port l.lvl l.off)

end Sys2Proof.Machine
end

