-- ==== Sys2Proof/Machine/QueueControl.lean ====
section
/-! DEFINITION. Machine/QueueControl.lean: QCTL (R344), the states that it and the RESET packet move a queue through
(R343), and the acknowledgements of a reset (R282, R343). -/

namespace Sys2Proof.Machine

/-! ### QCTL -/

/-- The fields of QCTL that software writes: OP and QUEUE (R3, R344). -/
def qctlMask (w : Word) : Word := w &&& 0x00F00FFF00000000

/-- QCTL after a command: ST, with GO while ST is BUSY, and CAUSE (R344). -/
def State.setQctl (s : State) (w : Word) (st cause : Nat) : State :=
  { s with qctl := qctlMask w ||| word (num (st = 1) * 2 ^ 63 + st * 2 ^ 61 + cause) }

/-- A command is under way (R344). -/
def State.qctlBusy (s : State) : Bool := bits s.qctl 62 61 = 1

/-- ST DONE, and REFUSED with a cause. -/
def State.qctlDone (s : State) (w : Word) : State := s.setQctl w 2 0
def State.qctlRefused (s : State) (w : Word) (cause : Nat) : State := s.setQctl w 3 cause

/-- A write of QCTL whose OP is op (R344): ignored while ST is BUSY; with GO = 0 it writes its fields; with GO = 1 the
command acts on its queue. DEDUCED (assumption 71). -/
def State.withQctl (s : State) (w : Word) (op : Nat) (k : Nat → State) : Out :=
  if s.qctlBusy ∨ bits w 55 52 ≠ op then .next s
  else if !(bit w 63) then .next { s with qctl := qctlMask w ||| (s.qctl &&& 0x60000000000000FF) }
  else .next (k (bits w 43 32))

/-- An OP of QCTL that no command has (R344). -/
def State.qctlBadOp (s : State) (w : Word) : State :=
  if s.qctlBusy then s
  else if !(bit w 63) then { s with qctl := qctlMask w ||| (s.qctl &&& 0x60000000000000FF) }
  else s.qctlRefused w 1

/-! ### ENABLE -/

/-- PERM and OTYPE of capability k (R329). -/
def Queue.capPerm (q : Queue) (k : Nat) : Nat := bits (q.roWord (2 * k)) 23 16
def Queue.capType (q : Queue) (k : Nat) : Nat := bits (q.roWord (2 * k)) 15 0

/-- Every capability has its tag and keeps R329. -/
def Queue.capsOk (q : Queue) : Bool :=
  q.tagged.toList.all id
    && (List.range 3).all (fun k => decide (q.capPerm k < 4) && q.capType k = k + 1)
    && q.capPerm 0 % 2 = 1 && q.capBase 0 % 64 = 0 && q.capLen 0 % 64 = 0 && decide (64 ≤ q.capLen 0 ∧ q.capLen 0 ≤ 2 ^ 32)
    && q.capPerm 1 % 2 = 1 && decide (q.capLen 1 ≤ 2 ^ 32)
    && decide (2 ≤ q.capPerm 2) && q.capBase 2 % 64 = 0 && decide (64 ≤ q.capLen 2)

/-- The queue's context is LIVE and in the queue's partition (R344). -/
def State.ctxFits (s : State) (q : Nat) : Bool :=
  let c := s.ctx (s.queue q).asid
  c.state = .live && c.part = (s.queue q).part

/-- QCTL_ENABLE (R329, R343 to R345). -/
def execQctlEnable (w : Word) (s : State) : Out :=
  s.withQctl w 0 (fun q =>
    let Q := s.queue q
    if Q.state ≠ .disabled then s.qctlRefused w 2
    else if !Q.capsOk then s.qctlRefused w 3
    else if !(s.ctxFits q) then s.qctlRefused w 4
    else ((s.setQueue q { Q with state := .idle, eprio := Q.prio }).wake q).qctlDone w)

/-! ### DISABLE -/

/-- The save that an import found and that is a queue's: its KID is that of the record that OPER names, as for the relaunch
(R321, R327, R330, R337); its KREC is an address of the package that it was taken on. DEDUCED (assumption 80). -/
def State.importedOf (s : State) (q : Nat) : List Word :=
  let Q := s.queue q
  match if Q.oper = 0 then none else s.lookup (.queue q) (q / 1024) Q.asid Q.oper.toNat with
  | none => []
  | some e => (((s.ctx Q.asid).saves.find? (fun t =>
      s.kernels.all (fun p => p.2.saveAt != some t.2.1)
        && ((s.load (e.phys Q.oper.toNat + 16) 8).map (fun w => bits (word w) 31 16)) = some t.1)).map (·.2.1)).toList

/-- A save of a kernel of a queue remains (R343). -/
def State.hasSaved (s : State) (q : Nat) : Bool := !(s.importedOf q).isEmpty || s.kernels.any (fun p =>
  p.2.queue = q && p.2.state = .saved && (s.ctx p.2.asid).saves.any (fun t => some t.2.1 = p.2.saveAt))

/-- QCTL_DISABLE (R343). -/
def execQctlDisable (w : Word) (s : State) : Out :=
  s.withQctl w 1 (fun q =>
    let Q := s.queue q
    if Q.state ≠ .idle then s.qctlRefused w 2
    else if !Q.quiet ∨ s.hasSaved q then s.qctlRefused w 5
    else (s.setQueue q { Q with state := .disabled }).qctlDone w)

/-! ### CLEAR -/

/-- The fault of a FAULTED queue is its next packet's: that packet is passed over (R343). A doorbell's BADPTR names no
packet. DEDUCED (assumption 72). -/
def Queue.headFault (Q : Queue) : Bool := Q.fcode ≠ some .badPtr && Q.flvl = Q.stack.length && Q.foff = Q.place

/-- A queue after CLEAR (R343). DEDUCED (assumption 72). -/
def Queue.cleared (Q : Queue) : Queue :=
  let Q := if Q.headFault then Q.advance Q.skip else Q
  let bad : Bool := match Q.launch with
    | some l => l.ended = some .faulted
    | none => false
  { Q with state := .fetching, fcode := none, skip := 0, wait := none, launch := if bad then none else Q.launch
           oper := if bad then 0 else Q.oper }.settle

/-- A Sextant whose command's LAUNCH has faulted is IDLE with EXIT 5 (R361). -/
def Sextant.faulted (x : Sextant) : Sextant := { x with state := 0, exit := 5 }

/-- QCTL_CLEAR (R135, R343, R344): a faulted kernel retires, the rest of its chain is dropped, and fetch goes on. -/
def execQctlClear (w : Word) (s : State) : Out :=
  s.withQctl w 2 (fun q =>
    if (s.queue q).state ≠ .faulted then s.qctlRefused w 2
    else
      let s := (s.kernels.filter (fun p => p.2.queue = q && p.2.state = .faulted)).foldl
        (fun s p => (s.retireFaulted p.1).dropRefresh p.1) s
      let s := match (s.queue q).launch with
        | some { sx := some pcl, ended := some .faulted, .. } => s.setSextant pcl (s.sextant pcl).faulted
        | _ => s
      ((s.unclaim q).modQueue q Queue.cleared).qctlDone w)

/-! ### RESET -/

/-- Step 2 of a reset for one kernel (R343): it goes to RETIRED with no save and no record, and its saves are freed. -/
def State.endKernel (s : State) (k : Nat) : State :=
  let K := s.kernel k
  if K.state = .retired then s
  else
    let s := s.freeSave K.asid K.saveAt
    let s := if K.released then s else s.releaseCores k
    ((s.dismissAps k).modKernel k (fun K => { K with
      state := .retired, preempt := false, saveAt := none, kept := [] })).dropRefresh k

/-- A drill's run belongs to a queue: it is the owner, or one of its kernels is. -/
def State.drillOf (s : State) (n q : Nat) : Bool :=
  match (s.drill n).cmd.owner with
  | .queue r => r = q
  | .kernel k _ => (s.kernel k).queue = q

/-- Step 3: the drill stops at its next row boundary, and a FAULTED one leaves FAULTED for IDLE (R246), which answers a
`cp.dstop` that waits for it (R257); commands of the queue are
discarded (R241). -/
def State.stopDrill (s : State) (n q : Nat) : State :=
  let D := s.drill n
  let mine := s.drillOf n q && D.state != .idle
  let s := if mine && D.state = .faulted then s.drillIdle n else s
  let D := s.drill n
  s.setDrill n { D with
    fifo := D.fifo.filter (fun c => c.owner != .queue q)
    stop := D.stop || (mine && D.state != .idle) }

/-- What a queue keeps when a reset begins: fetching stops, and its work in progress is dropped (R343). -/
def Queue.dropWork (Q : Queue) : Queue :=
  { Q with state := .resetting, hand := none, wait := none, lock := none, fault? := none, launch := none, drills := []
           wsl := [], notes := [], performed := false, writes := [], irqDue := none, noteDue := none, skip := 0, recheck := false, acks := none, held := false }

/-- Packets of a command port that a queue has taken and not completed: each leaves the count of those under way. -/
def Queue.portWork (Q : Queue) : List Nat :=
  Q.handPort.toList ++ (Q.launch.bind (·.port)).toList ++ Q.drills.filterMap (·.port) ++ Q.wsl.filterMap (·.port)

/-- A RESET begins (R343, R361): steps 1 to 3. One that is under way already is joined.
DESIGN CHOICE (assumption 73). -/
def State.beginReset (s : State) (q : Nat) : State :=
  if (s.queue q).state = .resetting ∨ (s.queue q).state = .disabled then s
  else
    let s := (s.queue q).portWork.foldl (fun s p => s.setSvc p { (s.svc p) with inFlight := (s.svc p).inFlight - 1 }) s
    let s := (s.queue q).wsl.foldl State.wsLeave s
    let s := ((s.modQueue q Queue.dropWork).dismiss (.queue q)).forget (.queue q)
    let s := s.forget (.note q)
    let s := (s.importedOf q).foldl (fun s a => s.freeSave (s.queue q).asid (some a)) s
    let s := (s.kernels.filter (fun p => p.2.queue = q)).foldl (fun s p => s.endKernel p.1) s
    let s := (s.drills.map (·.1)).foldl (fun s n => s.stopDrill n q) s
    let s := s.unclaim q
    { s with
      tracts := s.tracts.map (fun (p : Nat × Tract) => (p.1, { p.2 with
        asker := if p.2.asker = some (LockBy.packet q) then none else p.2.asker
        queue := if p.2.queue = some q then none else p.2.queue }))
      sextants := s.sextants.map (fun (p : Nat × Sextant) => (p.1, { p.2 with
        state := if p.2.queue = q then 0 else p.2.state
        fin := p.2.fin && p.2.queue != q })) }

/-- The agents that acknowledge a reset (R282): copy units 0 to 511, drills from 512, harrows from 608, stiles from 1,120,
memory links from 1,248, Ovtos links 1,280 to 1,291. DESIGN CHOICE (assumption 73). -/
def resetAgents : List Nat := List.range 1292
/-- An Ovtos link agent, whose wait R343 does not bound by ticks. -/
def linkAgent (a : Nat) : Bool := decide (1280 ≤ a)

/-- Step 4 begins once every drill of the queue is IDLE. -/
def State.resetReady (s : State) (q : Nat) : Bool :=
  (s.queue q).state = .resetting && (s.queue q).acks.isNone
    && s.drills.all (fun p => p.2.state = .idle || !(s.drillOf p.1 q))

/-- A flit is a request of a queue's work. -/
def State.flitOf (s : State) (q : Nat) (f : BitVec 256) : Bool :=
  flitSrc f = s.pkg && decide (flitKind f < 4) && s.remotes.any (fun r => r.itag = flitTag f && r.queue = some q)

/-- Requests of a queue's work that wait for a link are discarded where `f` holds, and owe no acknowledgement (R343). -/
def State.dropParked (s : State) (q : Nat) (f : BitVec 256 → Bool) : State :=
  let gone := s.parked.filter (fun p => s.flitOf q p.1 && f p.1)
  { s with
    parked := s.parked.filter (fun p => !(s.flitOf q p.1 && f p.1))
    remotes := s.remotes.filter (fun r => !(r.queue = some q && gone.any (fun p => flitTag p.1 = r.itag))) }

/-- Step 5, and the RESET completes at each issuer (R343); a write that no route can bring home is discarded. -/
def State.endReset (s : State) (q : Nat) : State :=
  let s := s.dropParked q (fun _ => true)
  let s : State := { s with remotes := s.remotes.filter (fun r => r.queue != some q) }
  let s := s.modQueue q (fun Q => { Q with
    rptr := Q.wptr, stack := [], oper := 0, pass := 0, fcode := none, state := .idle, acks := none })
  let s := (s.queues.map (·.1)).foldl (fun s r =>
    match (s.queue r).lock with
    | some (t, h) =>
      if t = 64 + q then (s.modQueue r (fun Q => { Q with lock := none })).packetDone r { hdr := h } else s
    | none => s) s
  if s.qctlBusy ∧ bits s.qctl 55 52 = 3 ∧ bits s.qctl 43 32 = q then s.qctlDone s.qctl else s

/-- QCTL_RESET (R343, R344). -/
def execQctlReset (w : Word) (s : State) : Out :=
  s.withQctl w 3 (fun q =>
    if (s.queue q).state = .disabled then s.qctlDone w else (s.setQctl w 1 0).beginReset q)

/-- RESET (R334, R343, R376): it needs PRIV = 1 but from a command port, and another queue of the partition. -/
def execReset (q : Nat) (s : State) : Out :=
  s.withPacket q 12 (fun p s =>
    let Q := s.queue q
    let t := p.w 1
    if 4096 ≤ t then .next (s.packetFault q .badPkt)
    else if (Q.hand.isNone ∧ !Q.priv) ∨ t = q ∨ (s.queue t).part ≠ Q.part then .next (s.packetFault q .priv)
    else if (s.queue t).state = .disabled then .next (s.packetDone q p)
    else .next ((s.modQueue q (fun Q => { Q with lock := some (64 + t, p.hdr) })).beginReset t))

/-! ### Acknowledgements (R282) -/

/-- A core that a kernel of the queue was the last to run on. -/
def State.leftBy (s : State) (pcn q : Nat) : Bool :=
  match (s.core pcn).last with
  | some k => (s.kernel k).queue = q
  | none => false

/-- Whether the write that a free value is read for is performed; after the limit of R343 none is (assumption 22). -/
def State.performs (s : State) (late : Bool) (n : Nat) : Bool := !late && Config.freePerform (s.freeCtr + n)

/-- The issued accesses of a stream are performed or discarded. -/
def State.quench (s : State) (late : Bool) (id : StreamId) : State :=
  let p := (s.stream id).pend
  let s' := p.zipIdx.foldl (fun r a => if s.performs late a.2 then r.perform id a.1 else r) (s.modStream id (fun m => { m with
    pend := [] }))
  { s' with freeCtr := s.freeCtr + p.length }

/-- The drill rows on their way to a core from a drill are performed, or, if the queue owned its run, discarded. -/
def State.quenchRows (s : State) (late own : Bool) (n pcn : Nat) : State :=
  let rs := (s.core pcn).drillRows.filter (fun r => r.drill = n)
  let s' := rs.zipIdx.foldl (fun r a => if own && !(s.performs late a.2) then r else r.writeRow pcn a.1.row a.1.data)
    (s.modCore pcn (fun c => { c with drillRows := c.drillRows.filter (fun r => r.drill != n) }))
  { s' with freeCtr := s.freeCtr + rs.length }

/-- A memory-link agent discards the accesses of a queue's work that it holds (R282, R325). -/
def State.dropHeld (s : State) (q agent : Nat) : State :=
  let mine (h : HeldAccess) : Bool := h.agent = agent && (match h.flit with
    | some f => flitSrc f = s.pkg && s.remotes.any (fun r => r.itag = flitTag f && r.queue = some q)
    | none => false)
  let tags := s.ctxs.flatMap (fun (p : Nat × Context) => (p.2.held.filter mine).filterMap (fun h => h.flit.map flitTag))
  { s with
    ctxs := s.ctxs.map (fun (p : Nat × Context) => (p.1, { p.2 with held := p.2.held.filter (fun h => !mine h) }))
    remotes := s.remotes.filter (fun r => !(tags.contains r.itag)) }

/-- What an agent does before it acknowledges: it performs or discards every posted write of the queue (R282). -/
def State.ackWork (s : State) (q a : Nat) (late : Bool) : State :=
  if a < 512 then
    if s.leftBy a q then
      ([Eng.ap, .xp, .mx].foldl (fun s e => s.quench late { core := a, eng := e }) s).modCore a (fun c => { c with
        ldq := [], stq := [], cmq := [], ldFly := [], stFly := [], cmFly := [], interp := [] })
    else s
  else if a < 608 then (s.cores.map (·.1)).foldl (fun r p => r.quenchRows late (s.drillOf (a - 512) q) (a - 512) p) s
  else if a < 1120 then
    if s.leftBy (a - 608) q then
      s.modCore (a - 608) (fun c => { c with harrow := { c.harrow with state := .idle, armed := false } })
    else s
  else if 1248 ≤ a ∧ a < 1280 then s.dropHeld q (a - 1248)
  else s.dropParked q (fun f => s.flitRoute f = .none)

/-- A link agent may acknowledge: every write of the queue's work that its link is the route of has been acknowledged
(R343, R350, R357). -/
def State.linkQuiet (s : State) (q l : Nat) : Bool :=
  s.remotes.all (fun r => r.queue != some q || r.kind = 0 ||
    (let pa := (s.place r.addr).getD r.addr
     match s.route (paPkg pa) (paOdd pa) false with
     | .via k | .wait k => k != l
     | _ => true))

/-- The acknowledgements still to come; with the last one the reset ends. -/
def State.acked (s : State) (q : Nat) (l : List Nat) : State :=
  if l.isEmpty then s.endReset q else s.modQueue q (fun Q => { Q with acks := some l })

/-- RESET_ACK (R282, R343). DESIGN CHOICE (assumption 73). -/
def execResetAck (q agent : Nat) (s : State) : Out :=
  match (s.queue q).acks with
  | none => .next s
  | some l =>
    if !(l.contains agent) ∨ (linkAgent agent ∧ !(s.linkQuiet q (agent - 1280))) then .next s
    else .next ((s.ackWork q agent false).acked q (l.erase agent))

/-- RESET_ACK_TIMEOUT (R343): every agent on the package has discarded what is left. DESIGN CHOICE (assumption 73). -/
def execResetAckTimeout (q : Nat) (s : State) : Out :=
  match (s.queue q).acks with
  | none => .next s
  | some l =>
    if (s.chron - (s.queue q).ackAt).toNat < Config.ackTicks then .next s
    else
      let s := (l.filter (fun a => !(linkAgent a))).foldl (fun s a => s.ackWork q a true) s
      .next (s.acked q (l.filter linkAgent))

/-! ### PREEMPT and RESTORE -/

/-- A pre-emption request reaches a kernel (R135, R144): held until RUNNING, then the kernel drains. -/
def State.requestPreempt (s : State) (k : Nat) : State :=
  s.modKernel k (fun K => match K.state with
    | .loaded | .placed | .starting => { K with preempt := true }
    | .running => { K with preempt := true, state := .draining }
    | _ => K)

/-- A kernel's pre-emption has come to its end: SAVED or RETIRED (R344), or FAULTED. DEDUCED (assumption 70). -/
def State.preemptOver (s : State) (k : Nat) : Bool :=
  let st := (s.kernel k).state
  st = .saved || st = .retired || st = .faulted

/-- QCTL_PREEMPT (R344, R361): the LAUNCH ends as SAVED when this request is the one that drains its kernel.
DEDUCED (assumption 70). -/
def execQctlPreempt (w : Word) (s : State) : Out :=
  s.withQctl w 4 (fun q =>
    match (s.queue q).launch with
    | none => s.qctlDone w
    | some l =>
      if l.sx.isSome ∨ (l.packet.isSome ∧ l.idx = 0) ∨ s.sextants.any (fun p => p.2.claim = some q) then s.qctlRefused w 2
      else
        match l.kernel with
        | none => s.qctlDone w
        | some k =>
          if s.preemptOver k then s.qctlDone w
          else
            let s' := s.modQueue q (fun Q => { Q with
              launch := some { l with pre := l.pre || !(s.kernel k).preempt } })
            { (s'.setQctl w 1 0).requestPreempt k with qctlK := some k })

/-- The queue state of a number (R330). -/
def qstateOf (n : Nat) : QState :=
  #[QState.disabled, .idle, .fetching, .waiting, .running, .faulted, .resetting].getD n .disabled

/-- The queue fault of a code (R342). -/
def qfaultOf (n : Nat) : Option QFault :=
  [QFault.badType, .typeDenied, .badPkt, .badPtr, .capBounds, .ibDepth, .badChain, .priv, .pageFatal, .tractBusy, .linkRoute,
   .lockRatio, .lockCeil, .lockFloor, .lockTimeout, .lockBudget, .hdrInvalid, .groupShape, .notPinned, .refreshConflict,
   .ctxMigrating, .kernel, .drill, .sxForm].find? (fun f => f.code = n)

/-- A mutable-line image of eight words taken by a queue, which holds until RESUME (R330, R344). The operator in progress
is a LAUNCH whose unit relaunches (R321). DEDUCED (assumption 78). -/
def Queue.fromImage (Q : Queue) (g : Nat → Word) : Queue :=
  let depth := bits (g 1) 6 4
  let oper := g 2
  { Q with
    rptr := bits (g 0) 63 32, wptr := bits (g 0) 31 0, foff := bits (g 1) 63 32, fcode := qfaultOf (bits (g 1) 31 16)
    flvl := bits (g 1) 10 8, state := qstateOf (bits (g 1) 2 0), oper := oper, pass := bits (g 3) 15 8
    eprio := bits (g 3) 2 0
    stack := ((List.range (min depth 4)).map (fun i => (bits (g (4 + i)) 63 32, bits (g (4 + i)) 31 0))).reverse
    launch := if oper = 0 then none else some { head := oper, next := oper, again := true }
    held := true, skip := 0, performed := false }

/-- QCTL_RESTORE (R344). DEDUCED (assumption 78). -/
def execQctlRestore (w : Word) (s : State) : Out :=
  s.withQctl w 5 (fun q =>
    let g (i : Nat) : Word := s.qimg.toList.getD i 0
    let st := bits (g 1) 2 0
    if (s.queue q).state ≠ .disabled ∨ st = 0 ∨ 4 < st then s.qctlRefused w 2
    else (s.modQueue q (fun Q => Q.fromImage g)).qctlDone w)

/-! ### What a turn leaves to the command complex -/

/-- Updates of notification blocks that are still to be written go on (R334, R346). -/
def State.settleNotes (s : State) : State :=
  (s.queues.filter (fun p => p.2.noteDue.isSome)).foldl (fun s p => s.noteStep p.1) s

/-- A PREEMPT under way reads DONE once its kernel's pre-emption is over (R344). -/
def State.settlePreempt (s : State) : State :=
  match s.qctlK with
  | none => s
  | some k => if s.preemptOver k then { s.qctlDone s.qctl with qctlK := none } else s

/-- Resets whose drills have stopped wait for their acknowledgements from now on (R343). -/
def State.settleResets (s : State) : State :=
  (s.queues.map (·.1)).foldl (fun s q =>
    if s.resetReady q then s.modQueue q (fun Q => { Q with acks := some resetAgents, ackAt := s.chron }) else s) s

end Sys2Proof.Machine
end

