-- ==== Sys2Proof/Machine/Contexts.lean ====
section
/-! DEFINITION. Machine/Contexts.lean: CXCMD (R320), the commands and states of a context (R319, R321), suspension (R322),
migration (R323 to R326) and import (R327). -/

namespace Sys2Proof.Machine

/-! ### CXCMD -/

/-- The fields of CXCMD that software writes: OP, DST and ASID (R3, R320). -/
def cxcmdMask (w : Word) : Word := w &&& 0x00F7FFFFFFFF0000

/-- CXCMD after a command: ST, with GO while ST is BUSY, and CAUSE (R320). -/
def State.setCxcmd (s : State) (w : Word) (st cause : Nat) : State :=
  { s with cxcmd := cxcmdMask w ||| word (num (st = 1) * 2 ^ 63 + st * 2 ^ 61 + cause * 2 ^ 8) }

/-- A command is under way (R320). -/
def State.cxBusy (s : State) : Bool := bits s.cxcmd 62 61 = 1

/-- ST DONE, and REFUSED with a cause. -/
def State.cxDone (s : State) (w : Word) : State := s.setCxcmd w 2 0
def State.cxRefused (s : State) (w : Word) (cause : Nat) : State := s.setCxcmd w 3 cause

/-- A write of CXCMD without GO: its fields (R320). -/
def State.cxFields (s : State) (w : Word) : State := { s with cxcmd := cxcmdMask w ||| (s.cxcmd &&& 0x600000000000FF00) }

/-- An OP of CXCMD that no command has (R320). -/
def State.cxBadOp (s : State) (w : Word) : State :=
  if s.cxBusy then s else if !(bit w 63) then s.cxFields w else s.cxRefused w 1

/-! ### The record (R319) -/

/-- STATE of R319. -/
def CState.num : CState → Nat
  | .free => 0 | .live => 1 | .suspended => 2 | .precopy => 3 | .stopcopy => 4 | .faulted => 5

/-- Where the record of a context stands. -/
def State.recordAt (s : State) (asid : Nat) : Nat := s.ctxtab.toNat + 64 * asid

/-- A word of main memory that the command complex reads by its address. -/
def State.physWord (s : State) (a : Nat) : Word := Mem.word s.mem ((s.place a).getD a)

/-- Word i of a context's record. -/
def State.recordWord (s : State) (asid i : Nat) : Word := s.physWord (s.recordAt asid + 8 * i)

/-- No reserved bit is set, and ROOT is aligned (R321). DEDUCED (assumption 80). -/
def State.recordOk (s : State) (asid : Nat) : Bool :=
  bits (s.recordWord asid 0) 15 0 = 0 && bits (s.recordWord asid 1) 11 0 = 0 && bits (s.recordWord asid 2) 31 6 = 0
    && bits (s.recordWord asid 5) 63 17 = 0

/-- The migration list: old frame, new frame, size code (R324). -/
def State.migList (s : State) (asid : Nat) : List (Nat × Nat × Nat) :=
  let base := (s.recordWord asid 4).toNat
  (List.range (bits (s.recordWord asid 5) 16 0)).map (fun i =>
    let a := s.physWord (base + 16 * i)
    (bits a 63 16 * 2 ^ 16, bits (s.physWord (base + 16 * i + 8)) 63 16 * 2 ^ 16, bits a 1 0))

/-- The snapshot of words 0 to 5 that a command takes (R319). -/
def State.snapshotOf (s : State) (asid : Nat) (c : Context) : Context :=
  { c with
    root := s.recordWord asid 0, save := word (bits (s.recordWord asid 1) 63 12 * 2 ^ 12)
    savelen := bits (s.recordWord asid 2) 63 32, part := bits (s.recordWord asid 2) 5 0
    dirty := s.recordWord asid 3, frames := s.migList asid }

/-- Record words go to memory in their order: into a hold where a STOPCOPY holds their frame, and not past an agent that is
full (R319, R325). -/
def State.putRecs (s : State) : List (Nat × Nat) → State
  | [] => { s with recs := [] }
  | (a, v) :: r => if s.agentFull a then { s with recs := (a, v) :: r } else (s.put .agent a 8 v).putRecs r

/-- A context's device side, with words 6 and 7 of its record. -/
def State.putCtx (s : State) (asid : Nat) (c : Context) : State :=
  let s := s.setCtx asid c
  let w6 := c.state.num * 2 ^ 32 + c.fcode.toNat * 2 ^ 16
  s.putRecs (s.recs ++ [(s.recordAt asid + 48, w6), (s.recordAt asid + 56, c.finfo.toNat)])

/-- A STOPCOPY holds a frame that some bytes lie in (R325). -/
def State.heldAt (s : State) (a n : Nat) : Bool := (framesOf a n).any (fun p => (s.place p).isNone)

/-- A command of an OP cannot read what it needs, since a STOPCOPY holds it: the record, the migration list, for an IMPORT the
save area (R319, R325). -/
def State.cxHeld (s : State) (op asid : Nat) : Bool :=
  op < 6 && (s.heldAt (s.recordAt asid) 64
      || s.heldAt (s.recordWord asid 4).toNat (16 * bits (s.recordWord asid 5) 16 0))
    || op = 9 && (s.heldAt (s.recordAt asid) 64
      || s.heldAt (bits (s.recordWord asid 1) 63 12 * 2 ^ 12) (4096 * bits (s.recordWord asid 2) 63 32))

/-- A write of CXCMD whose OP is op (R320): ignored while ST is BUSY; with GO = 1 the command acts on its context, once it can
read what it needs (R325). DEDUCED (assumption 71). -/
def State.withCxcmd (s : State) (w : Word) (op : Nat) (k : Nat → State) : Out :=
  if s.cxBusy ∨ bits w 55 52 ≠ op then .next s
  else if !(bit w 63) then .next (s.cxFields w)
  else if s.cxHeld op (bits w 31 16) then .next { (s.setCxcmd w 1 0) with cxWait := true }
  else .next (k (bits w 31 16))

/-! ### What a context holds -/

/-- Queues of a context. -/
def State.queuesOf (s : State) (asid : Nat) : List Nat :=
  (s.queues.filter (fun p => p.2.asid = asid && p.2.state != .disabled)).map (·.1)

/-- Kernels of a context that hold cores and that a suspension saves (R322). -/
def State.toSave (s : State) (asid : Nat) : List Nat :=
  (s.kernels.filter (fun p => p.2.asid = asid
    && (p.2.state = .placed || p.2.state = .starting || p.2.state = .running))).map (·.1)

/-- The saves of a list of kernels all fit in the free space, first fit (R322, R327). -/
def fitAll (lo hi : Nat) : List (Nat × Nat) → List Nat → Bool
  | _, [] => true
  | taken, n :: r =>
    match firstFit lo hi n taken with
    | none => false
    | some a => fitAll lo hi ((a, n) :: taken) r

/-- R322's check of space. -/
def State.spaceOk (s : State) (asid : Nat) (c : Context) : Bool :=
  fitAll c.save.toNat (c.save.toNat + 4096 * c.savelen) (s.savesTaken asid)
    ((s.toSave asid).map (fun k => saveBytes (s.kernel k).seats.length))

/-- A drill's run keeps a suspension of its owner's context BUSY (R322): until it is IDLE, but for a FAULTED drill of a FAULTED
kernel, which stays so as long as its kernel does (R246). DEDUCED (assumption 79). -/
def State.drillHolds (s : State) (n : Nat) : Bool :=
  let D := s.drill n
  D.state != .idle && !(D.state = .faulted && (match D.cmd.owner with
    | .kernel k _ => (s.kernel k).state = .faulted
    | .queue _ => false))

/-- Every kernel of the context is SAVED, RETIRED or FAULTED, every drill that it owns is IDLE, and every queue of it stands
at a packet boundary (R322); a kernel that waits for placement keeps the command BUSY. DEDUCED (assumption 79). -/
def State.stillOf (s : State) (asid : Nat) : Bool :=
  s.kernels.all (fun p => p.2.asid != asid
      || p.2.state = .saved || p.2.state = .retired || p.2.state = .faulted)
    && s.drills.all (fun p => (p.2.cmd.asid != asid || !(s.drillHolds p.1))
      && (s.commands p.1).all (fun c => c.asid != asid))
    && s.queues.all (fun p => p.2.asid != asid || (!p.2.performed && p.2.lock.isNone))

/-- A byte of a context's memory, as the command complex reads it through the page table. -/
def State.ctxByte (s : State) (asid va : Nat) : Option Nat :=
  match s.lookup (.svc 0 asid) 0 asid va with
  | some e => s.load (e.phys va) 1
  | none => none

/-- The little-endian number in n bytes of a context's memory. -/
def State.ctxNum (s : State) (asid va : Nat) : Nat → Option Nat
  | 0 => some 0
  | n + 1 =>
    match s.ctxByte asid va, s.ctxNum asid (va + 1) n with
    | some b, some r => some (b + 256 * r)
    | _, _ => none

/-- TKIND of the kernel of a save, from its KERNEL record and its program header (R93, R327, R336). -/
def State.savedKind (s : State) (asid : Nat) (at_ : Word) : Option Nat :=
  let rec_ := (s.physWord (at_.toNat + 24)).toNat
  let image := (s.physWord (rec_ + 8)).toNat
  match s.ctxNum asid (image + 16) 8 with
  | none => none
  | some ph => s.ctxNum asid (image + ph + 224 * bits (s.physWord (rec_ + 16)) 15 0 + 9) 1

/-- R323: the context may migrate. Of a save that an import found no Kernel entry tells the TKIND; where its header cannot be
read the context stays. DEDUCED (assumption 79). -/
def State.mayMove (s : State) (asid : Nat) : Bool :=
  (s.ctx asid).saves.all (fun t => s.kernels.any (fun p => p.2.asid = asid && p.2.saveAt = some t.2.1)
      || (match s.savedKind asid t.2.1 with
          | some k => k = 0 || k = 2
          | none => false))
    && s.kernels.all (fun p => p.2.asid != asid || p.2.state = .retired
      || (p.2.state = .saved && !((s.ctx asid).saves.any (fun t => some t.2.1 = p.2.saveAt)))
      || (p.2.hdr.tkind != 1 && p.2.hdr.tkind != 3))
    && s.tracts.all (fun p => p.2.state = .free || p.2.asid != asid || (tctlKind p.2.tctl != 1 && tctlKind p.2.tctl != 3))

/-- The queues of a context fetch again (R321, R326, R341). -/
def State.resumeQueues (s : State) (asid : Nat) : State :=
  let s := (s.queuesOf asid).foldl (fun s q =>
    (s.modQueue q (fun Q => { Q with held := false, recheck := true })).wake q) s
  { s with passDue := true }

/-! ### Suspension (R322) -/

/-- The suspension of a context begins: its queues stop fetching, and its kernels are asked to drain. -/
def State.suspend (s : State) (asid : Nat) (c : Context) (stop : Bool) : State :=
  let l := s.toSave asid
  let s := s.setCtx asid { c with pending := true, stopAfter := stop }
  l.foldl (fun s k => s.requestPreempt k) s

/-- CTX_SUSPEND (R321, R322). -/
def execCtxSuspend (w : Word) (s : State) : Out :=
  s.withCxcmd w 1 (fun asid =>
    if (s.ctx asid).state ≠ .live then s.cxRefused w 2
    else
      let c := s.snapshotOf asid (s.ctx asid)
      if !(s.spaceOk asid c) then s.cxRefused w 7 else (s.setCxcmd w 1 0).suspend asid c false)

/-- Its whole-context shootdown is under way or waits its turn (R321). -/
def State.shooting (s : State) (asid : Nat) : Bool := s.shoots.any (fun t => t.die.isNone && t.asid = asid)

/-- An access of the backlog that a COMMIT forwards is not performed yet (R326). -/
def State.backlog (s : State) (asid : Nat) : Bool := s.remotes.any (fun r => r.asid = some asid)

/-- A command that kept ST BUSY ends: a suspension once the context is still, SUSPENDED or, where frames are held, STOPCOPY
(R322, R325); a DISABLE or CLEAR after its whole-context shootdown (R321); a COMMIT once the backlog is performed (R326). -/
def State.settleContexts (s : State) : State :=
  let asid := bits s.cxcmd 31 16
  let c := s.ctx asid
  if !s.cxBusy || s.cxWait then s
  else if c.pending then
    if s.stillOf asid then
      (s.cxDone s.cxcmd).putCtx asid { c with
        pending := false, stopAfter := false, state := if c.stopAfter then .stopcopy else .suspended }
    else s
  else if c.freeing then (if s.shooting asid then s else (s.cxDone s.cxcmd).putCtx asid {})
  else if c.commit then (if s.backlog asid then s else s.cxDone s.cxcmd)
  else s

/-- A pre-emption request that no stream has honoured yet is withdrawn (R322): one that PREEMPT made stands.
DEDUCED (assumption 79). -/
def State.withdrawRequest (s : State) (k : Nat) : State :=
  let K := s.kernel k
  let mine := ((s.queue K.queue).launch.map (fun l => l.kernel = some k && l.pre)).getD false
  let begun := K.seats.any (fun t => [Eng.ap, .xp, .mx].any (fun e => (s.stream { core := t.pcn, eng := e }).saved.isSome))
  if mine || begun then s
  else
    match K.state with
    | .placed | .starting => s.setKernel k { K with preempt := false }
    | .draining => s.setKernel k { K with preempt := false, state := .running }
    | _ => s

/-! ### Commands -/

/-- CTX_ENABLE (R321). -/
def execCtxEnable (w : Word) (s : State) : Out :=
  s.withCxcmd w 0 (fun asid =>
    if (s.ctx asid).state ≠ .free then s.cxRefused w 2
    else if !(s.recordOk asid) then s.cxRefused w 4
    else (s.cxDone w).putCtx asid { (s.snapshotOf asid {}) with state := .live })

/-- CTX_RESUME (R321, R326). -/
def execCtxResume (w : Word) (s : State) : Out :=
  s.withCxcmd w 2 (fun asid =>
    if (s.ctx asid).state ≠ .suspended then s.cxRefused w 2
    else
      ((s.cxDone w).putCtx asid { (s.snapshotOf asid (s.ctx asid)) with state := .live }).resumeQueues asid)

/-- CTX_PRECOPY (R321, R323, R324). -/
def execCtxPrecopy (w : Word) (s : State) : Out :=
  s.withCxcmd w 3 (fun asid =>
    if (s.ctx asid).state ≠ .live then s.cxRefused w 2
    else if !(s.mayMove asid) then s.cxRefused w 3
    else (s.cxDone w).putCtx asid { (s.snapshotOf asid (s.ctx asid)) with state := .precopy })

/-- A Sextant works for a queue of the context (R361). -/
def State.sextantBusy (s : State) (asid : Nat) : Bool :=
  s.sextants.any (fun p => p.2.state != 0 && (s.queue p.2.queue).asid = asid)

/-- CTX_STOPCOPY (R321 to R323, R325, R361). -/
def execCtxStopcopy (w : Word) (s : State) : Out :=
  s.withCxcmd w 4 (fun asid =>
    let c := s.snapshotOf asid (s.ctx asid)
    if (c.state ≠ .precopy ∧ c.state ≠ .suspended) ∨ s.sextantBusy asid then s.cxRefused w 2
    else if !(s.mayMove asid) then s.cxRefused w 3
    else if !(s.spaceOk asid c) then s.cxRefused w 7
    else (s.setCxcmd w 1 0).suspend asid c true)

/-- CTX_COMMIT (R321, R326). -/
def execCtxCommit (w : Word) (s : State) : Out :=
  s.withCxcmd w 5 (fun asid =>
    let c := s.ctx asid
    if c.state ≠ .stopcopy then s.cxRefused w 2
    else
      ((s.setCxcmd w 1 0).putCtx asid { (s.snapshotOf asid c) with
        commit := true, dst := bits w 50 32, held := [] }).performHeld (some asid) c.held)

/-- What ABORT does to a context (R321, R322). DEDUCED (assumption 79). -/
def State.abort (s : State) (w : Word) (asid : Nat) : State :=
  let c := s.ctx asid
  if c.pending then
    let s := (s.toSave asid ++ (s.kernels.filter (fun p => p.2.asid = asid && p.2.state = .draining)).map (·.1)).foldl
      (fun s k => s.withdrawRequest k) s
    ((s.cxDone w).putCtx asid { c with pending := false, stopAfter := false, state := .live, frames := [] }).resumeQueues asid
  else
    match c.state with
    | .precopy => (s.cxDone w).putCtx asid { c with state := .live, frames := [] }
    | .stopcopy =>
      if c.commit then s.cxRefused w 6
      else ((s.cxDone w).putCtx asid { c with state := .suspended, held := [] }).performHeld none c.held
    | _ => s.cxRefused w 2

/-- CTX_ABORT (R320 to R322): it also ends a suspension that keeps ST BUSY. DEDUCED (assumption 79). -/
def execCtxAbort (w : Word) (s : State) : Out :=
  let asid := bits w 31 16
  if bits w 55 52 = 6 ∧ bit w 63 ∧ s.cxBusy ∧ bits s.cxcmd 31 16 = asid ∧ (s.ctx asid).pending then .next (s.abort w asid)
  else s.withCxcmd w 6 (fun asid => s.abort w asid)

/-- Nothing of the context is left (R321): every queue is DISABLED, and no kernel is held or saved. -/
def State.ctxEmpty (s : State) (asid : Nat) : Bool :=
  (s.queuesOf asid).isEmpty && (s.ctx asid).saves.isEmpty
    && s.kernels.all (fun p => p.2.asid != asid || p.2.state = .retired || p.2.state = .saved)

/-- The context is to become FREE: ST stays BUSY while its whole-context shootdown waits its turn and is served (R317,
R321). -/
def State.freeCtx (s : State) (w : Word) (asid : Nat) : State :=
  ((s.setCxcmd w 1 0).setCtx asid { (s.ctx asid) with freeing := true }).shootAt { asid := asid, lo := 0, hi := 2 ^ 56 }

/-- CTX_DISABLE (R321, R326). -/
def execCtxDisable (w : Word) (s : State) : Out :=
  s.withCxcmd w 7 (fun asid =>
    let c := s.ctx asid
    if c.state = .stopcopy ∧ c.commit then s.freeCtx w asid
    else if c.state ≠ .live ∧ c.state ≠ .suspended then s.cxRefused w 2
    else if !(s.ctxEmpty asid) then s.cxRefused w 5
    else s.freeCtx w asid)

/-- CTX_CLEAR (R321). -/
def execCtxClear (w : Word) (s : State) : Out :=
  s.withCxcmd w 8 (fun asid =>
    if (s.ctx asid).state ≠ .faulted then s.cxRefused w 2 else s.freeCtx w asid)

/-- A kernel header that a save can begin with (R327): its size is that of its cores. DEDUCED (assumption 80). -/
def State.saveAtOk (s : State) (a hi : Nat) : Bool :=
  let n := Mem.num s.mem (a + 12) 4
  decide (1 ≤ n) && Mem.num s.mem (a + 16) 8 = saveBytes n && decide (a + saveBytes n ≤ hi)
    && decide (Mem.num s.mem a 8 < 2 ^ 16) && Mem.num s.mem (a + 32) 32 = 0

/-- The saves of an area, from an address on: each is looked for at multiples of 64 KiB that no save found covers (R321,
R327). -/
def State.findSaves (s : State) (hi : Nat) : Nat → Nat → List (Nat × Word × Nat)
  | 0, _ => []
  | n + 1, a =>
    if s.saveAtOk a hi then
      let size := saveBytes (Mem.num s.mem (a + 12) 4)
      (Mem.num s.mem a 8, word a, size) :: s.findSaves hi n (a + size)
    else if a + 0x10000 < hi then s.findSaves hi n (a + 0x10000)
    else []

/-- CTX_IMPORT (R321, R326, R327). DEDUCED (assumption 80). -/
def execCtxImport (w : Word) (s : State) : Out :=
  s.withCxcmd w 9 (fun asid =>
    if (s.ctx asid).state ≠ .free then s.cxRefused w 2
    else if !(s.recordOk asid) then s.cxRefused w 4
    else
      let c := s.snapshotOf asid {}
      let saves := s.findSaves (c.save.toNat + 4096 * c.savelen) (c.savelen / 16 + 1) c.save.toNat
      (s.cxDone w).putCtx asid { c with state := .suspended, saves := saves })

/-! ### Held accesses and faults -/

/-- HELD_ACCESS (R325, R326): held before COMMIT, forwarded after it; a full agent does not take it. -/
def execHeldAccess (asid : Nat) (acc : RemoteAccess) (s : State) : Out :=
  let c := s.ctx asid
  if c.state ≠ .stopcopy ∨ (frameHit acc.addr c.frames).isNone then .next s
  else if c.commit then .next (s.performAccess none { acc := acc })
  else if s.agentFull acc.addr then .next s
  else .next (s.hold asid { agent := memLink acc.addr, acc := acc })

/-- A command of the context that keeps ST BUSY ends REFUSED, with its whole-context shootdown (R321).
DEDUCED (assumption 81). -/
def State.quitCommand (s : State) (asid : Nat) : State :=
  if s.cxBusy ∧ bits s.cxcmd 31 16 = asid then
    { (s.cxRefused s.cxcmd 2) with cxWait := false, shoots := s.shoots.filter (fun t => t.die.isSome) }
  else s

/-- CONTEXT_FAULT (R321): the context and every queue of it are FAULTED; the record tells why. What it held is performed at
the old frames, since nothing is dropped (R325). DEDUCED (assumption 81). -/
def execContextFault (asid : Nat) (code : BitVec 16) (info : Word) (s : State) : Out :=
  let c := s.ctx asid
  if c.state = .free ∨ c.state = .faulted then .next s
  else
    let s := (s.quitCommand asid).putCtx asid { c with
      state := .faulted, pending := false, stopAfter := false, freeing := false, held := [], fcode := code, finfo := info }
    let s := s.performHeld none c.held
    let s := s.log 0 2 (code.toNat % 4096) info 0xFFFF 0xFFFF
    .next ((s.queuesOf asid).foldl (fun s q =>
      (s.modQueue q (fun Q => { Q with state := .faulted })).notify q true (s.queue q).stack.length (s.queue q).place) s)

end Sys2Proof.Machine
end

