-- ==== Sys2Proof/Machine/Control.lean ====
section
/-! DEFINITION. Machine/Control.lean: block headers (R51 to R59, R117), the br major and its short transfers (R157 to
R160), `rep` (R165 to R168), `nop`, and the fetch that arrives (R159). -/

namespace Sys2Proof.Machine

/-! ### Block headers -/

/-- The x register that a stride pair names in an XP or MX stream (R57). -/
def strideReg (r : BitVec 4) : BitVec 5 := 0x10#5 ||| r.setWidth 5

/-- The entry checks of R55 that fault BLOCK_FORM. -/
def State.blockFormOk (s : State) (kind : BlockKind) (len : BitVec 10) : Bool :=
  let m := s.me
  let stop := m.npc + 2 * len.toNat
  len != 0 && m.blocks.length < 6
    && (match m.blocks with | [] => true | b :: _ => stop ≤ b.stop)
    && (match kind with
        | .strided ra sa rb sb => (sa != 0 || ra = 0) && (sb != 0 || rb = 0)
        | .timed cyc =>
          let t := s.tractOf s.cur.core
          cyc = t.n && stop - m.pc ≤ Config.loopBuffer
            && !(m.blocks.any (fun b => match b.kind with | .timed _ => true | _ => false))
        | _ => true)

/-- The registers a header names lie in the allotment (R53, R57). -/
def State.blockAllotOk (s : State) (kind : BlockKind) (c : Count) : Bool :=
  let m := s.me
  (match c with | .imm _ => true | .reg x => x.toNat < m.xk)
    && (match kind with
        | .strided ra sa rb sb =>
          s.cur.eng = .ap || ((sa = 0 || (strideReg ra).toNat < m.xk) && (sb = 0 || (strideReg rb).toNat < m.xk))
        | _ => true)

/-- A timed block that is entered has its whole extent fetched while it waits for its first frame cycle 0, unless the loop
buffer holds it (R61). -/
def Stream.prefetches (m : Stream) (b : Block) : Bool :=
  match b.kind with
  | .timed _ => !(m.lbuf.1 ≤ b.entry && b.stop ≤ m.lbuf.2)
  | _ => false

/-- Entering a block (R52 to R55, R61, R117, R164): the checks, a skip for a count of 0 or a stage predicate of 0, else a new
entry of the block stack. A count above 2^32 − 1 faults though the stage predicate is 0: R53 faults it at entry, and R164
names only the checks of R55. DESIGN CHOICE (assumption 108). -/
def State.enterBlock (s : State) (kind : BlockKind) (len : BitVec 10) (c : Count) : Out :=
  let m := s.me
  let stop := m.npc + 2 * len.toNat
  let count := match c with | .imm r => r.toNat | .reg x => (m.rx x).toNat
  if !(s.blockFormOk kind len) then s.fault .blockForm
  else if !(s.blockAllotOk kind c) then s.fault .regAllot
  else if 2 ^ 32 ≤ count then s.fault .blockForm
  else if count = 0 ∨ !(stageOk m.spw m.pc m.blocks) then .next (s.modMe (fun m => { m with npc := stop }))
  else
    let b : Block := { kind := kind, entry := m.pc, body := m.npc, stop := stop, count := count, spw := m.spw,
                       idle := match kind with | .timed _ => true | _ => false }
    let spw := match kind with | .pipelined _ => 1 | _ => m.spw
    .next (s.modMe (fun m => { m with blocks := b :: m.blocks, spw := spw, fetching := m.fetching || m.prefetches b }))

/-- A plain block with an immediate count (R52). -/
def execBlockPlain (len r : BitVec 10) (s : State) : Out := s.enterBlock .plain len (.imm r)
/-- A plain block with a count register (R53). -/
def execBlockPlainReg (len : BitVec 10) (x : BitVec 5) (s : State) : Out := s.enterBlock .plain len (.reg x)
/-- A strided block (R57). -/
def execBlockStrided (len : BitVec 10) (c : Count) (ra : BitVec 4) (sa : BitVec 10) (rb : BitVec 4) (sb : BitVec 10)
    (s : State) : Out := s.enterBlock (.strided ra sa rb sb) len c
/-- A pipelined block of SM1 + 1 stages (R58). -/
def execBlockPipelined (len : BitVec 10) (c : Count) (sm1 : BitVec 3) (s : State) : Out :=
  s.enterBlock (.pipelined (sm1.toNat + 1)) len c
/-- A timed block (R59, R61, R117). -/
def execBlockTimed (len : BitVec 10) (c : Count) (cyc : BitVec 25) (s : State) : Out :=
  s.enterBlock (.timed cyc.toNat) len c

/-! ### br -/

/-- A target that `br.prep` and `br.prepx` accept (R157). -/
def State.targetOk (s : State) (t : Int) : Bool := t % 2 = 0 && 0 ≤ t && t < (s.code s.cur.core).length

/-- t[d] := target, or BAD_TARGET (R157). -/
def State.setTarget (s : State) (d : BitVec 2) (t : Int) : Out :=
  if s.targetOk t then .next (s.modMe (fun m => m.wt d (sword t))) else s.fault .badTarget

/-- `br.prep` (R157). -/
def execBrPrep (t : BitVec 2) (k : BitVec 13) (s : State) : Out := s.setTarget t (s.me.pc + k.toInt * 2)
/-- `br.prepx` (R157): the register is an unsigned byte offset. -/
def execBrPrepx (d a : BitVec 5) (s : State) : Out := s.setTarget (d.setWidth 2) (s.rx a).toNat
/-- `br.tget` (R157). -/
def execBrTget (d a : BitVec 5) (s : State) : Out := .next (s.wx d (s.me.rt (a.setWidth 2)))

/-- The delay slots of the `br.go` that is issuing have an allowed kind and place (R160). -/
def State.slotsFit (s : State) : Bool := slotsOk (s.code s.cur.core) s.me.npc s.me.blocks

/-- `br.go` (R158, R160): condition and target are read now; the transfer follows the two slots. -/
def State.go (s : State) (t : BitVec 2) (take : Bool) : Out :=
  if s.slotsFit then
    .next (s.modMe (fun m => { m with window := some { slots := 3, take := take, dest := (m.rt t).toNat } }))
  else s.fault .branchSlot

/-- `br.go td, ca` (R158). -/
def execBrGo (d a : BitVec 5) (s : State) : Out := s.go (d.setWidth 2) (s.me.rc a.toNat)
/-- `br.go.not td, ca` (R158). -/
def execBrGoNot (d a : BitVec 5) (s : State) : Out := s.go (d.setWidth 2) (!(s.me.rc a.toNat))
/-- `br.go td` (R158). -/
def execBrGoAlways (d : BitVec 5) (s : State) : Out := s.go (d.setWidth 2) true
/-- The short transfer on c[c] (R65). -/
def execShortTransfer (t c : BitVec 2) (s : State) : Out := s.go t (s.me.rc c.toNat)
/-- The short transfer on not c[c] (R65). -/
def execShortTransferNot (t c : BitVec 2) (s : State) : Out := s.go t (!(s.me.rc c.toNat))
/-- The short transfer always (R65). -/
def execShortTransferAlways (t : BitVec 2) (s : State) : Out := s.go t true

/-! ### rep and nop -/

/-- The word at an address may follow a `rep` with the given B step (R66, R167): a 32-bit word in register, immediate,
memory or atomic form, not of the blk, br or kn majors, not `sys.trap` or `sys.scall`; a B step only for the register
form. -/
def repWordOk (code : List Byte) (a : Nat) (bs : BitVec 2) : Bool :=
  let w := codeWord code a
  let maj := (w.extractLsb' 23 6).toNat
  let fn := (w.extractLsb' 0 6).toNat
  let register := majorEngines maj != 0 && maj != 0x00 && maj != 0x02 && maj != 0x04 && !(8 ≤ maj && maj ≤ 0x0C)
    && maj != 0x1B
  let other := maj = 0x02 || (8 ≤ maj && maj ≤ 0x0C) || maj = 0x1B
  a + 4 ≤ code.length && codeLen code a = 4 && (register || other) && (bs = 0 || register)
    && maj != 0x06 && maj != 0x15 && !(maj = 0x07 && (fn = 0x03 || fn = 0x04))

/-- `rep` (R165 to R168): repetitions follow on later issue turns, REPC counting those still to issue; with n = 0 the
following word is passed over. DEDUCED (assumption 53). -/
def execRep (n : BitVec 6) (_d _a bs : BitVec 2) (s : State) : Out :=
  let m := s.me
  if !(repWordOk (s.code s.cur.core) m.npc bs) then s.fault .illegal
  else if m.blocks.any (fun b => decide (b.stop < m.npc + 4) && decide (m.pc < b.stop) && decide (b.body ≤ m.pc)) then
    s.fault .blockForm
  else if n = 0 then .next (s.modMe (fun m => { m with npc := m.npc + 4, repc := 0, repOld := false }))
  else
    .next (s.modMe (fun m => { m with
      repOn := true, repOld := false, npc := m.pc
      repc := if m.repc = 0 ∨ m.repOld then n.toNat else m.repc }))

/-- `nop` (R65). -/
def execNop (s : State) : Out := .next s

/-! ### Fetch -/

/-- INSTRUCTION_FETCH_ARRIVAL (R61, R159): the fetch that missed the loop buffer completes. -/
def execInstructionFetchArrival (pcn : Nat) (eng : Eng) (s : State) : Out :=
  let id : StreamId := { core := pcn, eng := eng }
  if (s.stream id).fetching then
    .next (s.modStream id (fun m => { m with fetching := false, lbuf := extentFor m.pc m.blocks }))
  else .next s

/-- UNASSIGNED_ENCODING (R71, R72): the precise ILLEGAL fault at the word's address. -/
def execUnassignedEncoding (s : State) : Out := s.fault .illegal

end Sys2Proof.Machine
end

