-- ==== Sys2Proof/Machine/Hosts.lean ====
section
/-! DEFINITION. Machine/Hosts.lean: the TDISP interfaces of the virtual functions (R368 to R372), the read-only lines of
the queues (R328, R370), and the service pairs with the pilot die (R373, R374). -/

namespace Sys2Proof.Machine

/-! ### TDISP interfaces -/

/-- The partition of a virtual function (R368). -/
def vfPart (n : Nat) : Nat := n % 64
/-- Virtual functions of the package: 64 on each of two ports, and behind them the physical function of each port (R368). -/
def vfOk (n : Nat) : Bool := decide (n < 128)
def pfOk (n : Nat) : Bool := decide (128 ≤ n ∧ n < 130)

/-- The registers of an interface are frozen from its lock to the next STOP (R369 to R371). -/
def State.vfFrozen (s : State) (n : Nat) : Bool := (s.vf n).state != .unlocked

/-- The queues of a partition. -/
def State.partQueues (s : State) (part : Nat) : List Nat := (List.range 4096).filter (fun q => (s.queue q).part = part)

/-- The steps of R371: DMA and interrupts stop, and every queue of the partition is reset. DEDUCED (assumption 91). -/
def State.vfStop (s : State) (n : Nat) (st : VState) : State :=
  let s := s.setVf n { (s.vf n) with state := st, dma := false, refused := false, report := none }
  (s.partQueues (vfPart n)).foldl State.beginReset s

/-- A request that does not fit is answered with the TDISP error response, and the state stands (R369). -/
def State.vfRefuse (s : State) (n : Nat) : State := if vfOk n then s.setVf n { (s.vf n) with refused := true } else s

/-- LOCK_INTERFACE_REQUEST (R369). -/
def execLockInterfaceRequest (vf : Nat) (nonce : BitVec 256) (s : State) : Out :=
  let v := s.vf vf
  if vfOk vf ∧ v.state = .unlocked then
    .next (s.setVf vf { v with state := .locked, nonce := nonce, dma := false, refused := false, report := none })
  else .next (s.vfRefuse vf)

/-- START_INTERFACE_REQUEST (R369). -/
def execStartInterfaceRequest (vf : Nat) (nonce : BitVec 256) (s : State) : Out :=
  let v := s.vf vf
  if vfOk vf ∧ v.state = .locked ∧ v.nonce = nonce then
    .next (s.setVf vf { v with state := .run, dma := true, refused := false })
  else .next (s.vfRefuse vf)

/-- STOP_INTERFACE_REQUEST (R369, R371). DEDUCED (assumption 91). -/
def execStopInterfaceRequest (vf : Nat) (s : State) : Out :=
  if vfOk vf then .next (s.vfStop vf .unlocked) else .next s

/-- A register of a function is written (R368); its sizes are fixed. DESIGN CHOICE (assumption 28). -/
def Vf.write (v : Vf) (r : VfReg) (w : BitVec 128) : Vf :=
  match r with
  | .bar0 => { v with bar0 := w.setWidth 64 &&& ~~~0xFFFFFF#64 }
  | .bar2 => { v with bar2 := w.setWidth 64 &&& ~~~0x7FFF#64 }
  | .bar4 => { v with bar4 := w.setWidth 64 &&& ~~~0x7FFF#64 }
  | .command => { v with command := w.setWidth 16 }
  | .msixControl => { v with msixControl := w.setWidth 16 }
  | .vector n => if n < 2048 then { v with vectors := v.vectors.set n w } else v
  | .keyChange | .linkDown => v

/-- FROZEN_REGISTER_WRITE (R368 to R371): a write to a register that a lock freezes, an IDE key change, or a link down. In
LOCKED and RUN it takes the interface to ERROR, whatever it writes; in ERROR the register stays; else it is written, as is one
of a physical function, which no lock freezes. A virtual function has no BAR0. -/
def execFrozenRegisterWrite (vf : VfWrite) (s : State) : Out :=
  let r := vf.reg
  let v := vf.value
  let vf := vf.vf
  if pfOk vf then .next (s.setVf vf ((s.vf vf).write r v))
  else if !(vfOk vf) ∨ r = .bar0 then .next s
  else
    match (s.vf vf).state with
    | .locked | .run => .next (s.vfStop vf .error)
    | .error => .next s
    | .unlocked => .next (s.setVf vf ((s.vf vf).write r v))

/-- The registers that a lock of an interface freezes, with its queues' read-only lines (R370). -/
def State.frozenWords (s : State) (n : Nat) : List Word :=
  let v := s.vf n
  [v.bar2, word 32768, v.bar4, word 32768, v.command.setWidth 64, v.msixControl.setWidth 64]
    ++ (List.range 2048).flatMap (fun i => let e := v.vectors.get 0 i; [e.setWidth 64, (e >>> 64).setWidth 64])
    ++ (s.partQueues (vfPart n)).flatMap (fun q => (s.queue q).line.toList)

/-- The interface report (R372) as words: partition and port; BAR2 and BAR4 with their sizes; the queues behind their
number; the three firmware versions; the digest of the frozen registers and lines (assumptions 23, 24, 36). -/
def State.vfReport (s : State) (n : Nat) : List Word :=
  let v := s.vf n
  let qs := s.partQueues (vfPart n)
  let fw := Config.freeVersion s.helm.running
  let d := Config.digest (s.frozenWords n)
  [word (vfPart n + 2 ^ 32 * (n / 64)), v.bar2, word 32768, v.bar4, word 32768, word qs.length]
    ++ qs.map word
    ++ (List.range 3).map (fun i => (fw.extractLsb' (32 * i) 32).setWidth 64)
    ++ (List.range 8).map (fun i => d.extractLsb' (64 * i) 64)

/-- GET_DEVICE_INTERFACE_REPORT (R372): of a locked interface, as it stands. -/
def execGetDeviceInterfaceReport (vf : Nat) (s : State) : Out :=
  let v := s.vf vf
  if vfOk vf ∧ (v.state = .locked ∨ v.state = .run) then
    .next (s.setVf vf { v with report := some (s.vfReport vf), refused := false })
  else .next (s.vfRefuse vf)

/-! ### The read-only line (R328) -/

/-- Reserved bits of words 6 and 7 are not written (R3). -/
def lineMask (i : Nat) (w : Word) : Word :=
  if i = 6 then w &&& 0xFFFFFFFFFFFF1FFF else if i = 7 then w &&& 0x3F else w

/-- A word of the read-only line is written, with its capability's tag. DEDUCED (assumption 75). -/
def Queue.writeLine (Q : Queue) (i : Nat) (w : Word) : Queue :=
  let Q := { Q with line := Q.line.setIfInBounds i (lineMask i w) }
  if 6 ≤ i then Q
  else
    let k := i / 2
    let mine : BitVec 2 := BitVec.ofNat 2 (2 ^ (i % 2))
    let was := if Q.tagged.toList.getD k false then 0 else Q.wrote.toList.getD k 0
    let now := was ||| mine
    { Q with wrote := Q.wrote.setIfInBounds k (if now = 3 then 0 else now), tagged := Q.tagged.setIfInBounds k (now = 3) }

/-- The interfaces that freeze a queue's read-only line (R370). -/
def State.lineFrozen (s : State) (q : Nat) : List Nat :=
  [vfNo 0 (s.queue q).part, vfNo 1 (s.queue q).part].filter s.vfFrozen

/-- QUEUE_LINE_WRITE (R328, R370, R371): a frozen line stays, and takes an interface in LOCKED or RUN to ERROR; a queue that
is not DISABLED refuses the write. -/
def execQueueLineWrite (q i : Nat) (w : Word) (s : State) : Out :=
  let l := s.lineFrozen q
  if !l.isEmpty then .next ((l.filter (fun n => (s.vf n).state != .error)).foldl (fun s n => s.vfStop n .error) s)
  else if (s.queue q).state ≠ .disabled ∨ 8 ≤ i then .next s
  else .next (s.modQueue q (fun Q => Q.writeLine i w))

/-! ### Service pairs and the pilot -/

/-- HEARTBEAT (R373): once per 1,000,000 ticks; a halted pair has stopped its beat, and a beat of a pair held in reset is
ignored. -/
def execHeartbeat (die : Nat) (s : State) : Out :=
  if (s.die die).healthy ∧ Config.beatTicks ≤ (s.chron - (s.die die).beat).toNat then
    .next (s.modDie die (fun d => { d with beat := s.chron }))
  else .next s

/-- LOCKSTEP_MISMATCH (R373, R387): both cores halt, the record is written, and the logbook is frozen.
DEDUCED (assumption 92). -/
def execLockstepMismatch (die : Nat) (s : State) : Out :=
  if (s.die die).pairOk then
    .next (((s.modDie die (fun d => { d with pairOk := false })).log die 6 1 0 0xFFFF 0xFFFF).freezeLog die)
  else .next s

/-- Ticks without a beat after which the pilot is taken over (R374). -/
def pilotTicks : Nat := 3000000

/-- Step 3 of R374: the unanswered calls that the old pilot's die served in hardware mode are reissued, in token order, by
the new one; answered calls stand, and so do those with the host driver. -/
def State.reissue (s : State) (old : Nat) : State :=
  { s with scalls := s.scalls.map (fun c =>
      if c.who.core / 128 = old ∧ c.answer.isNone ∧ c.haSeq.isNone then { c with again := true } else c) }

/-- PILOT_TAKEOVER (R374): the lowest healthy die becomes the pilot, the old pair is held in reset, the record is written,
what it left unanswered is reissued, and vector 0 goes out on both ports. DEDUCED (assumption 92). -/
def execPilotTakeover (s : State) : Out :=
  match s.helm.pilot with
  | none => .next s
  | some old =>
    if (s.chron - (s.die old).beat).toNat < pilotTicks then .next s
    else
      match (List.range 4).find? (fun d => d != old && (s.die d).healthy) with
      | none => .next s
      | some new =>
        let s := { s with helm := { s.helm with pilot := some new } }
        let s := ((s.modDie old (fun d => { d with inReset := true })).log old 6 2 (word new) 0xFFFF 0xFFFF).reissue old
        .next ((s.interrupt 0 0 0).interrupt 1 0 0)

end Sys2Proof.Machine
end

