-- ==== Sys2Proof/Machine/Helm.lean ====
section
/-! DEFINITION. Machine/Helm.lean: the helm: rails and votes (R379, R381), the mailbox commands (R380), host-assisted
functions (R385, R386), protective limits (R20, R382), heat (R383), soft errors and the logbook (R387), updates and
bring-up (R388, R389). -/

namespace Sys2Proof.Machine

/-! ### Rails (R379, R381) -/

/-- The rail of a number, and the rail replaced. -/
def State.rail (s : State) (r : Nat) : Rail := s.helm.rails.toList.getD r {}
def State.setRail (s : State) (r : Nat) (x : Rail) : State :=
  { s with helm := { s.helm with rails := s.helm.rails.setIfInBounds r x } }

/-- The state that a rail's votes ask for: the highest, that is, the lowest number. -/
def Rail.asked (x : Rail) : Nat := (List.range 64).foldl (fun m p => min m (x.votes.get 7 p)) 7

/-- The state that a rail is in: its own result, but the vector and SRAM rails never below the matrix rail (R379). -/
def State.railState (s : State) (r : Nat) : Nat :=
  if r = 1 ∨ r = 2 then min (s.rail r).now (s.rail 0).now else (s.rail r).now

/-- Millivolts of the matrix, vector, SRAM and fabric rails in each state (R379). -/
def railTable : List (List Nat) :=
  [[850, 810, 770, 730, 690, 650, 610, 500], [800, 770, 740, 710, 680, 650, 620, 500],
   [780, 760, 740, 720, 700, 680, 660, 550], [750, 750, 720, 720, 700, 700, 680, 500]]
def railMillivolts (r p : Nat) : Nat := (railTable.getD r []).getD p 0

/-- The voltage of a rail: its state's, or, once a raise has begun, the higher one that the raise comes to before the ceiling
does (R379, R381); a raise of the matrix rail takes the vector and SRAM rails with it. -/
def State.voltage (s : State) (r : Nat) : Nat :=
  let aim (k : Nat) : Nat := (s.rail k).raise.getD (s.rail k).now
  railMillivolts r (if r = 1 ∨ r = 2 then min (aim r) (aim 0) else aim r)

/-- The service and I/O supply: 0.75 V in every state of the rails, which no vote changes (R379). -/
def serviceMillivolts : Nat := 750

/-- A rail moves toward the state that its votes ask for: a raise begins; a fall waits for the hold; a vote between the two
begins the hold anew; one that restores the present state ends it. DEDUCED (assumption 93). -/
def State.aimRail (s : State) (r : Nat) : State :=
  let x := s.rail r
  let t := x.asked
  if t < x.now then s.setRail r { x with raise := some t, hold := none }
  else if t = x.now then s.setRail r { x with raise := none, hold := none }
  else
    match x.hold with
    | none => s.setRail r { x with raise := none, hold := some (t, s.chron) }
    | some (u, since) => s.setRail r { x with raise := none, hold := some (t, if t < u then s.chron else since) }

/-- A clock under a rate and a descriptor is at or below a state's ceiling. -/
def clockFits (p : Nat) (rate : Nat × Nat) (tctl : Word) : Bool :=
  decide (rate.1 * tctlN tctl ≤ ceilingHz p * (rate.2 * tctlM tctl))

/-- Every tract of the package runs at or below the ceiling of a state (R381), with the binding that a re-lock may return to
and a lock that has been judged and awaits the driver's answer; for P7 every tract is FREE and no kernel runs.
DEDUCED (assumption 93). -/
def State.mayFall (s : State) (p : Nat) : Bool :=
  if p = 7 then
    s.tracts.all (fun t => t.2.state = .free)
      && s.kernels.all (fun k => k.2.state != .starting && k.2.state != .running && k.2.state != .draining)
  else
    s.tracts.all (fun t =>
      (t.2.state = .free || (t.2.state = .locking && t.2.haSeq.isNone) || clockFits p t.2.rate t.2.tctl)
        && (match t.2.old with
            | some o => o.state = .free || clockFits p o.rate o.tctl
            | none => true))

/-- VOTE (R380, R381). -/
def execVote (w : Word) (s : State) : Out :=
  let part := mbArg0 w % 64
  let r := mbArg0 w / 256 % 4
  s.withMb w 1 (decide (mbArg1 w ≤ 7) && mbArg0 w = part + 256 * r)
    (((s.setRail r { (s.rail r) with votes := (s.rail r).votes.set part (mbArg1 w) }).aimRail r).mbDone w)

/-- RAIL_RAISE_COMPLETE (R381): the voltage is up, and the ceiling of the new state comes into force. -/
def execRailRaiseComplete (rail : Nat) (s : State) : Out :=
  match (s.rail rail).raise with
  | none => .next s
  | some t => .next ((s.setRail rail { (s.rail rail) with now := t, raise := none }).aimRail rail)

/-- VOTE_HOLD_EXPIRY (R381): after the hold the rail falls as soon as the tracts let it. -/
def execVoteHoldExpiry (rail : Nat) (s : State) : Out :=
  let x := s.rail rail
  match x.hold with
  | none => .next s
  | some (t, since) =>
    if Config.voteHold ≤ (s.chron - since).toNat ∧ s.mayFall t then
      .next ((s.setRail rail { x with now := t, hold := none }).aimRail rail)
    else .next s

/-! ### Modes, logbook, sensors -/

/-- SETMODE (R380, R385). -/
def execSetmode (w : Word) (s : State) : Out :=
  s.withMb w 2 (mbArg0 w = 0 && decide (mbArg1 w < 1024))
    ({ s with helm := { s.helm with mode := BitVec.ofNat 10 (mbArg1 w) } }.mbDone w)

/-- Word n of a record (R387). -/
def LogRec.word (r : LogRec) (seq n : Nat) : Word :=
  match n with
  | 0 => 0
  | 1 => Machine.word (r.queue.toNat + r.pcn.toNat * 2 ^ 16 + (r.cls * 2 ^ 12 + r.index) % 2 ^ 16 * 2 ^ 32
      + seq % 2 ^ 16 * 2 ^ 48)
  | 2 => r.detail
  | _ => r.chron

/-- Word n of a logbook slot; one never written reads 0. -/
def Die.logWord (d : Die) (slot n : Nat) : Word :=
  match Tbl.find? d.logs slot with
  | none => 0
  | some (seq, r) => r.word seq n

/-- MBDATA takes a result. -/
def State.mbResult (s : State) (v : Word) : State := { s with helm := { s.helm with mbdata := v } }

/-- LOGREAD (R380, R387). -/
def execLogread (w : Word) (s : State) : Out :=
  s.withMb w 3 (decide (mbArg0 w < 4) && decide (mbArg1 w < 8192))
    ((s.mbResult ((s.die (mbArg0 w)).logWord (mbArg1 w % 2048) (mbArg1 w / 2048))).mbDone w)

/-- LOGTHAW (R380, R387). -/
def execLogthaw (w : Word) (s : State) : Out :=
  s.withMb w 4 (decide (mbArg0 w < 4) && mbArg1 w = 0)
    ((s.modDie (mbArg0 w) (fun d => { d with frozen := false, lost := 0 })).mbDone w)

/-- Nanojoules that the links did not spend in a period (R384): 40 for each all-zero sector elided on the memory links and the
Ovtos links, and the toggles that inverted words saved. DESIGN CHOICE (assumption 113). -/
def Helm.credit (h : Helm) : Nat := 40 * (h.meter.elided + h.spared) + h.meter.saved

/-- Milliwatts of a rail over the latest period of 1 ms (R20, R382, R384): its charge in microjoules, that of the fabric rail
less what its links did not spend. -/
def Helm.railPower (h : Helm) (r : Nat) : Nat :=
  (h.meter.rails.getD r 0 - (if r = 3 then h.credit else 0)) / 1000
/-- Milliwatts of the service and I/O supply. -/
def Helm.servicePower (h : Helm) : Nat := h.meter.service / 1000
/-- Nanojoules that the package spent in the latest period. -/
def Helm.spent (h : Helm) : Nat :=
  ((List.range 4).map (fun r => h.meter.rails.getD r 0 - (if r = 3 then h.credit else 0))).sum + h.meter.service

/-- What a sensor reads (R380). -/
def Helm.sensor (h : Helm) (n : Nat) : Nat :=
  if n < 64 then h.meter.temps.getD n 0
  else if n < 68 then h.railPower (n - 64)
  else if n = 68 then h.energy.toNat
  else h.servicePower

/-- SENSOR (R380). -/
def execSensor (w : Word) (s : State) : Out :=
  s.withMb w 6 (decide (mbArg0 w < 70) && mbArg1 w = 0) ((s.mbResult (word (s.helm.sensor (mbArg0 w)))).mbDone w)

/-! ### Updates (R388) -/

/-- An image of at most 64 MiB whose signature verifies over its digest (R388). -/
def imageOk (image : List Byte) : Bool :=
  decide (image.length ≤ Config.imageBytes) && Config.signed image (Config.digest (image.map (fun b => b.setWidth 64)))

/-- The image that host memory holds at MBDATA is copied and checked (R388): one that verifies is staged unless its version
lies below the counter; else a record is written, and what ran or was staged stays. DEDUCED (assumption 92). -/
def State.stageImage (s : State) (w : Word) (image : List Byte) : State :=
  let v := Config.imageVersion image
  if imageOk image && decide (s.helm.counter ≤ v) then { s with helm := { s.helm with staged := some image } }.mbDone w
  else (s.log 0 7 1 (word v) 0xFFFF 0xFFFF).mbRefused w

/-- A STAGE that a command port wrote is under way. -/
def State.staging (s : State) : Bool := s.mbBusy && mbOp s.helm.mbcmd = 5

/-- STAGE (R380, R388): `image` is what physical function 0's host memory holds at MBDATA. -/
def execStage (w : Word) (image : List Byte) (s : State) : Out :=
  if s.staging then .next (s.stageImage s.helm.mbcmd image)
  else s.withMb w 5 (mbArg0 w = 0 && mbArg1 w = 0) (s.stageImage w image)

/-! ### Host-assisted functions (R386) -/

/-- HARING (R380, R386): the ring's place, and the requests held until then. -/
def execHaring (w : Word) (s : State) : Out :=
  s.withMb w 8 (decide (mbArg0 w < 2) && mbArg1 w = 0 && s.helm.mbdata.toNat % 2 ^ 17 = 0)
    (({ s with helm := { s.helm with ring := some (mbArg0 w, s.helm.mbdata) } }.haFlush [] s.helm.requests).mbDone w)

/-- A request has its answer: it leaves the ring, and one that was held takes its place. -/
def State.haTaken (s : State) (seq : Nat) : State :=
  let h := { s.helm with requests := s.helm.requests.filter (fun r => r.seq != seq) }
  { s with helm := h }.haFlush [] h.requests

/-- A walk reads a node or yields a page at an address: no link is in its way, or one in UP leads there (R309). -/
def State.walkReads (s : State) (pa : Nat) : Bool :=
  match s.route (paPkg pa) (paOdd pa) true with
  | .none | .wait _ => false
  | _ => true

/-- A frame is mapped for writes by the tables below a node (R308, R309): by a leaf that a walk over links in UP reaches. -/
def State.mapsFrame (s : State) (f : Nat) : List (Nat × Nat × Nat) → Nat → Bool
  | [], _ => false
  | (lvl, _, nb) :: rest, node =>
    s.walkReads node
      && (List.range (2 ^ nb)).any (fun i =>
        match s.loadFor (.svc 0 0) (node + 8 * i) 8 with
        | none => false
        | some n =>
          let e := word n
          let pa := n / 2 ^ 16 * 2 ^ 16
          bit e 0 && !(s.entryBad lvl e) && !(bit e 4) && s.walkReads pa
            && (if bit e 1 then bit e 2 && decide (pa ≤ f ∧ f < pa + pageBytes lvl) else s.mapsFrame f rest pa))

/-- A span of main memory lies in a context's memory: in its save area, or in frames that its page table maps for writes.
DEDUCED (assumption 80). -/
def State.inContext (s : State) (asid lo len : Nat) : Bool :=
  let c := s.ctx asid
  (decide (c.save.toNat ≤ lo) && decide (lo + len ≤ c.save.toNat + 4096 * c.savelen))
    || (framesOf lo len).all (fun f => s.mapsFrame f pageLevels c.root.toNat)

/-- An answer that a request's function accepts takes effect; none where it does not (R386). A requester that has gone is
not reached. -/
def State.haAnswer (s : State) (r : HaReq) (v : Word) : Option State :=
  match r.func with
  | 0 =>
    match s.walks.find? r.key with
    | none => some s
    | some k =>
      if k.haSeq ≠ some r.seq then some s
      else
        let s' := { s with freeCtr := s.freeCtr + 1 }
        some (s'.walkEnd r.key (s.leafOf k.asid k.va.toNat (Config.freeLeafLevel s.freeCtr % 4) v))
  | 1 => if v = 0 ∨ v = 1 then some (if r.stale then s else s.served r.who (v = 0)) else none
  | 3 =>
    if v = 1 then some { s.modKernel r.key (fun K => { K with granted := true }) with passDue := true } else none
  | 5 => some { s with adjust := v.toInt }
  | 6 =>
    if v = 0 then some (if (s.link r.key).state = .faulted then s.trainLink r.key else s)
    else if v = 1 then some s
    else if v = 2 then some (s.leaveLink r.key .down)
    else none
  | 7 => some { s with scalls := s.scalls.map (fun c => if c.id = r.key then { c with answer := some v } else c) }
  | 8 =>
    if (s.tract r.key).haSeq ≠ some r.seq then (if v = 0 ∨ v = 1 then some s else none)
    else if s.lockLate r.key then (if v = 0 ∨ v = 1 then some (s.lockFail r.key .lockTimeout) else none)
    else if v = 0 then some (s.lockDone r.key)
    else if v = 1 then some (s.lockFail r.key .lockTimeout)
    else none
  | 9 =>
    let K := s.kernel r.key
    if v.toNat % 2 ^ 16 = 0 ∧ s.reaches v.toNat ∧ s.inContext K.asid v.toNat (saveBytes K.seats.length) then
      some (if s.drained r.key then s.modKernel r.key (fun K => { K with saveAt := some v }) else s)
    else none
  | _ => none

/-- HANSWER (R380, R386): an answer 0 to a launch request keeps it pending. -/
def execHanswer (w : Word) (s : State) : Out :=
  let v := s.helm.mbdata
  s.withMb w 9 (mbArg0 w = 0)
    (match s.helm.requests.find? (fun r => r.seq = mbArg1 w && r.posted) with
     | none => s.mbRefused w
     | some r =>
       if r.func = 3 ∧ v = 0 then s.mbDone w
       else
         match (s.haTaken r.seq).haAnswer r v with
         | some s => s.mbDone w
         | none => s.mbRefused w)

/-! ### Protective limits (R382) -/

/-- The limits in mW: package, matrix, vector, SRAM, fabric, service and I/O (R20, R382). -/
def limits : List Nat := [2400000, 700000, 300000, 450000, 550000, 400000]
/-- The power of the package over the latest period, as its energy gives it (R382, R384). -/
def Helm.power (h : Helm) : Nat := h.spent / 1000
/-- The figures of the latest period, in that order. -/
def Helm.figures (h : Helm) : List Nat := h.power :: ((List.range 4).map h.railPower ++ [h.servicePower])
/-- Some figure is above a share of its limit, in per cent. -/
def Helm.above (h : Helm) (share : Nat) : Bool := (h.figures.zip limits).any (fun p => decide (p.2 * share < p.1 * 100))
/-- Every figure is below a share of its limit. -/
def Helm.below (h : Helm) (share : Nat) : Bool := (h.figures.zip limits).all (fun p => decide (p.1 * 100 < p.2 * share))

/-- Eighths of its declared rate at which a source runs. -/
def Pace.eighths (p : Pace) : Nat := if p.den * p.dnum = 0 then 0 else 8 * p.num * p.dden / (p.den * p.dnum)
/-- A source at so many eighths, from its next sample on: the new schedule begins at that sample's stamp, which is rounded
down, so that the fraction of a tick it held is dropped. DESIGN CHOICE (assumption 109). -/
def Pace.atEighths (p : Pace) (n : Nat) : Pace :=
  { p with num := p.dnum * n, den := p.dden * 8, t0 := p.stamp, base := p.j }

/-- A source may be lowered by another eighth: no tract bound to it falls under 50 MHz (R16, R382).
DEDUCED (assumption 94). -/
def State.lowers (s : State) (k : Nat) : Bool :=
  let p := s.pace k
  let n := p.eighths - 1
  p.on && decide (1 < p.eighths) && s.tracts.all (fun t =>
    t.2.state = .free || tctlKind t.2.tctl != 2 || tctlSrc t.2.tctl != k
      || decide (Config.floorHz * (8 * p.dden) * t.2.m ≤ p.dnum * n * t.2.n))

/-- The rate of a bound tract follows its source (R121): the range of R114 is centred on the new rate at once, so that a sample
already due at the old spacing sets RANGE and later ones do not. DESIGN CHOICE (assumption 110). -/
def State.followPace (s : State) (k : Nat) : State :=
  let p := s.pace k
  { s with tracts := s.tracts.map (fun (t : Nat × Tract) =>
    if tctlKind t.2.tctl = 2 ∧ tctlSrc t.2.tctl = k ∧ t.2.state.runs then (t.1, { t.2 with rate := (p.num, p.den) }) else t) }

/-- Sources of a mask moved by one eighth. -/
def State.shiftPaces (s : State) (mask : Nat) (up : Bool) : State :=
  (List.range 16).foldl (fun s k =>
    if mask / 2 ^ k % 2 = 0 then s
    else
      let p := s.pace k
      (s.setPace k (p.atEighths (if up then min 8 (p.eighths + 1) else p.eighths - 1))).followPace k) s

/-- PRIO of the queues whose kernels hold cores of a cluster, the lowest; 8 where none does. -/
def State.clusterPrio (s : State) (pcl : Nat) : Nat :=
  (s.placedIn pcl).foldl (fun m k => min m (s.queue (s.kernel k).queue).prio) 8

/-- The first of some clusters in the order of R382: lowest PRIO, then the higher number. DEDUCED (assumption 94). -/
def State.firstCluster (s : State) (l : List Nat) : Option Nat :=
  (sortBy (fun c => s.clusterPrio c * 64 + (63 - c % 64)) l).head?

/-- Pace tracts that no step holds yet; tracts bound to a port or a link stream on which a kernel runs. -/
def State.paceTracts (s : State) : List Nat := (List.range 64).filter (fun c =>
  let t := s.tract c
  t.state.runs && tctlKind t.tctl = 2 && !t.alternate)
def State.lockedTracts (s : State) : List Nat := (List.range 64).filter (fun c =>
  s.locked (8 * c) && (s.placedIn c).any (fun k => (s.kernel k).state = .running || (s.kernel k).state = .draining))

/-- A protective step is taken and recorded (R382, R387). DEDUCED (assumption 92). -/
def State.powerStep (s : State) (die kind detail : Nat) : State :=
  let s := s.log die 5 kind (word detail) 0xFFFF 0xFFFF
  if kind = 4 then s else { s with helm := { s.helm with steps := (kind, detail) :: s.helm.steps } }

/-- The core of a kernel in a cluster, its lowest. -/
def Kernel.coreIn (K : Kernel) (pcl : Nat) : Nat := ((K.seats.find? (fun t => t.pcn / 8 = pcl)).map (·.pcn)).getD (8 * pcl)

/-- The kernel that step 4 of R382 stops on a cluster: of those that run there, one of the lowest PRIO.
DEDUCED (assumption 94). -/
def State.stoppable (s : State) (pcl : Nat) : Option Nat :=
  (sortBy (fun k => (s.queue (s.kernel k).queue).prio) ((s.placedIn pcl).dedup.filter (fun k =>
    (s.kernel k).state = .running || (s.kernel k).state = .draining))).head?

/-- Step 4: the kernel on the locked tract of lowest PRIO stops, and the logbook freezes (R382, R387). -/
def State.stopLocked (s : State) (pcl : Nat) : State :=
  let s := s.powerStep (pcl / 16) 4 pcl
  let s := match s.stoppable pcl with
    | some k => s.kernelFault k { code := .powerStop, pcn := (s.kernel k).coreIn pcl, recVa := (s.kernel k).krec }
    | none => s
  s.freezeLog (pcl / 16)

/-- The next step while a soft limit is exceeded: sources, then pace tracts; then, past two periods over the hard limit, a
locked tract. DEDUCED (assumption 94). -/
def State.protect (s : State) (hard : Nat) : State :=
  let mask := ((List.range 16).filter s.lowers).map (fun k => 2 ^ k) |>.sum
  if mask ≠ 0 then (s.shiftPaces mask false).powerStep 0 1 mask
  else
    match s.firstCluster s.paceTracts with
    | some c => (s.modTract c (fun t => { t with alternate := true })).powerStep (c / 16) 2 c
    | none =>
      if hard < 2 then s
      else
        match s.firstCluster s.lockedTracts with
        | some c => s.stopLocked c
        | none => s

/-- The newest step is undone and recorded (R382, R387). DEDUCED (assumption 92), DEDUCED (assumption 94). -/
def State.undoStep (s : State) : State :=
  match s.helm.steps with
  | [] => s
  | (kind, detail) :: r =>
    let s := { s with helm := { s.helm with steps := r, calmAt := s.chron } }
    let s := s.log (if kind = 1 then 0 else detail / 16) 5 (8 + kind) (word detail) 0xFFFF 0xFFFF
    if kind = 1 then s.shiftPaces detail true else s.modTract detail (fun t => { t with alternate := false })

/-- The meters of a period that ends now: ENERGY counts what was spent in it (R384). -/
def Helm.metered (h : Helm) (meter : PowerMeter) (now : Word) : Helm :=
  let h := { h with meter := meter, periodAt := now, spared := h.elided, elided := 0 }
  { h with energy := h.energy + word ((h.nano + h.spent) / 1000), nano := (h.nano + h.spent) % 1000 }

/-- POWER_PERIOD (R382, R384): every 1,000,000 ticks the meters are read, and at most one step is taken. -/
def execPowerPeriod (meter : PowerMeter) (s : State) : Out :=
  if (s.chron - s.helm.periodAt).toNat < Config.powerTicks then .next s
  else
    let h := s.helm.metered meter s.chron
    let covered := !((List.range 16).any s.lowers) && s.paceTracts.isEmpty
    let hard := if covered ∧ 2400000 < h.power then h.overHard + 1 else 0
    let calm := if h.below 90 then h.calm + 1 else 0
    let s := { s with helm := { h with overHard := hard, calm := calm } }
    if h.above 95 then .next (s.protect hard)
    else if 100 ≤ calm ∧ 10000000 ≤ (s.chron - h.calmAt).toNat then .next s.undoStep
    else .next s

/-! ### Heat (R383) -/

/-- The hot-spot threshold, 95 °C. -/
def hotSpot : Nat := 1520

/-- A kernel that the helm may move: it runs on a pace tract, has stubs, has resided long enough, and one of its clusters
is above the threshold while not every cluster is. DEDUCED (assumption 95). -/
def State.mayHeatMove (s : State) (k : Nat) : Bool :=
  let K := s.kernel k
  K.state = .running && K.sx.isNone && !K.onLocked && K.clusters.all (fun c => tctlKind (s.tract c).tctl = 2)
    && !K.hdr.stubs.isEmpty && decide (500000000 ≤ (s.chron - K.since).toNat)
    && K.clusters.any (fun c => decide (hotSpot < s.temp c))
    && (List.range 64).any (fun c => decide (s.temp c ≤ hotSpot))

/-- A kernel as it would seek its new place: what it leaves, and when. -/
def Kernel.leaving (K : Kernel) (now : Word) : Kernel :=
  { K with moving := true, from_ := K.seats.map (fun t => t.pcn / 8), left := K.left ++ K.clusters.map (fun c => (c, now)) }

/-- Clusters above the hot-spot threshold. -/
def State.hotClusters (s : State) : List Nat := (List.range 64).filter (fun c => decide (hotSpot < s.temp c))

/-- THERMAL_MOVE (R383, R385, R386): in hardware mode a kernel that has a cooler place drains and will relaunch there; in
host-assisted mode the driver is told of every hot cluster. -/
def execThermalMove (k : Nat) (s : State) : Out :=
  let K := s.kernel k
  if s.assisted 4 then .next (s.hotClusters.foldl (fun r c => r.haRequest 4 c (word (s.temp c)) 0 c (.queue 0)) s)
  else if s.mayHeatMove k ∧ (s.fit (K.leaving s.chron)).isSome then
    .next ((s.setKernel k { K with moving := true }).requestPreempt k)
  else .next s

/-! ### Soft errors and bring-up -/

/-- SOFT_ERROR (R387): in kernel-owned state a kernel fault; elsewhere it freezes the die's logbook.
DEDUCED (assumption 96). -/
def execSoftError (die : Nat) (pcn : Option Nat) (s : State) : Out :=
  match pcn with
  | none => .next (s.freezeLog die)
  | some p =>
    match (s.core p).kernel with
    | none => .next (s.freezeLog die)
    | some k =>
      .next (s.kernelFault k { code := .softError, pcn := p, recVa := (s.kernel k).krec })

/-- What a power-on reset leaves of a die: its logbook (R387), and the self-test of its pair (R373).
DEDUCED (assumption 97). -/
def Die.powerOn (d : Die) (ok : Bool) : Die :=
  { logs := d.logs, logSeq := d.logSeq, frozen := d.frozen, lost := d.lost, pairOk := ok }

/-- What a reset leaves of a context: the side that the manual keeps in its record, which no reset changes (R4, R319).
DEDUCED (assumption 97). -/
def Context.powerOn (c : Context) : Context :=
  { c with pending := false, stopAfter := false, freeing := false, held := [] }

/-- POWER_ON (R4, R373, R381, R387 to R389): the state at reset, but for what no reset changes: main memory and the contexts
that its records hold, the package's identity and modules, the logbooks, and the helm's flash, from which a staged image now
runs; every rail at P6, and the pilot elected. DEDUCED (assumption 97). -/
def execPowerOn (s : State) : Out :=
  let ok (d : Nat) : Bool := Config.freeSelfTest (s.freeCtr + d)
  let running := s.helm.staged.getD s.helm.running
  .next { State.reset with
    pkg := s.pkg, fitted := s.fitted, mem := s.mem, host := s.host
    ctxs := s.ctxs.map (fun (p : Nat × Context) => (p.1, p.2.powerOn)), agenda := s.agenda, freeCtr := s.freeCtr + 4
    dies := (List.range 4).map (fun d => (d, (s.die d).powerOn (ok d)))
    helm := { State.reset.helm with
      rails := Vector.replicate 4 { now := 6 }
      pilot := (List.range 4).find? ok
      running := running
      counter := match s.helm.staged with
        | some i => max s.helm.counter (Config.imageVersion i)
        | none => s.helm.counter } }

end Sys2Proof.Machine
end

