-- ==== Sys2Proof/Machine/Flags.lean ====
section
/-! DEFINITION. Machine/Flags.lean: what words write into condition registers: the compares of R156 and the carry and
borrow of the scalar carry chain (R174). No other scalar or vector word sets a flag (R172, R193). -/

namespace Sys2Proof.Machine

/-- Signed order of two registers (R156 sext). -/
def sLt (a b : Word) : Bool := a.slt b
/-- Unsigned order of two registers (R156 zext). -/
def uLt (a b : Word) : Bool := a.ult b
/-- (x[a] and x[b]) ≠ 0 (R156). -/
def tst (a b : Word) : Bool := (a &&& b) != 0

/-- The carry out of a + b + c: s >> 64 for s exact (R174). -/
def carryOf (a b : Word) (c : Bool) : Bool := decide (2 ^ 64 ≤ a.toNat + b.toNat + num c)
/-- The sum modulo 2^64 (R174). -/
def addWith (a b : Word) (c : Bool) : Word := word (a.toNat + b.toNat + num c)
/-- The borrow of a − b − c: ua < ub + c (R174). -/
def borrowOf (a b : Word) (c : Bool) : Bool := decide (a.toNat < b.toNat + num c)
/-- The difference modulo 2^64 (R174). -/
def subWith (a b : Word) (c : Bool) : Word := a - b - word (num c)

end Sys2Proof.Machine
end

