-- ==== Sys2Proof/Machine/Scalar.lean ====
section
/-! DEFINITION. Machine/Scalar.lean: the majors ia, ii, iw, bf, cmp and sp and their compact forms (R63 to R65, R154, R156,
R172 to R177). -/

namespace Sys2Proof.Machine

/-! ### Arithmetic helpers -/

/-- The high 64 bits of the signed product (R172). -/
def mulHigh (a b : Word) : Word := sword ((a.toInt * b.toInt) / (2 ^ 64 : Int))
/-- The high 64 bits of the unsigned product (R172). -/
def mulHighU (a b : Word) : Word := word (a.toNat * b.toNat / 2 ^ 64)
/-- The signed quotient rounded toward zero (R173). -/
def divS (a b : Word) : Word := if b = 0 then -1 else sword (Int.tdiv a.toInt b.toInt)
/-- The signed remainder (R173). -/
def remS (a b : Word) : Word := if b = 0 then a else sword (Int.tmod a.toInt b.toInt)
/-- The unsigned quotient (R173). -/
def divU (a b : Word) : Word := if b = 0 then -1 else word (a.toNat / b.toNat)
/-- The unsigned remainder (R173). -/
def remU (a b : Word) : Word := if b = 0 then a else word (a.toNat % b.toNat)
/-- sext(v, w) and zext(v, w) of a register (R74). -/
def sextN (w : Nat) (v : Word) : Word := sword (bitsInt w true v.toNat)
def zextN (w : Nat) (v : Word) : Word := word (v.toNat % 2 ^ w)
/-- 8, 16 or 32 bits, by the position of the FN in its run (R172). -/
def extWidth (k : Nat) : Nat := if k = 0 then 8 else if k = 1 then 16 else 32

/-- k := x[b][5:0] (R177). -/
def amount (b : Word) : Nat := bits b 5 0
/-- The field control word: pos and len, a len of 0 standing for 64 (R177). -/
def fieldPos (b : Word) : Nat := bits b 5 0
def fieldLen (b : Word) : Nat := if bits b 13 8 = 0 then 64 else bits b 13 8
/-- The bit-field insert (R177): bits above 63 are dropped. -/
def insertField (d a b : Word) : Word :=
  let m := (2 ^ fieldLen b - 1) * 2 ^ fieldPos b % 2 ^ 64
  (d &&& ~~~(word m)) ||| (word (a.toNat % 2 ^ fieldLen b * 2 ^ fieldPos b) &&& word m)
/-- The funnel shift (R177). -/
def funnel (d a b : Word) : Word := (d <<< amount b) ||| (a >>> (64 - amount b))
/-- Number of 1 bits among the low n (R177, R186). -/
def popCount (v : Nat) : Nat → Nat
  | 0 => 0
  | n + 1 => v % 2 + popCount (v / 2) n
/-- Leading zeros of the low n bits. -/
def leadZeros (v : Nat) : Nat → Nat
  | 0 => 0
  | n + 1 => if v / 2 ^ n % 2 = 1 then 0 else 1 + leadZeros v n
/-- Trailing zeros of the low n bits. -/
def trailZeros (v : Nat) : Nat → Nat
  | 0 => 0
  | n + 1 => if v % 2 = 1 then 0 else 1 + trailZeros (v / 2) n
/-- bit j := bit 63 − j (R177). -/
def bitRev (v : Word) : Word := word ((List.range 64).foldl (fun acc j => acc + v.toNat / 2 ^ j % 2 * 2 ^ (63 - j)) 0)
/-- byte j := byte 7 − j (R177). -/
def byteRev (v : Word) : Word :=
  word ((List.range 8).foldl (fun acc j => acc + v.toNat / 2 ^ (8 * j) % 256 * 2 ^ (8 * (7 - j))) 0)
/-- k := FN[0] × 32 + B of an immediate shift (R177). -/
def immAmount (s5 : BitVec 5) (h : BitVec 1) : Nat := h.toNat * 32 + s5.toNat

/-! ### Shared meanings -/

/-- x[d] := f(x[a], x[b]). -/
def State.op2 (s : State) (f : Word → Word → Word) (d a b : BitVec 5) : Out := .next (s.wx d (f (s.rx a) (s.rx b)))
/-- x[d] := f(x[a]). -/
def State.op1 (s : State) (f : Word → Word) (d a : BitVec 5) : Out := .next (s.wx d (f (s.rx a)))
/-- A division takes 34 issue cycles (R171). -/
def State.opDiv (s : State) (f : Word → Word → Word) (d a b : BitVec 5) : Out :=
  .next ((s.wx d (f (s.rx a) (s.rx b))).spend 33)
/-- A word of the carry chain: x[d] and c3 (R174). -/
def State.opCarry (s : State) (f : Word → Word → Bool → Word) (c : Word → Word → Bool → Bool) (start : Bool)
    (d a b : BitVec 5) : Out :=
  let cin := !start && s.me.rc 3
  .next ((s.wx d (f (s.rx a) (s.rx b) cin)).wc 3 (c (s.rx a) (s.rx b) cin))
/-- c[d] := f(x[a], x[b]) (R156). -/
def State.opCmp (s : State) (f : Word → Word → Bool) (d a b : BitVec 5) : Out :=
  .next (s.wc d.toNat (f (s.rx a) (s.rx b)))
/-- c[d] := f(c[a], c[b]) (R156). -/
def State.opCond (s : State) (f : Bool → Bool → Bool) (d a b : BitVec 5) : Out :=
  .next (s.wc d.toNat (f (s.me.rc a.toNat) (s.me.rc b.toNat)))

/-! ### ia (R172 to R174) -/

/-- `ia.add` (R172). -/
def execIaAdd (d a b : BitVec 5) (s : State) : Out := s.op2 (fun a b => a + b) d a b
/-- `ia.sub` (R172). -/
def execIaSub (d a b : BitVec 5) (s : State) : Out := s.op2 (fun a b => a - b) d a b
/-- `ia.and` (R172). -/
def execIaAnd (d a b : BitVec 5) (s : State) : Out := s.op2 (fun a b => a &&& b) d a b
/-- `ia.or` (R172). -/
def execIaOr (d a b : BitVec 5) (s : State) : Out := s.op2 (fun a b => a ||| b) d a b
/-- `ia.xor` (R172). -/
def execIaXor (d a b : BitVec 5) (s : State) : Out := s.op2 (fun a b => a ^^^ b) d a b
/-- `ia.andn` (R172). -/
def execIaAndn (d a b : BitVec 5) (s : State) : Out := s.op2 (fun a b => a &&& ~~~b) d a b
/-- `ia.orn` (R172). -/
def execIaOrn (d a b : BitVec 5) (s : State) : Out := s.op2 (fun a b => a ||| ~~~b) d a b
/-- `ia.mul` (R172). -/
def execIaMul (d a b : BitVec 5) (s : State) : Out := s.op2 (fun a b => a * b) d a b
/-- `ia.mulh` (R172). -/
def execIaMulh (d a b : BitVec 5) (s : State) : Out := s.op2 (fun a b => mulHigh a b) d a b
/-- `ia.mulhu` (R172). -/
def execIaMulhu (d a b : BitVec 5) (s : State) : Out := s.op2 (fun a b => mulHighU a b) d a b
/-- `ia.min` (R172). -/
def execIaMin (d a b : BitVec 5) (s : State) : Out := s.op2 (fun a b => if sLt b a then b else a) d a b
/-- `ia.max` (R172). -/
def execIaMax (d a b : BitVec 5) (s : State) : Out := s.op2 (fun a b => if sLt a b then b else a) d a b
/-- `ia.minu` (R172). -/
def execIaMinu (d a b : BitVec 5) (s : State) : Out := s.op2 (fun a b => if uLt b a then b else a) d a b
/-- `ia.maxu` (R172). -/
def execIaMaxu (d a b : BitVec 5) (s : State) : Out := s.op2 (fun a b => if uLt a b then b else a) d a b
/-- `ia.adds` (R172). -/
def execIaAdds (d a b : BitVec 5) (s : State) : Out := s.op2 (fun a b => sword (satInt 64 true (a.toInt + b.toInt))) d a b
/-- `ia.subs` (R172). -/
def execIaSubs (d a b : BitVec 5) (s : State) : Out := s.op2 (fun a b => sword (satInt 64 true (a.toInt - b.toInt))) d a b
/-- `ia.mov` (R172). -/
def execIaMov (d a : BitVec 5) (s : State) : Out := s.op1 id d a
/-- `ia.div` (R173). -/
def execIaDiv (d a b : BitVec 5) (s : State) : Out := s.opDiv divS d a b
/-- `ia.divu` (R173). -/
def execIaDivu (d a b : BitVec 5) (s : State) : Out := s.opDiv divU d a b
/-- `ia.rem` (R173). -/
def execIaRem (d a b : BitVec 5) (s : State) : Out := s.opDiv remS d a b
/-- `ia.remu` (R173). -/
def execIaRemu (d a b : BitVec 5) (s : State) : Out := s.opDiv remU d a b
/-- `ia.addco` (R174). -/
def execIaAddco (d a b : BitVec 5) (s : State) : Out := s.opCarry addWith carryOf true d a b
/-- `ia.addc` (R174). -/
def execIaAddc (d a b : BitVec 5) (s : State) : Out := s.opCarry addWith carryOf false d a b
/-- `ia.subbo` (R174). -/
def execIaSubbo (d a b : BitVec 5) (s : State) : Out := s.opCarry subWith borrowOf true d a b
/-- `ia.subb` (R174). -/
def execIaSubb (d a b : BitVec 5) (s : State) : Out := s.opCarry subWith borrowOf false d a b
/-- `ia.sxt` (R172): the field w counts from FN 0x18, so 1, 2 and 3 are 8, 16 and 32 bits. -/
def execIaSxt (d a : BitVec 5) (w : BitVec 2) (s : State) : Out := s.op1 (sextN (extWidth (w.toNat - 1))) d a
/-- `ia.zxt` (R172): the field w counts from FN 0x1C. -/
def execIaZxt (d a : BitVec 5) (w : BitVec 2) (s : State) : Out := s.op1 (zextN (extWidth w.toNat)) d a
/-- `ia.amov` (R172). -/
def execIaAmov (d a : BitVec 5) (s : State) : Out := .next (s.modMe (fun m => m.wa (d.setWidth 4) (m.rx a)))
/-- `ia.xmov` (R172). -/
def execIaXmov (d a : BitVec 5) (s : State) : Out := .next (s.wx d (s.me.ra (a.setWidth 4)))
/-- `ia.aadd` (R172). -/
def execIaAadd (d a b : BitVec 5) (s : State) : Out :=
  .next (s.modMe (fun m => m.wa (d.setWidth 4) (m.ra (a.setWidth 4) + m.rx b)))
/-- `ia.arow` (R172). -/
def execIaArow (d a b : BitVec 5) (s : State) : Out :=
  .next (s.modMe (fun m => m.wa (d.setWidth 4) (m.ra (a.setWidth 4) + (m.rx b <<< 6))))

/-! ### Compact ALU (R64), ii (R175), load immediate (R65), iw (R176) -/

/-- The compact `ia.add d, d, a` (R64). -/
def execCompactAdd (d a : BitVec 5) (s : State) : Out := s.op2 (fun a b => a + b) d d a
/-- The compact `ia.sub d, d, a` (R64). -/
def execCompactSub (d a : BitVec 5) (s : State) : Out := s.op2 (fun a b => a - b) d d a
/-- The compact `ia.and d, d, a` (R64). -/
def execCompactAnd (d a : BitVec 5) (s : State) : Out := s.op2 (fun a b => a &&& b) d d a
/-- The compact `ia.or d, d, a` (R64). -/
def execCompactOr (d a : BitVec 5) (s : State) : Out := s.op2 (fun a b => a ||| b) d d a
/-- The compact `ia.xor d, d, a` (R64). -/
def execCompactXor (d a : BitVec 5) (s : State) : Out := s.op2 (fun a b => a ^^^ b) d d a
/-- The compact `ia.mov d, a` (R64). -/
def execCompactMov (d a : BitVec 5) (s : State) : Out := s.op1 id d a
/-- The compact `bf.sll d, d, a` (R64). -/
def execCompactSll (d a : BitVec 5) (s : State) : Out := s.op2 (fun a b => a <<< amount b) d d a
/-- The compact `bf.srl d, d, a` (R64). -/
def execCompactSrl (d a : BitVec 5) (s : State) : Out := s.op2 (fun a b => a >>> amount b) d d a
/-- `ii.add` (R175). -/
def execIiAdd (d a : BitVec 5) (k : BitVec 11) (s : State) : Out := .next (s.wx d (s.rx a + k.signExtend 64))
/-- The compact load immediate, `ii.add x, x0, sext(imm8, 8)` (R65). -/
def execCompactLoadImmediate (d : BitVec 5) (k : BitVec 8) (s : State) : Out := .next (s.wx d (k.signExtend 64))
/-- `iw.ins` (R176). -/
def execIwIns (d : BitVec 5) (k : BitVec 16) (s : State) : Out :=
  .next (s.wx d ((s.rx d <<< 16) ||| k.setWidth 64))

/-! ### bf (R177) -/

/-- `bf.sll` (R177). -/
def execBfSll (d a b : BitVec 5) (s : State) : Out := s.op2 (fun a b => a <<< amount b) d a b
/-- `bf.srl` (R177). -/
def execBfSrl (d a b : BitVec 5) (s : State) : Out := s.op2 (fun a b => a >>> amount b) d a b
/-- `bf.sra` (R177). -/
def execBfSra (d a b : BitVec 5) (s : State) : Out := s.op2 (fun a b => a.sshiftRight (amount b)) d a b
/-- `bf.rol` (R177). -/
def execBfRol (d a b : BitVec 5) (s : State) : Out := s.op2 (fun a b => a.rotateLeft (amount b)) d a b
/-- `bf.ror` (R177). -/
def execBfRor (d a b : BitVec 5) (s : State) : Out := s.op2 (fun a b => a.rotateRight (amount b)) d a b
/-- `bf.bfx` (R177). -/
def execBfBfx (d a b : BitVec 5) (s : State) : Out := s.op2 (fun a b => zextN (fieldLen b) (a >>> fieldPos b)) d a b
/-- `bf.bfxs` (R177). -/
def execBfBfxs (d a b : BitVec 5) (s : State) : Out := s.op2 (fun a b => sextN (fieldLen b) (a >>> fieldPos b)) d a b
/-- `bf.bfi` (R177). -/
def execBfBfi (d a b : BitVec 5) (s : State) : Out := .next (s.wx d (insertField (s.rx d) (s.rx a) (s.rx b)))
/-- `bf.fsh` (R177). -/
def execBfFsh (d a b : BitVec 5) (s : State) : Out := .next (s.wx d (funnel (s.rx d) (s.rx a) (s.rx b)))
/-- `bf.pop` (R177). -/
def execBfPop (d a : BitVec 5) (s : State) : Out := s.op1 (fun v => word (popCount v.toNat 64)) d a
/-- `bf.clz` (R177). -/
def execBfClz (d a : BitVec 5) (s : State) : Out := s.op1 (fun v => word (leadZeros v.toNat 64)) d a
/-- `bf.ctz` (R177). -/
def execBfCtz (d a : BitVec 5) (s : State) : Out := s.op1 (fun v => word (trailZeros v.toNat 64)) d a
/-- `bf.rev` (R177). -/
def execBfRev (d a : BitVec 5) (s : State) : Out := s.op1 bitRev d a
/-- `bf.revb` (R177). -/
def execBfRevb (d a : BitVec 5) (s : State) : Out := s.op1 byteRev d a
/-- `bf.slli` (R177). -/
def execBfSlli (d a s5 : BitVec 5) (h : BitVec 1) (s : State) : Out := s.op1 (fun v => v <<< immAmount s5 h) d a
/-- `bf.srli` (R177). -/
def execBfSrli (d a s5 : BitVec 5) (h : BitVec 1) (s : State) : Out := s.op1 (fun v => v >>> immAmount s5 h) d a
/-- `bf.srai` (R177). -/
def execBfSrai (d a s5 : BitVec 5) (h : BitVec 1) (s : State) : Out := s.op1 (fun v => v.sshiftRight (immAmount s5 h)) d a
/-- `bf.roli` (R177). -/
def execBfRoli (d a s5 : BitVec 5) (h : BitVec 1) (s : State) : Out := s.op1 (fun v => v.rotateLeft (immAmount s5 h)) d a
/-- `bf.rori` (R177). -/
def execBfRori (d a s5 : BitVec 5) (h : BitVec 1) (s : State) : Out := s.op1 (fun v => v.rotateRight (immAmount s5 h)) d a

/-! ### cmp (R156) -/

/-- `cmp.eq` (R156). -/
def execCmpEq (d a b : BitVec 5) (s : State) : Out := s.opCmp (fun a b => a == b) d a b
/-- `cmp.ne` (R156). -/
def execCmpNe (d a b : BitVec 5) (s : State) : Out := s.opCmp (fun a b => a != b) d a b
/-- `cmp.lt` (R156). -/
def execCmpLt (d a b : BitVec 5) (s : State) : Out := s.opCmp (fun a b => sLt a b) d a b
/-- `cmp.ge` (R156). -/
def execCmpGe (d a b : BitVec 5) (s : State) : Out := s.opCmp (fun a b => !(sLt a b)) d a b
/-- `cmp.ltu` (R156). -/
def execCmpLtu (d a b : BitVec 5) (s : State) : Out := s.opCmp (fun a b => uLt a b) d a b
/-- `cmp.geu` (R156). -/
def execCmpGeu (d a b : BitVec 5) (s : State) : Out := s.opCmp (fun a b => !(uLt a b)) d a b
/-- `cmp.tst` (R156). -/
def execCmpTst (d a b : BitVec 5) (s : State) : Out := s.opCmp (fun a b => tst a b) d a b
/-- `cmp.ntst` (R156). -/
def execCmpNtst (d a b : BitVec 5) (s : State) : Out := s.opCmp (fun a b => !(tst a b)) d a b
/-- `cmp.and` (R156). -/
def execCmpAnd (d a b : BitVec 5) (s : State) : Out := s.opCond (fun a b => a && b) d a b
/-- `cmp.or` (R156). -/
def execCmpOr (d a b : BitVec 5) (s : State) : Out := s.opCond (fun a b => a || b) d a b
/-- `cmp.andn` (R156). -/
def execCmpAndn (d a b : BitVec 5) (s : State) : Out := s.opCond (fun a b => a && !b) d a b
/-- `cmp.xor` (R156). -/
def execCmpXor (d a b : BitVec 5) (s : State) : Out := s.opCond (fun a b => a != b) d a b
/-- `cmp.stg` (R156): bit a of SPW as it stands at issue. -/
def execCmpStg (d a : BitVec 5) (s : State) : Out := .next (s.wc d.toNat (s.me.spw.getLsbD a.toNat))

/-! ### sp (R154) and the compact spill and fill (R65) -/

/-- scalar slot := x[a]. -/
def State.spillX (s : State) (a : BitVec 5) (slot : Nat) : Out :=
  .next (s.modMe (fun m => { m with spill := m.spill.set slot (m.rx a) }))
/-- x[d] := scalar slot; a slot never spilled holds zero (R132). -/
def State.fillX (s : State) (d : BitVec 5) (slot : Nat) : Out := .next (s.wx d (s.me.spill.get 0 slot))

/-- `sp.spill` (R154). -/
def execSpSpill (a : BitVec 5) (slot : BitVec 8) (s : State) : Out := s.spillX a slot.toNat
/-- `sp.fill` (R154). -/
def execSpFill (d : BitVec 5) (slot : BitVec 8) (s : State) : Out := s.fillX d slot.toNat
/-- `sp.vspill` (R154). -/
def execSpVspill (a : BitVec 5) (slot : BitVec 8) (s : State) : Out :=
  .next (s.modMe (fun m => { m with vspill := m.vspill.set slot.toNat (m.rv a) }))
/-- `sp.vfill` (R154). -/
def execSpVfill (d : BitVec 5) (slot : BitVec 8) (s : State) : Out := .next (s.wv d (s.me.vspill.get 0 slot.toNat))
/-- The compact `sp.spill` (R65). -/
def execCompactSpill (slot : BitVec 7) (a : BitVec 5) (s : State) : Out := s.spillX a slot.toNat
/-- The compact `sp.fill` (R65). -/
def execCompactFill (slot : BitVec 7) (d : BitVec 5) (s : State) : Out := s.fillX d slot.toNat

end Sys2Proof.Machine
end

