-- ==== Sys2Proof/Machine/Sextants.lean ====
section
/-! DEFINITION. Machine/Sextants.lean: the Sextant refinement controller: command block and checks (R358, R359), states
(R360, R361), tests (R362, R363), RESULT (R364), and the mx major (R365). -/

namespace Sys2Proof.Machine

/-! ### The command block (R358, R359) -/

/-- Word i of the snapshot. -/
def Sextant.w (x : Sextant) (i : Nat) : Word := x.words.getD i 0
def Sextant.limit (x : Sextant) : Nat := bits (x.w 4) 15 0
def Sextant.sstag (x : Sextant) : Nat := bits (x.w 4) 31 16
def Sextant.nstep (x : Sextant) : Nat := bits (x.w 5) 17 16
/-- The format code of ladder step n. -/
def stepFmt (w5 : Word) (n : Nat) : Nat := bits w5 (4 * n + 3) (4 * n)
/-- The magnitude of an FP32 value in units of 2^−150, and whether it is infinite or NaN. -/
def fp32Mag (v : BitVec 32) : Nat :=
  let e := (v.extractLsb' 23 8).toNat
  let m := (v.extractLsb' 0 23).toNat
  (if e = 0 then m else m + 2 ^ 23) * 2 ^ max e 1
def fp32Wild (v : BitVec 32) : Bool := v.extractLsb' 23 8 = 255
/-- A finite value above 0. -/
def fp32Positive (v : BitVec 32) : Bool := !fp32Wild v && !v.getLsbD 31 && fp32Mag v != 0

/-- TOL, ρ_stag and ρ_div. -/
def Sextant.tol (x : Sextant) : BitVec 32 := BitVec.ofNat 32 (bits (x.w 3) 63 32)
def Sextant.rstag (x : Sextant) : BitVec 32 := BitVec.ofNat 32 (bits (x.w 3) 31 0)
def Sextant.rdiv (x : Sextant) : BitVec 32 := BitVec.ofNat 32 (bits (x.w 4) 63 32)

/-- The checks of R359 that the snapshot itself decides. -/
def blockOk (x : Sextant) : Bool :=
  let w5 := x.w 5
  bits w5 63 26 = 0 && bits w5 19 18 = 0 && x.w 7 = 0 && x.limit != 0
    && !fp32Wild x.tol && (!x.tol.getLsbD 31 || fp32Mag x.tol = 0) && fp32Positive x.rstag && fp32Positive x.rdiv
    && (List.range (x.nstep + 1)).all (fun n => decide (stepFmt w5 n ≤ 3))
    && (bits w5 25 24 = 0 || bits w5 25 24 = 2) && bits w5 23 22 != 3 && bits w5 21 20 != 3
    && (x.w 2).toNat % 8 = 0

/-- R359's checks of a unit's shape: one cluster, the Sextant's. -/
def shapeFits (pcl : Nat) (g : BitVec 32) : Bool :=
  let (g0, g1, _, g3) := gdOf g
  let (od, oc, _) := gshpOrigin g
  g0 = 1 && g1 = 1 && g3 = 1 && (!gshpFix g || (od = pcl / 16 && oc = pcl % 16))

/-- A failure of the snapshot is SX_FORM; R323's stays its own. DEDUCED (assumption 90). -/
def sxFault (f : QFault) : QFault := if f = .ctxMigrating then f else .sxForm

/-- A KERNEL unit that FACT, CORR or TRAPK names: read, valid under R337, alone in its chain, and confined to the cluster.
Its records are returned as the Sextant keeps them. DEDUCED (assumption 90). -/
def State.rdSxUnit (s : State) (q pcl i : Nat) (va : Word) : Rd (List Word) :=
  match s.rdUnit q (fun _ => i) va.toNat with
  | .wait s => .wait s
  | .bad _ i => .bad .sxForm i
  | .got u =>
    match s.rdKernel q (fun _ => i) u false with
    | .wait s => .wait s
    | .bad f i => .bad (sxFault f) i
    | .got K =>
      Rd.check (u.next = 0 && shapeFits pcl K.gshp) .sxForm i <|
      .got (u.recs.flatMap (fun r => word r.1 :: r.2))

/-- The snapshot of a command block at a virtual address: words 0 to 7 and the units (R358, R359).
DEDUCED (assumption 76). -/
def State.rdBlock (s : State) (q pcl i va : Nat) : Rd Sextant :=
  match s.feReads q (.record i) 8 ((List.range 8).map (fun n => va + 8 * n)) with
  | .error s => .wait s
  | .ok vs =>
    let x : Sextant := { state := 1, block := word va, words := vs.map word, queue := q
                         fmt := BitVec.ofNat 4 (stepFmt (word (vs.getD 5 0)) 0) }
    Rd.check (blockOk x) .sxForm i <|
    (s.rdSxUnit q pcl i (x.w 0)).bind fun f =>
    (s.rdSxUnit q pcl i (x.w 1)).bind fun c =>
    (if x.w 6 = 0 then .got [] else s.rdSxUnit q pcl i (x.w 6)).bind fun t =>
    .got { x with recs := [f, c, t] }

/-! ### Launching (R361) -/

/-- The kernel of the Sextant's state is launched as a unit of its queue; where a read must wait, KERNEL_RECORD goes on. -/
def State.sxLaunch (s : State) (pcl : Nat) : State :=
  let x := s.sextant pcl
  let q := x.queue
  match (s.queue q).launch with
  | none => s
  | some l =>
    s.takeUnit q ((s.rdSextantKernel q pcl x.role l.idx false).bind fun K => .got (K, l.next.toNat))

/-- The SEXTANT unit of a queue: from its packet, or the record at `next` (R334, R336). -/
def State.rdSextantRecord (s : State) (q : Nat) (l : Launch) : Rd (List Word) :=
  match l.packet with
  | some p => .got [word (4 * 2 ^ 60), word ((p.getD 0 0).toNat + 2 ^ 32 * (p.getD 1 0).toNat), word (p.getD 2 0).toNat,
      0, 0, 0, 0, 0]
  | none => s.rdRecord q l.idx l.next.toNat

/-- The queue waits for the Sextant, or goes on when it has been accepted (R343, R361). DEDUCED (assumption 90). -/
def Queue.sextantWaits (Q : Queue) : Queue :=
  if Q.state = .idle ∨ Q.state = .fetching then { Q with state := .waiting } else Q
def Queue.sextantTaken (Q : Queue) : Queue := if Q.wait.isNone then Q.settle else Q

/-- The command of an accepted unit begins: the block is read and checked, then the factor kernel is launched. -/
def State.sxBegin (s : State) (q pcl : Nat) (l : Launch) (w : List Word) : State :=
  match s.rdBlock q pcl l.idx (w.getD 1 0).toNat with
  | .wait s => s
  | .bad f i => s.launchFault q f 5 i
  | .got x =>
    let y := s.sextant pcl
    let s := s.setSextant pcl { x with rr := y.rr, waits := y.waits }
    let s := s.modQueue q (fun Q => { Q.sextantTaken with
      oper := if l.packet.isSome then Q.oper else l.next
      launch := some { l with sx := some pcl, next := word (recNext w) } })
    s.sxLaunch pcl

/-- SEXTANT_RECORD (R336, R337, R358, R359, R361). DEDUCED (assumption 90). -/
def execSextantRecord (q : Nat) (s : State) : Out :=
  match s.unitDue q with
  | none => .next s
  | some l =>
    if l.sx.isSome ∨ l.again then .next s
    else
      match s.rdSextantRecord q l with
      | .wait s => .next s
      | .bad f i => .next (s.launchFault q f 5 i)
      | .got w =>
        let pcl := (w.getD 2 0).toNat
        if recKind w ≠ 4 then .next s
        else if !(sextantRecOk w) ∨ !(vaOk (w.getD 1 0).toNat 64) then .next (s.launchFault q .badChain 5 l.idx)
        else
          match s.claimSextant pcl q with
          | (none, s) => .next (s.modQueue q Queue.sextantWaits)
          | (some s, _) => .next (s.sxBegin q pcl l w)

/-! ### States (R360 to R364) -/

/-- The SEXTANT unit that a Sextant works for, while it stands and its context runs. -/
def State.sxUnit (s : State) (pcl : Nat) : Option Launch :=
  let x := s.sextant pcl
  match (s.queue x.queue).launch with
  | none => none
  | some l => if l.sx = some pcl ∧ l.ended.isNone ∧ s.ctxOpen (s.queue x.queue).asid then some l else none

/-- The unit whose kernel has retired, in a state of the Sextant. -/
def State.sxRetired (s : State) (pcl : Nat) (st : BitVec 3) : Option Launch :=
  match s.sxUnit pcl with
  | none => none
  | some l =>
    if (s.sextant pcl).state = st ∧ (l.kernel.map (fun k => (s.kernel k).state)) = some .retired then some l else none

/-- The launch of a queue without its kernel. -/
def State.sxKernelGone (s : State) (q : Nat) : State :=
  s.modQueue q (fun Q => { Q with launch := Q.launch.map (fun l => { l with kernel := none }) })

/-- SX_FACTOR_RETIRE (R361). -/
def execSxFactorRetire (pcl : Nat) (s : State) : Out :=
  match s.sxRetired pcl 1 with
  | none => .next s
  | some _ =>
    let x := s.sextant pcl
    .next (((s.setSextant pcl { x with state := 2, repd := false }).sxKernelGone x.queue).sxLaunch pcl)

/-- SX_CORRECT_RETIRE (R361, R362): what the queue read before the kernel retired is no norm of this pass. -/
def execSxCorrectRetire (pcl : Nat) (s : State) : Out :=
  match s.sxRetired pcl 2 with
  | none => .next s
  | some _ =>
    let x := s.sextant pcl
    .next (((s.setSextant pcl { x with state := 3, pass := x.pass + 1 }).sxKernelGone x.queue).forget (.queue x.queue))

/-- RESULT (R364). -/
def Sextant.result (x : Sextant) : Word :=
  word (x.r.toNat * 2 ^ 32 + x.pass % 2 ^ 16 * 2 ^ 16 + x.step % 4 * 2 ^ 10 + x.exit.toNat * 2 ^ 4 + 1)

/-- The Sextant is IDLE and its unit ends, once the write of RESULT is performed (R357, R364). -/
def State.sxLeave (s : State) (pcl : Nat) (l : Launch) (x : Sextant) : State :=
  if s.owing (.queue x.queue) then s.setSextant pcl { x with fin := true }
  else
    (s.setSextant pcl { x with state := 0, fin := false }).modQueue x.queue (fun Q => { Q with
      launch := some { l with sx := none, kernel := none, idx := l.idx + 1 } })

/-- The command is over (R361, R364): RESULT is written, the Sextant is IDLE, and its unit ends. A write that must wait
changes nothing else. -/
def State.sxFinish (s : State) (pcl : Nat) (l : Launch) (x : Sextant) : State :=
  let q := x.queue
  if x.fin then s.sxLeave pcl l x
  else
    match s.feXl q (.record l.idx) (x.block.toNat + 56) true with
    | .error s => s
    | .ok pa => if s.agentFull pa then s else (s.put (.queue q) pa 8 x.result.toNat).sxLeave pcl l x

/-- What the tests of R363 decide of a pass, with SCNT: EXIT 0 for none. -/
def Sextant.judge (x : Sextant) : BitVec 4 × Nat :=
  let r := fp32Mag x.r
  let p := fp32Mag x.p
  if fp32Wild x.r then (3, x.scnt)
  else if r ≤ fp32Mag x.tol then (1, x.scnt)
  else if x.prev ∧ fp32Mag x.rdiv * p < r * 2 ^ 150 then (3, x.scnt)
  else
    let scnt := if x.prev ∧ fp32Mag x.rstag * p < r * 2 ^ 150 then x.scnt + 1 else 0
    if x.sstag ≠ 0 ∧ x.sstag ≤ scnt then (2, scnt)
    else if x.limit ≤ x.pass then (4, scnt)
    else (0, scnt)

/-- The action on an exit (R358): 0 DONE, 1 ESCALATE, 2 TRAP. -/
def Sextant.action (x : Sextant) (exit : BitVec 4) : Nat :=
  match exit.toNat with
  | 2 => bits (x.w 5) 21 20
  | 3 => bits (x.w 5) 23 22
  | 4 => bits (x.w 5) 25 24
  | _ => 0

/-- A pass is judged, R having been read (R361, R363). DEDUCED (assumption 90). -/
def State.sxJudge (s : State) (pcl : Nat) (l : Launch) (x : Sextant) : State :=
  let (exit, scnt) := x.judge
  let x := { x with scnt := scnt }
  let act := x.action exit
  if exit = 0 then (s.setSextant pcl { x with state := 2, p := x.r, prev := true, repd := false }).sxLaunch pcl
  else if act = 1 ∧ x.step < x.nstep then
    (s.setSextant pcl { x with
      state := 1, step := x.step + 1, fmt := BitVec.ofNat 4 (stepFmt (x.w 5) (x.step + 1)), prev := false
      scnt := 0 }).sxLaunch pcl
  else if act ≠ 0 ∧ (x.w 6).toNat ≠ 0 then (s.setSextant pcl { x with state := 4, exit := exit }).sxLaunch pcl
  else s.sxFinish pcl l { x with exit := exit }

/-- SX_TEST (R361 to R363): the norm of the pass is its latest report, or else the norm word, read once.
DEDUCED (assumption 90). -/
def execSxTest (pcl : Nat) (s : State) : Out :=
  match s.sxUnit pcl with
  | none => .next s
  | some l =>
    let x := s.sextant pcl
    if x.state ≠ 3 then .next s
    else if x.fin then .next (s.sxFinish pcl l x)
    else if x.repd then .next (s.sxJudge pcl l { x with r := x.rep })
    else
      match s.feRead x.queue (.record l.idx) (x.w 2).toNat 8 with
      | .error s => .next s
      | .ok n =>
        let x := { x with rep := BitVec.ofNat 32 n, repd := true }
        .next ((s.setSextant pcl x).sxJudge pcl l { x with r := x.rep })

/-- SX_TRAP_RETIRE (R361, R364). -/
def execSxTrapRetire (pcl : Nat) (s : State) : Out :=
  match s.sxRetired pcl 4 with
  | none => .next s
  | some l => .next (s.sxFinish pcl l (s.sextant pcl))

/-- The LAUNCH of a Sextant's command has ended in a fault (R361). -/
def State.sxLost (s : State) (pcl : Nat) : Bool :=
  match (s.queue (s.sextant pcl).queue).launch with
  | none => true
  | some l => l.sx != some pcl || l.ended = some .faulted

/-- SX_KERNEL_FAULT (R361, R362): a kernel of the command, its launch, or the read of its norm has faulted. -/
def execSxKernelFault (pcl : Nat) (s : State) : Out :=
  if (s.sextant pcl).state ≠ 0 ∧ s.sxLost pcl then .next (s.setSextant pcl (s.sextant pcl).faulted) else .next s

/-! ### The mx major (R365) -/

/-- SXSTAT (R360). -/
def Sextant.sxstat (x : Sextant) : Word :=
  word (x.pass % 2 ^ 16 * 2 ^ 48 + x.scnt % 2 ^ 16 * 2 ^ 32 + x.fmt.toNat * 2 ^ 12 + x.step % 4 * 2 ^ 10
    + x.exit.toNat * 2 ^ 4 + num x.prev * 2 ^ 3 + x.state.toNat)

/-- The Sextant that launched the issuing stream's kernel, and the kernel's role. -/
def State.mySextant (s : State) : Option (Nat × Nat) :=
  match s.myCore.kernel with
  | none => none
  | some k => (s.kernel k).sx

/-- `mx.rd` (R365). -/
def execMxRd (d sel : BitVec 5) (s : State) : Out :=
  match s.mySextant with
  | none => s.fault .sxNone
  | some (pcl, _) =>
    let x := s.sextant pcl
    .next (s.wx d (match sel.toNat with
      | 0 => x.sxstat
      | 1 => x.r.setWidth 64
      | 2 => x.p.setWidth 64
      | _ => x.block))

/-- `mx.rep` (R365): of the reports of one cycle the last in order of package core number, XP before MX, stands. -/
def execMxRep (a : BitVec 5) (s : State) : Out :=
  match s.mySextant with
  | none => s.fault .sxNone
  | some (pcl, role) =>
    let x := s.sextant pcl
    let n := 4 * s.cur.core + s.cur.eng.num + 1
    if role ≠ 1 then s.fault .sxPhase
    else if n < x.repBy then .next s
    else .next (s.setSextant pcl { x with rep := (s.rx a).setWidth 32, repd := true, repBy := n })

end Sys2Proof.Machine
end

