-- ==== Sys2Proof/Machine/Service.lean ====
section
/-! DEFINITION. Machine/Service.lean: the registers that the host port and the command ports reach (R3, R368, R375), the
zq instructions and the packets of a command port (R375, R376), service calls and host-file extents (R153, R377, R378). -/

namespace Sys2Proof.Machine

/-! ### Registers (R368, R375) -/

/-- PSTAT of a port (R376). -/
def Port.pstat (p : Port) : Word :=
  word (p.done.toNat * 2 ^ 48 + fcodeNum p.fcode * 2 ^ 32 + p.fifo.length)

/-- A register number that the table of R375 assigns. -/
def regOk (r : Nat) : Bool :=
  decide (r ≤ 4) || decide (0x10 ≤ r ∧ r ≤ 0x17) || r = 0x20 || r = 0x30 || r = 0x31 || decide (0x8000 ≤ r ∧ r < 0x10000)

/-- The value of a register as a port reads it: SDVA, SDCTL and PSTAT are those of its die. -/
def State.readReg (s : State) (port r : Nat) : Word :=
  if 0x8000 ≤ r then (s.queue ((r - 0x8000) / 8)).roWord ((r - 0x8000) % 8)
  else if 0x10 ≤ r ∧ r ≤ 0x17 then s.qimg.toList.getD (r - 0x10) 0
  else
    match r with
    | 0x00 => s.qctl
    | 0x01 => s.cxcmd
    | 0x02 => (s.die port).sdva
    | 0x03 => (s.die port).sdctl
    | 0x04 => s.ctxtab
    | 0x20 => (s.svc port).pstat
    | 0x30 => s.helm.mbcmd
    | _ => s.helm.mbdata

/-- The state that an effect leads to. -/
def outState (s : State) : Out → State
  | .next t => t
  | _ => s

/-- A write of QCTL, by its OP (R344). -/
def State.writeQctl (s : State) (w : Word) : Out :=
  match bits w 55 52 with
  | 0 => execQctlEnable w s
  | 1 => execQctlDisable w s
  | 2 => execQctlClear w s
  | 3 => execQctlReset w s
  | 4 => execQctlPreempt w s
  | 5 => execQctlRestore w s
  | _ => .next (s.qctlBadOp w)

/-- A write of CXCMD, by its OP (R320). -/
def State.writeCxcmd (s : State) (w : Word) : Out :=
  match bits w 55 52 with
  | 0 => execCtxEnable w s
  | 1 => execCtxSuspend w s
  | 2 => execCtxResume w s
  | 3 => execCtxPrecopy w s
  | 4 => execCtxStopcopy w s
  | 5 => execCtxCommit w s
  | 6 => execCtxAbort w s
  | 7 => execCtxDisable w s
  | 8 => execCtxClear w s
  | 9 => execCtxImport w s
  | _ => .next (s.cxBadOp w)

/-- A command of CXCMD that waited for what a STOPCOPY held is carried out once it can be read, and record words go as their
agents take them (R320, R325). -/
def State.settleRecords (s : State) : State :=
  let s := if s.recs.isEmpty then s else s.putRecs s.recs
  if s.cxWait && !(s.cxHeld (bits s.cxcmd 55 52) (bits s.cxcmd 31 16)) then
    outState s ({ s with cxWait := false, cxcmd := cxcmdMask s.cxcmd }.writeCxcmd s.cxcmd)
  else s

/-- A write of MBCMD, by its OP (R380). A STAGE keeps ST BUSY until its image has been checked. -/
def State.writeMbcmd (s : State) (w : Word) : Out :=
  match mbOp w with
  | 1 => execVote w s
  | 2 => execSetmode w s
  | 3 => execLogread w s
  | 4 => execLogthaw w s
  | 5 => s.withMb w 5 (mbArg0 w = 0 && mbArg1 w = 0) (s.setMb w 1)
  | 6 => execSensor w s
  | 7 =>
    if mbArg1 w = 0 then execLinkEnable w s
    else if mbArg1 w = 1 then execLinkRetrain w s
    else execLinkDisable w s
  | 8 => execHaring w s
  | 9 => execHanswer w s
  | _ => .next (s.mbBadOp w)

/-- A write of a register, SDVA and SDCTL being those of a die: one with a behaviour of its own acts, another stores its
fields; PSTAT is read only. -/
def State.writeReg (s : State) (die r : Nat) (w : Word) : Out :=
  if 0x8000 ≤ r then execQueueLineWrite ((r - 0x8000) / 8) ((r - 0x8000) % 8) w s
  else if 0x10 ≤ r ∧ r ≤ 0x17 then .next { s with qimg := s.qimg.setIfInBounds (r - 0x10) w }
  else
    match r with
    | 0x00 => s.writeQctl w
    | 0x01 => s.writeCxcmd w
    | 0x02 => .next (if die < 4 then s.modDie die (fun D => { D with sdva := w &&& 0x00FFFFFFFFFF0000 }) else s)
    | 0x03 => execShootdown (.write die w) s
    | 0x04 => .next { s with ctxtab := w }
    | 0x30 => s.writeMbcmd w
    | 0x31 => .next { s with helm := { s.helm with mbdata := w } }
    | _ => .next s

/-- REGISTER_WRITE (R3, R317, R368): a write through the host port's privileged registers, numbered as on the command port,
with the die of SDVA and SDCTL; a number that names none of them changes nothing. -/
def execRegisterWrite (r : DieReg) (w : Word) (s : State) : Out :=
  if regOk r.num.toNat then s.writeReg r.die r.num.toNat w else .next s

/-- What BAR0 shows of LKSTAT0 to LKSTAT11 (R353, R368), and what the helm shows of a Sextant's SXSTAT (R360): neither has a
register number. DESIGN CHOICE (assumption 115). -/
def State.bar0Lkstat (s : State) (l : Nat) : Word := (s.link l).lkstat s.chron
def State.helmSxstat (s : State) (pcl : Nat) : Word := (s.sextant pcl).sxstat

/-- What a function reads at a doorbell it does not reach (R368). -/
def State.doorbellReads (s : State) (fn q : Nat) : Option Word := if s.rings fn q then none else some 0

/-! ### The zq instructions (R375) -/

/-- A register of the executing service core; x0 reads 0. -/
def Port.rx (p : Port) (r : BitVec 5) : Word := if r = 0 then 0 else p.x.get r.toFin
/-- A write of it, and the next instruction. -/
def Port.wx (p : Port) (r : BitVec 5) (v : Word) : Port := if r = 0 then p else { p with x := p.x.set r.toNat v r.isLt }
def Port.step (p : Port) : Port := { p with pc := p.pc + 4 }
/-- The executing core. -/
def State.mySvc (s : State) : Port := s.svc s.port
def State.modSvc (s : State) (f : Port → Port) : State := s.setSvc s.port (f s.mySvc)

/-- Words a port's FIFO holds (R375). -/
def portFifo : Nat := 64

/-- The oldest store of a port's core is performed, unless its agent is full (R325, R376). -/
def State.svcStore (s : State) (port : Nat) : State :=
  match (s.svc port).stores with
  | [] => s
  | (pa, n, v) :: r =>
    if s.agentFull pa then s else (s.setSvc port { (s.svc port) with stores := r }).put .agent pa n v

/-- `zq.push` (R375, R376): a full FIFO stalls the core; earlier stores of the core are performed first. -/
def execZqPush (b a : BitVec 5) (s : State) : Out :=
  let p := s.mySvc
  if portFifo ≤ p.fifo.length then .next s
  else if !p.stores.isEmpty then .next (s.svcStore s.port)
  else
    .next (s.modSvc (fun p => { p with fifo := p.fifo ++ [((p.rx a).toNat % 4096, (p.rx b).setWidth 32)] }.step))

/-- The encoding of a zq word with two register fields, for the trap of a register number that is not assigned. -/
def zqWord (f3 : Nat) (b a d : BitVec 5) : BitVec 32 :=
  BitVec.ofNat 32 (b.toNat * 2 ^ 20 + a.toNat * 2 ^ 15 + f3 * 2 ^ 12 + d.toNat * 2 ^ 7 + 0x0B)

/-- `zq.pushw` (R375, R376): earlier stores of the core are performed first. DEDUCED (assumption 77). -/
def execZqPushw (b a : BitVec 5) (s : State) : Out :=
  let r := (s.mySvc.rx a).toNat % 2 ^ 16
  if !(regOk r) then .next (s.serviceTrap s.port (zqWord 1 b a 0))
  else if !s.mySvc.stores.isEmpty then .next (s.svcStore s.port)
  else .next ((outState s (s.writeReg s.port r (s.mySvc.rx b))).modSvc Port.step)

/-- `zq.fence` (R375, R376): every packet that the core has pushed has completed. -/
def execZqFence (d : BitVec 5) (s : State) : Out :=
  let p := s.mySvc
  if !p.fifo.isEmpty ∨ p.inFlight ≠ 0 then .next s
  else .next (s.modSvc (fun p => (p.wx d p.pstat).step))

/-- `zq.stat` (R375). -/
def execZqStat (a d : BitVec 5) (s : State) : Out :=
  let r := (s.mySvc.rx a).toNat % 2 ^ 16
  if !(regOk r) then .next (s.serviceTrap s.port (zqWord 3 0 a d))
  else
    let v := s.readReg s.port r
    .next (s.modSvc (fun p => (p.wx d v).step))

/-! ### Packets of a command port (R376) -/

/-- The words of a queue in a FIFO, and the first whole packet among them. -/
def fifoPacket (fifo : List (Nat × BitVec 32)) (q : Nat) : Option (List (BitVec 32)) :=
  match (fifo.filter (fun e => e.1 = q)).map (·.2) with
  | [] => none
  | h :: r => let n := Packet.count { hdr := h }; if n ≤ r.length then some (h :: r.take n) else none

/-- The first n words of a queue leave a FIFO. -/
def fifoDrop (q : Nat) : List (Nat × BitVec 32) → Nat → List (Nat × BitVec 32)
  | [], _ => []
  | l, 0 => l
  | e :: r, n + 1 => if e.1 = q then fifoDrop q r n else e :: fifoDrop q r (n + 1)

/-- A queue stands at a packet boundary (R376), where no walk or read of its next packet is under way.
DEDUCED (assumption 77). -/
def State.atBoundary (s : State) (q : Nat) : Bool :=
  let Q := s.queue q
  (Q.state = .idle || Q.state = .fetching) && Q.hand.isNone && Q.wait.isNone && Q.lock.isNone && Q.fault?.isNone
    && !Q.performed && !(s.walks.any (fun p => p.2.who = .queue q) && Q.feFor = .packet)

/-- PORT_PACKET (R376): the first whole packet whose queue stands at a boundary passes to it, ahead of its ring.
DEDUCED (assumption 77). -/
def execPortPacket (port : Nat) (s : State) : Out :=
  let p := s.svc port
  match (p.fifo.map (·.1)).find? (fun q => (fifoPacket p.fifo q).isSome && s.atBoundary q) with
  | none => .next s
  | some q =>
    match fifoPacket p.fifo q with
    | none => .next s
    | some ws =>
      let s := s.setSvc port { p with fifo := fifoDrop q p.fifo ws.length, inFlight := p.inFlight + 1 }
      .next ((s.modQueue q (fun Q => { Q with hand := some (ws, port) })).wake q)

/-! ### Service calls (R153, R377) -/

/-- ERR_NOSVC, ERR_REVOKED and ERR_TRUNC (R377). -/
def errNosvc : Word := -1
def errRevoked : Word := -2
def errTrunc : Word := -3

/-- The address of a byte in a context, as the service pair of a die reaches it. -/
def State.svcAddr (s : State) (die asid va : Nat) (write : Bool) : Option Nat :=
  match s.lookup (.svc die asid) die asid va with
  | none => none
  | some e => if write && !e.wr then none else some (e.phys va)

/-- The page-table entry that the walk of an address has still to read (R309). -/
def State.svcWalks (s : State) (die asid va : Nat) : Option Nat :=
  match s.tlbHit die asid va with
  | some _ => none
  | none => match s.walk (.svc die asid) asid va with
    | .held lvl node => some (entryAt va lvl node)
    | _ => none

/-- n bytes within a row as the service pair of a die reads them; none where they do not translate or are not here yet. -/
def State.svcRead (s : State) (die asid va n : Nat) : Option Nat :=
  (s.svcAddr die asid va false).bind (fun pa => s.loadFor (.svc die asid) pa n)

/-- The first row that some addresses need, for their walks or, to be read, for themselves, and that is still to come from
another package or out of a hold. -/
def State.svcAwaits (s : State) (die asid : Nat) (read : Bool) (vas : List Nat) : Option Nat :=
  vas.findSome? (fun va =>
    match s.svcWalks die asid va with
    | some pa => some pa
    | none => if !read then none else (s.svcAddr die asid va false).bind (fun pa =>
        if (s.loadFor (.svc die asid) pa 1).isNone then some pa else none))

/-- Word i of a call's argument row: extent, offset, length, VA (R377). -/
def State.callArg (s : State) (c : Scall) (i : Nat) : Option Word :=
  (s.svcRead (c.who.core / 128) c.asid (c.arg.toNat + 8 * i) 8).map word

/-- The addresses of the n bytes of a buffer. -/
def bufferVas (va n : Nat) : List Nat := (List.range n).map (va + ·)

/-- The extent of a number. -/
def State.extent (s : State) (n : Nat) : Extent := s.extents.get {} n

/-- A call changed. -/
def State.setCall (s : State) (i : Nat) (f : Scall → Scall) : State :=
  { s with scalls := s.scalls.map (fun c => if c.id = i then f c else c) }

/-- The rows of a buffer of n bytes: offset in the buffer and bytes of each. -/
def bufferRows (va n : Nat) : List (Nat × Nat) :=
  (List.range ((va % 64 + n + 63) / 64)).map (fun i =>
    let lo := 64 * i - va % 64
    (lo, min n (64 * (i + 1) - va % 64) - lo))

/-- A byte of a host file: what an FWRITE has put there, else a free value, the i-th of the call (assumption 29). -/
def State.fileByte (s : State) (x : Extent) (off i : Nat) : Byte :=
  (x.data.find? (off + i)).getD (Config.freeByte (s.freeCtr + i))

/-- What a FREAD of n bytes has to write: of each row of the caller's buffer its address, its bytes and their value. -/
def State.fileRows (s : State) (c : Scall) (x : Extent) (off va n : Nat) : List (Nat × Nat × Nat) :=
  (bufferRows va n).filterMap (fun t =>
    (s.svcAddr (c.who.core / 128) c.asid (va + t.1) true).map (fun pa =>
      (pa, t.2, (List.range t.2).foldr (fun j acc => (s.fileByte x off (t.1 + j)).toNat + 256 * acc) 0)))

/-- n bytes of a host file are on their way to the caller's buffer. -/
def State.fillBuffer (s : State) (c : Scall) (x : Extent) (off va n : Nat) : State :=
  { (s.setCall c.id (fun d => { d with writes := s.fileRows c x off va n })) with freeCtr := s.freeCtr + n }

/-- The next row of a FREAD is written, unless its agent is full (R325). -/
def State.callWrite (s : State) (c : Scall) : State :=
  match c.writes with
  | [] => s
  | (pa, n, v) :: r =>
    if s.agentFull pa then s
    else (s.setCall c.id (fun d => { d with writes := r })).put (.svc (c.who.core / 128) c.asid) pa n v

/-- What a turn leaves to the service pairs: each call that still writes its buffer writes one row. -/
def State.settleCalls (s : State) : State :=
  (s.scalls.filter (fun c => !c.writes.isEmpty)).foldl State.callWrite s

/-- n bytes of the caller's buffer reach an extent, from an offset on (R377, R378). -/
def State.fileBytes (s : State) (c : Scall) (ext off va n : Nat) : State :=
  let x := s.extent ext
  let data := (List.range n).foldl (fun m i =>
    match s.svcRead (c.who.core / 128) c.asid (va + i) 1 with
    | none => m
    | some b => Tbl.set m (off + i) (BitVec.ofNat 8 b)) x.data
  { s with extents := s.extents.set ext { x with data := data } }

/-- The bytes of a call on an extent that lie before an end (R378). -/
def roomTo (end_ : Option Nat) (off len : Nat) : Nat :=
  match end_ with
  | none => len
  | some l => min len (l - off)

/-- Those before the extent's end. -/
def Extent.room (x : Extent) (off len : Nat) : Nat := roomTo x.length off len

/-- The extent's end as a call of a number found it when it was issued (R378). -/
def Extent.endAt (x : Extent) (id : Nat) : Option Nat :=
  match x.was.find? (fun e => decide (id < e.1)) with
  | some e => e.2
  | none => x.length

/-- FREAD and FWRITE (R377, R378): `answer` is the count that the host file gives. A FREAD reads up to the end that stood at
its issue. DEDUCED (assumption 98). -/
def State.fileCall (s : State) (c : Scall) (answer : Word) : Word × State :=
  match s.callArg c 0, s.callArg c 1, s.callArg c 2, s.callArg c 3 with
  | some ext, some off, some len, some va =>
    let x := s.extent ext.toNat
    let room := x.room off.toNat len.toNat
    if x.revoked then (errRevoked, s)
    else if c.svc = 1 then
      let n := min answer.toNat (roomTo (x.endAt c.id) off.toNat len.toNat)
      (word n, s.fillBuffer c x off.toNat va.toNat n)
    else
      let n := if room < len.toNat then room else min answer.toNat len.toNat
      (if room < len.toNat then errTrunc else word n, s.fileBytes c ext.toNat off.toNat va.toNat n)
  | _, _, _, _ => (answer, s)

/-- What a FREAD or FWRITE still has to read before it can be served. -/
def State.callAwaits (s : State) (c : Scall) : Option Nat :=
  if c.svc ≠ 1 ∧ c.svc ≠ 2 then none
  else
    match s.svcAwaits (c.who.core / 128) c.asid true (bufferVas c.arg.toNat 32) with
    | some pa => some pa
    | none =>
      match s.callArg c 2, s.callArg c 3 with
      | some len, some va => s.svcAwaits (c.who.core / 128) c.asid (c.svc = 2) (bufferVas va.toNat len.toNat)
      | _, _ => none

/-- A call on an extent that has been revoked (R378). -/
def State.callRevoked (s : State) (c : Scall) : Bool :=
  (c.svc = 1 || c.svc = 2) && (match s.callArg c 0 with
    | some ext => (s.extent ext.toNat).revoked
    | none => false)

/-- A call is served by the agent of its die's pair (R377). -/
def State.serveCall (s : State) (c : Scall) (answer : Word) : Word × State :=
  let n := c.svc.toNat
  if n = 0 then (c.arg, s)
  else if n = 1 ∨ n = 2 then s.fileCall c answer
  else if n < 0x8000 then (errNosvc, s)
  else (answer, s)

/-- Calls that a call of the same die comes after: those of its token that reached the service side before it (R153), and,
for one that a takeover reissues, those of a lower token that it reissues too (R374). -/
def Scall.after (c d : Scall) (earlier : Bool) : Bool :=
  (earlier && d.tok = c.tok) || (c.again && d.again && decide (d.tok.toNat < c.tok.toNat))

/-- The call is among the 256 that its die accepts, no call that comes before it waits, and what it releases is performed
(R153, R374, R377). -/
def State.callReady (s : State) (c : Scall) : Bool :=
  let mine (l : List Scall) : List Scall :=
    l.filter (fun d => d.who.core / 128 = c.who.core / 128 && d.answer.isNone && d.id != c.id)
  let before := mine (s.scalls.takeWhile (fun d => d.id != c.id))
  decide (before.length < Config.scallSlots) && !(before.any (fun d => c.after d true))
    && !((mine s.scalls).any (fun d => c.after d false)) && (s.stream c.who).pend.isEmpty

/-- SERVICE_CALL_DISPATCH (R153, R374, R377, R378, R386): in hardware mode the agent of the issuing die serves the call,
`answer` being what it finds; in host-assisted mode the call is put to the host driver, which answers it with HANSWER. A call
on a revoked extent is answered so in either mode. DEDUCED (assumption 98). -/
def execServiceCallDispatch (i : Nat) (answer : Word) (s : State) : Out :=
  match s.scalls.find? (fun c => c.id = i) with
  | none => .next s
  | some c =>
    let die := c.who.core / 128
    let ext := if c.svc = 1 ∨ c.svc = 2 then s.callArg c 0 else none
    if c.answer.isSome ∨ c.haSeq.isSome ∨ !(s.callReady c) then .next s
    else
      match s.callAwaits c with
      | some pa => .next (s.awaitLoad (.svc die c.asid) pa)
      | none =>
        if s.callRevoked c then .next ((s.setCall i (fun c => { c with answer := some errRevoked })).forget (.svc die c.asid))
        else if s.assisted 7 then
          .next ((s.setCall i (fun c => { c with haSeq := some s.haSeq, ext := ext })).haRequest 7 die c.arg c.req i (.ap c.who.core))
        else if !(s.agentServes die) then .next s
        else
          let (v, s) := s.serveCall c answer
          .next ((s.setCall i (fun c => { c with answer := some v, ext := ext })).forget (.svc die c.asid))

/-- EXTENT_REVOKE (R378): once no call on the extent is in flight; a length of 2^64 or more stands for revocation.
DEDUCED (assumption 98). -/
def execExtentRevoke (ext : Word) (len : Nat) (s : State) : Out :=
  if s.scalls.any (fun c => c.ext = some ext && (c.answer.isNone || !c.writes.isEmpty
      || s.owing (.svc (c.who.core / 128) c.asid))) then .next s
  else
    let x := s.extent ext.toNat
    let y : Extent :=
      if 2 ^ 64 ≤ len then { x with revoked := true }
      else { x with
        length := some (match x.length with | none => len | some l => min l len), was := x.was ++ [(s.nextScall, x.length)] }
    .next { s with extents := s.extents.set ext.toNat y }

end Sys2Proof.Machine
end

