-- ==== Sys2Proof/Machine/Vector.lean ====
section
/-! DEFINITION. Machine/Vector.lean: the vector majors vi, vf, vc, vp, vr, vq and vt and the expert words of rg (R171,
R179, R181 to R191). -/

namespace Sys2Proof.Machine

/-! ### Types and lanes -/

/-- Bits and signedness of an integer lane type T (R181). -/
def tWidth (t : BitVec 3) : Nat := #[8, 16, 32, 64, 8, 16, 32, 8].getD t.toNat 8
def tSigned (t : BitVec 3) : Bool := t.toNat < 4
/-- Bits of a lane of width W (R184). -/
def wWidth (w : BitVec 2) : Nat := #[8, 16, 32, 64].getD w.toNat 8
/-- The float format FT or F (R182). -/
def ftFmt (f : BitVec 2) : FFmt := if f = 1 then .fp16 else if f = 2 then .fp32 else .bf16

/-- Lane k of width w as a number. -/
def laneN (w : Nat) (r : Row) (k : Nat) : Nat := (Row.lane w r k).toNat
/-- A register from lane numbers. -/
def lanesOf (w : Nat) (f : Nat → Nat) : Row := Row.ofLanes w (fun k => BitVec.ofNat w (f k))
/-- Lane k of a pair of registers, lanes 0 to L − 1 in the first (R179). -/
def State.pairLane (s : State) (w : Nat) (n : BitVec 5) (k : Nat) : Nat :=
  if k < 512 / w then laneN w (s.rv n) k else laneN w (s.rv (n + 1)) (k - 512 / w)
/-- A pair of registers written from lane numbers. -/
def State.writePair (s : State) (w : Nat) (n : BitVec 5) (f : Nat → Nat) : State :=
  (s.wv n (lanesOf w f)).wv (n + 1) (lanesOf w (fun k => f (k + 512 / w)))
/-- A predicate from its bits; bits at or above L are 0 (R179). -/
def predOf (l : Nat) (f : Nat → Bool) : Pred :=
  BitVec.ofNat 128 ((List.range l).foldl (fun acc k => acc + num (f k) * 2 ^ k) 0)
/-- p[n]. -/
def State.rp (s : State) (n : BitVec 5) : Pred := s.me.rp (n.setWidth 3)
def State.wp (s : State) (n : BitVec 5) (v : Pred) : State := s.modMe (fun m => m.wp (n.setWidth 3) v)

/-! ### Shared meanings -/

/-- Every lane of v[d] := f(lane of v[a], lane of v[b]). -/
def State.vmap2 (s : State) (w : Nat) (f : Nat → Nat → Nat) (d a b : BitVec 5) : State :=
  s.wv d (lanesOf w (fun k => f (laneN w (s.rv a) k) (laneN w (s.rv b) k)))
/-- An integer lane operation of type T (R181). -/
def State.viOp (s : State) (f : Int → Int → Int) (d a b : BitVec 5) (t : BitVec 3) : Out :=
  let w := tWidth t
  .next (s.vmap2 w (fun x y => intBits w (f (bitsInt w (tSigned t) x) (bitsInt w (tSigned t) y))) d a b)
/-- A lane shift: the amount is b's lane modulo w (R181). -/
def State.viShift (s : State) (f : Nat → Nat → Nat → Nat) (d a b : BitVec 5) (wc : BitVec 2) : Out :=
  let w := wWidth wc
  .next (s.vmap2 w (fun x y => f w x (y % w)) d a b)
/-- A bitwise operation on all 512 bits (R181). -/
def State.viBits (s : State) (f : Row → Row → Row) (d a b : BitVec 5) : Out := .next (s.wv d (f (s.rv a) (s.rv b)))

/-- A float lane operation of two operands, one rounding, readable after 3 cycles (R171, R182). -/
def State.vfOp (s : State) (f : FVal → FVal → XVal) (d a b : BitVec 5) (rz : Bool) (ft : BitVec 2) : Out :=
  let F := ftFmt ft
  .next ((s.vmap2 F.width (fun x y => F.arith rz (f (F.decode x) (F.decode y))) d a b).late (.v d) 3)
/-- The smaller or the larger of two lanes, exactly; NaN gives the canonical NaN (R182). -/
def fPick (F : FFmt) (larger : Bool) (x y : Nat) : Nat :=
  match F.decode x, F.decode y with
  | .nan, _ => F.nan
  | _, .nan => F.nan
  | u, v => if (u.le v) = larger then y else x
def State.vfPick (s : State) (larger : Bool) (d a b : BitVec 5) (ft : BitVec 2) : Out :=
  let F := ftFmt ft
  .next ((s.vmap2 F.width (fPick F larger) d a b).late (.v d) 3)
/-- A lane operation of one operand on patterns (R182). -/
def State.vfUn (s : State) (f : FFmt → Nat → Nat) (d a : BitVec 5) (ft : BitVec 2) : Out :=
  let F := ftFmt ft
  .next ((s.wv d (lanesOf F.width (fun k => f F (laneN F.width (s.rv a) k)))).late (.v d) 3)

/-- Lane k of the complex multiply-add (R182): `d`, `a`, `b` give lanes as values. -/
def cfmaLane (F : FFmt) (rz : Bool) (d a b : Nat → FVal) (k : Nat) : Nat :=
  let j := 2 * (k / 2)
  F.arith rz
    (if k % 2 = 0 then FVal.sum [d j, (a j).mul (b j), ((a (j + 1)).mul (b (j + 1))).neg]
     else FVal.sum [d (j + 1), (a j).mul (b (j + 1)), (a (j + 1)).mul (b j)])

/-! ### vi (R181) -/

/-- `vi.add` (R181). -/
def execViAdd (d a b : BitVec 5) (t : BitVec 3) (s : State) : Out := s.viOp (fun x y => x + y) d a b t
/-- `vi.sub` (R181). -/
def execViSub (d a b : BitVec 5) (t : BitVec 3) (s : State) : Out := s.viOp (fun x y => x - y) d a b t
/-- `vi.mul` (R181). -/
def execViMul (d a b : BitVec 5) (t : BitVec 3) (s : State) : Out := s.viOp (fun x y => x * y) d a b t
/-- `vi.min` (R181). -/
def execViMin (d a b : BitVec 5) (t : BitVec 3) (s : State) : Out := s.viOp (fun x y => min x y) d a b t
/-- `vi.max` (R181). -/
def execViMax (d a b : BitVec 5) (t : BitVec 3) (s : State) : Out := s.viOp (fun x y => max x y) d a b t
/-- `vi.adds` (R181). -/
def execViAdds (d a b : BitVec 5) (t : BitVec 3) (s : State) : Out :=
  s.viOp (fun x y => satInt (tWidth t) (tSigned t) (x + y)) d a b t
/-- `vi.sll` (R181). -/
def execViSll (d a b : BitVec 5) (wc : BitVec 2) (s : State) : Out := s.viShift (fun w x k => x * 2 ^ k % 2 ^ w) d a b wc
/-- `vi.srl` (R181). -/
def execViSrl (d a b : BitVec 5) (wc : BitVec 2) (s : State) : Out := s.viShift (fun _ x k => x / 2 ^ k) d a b wc
/-- `vi.sra` (R181). -/
def execViSra (d a b : BitVec 5) (wc : BitVec 2) (s : State) : Out := s.viShift (fun w x k => intBits w (bitsInt w true x / (2 ^ k : Nat))) d a b wc
/-- `vi.and` (R181). -/
def execViAnd (d a b : BitVec 5) (s : State) : Out := s.viBits (fun x y => x &&& y) d a b
/-- `vi.or` (R181). -/
def execViOr (d a b : BitVec 5) (s : State) : Out := s.viBits (fun x y => x ||| y) d a b
/-- `vi.xor` (R181). -/
def execViXor (d a b : BitVec 5) (s : State) : Out := s.viBits (fun x y => x ^^^ y) d a b
/-- `vi.andn` (R181). -/
def execViAndn (d a b : BitVec 5) (s : State) : Out := s.viBits (fun x y => x &&& ~~~y) d a b

/-! ### vf (R182) -/

/-- `vf.add` (R182). -/
def execVfAdd (d a b : BitVec 5) (rz : BitVec 1) (ft : BitVec 2) (s : State) : Out :=
  s.vfOp (fun x y => FVal.sum [x, y]) d a b (rz = 1) ft
/-- `vf.sub` (R182). -/
def execVfSub (d a b : BitVec 5) (rz : BitVec 1) (ft : BitVec 2) (s : State) : Out :=
  s.vfOp (fun x y => FVal.sum [x, y.neg]) d a b (rz = 1) ft
/-- `vf.mul` (R182). -/
def execVfMul (d a b : BitVec 5) (rz : BitVec 1) (ft : BitVec 2) (s : State) : Out :=
  s.vfOp (fun x y => (x.mul y).exact) d a b (rz = 1) ft
/-- `vf.fma` (R182): d + a × b, rounded once. -/
def execVfFma (d a b : BitVec 5) (rz : BitVec 1) (ft : BitVec 2) (s : State) : Out :=
  let F := ftFmt ft
  let lane (r : BitVec 5) (k : Nat) : FVal := F.decode (laneN F.width (s.rv r) k)
  .next ((s.wv d (lanesOf F.width (fun k =>
    F.arith (rz = 1) (FVal.sum [lane d k, (lane a k).mul (lane b k)])))).late (.v d) 3)
/-- `vf.min` (R182). -/
def execVfMin (d a b : BitVec 5) (ft : BitVec 2) (s : State) : Out := s.vfPick false d a b ft
/-- `vf.max` (R182). -/
def execVfMax (d a b : BitVec 5) (ft : BitVec 2) (s : State) : Out := s.vfPick true d a b ft
/-- `vf.cfma` (R182); FT 3 is the paired form over 64 lanes (R19). -/
def execVfCfma (d a b : BitVec 5) (rz : BitVec 1) (ft : BitVec 2) (s : State) : Out :=
  let F := ftFmt ft
  if ft = 3 then
    let lane (r : BitVec 5) (k : Nat) : FVal := F.decode (s.pairLane 16 r k)
    .next (((s.writePair 16 d (cfmaLane F (rz = 1) (lane d) (lane a) (lane b))).late (.v d) 3).late (.v (d + 1)) 3)
  else
    let lane (r : BitVec 5) (k : Nat) : FVal := F.decode (laneN F.width (s.rv r) k)
    .next ((s.wv d (lanesOf F.width (cfmaLane F (rz = 1) (lane d) (lane a) (lane b)))).late (.v d) 3)
/-- `vf.neg` (R182). -/
def execVfNeg (d a : BitVec 5) (ft : BitVec 2) (s : State) : Out :=
  s.vfUn (fun F x => if F.decode x = .nan then F.nan else Nat.xor x (2 ^ (F.width - 1))) d a ft
/-- `vf.abs` (R182). -/
def execVfAbs (d a : BitVec 5) (ft : BitVec 2) (s : State) : Out :=
  s.vfUn (fun F x => if F.decode x = .nan then F.nan else x % 2 ^ (F.width - 1)) d a ft
/-- `vf.sqrt` (R182). -/
def execVfSqrt (d a : BitVec 5) (rz : BitVec 1) (ft : BitVec 2) (s : State) : Out :=
  s.vfUn (fun F x => F.arith (rz = 1) (F.decode x).sqrt) d a ft
/-- `vf.rcp` (R182). -/
def execVfRcp (d a : BitVec 5) (rz : BitVec 1) (ft : BitVec 2) (s : State) : Out :=
  s.vfUn (fun F x => F.arith (rz = 1) (F.decode x).rcp) d a ft

/-! ### vc (R183) -/

/-- The element format of a vc code (R183): EFMT numbers of R32, 12 for the unscaled q4. -/
def cvtFmt (code : BitVec 3) : Nat := #[1, 3, 5, 8, 9, 10, 11, 12].getD code.toNat 1

/-- cv of R183 (R36): one element from a source code to a destination code. -/
def cvtElem (rz : Bool) (dt st : BitVec 3) (x : Nat) : Nat :=
  if st = 7 then elemOf (cvtFmt dt) rz (.val (decide (nq4Int x < 0)) (nq4Int x).natAbs 1 (-8))
  else if dt = 7 then nq4Code (elemExact (cvtFmt st) x)
  else elemOf (cvtFmt dt) rz (elemExact (cvtFmt st) x)

/-- `vc.cvt` (R183). -/
def execVcCvt (d a : BitVec 5) (rz : BitVec 1) (part dt st : BitVec 3) (s : State) : Out :=
  let wd := cvtWidth dt
  let ws := cvtWidth st
  let lc := 512 / max wd ws
  let src (k : Nat) : Nat := laneN ws (s.rv a) k
  let r := if wd < ws then
      lanesOf wd (fun k =>
        if part.toNat * lc ≤ k ∧ k < part.toNat * lc + lc then cvtElem (rz = 1) dt st (src (k - part.toNat * lc))
        else laneN wd (s.rv d) k)
    else lanesOf wd (fun k => cvtElem (rz = 1) dt st (src (part.toNat * lc + k)))
  .next ((s.wv d r).late (.v d) 3)

/-! ### vp (R184) -/

/-- `vp.perm` (R184). -/
def execVpPerm (d a b : BitVec 5) (wc : BitVec 2) (s : State) : Out :=
  let w := wWidth wc
  .next (s.wv d (lanesOf w (fun k => laneN w (s.rv a) (laneN w (s.rv b) k % (512 / w)))))
/-- `vp.bcst` (R184). -/
def execVpBcst (d a : BitVec 5) (wc : BitVec 2) (s : State) : Out :=
  .next (s.wv d (lanesOf (wWidth wc) (fun _ => (s.rx a).toNat)))
/-- `vp.get` (R184). -/
def execVpGet (d a b : BitVec 5) (wc : BitVec 2) (s : State) : Out :=
  let w := wWidth wc
  .next (s.wx d (sextN w (word (laneN w (s.rv a) ((s.rx b).toNat % (512 / w))))))
/-- `vp.put` (R184). -/
def execVpPut (d a b : BitVec 5) (wc : BitVec 2) (s : State) : Out :=
  let w := wWidth wc
  .next (s.wv d (lanesOf w (fun k =>
    if k = (s.rx b).toNat % (512 / w) then (s.rx a).toNat else laneN w (s.rv d) k)))
/-- A BF16 immediate brought to the type T of `vp.fimm` (R39, R184), with the lane width. -/
def fimm (t : BitVec 3) (p : Nat) : Nat × Nat :=
  match t.toNat with
  | 0 => (16, bf16Imm .bf16 p)
  | 1 => (16, bf16Imm .fp16 p)
  | 2 => (32, bf16Imm .fp32 p)
  | 3 => (8, bf16Imm .fp8 p)
  | _ => (4, nq4Code (FFmt.bf16.decode p).exact)
/-- `vp.fimm` (R39, R184). -/
def execVpFimm (d a : BitVec 5) (t : BitVec 3) (s : State) : Out :=
  let f := fimm t ((s.rx a).toNat % 2 ^ 16)
  .next (s.wv d (lanesOf f.1 (fun _ => f.2)))
/-- `vp.rot` (R184). -/
def execVpRot (d a b : BitVec 5) (s : State) : Out :=
  .next (s.wv d (Row.ofBytes (fun j => Row.byte (s.rv a) ((j + bits (s.rx b) 5 0) % 64))))
/-- `vp.sel` (R184). -/
def execVpSel (d a b : BitVec 5) (wc : BitVec 2) (n : BitVec 3) (s : State) : Out :=
  let w := wWidth wc
  .next (s.wv d (lanesOf w (fun k => if (s.me.rp n).getLsbD k then laneN w (s.rv a) k else laneN w (s.rv b) k)))

/-! ### vr (R186) -/

/-- The lanes of a register as integers of type T. -/
def State.tLanes (s : State) (a : BitVec 5) (t : BitVec 3) : List Int :=
  (List.range (512 / tWidth t)).map (fun k => bitsInt (tWidth t) (tSigned t) (laneN (tWidth t) (s.rv a) k))
/-- x[d] := the fold of the lanes of v[a], extended by T (R186). -/
def State.vrOp (s : State) (f : Int → Int → Int) (d a : BitVec 5) (t : BitVec 3) : Out :=
  match s.tLanes a t with
  | [] => .next s
  | x :: r => .next (s.wx d (sword (r.foldl f x)))
/-- x[d] := zext of the extreme float lane (R186). -/
def State.vrPick (s : State) (larger : Bool) (d a : BitVec 5) (ft : BitVec 2) : Out :=
  let F := ftFmt ft
  let l (k : Nat) : Nat := laneN F.width (s.rv a) k
  .next (s.wx d (word ((List.range (512 / F.width)).foldl (fun acc k => fPick F larger acc (l k))
    (if F.decode (l 0) = .nan then F.nan else l 0))))
/-- `vr.sum` (R186). -/
def execVrSum (d a : BitVec 5) (t : BitVec 3) (s : State) : Out := s.vrOp (fun x y => x + y) d a t
/-- `vr.min` (R186). -/
def execVrMin (d a : BitVec 5) (t : BitVec 3) (s : State) : Out := s.vrOp min d a t
/-- `vr.max` (R186). -/
def execVrMax (d a : BitVec 5) (t : BitVec 3) (s : State) : Out := s.vrOp max d a t
/-- `vr.fsum` (R186): the exact sum, rounded once. -/
def execVrFsum (d a : BitVec 5) (ft : BitVec 2) (s : State) : Out :=
  let F := ftFmt ft
  .next (s.wx d (word (F.arith false (FVal.sum
    ((List.range (512 / F.width)).map (fun k => F.decode (laneN F.width (s.rv a) k)))))))
/-- `vr.fmin` (R186). -/
def execVrFmin (d a : BitVec 5) (ft : BitVec 2) (s : State) : Out := s.vrPick false d a ft
/-- `vr.fmax` (R186). -/
def execVrFmax (d a : BitVec 5) (ft : BitVec 2) (s : State) : Out := s.vrPick true d a ft
/-- `vr.any` (R186). -/
def execVrAny (d a : BitVec 5) (s : State) : Out := .next (s.wc d.toNat (s.rp a != 0))
/-- `vr.all` (R186): every bit 0 to L − 1. -/
def execVrAll (d a : BitVec 5) (wc : BitVec 2) (s : State) : Out :=
  .next (s.wc d.toNat ((List.range (512 / wWidth wc)).all (fun k => (s.rp a).getLsbD k)))
/-- `vr.pcnt` (R186). -/
def execVrPcnt (d a : BitVec 5) (s : State) : Out := .next (s.wx d (word (popCount (s.rp a).toNat 128)))

/-! ### vq (R185) -/

/-- A lane compare as type T (R185). -/
def State.vqOp (s : State) (f : Int → Int → Bool) (d a b : BitVec 5) (t : BitVec 3) : Out :=
  let w := tWidth t
  let l (r : BitVec 5) (k : Nat) : Int := bitsInt w (tSigned t) (laneN w (s.rv r) k)
  .next (s.wp d (predOf (512 / w) (fun k => f (l a k) (l b k))))
/-- A float lane compare (R185). -/
def State.vqFop (s : State) (f : FVal → FVal → Bool) (d a b : BitVec 5) (ft : BitVec 2) : Out :=
  let F := ftFmt ft
  let l (r : BitVec 5) (k : Nat) : FVal := F.decode (laneN F.width (s.rv r) k)
  .next (s.wp d (predOf (512 / F.width) (fun k => f (l a k) (l b k))))
/-- All 128 bits of two predicates (R185). -/
def State.vqBits (s : State) (f : Pred → Pred → Pred) (d a b : BitVec 5) : Out := .next (s.wp d (f (s.rp a) (s.rp b)))

/-- `vq.eq` (R185). -/
def execVqEq (d a b : BitVec 5) (t : BitVec 3) (s : State) : Out := s.vqOp (fun x y => x == y) d a b t
/-- `vq.ne` (R185). -/
def execVqNe (d a b : BitVec 5) (t : BitVec 3) (s : State) : Out := s.vqOp (fun x y => x != y) d a b t
/-- `vq.lt` (R185). -/
def execVqLt (d a b : BitVec 5) (t : BitVec 3) (s : State) : Out := s.vqOp (fun x y => decide (x < y)) d a b t
/-- `vq.le` (R185). -/
def execVqLe (d a b : BitVec 5) (t : BitVec 3) (s : State) : Out := s.vqOp (fun x y => decide (x ≤ y)) d a b t
/-- No lane of the two is NaN. -/
def ordered (x y : FVal) : Bool := x != .nan && y != .nan
/-- `vq.feq` (R185). -/
def execVqFeq (d a b : BitVec 5) (ft : BitVec 2) (s : State) : Out :=
  s.vqFop (fun x y => ordered x y && x.eqv y) d a b ft
/-- `vq.flt` (R185). -/
def execVqFlt (d a b : BitVec 5) (ft : BitVec 2) (s : State) : Out :=
  s.vqFop (fun x y => ordered x y && x.le y && !(x.eqv y)) d a b ft
/-- `vq.fle` (R185): −0 equals +0. -/
def execVqFle (d a b : BitVec 5) (ft : BitVec 2) (s : State) : Out :=
  s.vqFop (fun x y => ordered x y && (x.le y || x.eqv y)) d a b ft
/-- `vq.fun` (R185). -/
def execVqFun (d a b : BitVec 5) (ft : BitVec 2) (s : State) : Out := s.vqFop (fun x y => !(ordered x y)) d a b ft
/-- `vq.and` (R185). -/
def execVqAnd (d a b : BitVec 5) (s : State) : Out := s.vqBits (fun x y => x &&& y) d a b
/-- `vq.or` (R185). -/
def execVqOr (d a b : BitVec 5) (s : State) : Out := s.vqBits (fun x y => x ||| y) d a b
/-- `vq.xor` (R185). -/
def execVqXor (d a b : BitVec 5) (s : State) : Out := s.vqBits (fun x y => x ^^^ y) d a b
/-- `vq.andn` (R185). -/
def execVqAndn (d a b : BitVec 5) (s : State) : Out := s.vqBits (fun x y => x &&& ~~~y) d a b
/-- `vq.not` (R185). -/
def execVqNot (d a : BitVec 5) (s : State) : Out := .next (s.wp d (~~~(s.rp a)))
/-- `vq.ones` (R185). -/
def execVqOnes (d : BitVec 5) (s : State) : Out := .next (s.wp d (BitVec.allOnes 128))
/-- `vq.zero` (R185). -/
def execVqZero (d : BitVec 5) (s : State) : Out := .next (s.wp d 0)
/-- `vq.lim` (R185). -/
def execVqLim (d a : BitVec 5) (s : State) : Out :=
  .next (s.wp d (BitVec.ofNat 128 (2 ^ min (s.rx a).toNat 128 - 1)))
/-- `vq.tox` (R185). -/
def execVqTox (d a : BitVec 5) (h : BitVec 1) (s : State) : Out :=
  .next (s.wx d ((s.rp a >>> (64 * h.toNat)).setWidth 64))
/-- `vq.frx` (R185). -/
def execVqFrx (d a : BitVec 5) (h : BitVec 1) (s : State) : Out :=
  .next (s.wp d (if h = 0 then (s.rp d).extractLsb' 64 64 ++ s.rx a else s.rx a ++ (s.rp d).extractLsb' 0 64))

/-! ### vt (R187 to R189) -/

/-- The descriptor of a table is well-formed and its n + 1 entries lie in the 4 MiB (R188). R188 gives logn the range 0 to 10 and
no fault beyond it; the model takes 11 to 15 as a bad descriptor (TABLE_ADDR). DESIGN CHOICE (assumption 120). -/
def tableOk (x : Word) : Bool :=
  bits x 5 0 = 0 && bits x 23 22 = 0 && bits x 63 28 = 0 && bits x 27 24 ≤ 10
    && bits x 21 0 + 4 * (2 ^ bits x 27 24 + 1) ≤ 2 ^ 22

/-- `vt.interp` (R188): a push into the unit's FIFO of 4; a fifth stalls until one completes. A bad descriptor faults at once,
however full the FIFO is. DESIGN CHOICE (assumption 120). -/
def State.interpPush (s : State) (fp32 : Bool) (d a b : BitVec 5) : Out :=
  if !(tableOk (s.rx b)) then s.fault .tableAddr
  else if 4 ≤ s.myCore.interp.length then .next (s.waitFor .again)
  else
    let c : InterpCmd := { d := d, src := s.rv a, desc := s.rx b, fp32 := fp32, seq := s.me.seq, old := !s.me.inStub }
    .next ((s.modMyCore (fun k => { k with interp := k.interp ++ [c] })).late (.v d) 8)

/-- `vt.interp.fp32` (R187). -/
def execVtInterpFp32 (d a b : BitVec 5) (s : State) : Out := s.interpPush true d a b
/-- `vt.interp.bf16` (R187). -/
def execVtInterpBf16 (d a b : BitVec 5) (s : State) : Out := s.interpPush false d a b

/-- The interpolated value of one lane (R188): `e` gives the table's FP32 patterns. -/
def interpLane (F : FFmt) (n : Nat) (e : Nat → Nat) (u : FVal) : Nat :=
  let at_ (p : Nat) (q : Int) : Nat :=       -- p in units of 2^q, q ≤ 0
    let one := 2 ^ (-q).toNat
    let p := min p (n * one)
    let i := min (p / one) (n - 1)
    let e0 := FFmt.fp32.decode (e i)
    let e1 := FFmt.fp32.decode (e (i + 1))
    match e0, e1 with
    | .fin _ _ _, .fin _ _ _ =>
      (match FVal.sum [e1, e0.neg] with
       | .val neg m _ x => F.arith false (FVal.sum [e0, FVal.mul (.fin false (p - i * one) q) (.fin neg m x)])
       | _ => F.nan)
    | _, _ => F.nan
  match u with
  | .nan => F.nan
  | .inf neg => at_ (if neg then 0 else n) 0
  | .fin neg m x => if neg then at_ 0 0 else at_ (m * n * 2 ^ (x - min x 0).toNat) (min x 0)

/-- Scratchpad rows of a command's table (R188). -/
def InterpCmd.rows (t : InterpCmd) : List Nat :=
  (List.range ((2 ^ bits t.desc 27 24 + 1 + 15) / 16)).map (fun i => bits t.desc 21 6 + i)

/-- INTERP_COMPLETE (R188): the unit reads the table of the oldest command, a row a turn, then pops it and writes v[d]; the
stores that preceded the push are performed before (R271). -/
def execInterpComplete (pcn : Nat) (s : State) : Out :=
  let c := s.core pcn
  match c.interp with
  | [] => .next s
  | t :: rest =>
    if (s.tractOf pcn).ticking && !(c.xp.pend.any (fun a => decide (a.seq < t.seq))) then
      match s.readOne pcn t.got t.rows with
      | some got => .next (s.modCore pcn (fun k => { k with interp := { t with got := got } :: rest })).drawn
      | none =>
      let ta := bits t.desc 21 0
      let n := 2 ^ bits t.desc 27 24
      let sp := (c.seeing t.got).sp
      let F : FFmt := if t.fp32 then .fp32 else .bf16
      let out := lanesOf F.width (fun k =>
        interpLane F n (fun i => Mem.num sp (ta + 4 * i) 4) (F.decode (laneN F.width t.src k)))
      .next ((s.modCore pcn (fun k => { k with interp := rest })).modStream { core := pcn, eng := .xp }
        (fun m => m.resultV t.old t.d (fun _ => out)))
    else .next s

/-- Four counter words after one round of the mix (R189). -/
def rmixRound (k : Nat → BitVec 32) (i : Nat) (c : BitVec 32 × BitVec 32 × BitVec 32 × BitVec 32) :
    BitVec 32 × BitVec 32 × BitVec 32 × BitVec 32 :=
  let (c0, c1, c2, c3) := c
  let c0 := (c0 + k (i % 4)).rotateLeft 7 ^^^ c3
  let c1 := (c1 ^^^ c0) * 0x2F4BC5A9#32
  let c2 := (c2 + c1).rotateLeft 13 ^^^ (k ((i + 1) % 4) + BitVec.ofNat 32 i)
  let c3 := (c3 ^^^ c2) * 0x91D36E17#32
  (c0, c1, c2, c3)

/-- The n rounds of one group (R189). -/
def rmixGroup (n : Nat) (k : Nat → BitVec 32) (c : BitVec 32 × BitVec 32 × BitVec 32 × BitVec 32) :
    BitVec 32 × BitVec 32 × BitVec 32 × BitVec 32 :=
  (List.range n).foldl (fun c i => rmixRound k i c) c

/-- `vt.rmix` (R189): max(1, n) issue cycles (R171). -/
def execVtRmix (d a n : BitVec 5) (s : State) : Out :=
  let v := s.rv d
  let key := s.rv a
  let g (i : Nat) := rmixGroup n.toNat (fun j => Row.lane 32 key (4 * i + j))
    (Row.lane 32 v (4 * i), Row.lane 32 v (4 * i + 1), Row.lane 32 v (4 * i + 2), Row.lane 32 v (4 * i + 3))
  let out := Row.ofLanes 32 (fun k =>
    let r := g (k / 4)
    if k % 4 = 0 then r.1 else if k % 4 = 1 then r.2.1 else if k % 4 = 2 then r.2.2.1 else r.2.2.2)
  .next ((s.wv d out).spend (n.toNat - 1))

/-! ### rg (R190, R191) -/

/-- `rg.ecount` (R190): two issue cycles (R171). -/
def execRgEcount (d a : BitVec 5) (s : State) : Out :=
  let cnt (e : Nat) : Nat := ((List.range 64).filter (fun k => laneN 8 (s.rv a) k = e)).length
  .next ((s.writePair 16 d (fun e => min (s.pairLane 16 d e + cnt e) 65535)).spend 1)

/-- `rg.escan` (R190). -/
def execRgEscan (d a : BitVec 5) (s : State) : Out :=
  .next ((s.writePair 16 d (fun e =>
    (List.range e).foldl (fun acc k => acc + s.pairLane 16 a k) 0 % 65536)).spend 1)

/-- The walk of R191 in lane order: positions and advanced offsets. -/
def escatWalk (ids : List Nat) (off : Tbl Nat) : List Nat × Tbl Nat :=
  ids.foldl (fun (acc : List Nat × Tbl Nat) e =>
    if e < 64 then
      let o := acc.2.get 0 e
      (acc.1 ++ [o], acc.2.set e ((o + 1) % 65536))
    else (acc.1 ++ [65535], acc.2)) ([], off)

/-- `rg.escat` (R191). -/
def execRgEscat (d a b : BitVec 5) (s : State) : Out :=
  let ids := (List.range 64).map (fun k => laneN 8 (s.rv a) k)
  let off : Tbl Nat := (List.range 64).map (fun e => (e, s.pairLane 16 b e))
  let r := escatWalk ids off
  .next (((s.writePair 16 d (fun k => r.1.getD k 0)).writePair 16 b (fun e => r.2.get 0 e)).spend 1)

end Sys2Proof.Machine
end

