-- ==== Sys2Proof/Machine/Dispatch.lean ====
section
/-! DEFINITION. Machine/Dispatch.lean: one arm per instruction, each one call of its meaning. The issue qualifier of a
word is the sequencer's (R49), so a meaning does not see it. -/

namespace Sys2Proof.Machine

open Sys2Proof

def exec (i : Instr) (s : State) : Host.Outcome State Fault Refusal :=
  match i with
  | .blockPlain l r => Sys2Proof.Machine.execBlockPlain l r s
  | .blockPlainReg l x => Sys2Proof.Machine.execBlockPlainReg l x s
  | .blockStrided l c ra sa rb sb => Sys2Proof.Machine.execBlockStrided l c ra sa rb sb s
  | .blockPipelined l c sm1 => Sys2Proof.Machine.execBlockPipelined l c sm1 s
  | .blockTimed l c cyc => Sys2Proof.Machine.execBlockTimed l c cyc s
  | .iaAdd _ d a b => Sys2Proof.Machine.execIaAdd d a b s
  | .iaSub _ d a b => Sys2Proof.Machine.execIaSub d a b s
  | .iaAnd _ d a b => Sys2Proof.Machine.execIaAnd d a b s
  | .iaOr _ d a b => Sys2Proof.Machine.execIaOr d a b s
  | .iaXor _ d a b => Sys2Proof.Machine.execIaXor d a b s
  | .iaMov _ d a => Sys2Proof.Machine.execIaMov d a s
  | .iaAndn _ d a b => Sys2Proof.Machine.execIaAndn d a b s
  | .iaOrn _ d a b => Sys2Proof.Machine.execIaOrn d a b s
  | .iaMul _ d a b => Sys2Proof.Machine.execIaMul d a b s
  | .iaMulh _ d a b => Sys2Proof.Machine.execIaMulh d a b s
  | .iaMulhu _ d a b => Sys2Proof.Machine.execIaMulhu d a b s
  | .iaDiv _ d a b => Sys2Proof.Machine.execIaDiv d a b s
  | .iaDivu _ d a b => Sys2Proof.Machine.execIaDivu d a b s
  | .iaRem _ d a b => Sys2Proof.Machine.execIaRem d a b s
  | .iaRemu _ d a b => Sys2Proof.Machine.execIaRemu d a b s
  | .iaMin _ d a b => Sys2Proof.Machine.execIaMin d a b s
  | .iaMax _ d a b => Sys2Proof.Machine.execIaMax d a b s
  | .iaMinu _ d a b => Sys2Proof.Machine.execIaMinu d a b s
  | .iaMaxu _ d a b => Sys2Proof.Machine.execIaMaxu d a b s
  | .iaAddco _ d a b => Sys2Proof.Machine.execIaAddco d a b s
  | .iaAddc _ d a b => Sys2Proof.Machine.execIaAddc d a b s
  | .iaSubbo _ d a b => Sys2Proof.Machine.execIaSubbo d a b s
  | .iaSubb _ d a b => Sys2Proof.Machine.execIaSubb d a b s
  | .iaAdds _ d a b => Sys2Proof.Machine.execIaAdds d a b s
  | .iaSubs _ d a b => Sys2Proof.Machine.execIaSubs d a b s
  | .iaSxt _ d a w => Sys2Proof.Machine.execIaSxt d a w s
  | .iaZxt _ d a w => Sys2Proof.Machine.execIaZxt d a w s
  | .iaAmov _ d a => Sys2Proof.Machine.execIaAmov d a s
  | .iaXmov _ d a => Sys2Proof.Machine.execIaXmov d a s
  | .iaAadd _ d a b => Sys2Proof.Machine.execIaAadd d a b s
  | .iaArow _ d a b => Sys2Proof.Machine.execIaArow d a b s
  | .compactAdd d a => Sys2Proof.Machine.execCompactAdd d a s
  | .compactSub d a => Sys2Proof.Machine.execCompactSub d a s
  | .compactAnd d a => Sys2Proof.Machine.execCompactAnd d a s
  | .compactOr d a => Sys2Proof.Machine.execCompactOr d a s
  | .compactXor d a => Sys2Proof.Machine.execCompactXor d a s
  | .compactMov d a => Sys2Proof.Machine.execCompactMov d a s
  | .compactSll d a => Sys2Proof.Machine.execCompactSll d a s
  | .compactSrl d a => Sys2Proof.Machine.execCompactSrl d a s
  | .iiAdd _ d a k => Sys2Proof.Machine.execIiAdd d a k s
  | .compactLoadImmediate d k => Sys2Proof.Machine.execCompactLoadImmediate d k s
  | .iwIns _ d k => Sys2Proof.Machine.execIwIns d k s
  | .bfSll _ d a b => Sys2Proof.Machine.execBfSll d a b s
  | .bfSrl _ d a b => Sys2Proof.Machine.execBfSrl d a b s
  | .bfSra _ d a b => Sys2Proof.Machine.execBfSra d a b s
  | .bfRol _ d a b => Sys2Proof.Machine.execBfRol d a b s
  | .bfRor _ d a b => Sys2Proof.Machine.execBfRor d a b s
  | .bfBfx _ d a b => Sys2Proof.Machine.execBfBfx d a b s
  | .bfBfxs _ d a b => Sys2Proof.Machine.execBfBfxs d a b s
  | .bfBfi _ d a b => Sys2Proof.Machine.execBfBfi d a b s
  | .bfFsh _ d a b => Sys2Proof.Machine.execBfFsh d a b s
  | .bfPop _ d a => Sys2Proof.Machine.execBfPop d a s
  | .bfClz _ d a => Sys2Proof.Machine.execBfClz d a s
  | .bfCtz _ d a => Sys2Proof.Machine.execBfCtz d a s
  | .bfRev _ d a => Sys2Proof.Machine.execBfRev d a s
  | .bfRevb _ d a => Sys2Proof.Machine.execBfRevb d a s
  | .bfSlli _ d a s_ h => Sys2Proof.Machine.execBfSlli d a s_ h s
  | .bfSrli _ d a s_ h => Sys2Proof.Machine.execBfSrli d a s_ h s
  | .bfSrai _ d a s_ h => Sys2Proof.Machine.execBfSrai d a s_ h s
  | .bfRoli _ d a s_ h => Sys2Proof.Machine.execBfRoli d a s_ h s
  | .bfRori _ d a s_ h => Sys2Proof.Machine.execBfRori d a s_ h s
  | .cmpEq _ d a b => Sys2Proof.Machine.execCmpEq d a b s
  | .cmpNe _ d a b => Sys2Proof.Machine.execCmpNe d a b s
  | .cmpLt _ d a b => Sys2Proof.Machine.execCmpLt d a b s
  | .cmpGe _ d a b => Sys2Proof.Machine.execCmpGe d a b s
  | .cmpLtu _ d a b => Sys2Proof.Machine.execCmpLtu d a b s
  | .cmpGeu _ d a b => Sys2Proof.Machine.execCmpGeu d a b s
  | .cmpTst _ d a b => Sys2Proof.Machine.execCmpTst d a b s
  | .cmpNtst _ d a b => Sys2Proof.Machine.execCmpNtst d a b s
  | .cmpAnd _ d a b => Sys2Proof.Machine.execCmpAnd d a b s
  | .cmpOr _ d a b => Sys2Proof.Machine.execCmpOr d a b s
  | .cmpAndn _ d a b => Sys2Proof.Machine.execCmpAndn d a b s
  | .cmpXor _ d a b => Sys2Proof.Machine.execCmpXor d a b s
  | .cmpStg _ d a => Sys2Proof.Machine.execCmpStg d a s
  | .brPrep _ t k => Sys2Proof.Machine.execBrPrep t k s
  | .brPrepx _ d a => Sys2Proof.Machine.execBrPrepx d a s
  | .brGo _ d a => Sys2Proof.Machine.execBrGo d a s
  | .brGoNot _ d a => Sys2Proof.Machine.execBrGoNot d a s
  | .brGoAlways _ d => Sys2Proof.Machine.execBrGoAlways d s
  | .shortTransfer t c => Sys2Proof.Machine.execShortTransfer t c s
  | .shortTransferNot t c => Sys2Proof.Machine.execShortTransferNot t c s
  | .shortTransferAlways t => Sys2Proof.Machine.execShortTransferAlways t s
  | .brTget _ d a => Sys2Proof.Machine.execBrTget d a s
  | .rep n d a b => Sys2Proof.Machine.execRep n d a b s
  | .nop => Sys2Proof.Machine.execNop s
  | .sysId _ d s_ => Sys2Proof.Machine.execSysId d s_ s
  | .sysRd _ d r => Sys2Proof.Machine.execSysRd d r s
  | .sysWr _ d r => Sys2Proof.Machine.execSysWr d r s
  | .sysTrap _ k => Sys2Proof.Machine.execSysTrap k s
  | .sysScall _ d a b => Sys2Proof.Machine.execSysScall d a b s
  | .scallReturn pcn eng => Sys2Proof.Machine.execScallReturn pcn eng s
  | .sysFence _ m s_ => Sys2Proof.Machine.execSysFence m s_ s
  | .ld _ d a c o => Sys2Proof.Machine.execLd d a c o s
  | .st _ d a c o => Sys2Proof.Machine.execSt d a c o s
  | .atAdd _ d a c w => Sys2Proof.Machine.execAtAdd d a c w s
  | .atAnd _ d a c w => Sys2Proof.Machine.execAtAnd d a c w s
  | .atOr _ d a c w => Sys2Proof.Machine.execAtOr d a c w s
  | .atXor _ d a c w => Sys2Proof.Machine.execAtXor d a c w s
  | .atMin _ d a c w => Sys2Proof.Machine.execAtMin d a c w s
  | .atMax _ d a c w => Sys2Proof.Machine.execAtMax d a c w s
  | .atMinu _ d a c w => Sys2Proof.Machine.execAtMinu d a c w s
  | .atMaxu _ d a c w => Sys2Proof.Machine.execAtMaxu d a c w s
  | .atSwap _ d a c w => Sys2Proof.Machine.execAtSwap d a c w s
  | .atCas _ d a c w => Sys2Proof.Machine.execAtCas d a c w s
  | .atFadd _ d a c w => Sys2Proof.Machine.execAtFadd d a c w s
  | .monWaiteq _ d a c w => Sys2Proof.Machine.execMonWaiteq d a c w s
  | .monWaitne _ d a c w => Sys2Proof.Machine.execMonWaitne d a c w s
  | .monWaitge _ d a c w => Sys2Proof.Machine.execMonWaitge d a c w s
  | .monWaitgeu _ d a c w => Sys2Proof.Machine.execMonWaitgeu d a c w s
  | .spSpill _ a s_ => Sys2Proof.Machine.execSpSpill a s_ s
  | .spFill _ d s_ => Sys2Proof.Machine.execSpFill d s_ s
  | .spVspill _ a s_ => Sys2Proof.Machine.execSpVspill a s_ s
  | .spVfill _ d s_ => Sys2Proof.Machine.execSpVfill d s_ s
  | .compactSpill s_ d => Sys2Proof.Machine.execCompactSpill s_ d s
  | .compactFill s_ d => Sys2Proof.Machine.execCompactFill s_ d s
  | .qPop _ d a => Sys2Proof.Machine.execQPop d a s
  | .qPush _ d a => Sys2Proof.Machine.execQPush d a s
  | .qCnt _ d a => Sys2Proof.Machine.execQCnt d a s
  | .qPopc _ d a => Sys2Proof.Machine.execQPopc d a s
  | .qPushc _ d a => Sys2Proof.Machine.execQPushc d a s
  | .compactPop q d => Sys2Proof.Machine.execCompactPop q d s
  | .compactPush q d => Sys2Proof.Machine.execCompactPush q d s
  | .queuePopUnblock pcn eng => Sys2Proof.Machine.execQueuePopUnblock pcn eng s
  | .queuePushUnblock pcn eng => Sys2Proof.Machine.execQueuePushUnblock pcn eng s
  | .barInit _ a b => Sys2Proof.Machine.execBarInit a b s
  | .barSync _ a => Sys2Proof.Machine.execBarSync a s
  | .barArrive _ d a => Sys2Proof.Machine.execBarArrive d a s
  | .barWait _ a b => Sys2Proof.Machine.execBarWait a b s
  | .barRd _ d a s_ => Sys2Proof.Machine.execBarRd d a s_ s
  | .barrierRelease pcn n => Sys2Proof.Machine.execBarrierRelease pcn n s
  | .tagWany _ d a => Sys2Proof.Machine.execTagWany d a s
  | .tagWall _ a => Sys2Proof.Machine.execTagWall a s
  | .tagFfr _ d a => Sys2Proof.Machine.execTagFfr d a s
  | .tagCnt _ d a => Sys2Proof.Machine.execTagCnt d a s
  | .tagWaitReturn pcn eng => Sys2Proof.Machine.execTagWaitReturn pcn eng s
  | .xlTr _ d a => Sys2Proof.Machine.execXlTr d a s
  | .xlTrw _ d a => Sys2Proof.Machine.execXlTrw d a s
  | .xlInv _ d => Sys2Proof.Machine.execXlInv d s
  | .xlRd _ d a s_ => Sys2Proof.Machine.execXlRd d a s_ s
  | .handleWrite pcn d => Sys2Proof.Machine.execHandleWrite pcn d s
  | .cpLd _ a b => Sys2Proof.Machine.execCpLd a b s
  | .cpSt _ a b => Sys2Proof.Machine.execCpSt a b s
  | .cpMv _ a b => Sys2Proof.Machine.execCpMv a b s
  | .cpMx _ a b => Sys2Proof.Machine.execCpMx a b s
  | .cpDrill _ a => Sys2Proof.Machine.execCpDrill a s
  | .cpDstop _ d a => Sys2Proof.Machine.execCpDstop d a s
  | .cpTok _ d n => Sys2Proof.Machine.execCpTok d n s
  | .cpTcnt _ d a => Sys2Proof.Machine.execCpTcnt d a s
  | .dstopReturn pcn => Sys2Proof.Machine.execDstopReturn pcn s
  | .abInit _ a b => Sys2Proof.Machine.execAbInit a b s
  | .abAwait _ a b => Sys2Proof.Machine.execAbAwait a b s
  | .abAret _ a b => Sys2Proof.Machine.execAbAret a b s
  | .abRd _ d a s_ => Sys2Proof.Machine.execAbRd d a s_ s
  | .abAwaitReturn pcn eng => Sys2Proof.Machine.execAbAwaitReturn pcn eng s
  | .trTap _ d => Sys2Proof.Machine.execTrTap d s
  | .compactTrTap d => Sys2Proof.Machine.execCompactTrTap d s
  | .trOtap _ a => Sys2Proof.Machine.execTrOtap a s
  | .trAt _ k => Sys2Proof.Machine.execTrAt k s
  | .compactTrAt k => Sys2Proof.Machine.execCompactTrAt k s
  | .trAtx _ a => Sys2Proof.Machine.execTrAtx a s
  | .trAtRelease pcn eng => Sys2Proof.Machine.execTrAtRelease pcn eng s
  | .trRd _ d s_ => Sys2Proof.Machine.execTrRd d s_ s
  | .trAck _ a => Sys2Proof.Machine.execTrAck a s
  | .stiPut _ a b => Sys2Proof.Machine.execStiPut a b s
  | .stiGet _ d a => Sys2Proof.Machine.execStiGet d a s
  | .stiStat _ d a => Sys2Proof.Machine.execStiStat d a s
  | .stiAck _ a b => Sys2Proof.Machine.execStiAck a b s
  | .stiCoef _ a b => Sys2Proof.Machine.execStiCoef a b s
  | .stiGetReturn pcn eng => Sys2Proof.Machine.execStiGetReturn pcn eng s
  | .knEnd _ => Sys2Proof.Machine.execKnEnd s
  | .knRdv _ => Sys2Proof.Machine.execKnRdv s
  | .knYield _ => Sys2Proof.Machine.execKnYield s
  | .knPend _ d => Sys2Proof.Machine.execKnPend d s
  | .streamEnd pcn eng => Sys2Proof.Machine.execStreamEnd pcn eng s
  | .rendezvousRelease pcn => Sys2Proof.Machine.execRendezvousRelease pcn s
  | .yieldComplete pcn eng => Sys2Proof.Machine.execYieldComplete pcn eng s
  | .rgEcount _ d a => Sys2Proof.Machine.execRgEcount d a s
  | .rgEscan _ d a => Sys2Proof.Machine.execRgEscan d a s
  | .rgEscat _ d a b => Sys2Proof.Machine.execRgEscat d a b s
  | .rgClaim _ d a b => Sys2Proof.Machine.execRgClaim d a b s
  | .claimAnswer pcn => Sys2Proof.Machine.execClaimAnswer pcn s
  | .viAdd _ d a b t => Sys2Proof.Machine.execViAdd d a b t s
  | .viSub _ d a b t => Sys2Proof.Machine.execViSub d a b t s
  | .viMul _ d a b t => Sys2Proof.Machine.execViMul d a b t s
  | .viMin _ d a b t => Sys2Proof.Machine.execViMin d a b t s
  | .viMax _ d a b t => Sys2Proof.Machine.execViMax d a b t s
  | .viAdds _ d a b t => Sys2Proof.Machine.execViAdds d a b t s
  | .viSll _ d a b w => Sys2Proof.Machine.execViSll d a b w s
  | .viSrl _ d a b w => Sys2Proof.Machine.execViSrl d a b w s
  | .viSra _ d a b w => Sys2Proof.Machine.execViSra d a b w s
  | .viAnd _ d a b => Sys2Proof.Machine.execViAnd d a b s
  | .viOr _ d a b => Sys2Proof.Machine.execViOr d a b s
  | .viXor _ d a b => Sys2Proof.Machine.execViXor d a b s
  | .viAndn _ d a b => Sys2Proof.Machine.execViAndn d a b s
  | .vfAdd _ d a b r f => Sys2Proof.Machine.execVfAdd d a b r f s
  | .vfSub _ d a b r f => Sys2Proof.Machine.execVfSub d a b r f s
  | .vfMul _ d a b r f => Sys2Proof.Machine.execVfMul d a b r f s
  | .vfFma _ d a b r f => Sys2Proof.Machine.execVfFma d a b r f s
  | .vfMin _ d a b f => Sys2Proof.Machine.execVfMin d a b f s
  | .vfMax _ d a b f => Sys2Proof.Machine.execVfMax d a b f s
  | .vfCfma _ d a b r f => Sys2Proof.Machine.execVfCfma d a b r f s
  | .vfNeg _ d a f => Sys2Proof.Machine.execVfNeg d a f s
  | .vfAbs _ d a f => Sys2Proof.Machine.execVfAbs d a f s
  | .vfSqrt _ d a r f => Sys2Proof.Machine.execVfSqrt d a r f s
  | .vfRcp _ d a r f => Sys2Proof.Machine.execVfRcp d a r f s
  | .vcCvt _ d a r p x y => Sys2Proof.Machine.execVcCvt d a r p x y s
  | .vmLd _ d a c o => Sys2Proof.Machine.execVmLd d a c o s
  | .vmSt _ d a c o => Sys2Proof.Machine.execVmSt d a c o s
  | .vmRmg _ d a c o => Sys2Proof.Machine.execVmRmg d a c o s
  | .vpPerm _ d a b w => Sys2Proof.Machine.execVpPerm d a b w s
  | .vpBcst _ d a w => Sys2Proof.Machine.execVpBcst d a w s
  | .vpGet _ d a b w => Sys2Proof.Machine.execVpGet d a b w s
  | .vpPut _ d a b w => Sys2Proof.Machine.execVpPut d a b w s
  | .vpFimm _ d a t => Sys2Proof.Machine.execVpFimm d a t s
  | .vpRot _ d a b => Sys2Proof.Machine.execVpRot d a b s
  | .vpSel _ d a b w n => Sys2Proof.Machine.execVpSel d a b w n s
  | .vrSum _ d a t => Sys2Proof.Machine.execVrSum d a t s
  | .vrMin _ d a t => Sys2Proof.Machine.execVrMin d a t s
  | .vrMax _ d a t => Sys2Proof.Machine.execVrMax d a t s
  | .vrFsum _ d a f => Sys2Proof.Machine.execVrFsum d a f s
  | .vrFmin _ d a f => Sys2Proof.Machine.execVrFmin d a f s
  | .vrFmax _ d a f => Sys2Proof.Machine.execVrFmax d a f s
  | .vrAny _ d a => Sys2Proof.Machine.execVrAny d a s
  | .vrAll _ d a w => Sys2Proof.Machine.execVrAll d a w s
  | .vrPcnt _ d a => Sys2Proof.Machine.execVrPcnt d a s
  | .vqEq _ d a b t => Sys2Proof.Machine.execVqEq d a b t s
  | .vqNe _ d a b t => Sys2Proof.Machine.execVqNe d a b t s
  | .vqLt _ d a b t => Sys2Proof.Machine.execVqLt d a b t s
  | .vqLe _ d a b t => Sys2Proof.Machine.execVqLe d a b t s
  | .vqFeq _ d a b f => Sys2Proof.Machine.execVqFeq d a b f s
  | .vqFlt _ d a b f => Sys2Proof.Machine.execVqFlt d a b f s
  | .vqFle _ d a b f => Sys2Proof.Machine.execVqFle d a b f s
  | .vqFun _ d a b f => Sys2Proof.Machine.execVqFun d a b f s
  | .vqAnd _ d a b => Sys2Proof.Machine.execVqAnd d a b s
  | .vqOr _ d a b => Sys2Proof.Machine.execVqOr d a b s
  | .vqXor _ d a b => Sys2Proof.Machine.execVqXor d a b s
  | .vqAndn _ d a b => Sys2Proof.Machine.execVqAndn d a b s
  | .vqNot _ d a => Sys2Proof.Machine.execVqNot d a s
  | .vqOnes _ d => Sys2Proof.Machine.execVqOnes d s
  | .vqZero _ d => Sys2Proof.Machine.execVqZero d s
  | .vqLim _ d a => Sys2Proof.Machine.execVqLim d a s
  | .vqTox _ d a h => Sys2Proof.Machine.execVqTox d a h s
  | .vqFrx _ d a h => Sys2Proof.Machine.execVqFrx d a h s
  | .vtInterpFp32 _ d a b => Sys2Proof.Machine.execVtInterpFp32 d a b s
  | .vtInterpBf16 _ d a b => Sys2Proof.Machine.execVtInterpBf16 d a b s
  | .interpComplete pcn => Sys2Proof.Machine.execInterpComplete pcn s
  | .vtRmix _ d a n => Sys2Proof.Machine.execVtRmix d a n s
  | .mcSet _ d a => Sys2Proof.Machine.execMcSet d a s
  | .mcGet _ d a => Sys2Proof.Machine.execMcGet d a s
  | .mcGeta _ d a => Sys2Proof.Machine.execMcGeta d a s
  | .mcClr _ => Sys2Proof.Machine.execMcClr s
  | .mgGo _ => Sys2Proof.Machine.execMgGo s
  | .mgGoInd _ a => Sys2Proof.Machine.execMgGoInd a s
  | .mgSwap _ => Sys2Proof.Machine.execMgSwap s
  | .mgStat _ d => Sys2Proof.Machine.execMgStat d s
  | .mgWait _ => Sys2Proof.Machine.execMgWait s
  | .harrowWaitEnd pcn => Sys2Proof.Machine.execHarrowWaitEnd pcn s
  | .mbClr _ a e => Sys2Proof.Machine.execMbClr a e s
  | .mbCount _ a b => Sys2Proof.Machine.execMbCount a b s
  | .mbMerge _ d a => Sys2Proof.Machine.execMbMerge d a s
  | .mbDrain _ d a s_ => Sys2Proof.Machine.execMbDrain d a s_ s
  | .mbDepth _ d a => Sys2Proof.Machine.execMbDepth d a s
  | .mbRdc _ d a b => Sys2Proof.Machine.execMbRdc d a b s
  | .mwWb _ d z b => Sys2Proof.Machine.execMwWb d z b s
  | .mwTopk _ d s_ k b => Sys2Proof.Machine.execMwTopk d s_ k b s
  | .mwZero _ d => Sys2Proof.Machine.execMwZero d s
  | .mwRd _ d a b => Sys2Proof.Machine.execMwRd d a b s
  | .mxRd _ d s_ => Sys2Proof.Machine.execMxRd d s_ s
  | .mxRep _ a => Sys2Proof.Machine.execMxRep a s
  | .bankAccess pcn src k => Sys2Proof.Machine.execBankAccess pcn src k s
  | .harrowSwapIn pcn => Sys2Proof.Machine.execHarrowSwapIn pcn s
  | .harrowCountStep pcn => Sys2Proof.Machine.execHarrowCountStep pcn s
  | .harrowDrain pcn => Sys2Proof.Machine.execHarrowDrain pcn s
  | .harrowMultiplyBlock pcn => Sys2Proof.Machine.execHarrowMultiplyBlock pcn s
  | .harrowTileStep pcn => Sys2Proof.Machine.execHarrowTileStep pcn s
  | .harrowWriteBack pcn => Sys2Proof.Machine.execHarrowWriteBack pcn s
  | .harrowOperatorDone pcn => Sys2Proof.Machine.execHarrowOperatorDone pcn s
  | .copyPop pcn st => Sys2Proof.Machine.execCopyPop pcn st s
  | .cmqPop pcn => Sys2Proof.Machine.execCmqPop pcn s
  | .copyRow pcn st k => Sys2Proof.Machine.execCopyRow pcn st k s
  | .copyComplete pcn cq k => Sys2Proof.Machine.execCopyComplete pcn cq k s
  | .drillStart n => Sys2Proof.Machine.execDrillStart n s
  | .drillStream n => Sys2Proof.Machine.execDrillStream n s
  | .drillPush n => Sys2Proof.Machine.execDrillPush n s
  | .drillWindow n => Sys2Proof.Machine.execDrillWindow n s
  | .drillLoop n => Sys2Proof.Machine.execDrillLoop n s
  | .drillEndl n => Sys2Proof.Machine.execDrillEndl n s
  | .drillConvert n => Sys2Proof.Machine.execDrillConvert n s
  | .drillWaitsig n => Sys2Proof.Machine.execDrillWaitsig n s
  | .drillSignal n => Sys2Proof.Machine.execDrillSignal n s
  | .drillWswrite n => Sys2Proof.Machine.execDrillWswrite n s
  | .drillFill n => Sys2Proof.Machine.execDrillFill n s
  | .drillHalt n => Sys2Proof.Machine.execDrillHalt n s
  | .drillNop n => Sys2Proof.Machine.execDrillNop n s
  | .drillRowAdmit n => Sys2Proof.Machine.execDrillRowAdmit n s
  | .drillWaitEnd n => Sys2Proof.Machine.execDrillWaitEnd n s
  | .drillStop n => Sys2Proof.Machine.execDrillStop n s
  | .sampleArrival src value => Sys2Proof.Machine.execSampleArrival src value s
  | .paceSample k => Sys2Proof.Machine.execPaceSample k s
  | .sampleBoundary pcl => Sys2Proof.Machine.execSampleBoundary pcl s
  | .sinkTake pcl => Sys2Proof.Machine.execSinkTake pcl s
  | .frameBoundary pcl => Sys2Proof.Machine.execFrameBoundary pcl s
  | .lockAcquired pcl => Sys2Proof.Machine.execLockAcquired pcl s
  | .lockTimeout pcl => Sys2Proof.Machine.execLockTimeout pcl s
  | .sourceStopped pcl => Sys2Proof.Machine.execSourceStopped pcl s
  | .enterBecalmed pcl => Sys2Proof.Machine.execEnterBecalmed pcl s
  | .sourceReturn pcl => Sys2Proof.Machine.execSourceReturn pcl s
  | .chronExchange l t1 t2 t3 t4 => Sys2Proof.Machine.execChronExchange l t1 t2 t3 t4 s
  | .refreshWindowStart die sub => Sys2Proof.Machine.execRefreshWindowStart die sub s
  | .refreshWindowEnd die sub => Sys2Proof.Machine.execRefreshWindowEnd die sub s
  | .refreshPeriod die => Sys2Proof.Machine.execRefreshPeriod die s
  | .placementPass => Sys2Proof.Machine.execPlacementPass s
  | .kernelStarting k => Sys2Proof.Machine.execKernelStarting k s
  | .kernelRunning k => Sys2Proof.Machine.execKernelRunning k s
  | .kernelRetire k => Sys2Proof.Machine.execKernelRetire k s
  | .diversion pcn eng => Sys2Proof.Machine.execDiversion pcn eng s
  | .kernelSaved k => Sys2Proof.Machine.execKernelSaved k s
  | .pageWalk w => Sys2Proof.Machine.execPageWalk w s
  | .walkReread w => Sys2Proof.Machine.execWalkReread w s
  | .walkMigratingTimeout w => Sys2Proof.Machine.execWalkMigratingTimeout w s
  | .faultServiceDone who resume => Sys2Proof.Machine.execFaultServiceDone who resume s
  | .handleRetranslate pcn => Sys2Proof.Machine.execHandleRetranslate pcn s
  | .shootdown go => Sys2Proof.Machine.execShootdown go s
  | .doorbell q w => Sys2Proof.Machine.execDoorbell q w s
  | .nopPacket q => Sys2Proof.Machine.execNopPacket q s
  | .launch q => Sys2Proof.Machine.execLaunch q s
  | .ib q => Sys2Proof.Machine.execIb q s
  | .signal q => Sys2Proof.Machine.execSignal q s
  | .wait q => Sys2Proof.Machine.execWait q s
  | .waitReevaluate q => Sys2Proof.Machine.execWaitReevaluate q s
  | .write q => Sys2Proof.Machine.execWrite q s
  | .fence q => Sys2Proof.Machine.execFence q s
  | .stamp q => Sys2Proof.Machine.execStamp q s
  | .drill q => Sys2Proof.Machine.execDrill q s
  | .sextant q => Sys2Proof.Machine.execSextant q s
  | .wsload q => Sys2Proof.Machine.execWsload q s
  | .reset q => Sys2Proof.Machine.execReset q s
  | .tractBind q => Sys2Proof.Machine.execTractBind q s
  | .tractRelock q => Sys2Proof.Machine.execTractRelock q s
  | .tractUnbind q => Sys2Proof.Machine.execTractUnbind q s
  | .tractSink q => Sys2Proof.Machine.execTractSink q s
  | .tractStile q => Sys2Proof.Machine.execTractStile q s
  | .tractPace q => Sys2Proof.Machine.execTractPace q s
  | .tractPort q => Sys2Proof.Machine.execTractPort q s
  | .tractLinkcfg q => Sys2Proof.Machine.execTractLinkcfg q s
  | .kernelRecord q => Sys2Proof.Machine.execKernelRecord q s
  | .mxopRecord k => Sys2Proof.Machine.execMxopRecord k s
  | .copyRecord k i_ => Sys2Proof.Machine.execCopyRecord k i_ s
  | .sextantRecord q => Sys2Proof.Machine.execSextantRecord q s
  | .inCopy k i_ pcn => Sys2Proof.Machine.execInCopy k i_ pcn s
  | .outCopy k i_ pcn => Sys2Proof.Machine.execOutCopy k i_ pcn s
  | .launchEnd q => Sys2Proof.Machine.execLaunchEnd q s
  | .coalTimer q => Sys2Proof.Machine.execCoalTimer q s
  | .qctlEnable w => Sys2Proof.Machine.execQctlEnable w s
  | .qctlDisable w => Sys2Proof.Machine.execQctlDisable w s
  | .qctlClear w => Sys2Proof.Machine.execQctlClear w s
  | .qctlReset w => Sys2Proof.Machine.execQctlReset w s
  | .qctlPreempt w => Sys2Proof.Machine.execQctlPreempt w s
  | .qctlRestore w => Sys2Proof.Machine.execQctlRestore w s
  | .resetAck q agent => Sys2Proof.Machine.execResetAck q agent s
  | .resetAckTimeout q => Sys2Proof.Machine.execResetAckTimeout q s
  | .queueLineWrite q i_ w => Sys2Proof.Machine.execQueueLineWrite q i_ w s
  | .ctxEnable w => Sys2Proof.Machine.execCtxEnable w s
  | .ctxSuspend w => Sys2Proof.Machine.execCtxSuspend w s
  | .ctxResume w => Sys2Proof.Machine.execCtxResume w s
  | .ctxPrecopy w => Sys2Proof.Machine.execCtxPrecopy w s
  | .ctxStopcopy w => Sys2Proof.Machine.execCtxStopcopy w s
  | .ctxCommit w => Sys2Proof.Machine.execCtxCommit w s
  | .ctxAbort w => Sys2Proof.Machine.execCtxAbort w s
  | .ctxDisable w => Sys2Proof.Machine.execCtxDisable w s
  | .ctxClear w => Sys2Proof.Machine.execCtxClear w s
  | .ctxImport w => Sys2Proof.Machine.execCtxImport w s
  | .heldAccess asid acc => Sys2Proof.Machine.execHeldAccess asid acc s
  | .contextFault asid code info => Sys2Proof.Machine.execContextFault asid code info s
  | .sxFactorRetire pcl => Sys2Proof.Machine.execSxFactorRetire pcl s
  | .sxCorrectRetire pcl => Sys2Proof.Machine.execSxCorrectRetire pcl s
  | .sxTest pcl => Sys2Proof.Machine.execSxTest pcl s
  | .sxTrapRetire pcl => Sys2Proof.Machine.execSxTrapRetire pcl s
  | .sxKernelFault pcl => Sys2Proof.Machine.execSxKernelFault pcl s
  | .flitReceive l flit data crcOk => Sys2Proof.Machine.execFlitReceive l flit data crcOk s
  | .flitReplay l => Sys2Proof.Machine.execFlitReplay l s
  | .remoteAck l tag => Sys2Proof.Machine.execRemoteAck l tag s
  | .linkSample l => Sys2Proof.Machine.execLinkSample l s
  | .linkTrained l lanes peer => Sys2Proof.Machine.execLinkTrained l lanes peer s
  | .trainingTimeout l => Sys2Proof.Machine.execTrainingTimeout l s
  | .laneFailure l lane => Sys2Proof.Machine.execLaneFailure l lane s
  | .linkFault l => Sys2Proof.Machine.execLinkFault l s
  | .linkEnable w => Sys2Proof.Machine.execLinkEnable w s
  | .linkRetrain w => Sys2Proof.Machine.execLinkRetrain w s
  | .linkDisable w => Sys2Proof.Machine.execLinkDisable w s
  | .lockInterfaceRequest vf nonce => Sys2Proof.Machine.execLockInterfaceRequest vf nonce s
  | .startInterfaceRequest vf nonce => Sys2Proof.Machine.execStartInterfaceRequest vf nonce s
  | .stopInterfaceRequest vf => Sys2Proof.Machine.execStopInterfaceRequest vf s
  | .getDeviceInterfaceReport vf => Sys2Proof.Machine.execGetDeviceInterfaceReport vf s
  | .frozenRegisterWrite vf => Sys2Proof.Machine.execFrozenRegisterWrite vf s
  | .heartbeat die => Sys2Proof.Machine.execHeartbeat die s
  | .lockstepMismatch die => Sys2Proof.Machine.execLockstepMismatch die s
  | .pilotTakeover => Sys2Proof.Machine.execPilotTakeover s
  | .zqPush b a => Sys2Proof.Machine.execZqPush b a s
  | .zqPushw b a => Sys2Proof.Machine.execZqPushw b a s
  | .zqFence d => Sys2Proof.Machine.execZqFence d s
  | .zqStat a d => Sys2Proof.Machine.execZqStat a d s
  | .portPacket port => Sys2Proof.Machine.execPortPacket port s
  | .serviceCallDispatch i_ answer => Sys2Proof.Machine.execServiceCallDispatch i_ answer s
  | .extentRevoke ext len => Sys2Proof.Machine.execExtentRevoke ext len s
  | .vote w => Sys2Proof.Machine.execVote w s
  | .voteHoldExpiry rail => Sys2Proof.Machine.execVoteHoldExpiry rail s
  | .setmode w => Sys2Proof.Machine.execSetmode w s
  | .logread w => Sys2Proof.Machine.execLogread w s
  | .logthaw w => Sys2Proof.Machine.execLogthaw w s
  | .stage w image => Sys2Proof.Machine.execStage w image s
  | .sensor w => Sys2Proof.Machine.execSensor w s
  | .haring w => Sys2Proof.Machine.execHaring w s
  | .hanswer w => Sys2Proof.Machine.execHanswer w s
  | .powerPeriod meter => Sys2Proof.Machine.execPowerPeriod meter s
  | .thermalMove k => Sys2Proof.Machine.execThermalMove k s
  | .softError die pcn => Sys2Proof.Machine.execSoftError die pcn s
  | .powerOn => Sys2Proof.Machine.execPowerOn s
  | .registerWrite r w => Sys2Proof.Machine.execRegisterWrite r w s
  | .unassignedEncoding => Sys2Proof.Machine.execUnassignedEncoding s
  | .badtypePacket q => Sys2Proof.Machine.execBadtypePacket q s
  | .unassignedDrillOpcode n => Sys2Proof.Machine.execUnassignedDrillOpcode n s
  | .wsloadComplete q => Sys2Proof.Machine.execWsloadComplete q s
  | .railRaiseComplete rail => Sys2Proof.Machine.execRailRaiseComplete rail s
  | .instructionFetchArrival pcn eng => Sys2Proof.Machine.execInstructionFetchArrival pcn eng s

end Sys2Proof.Machine
end

