-- ==== Sys2Proof/Machine/Issue.lean ====
section
/-! DEFINITION. Machine/Issue.lean: what one turn of the machine does (assumption 1). A stream's turn fetches, decodes
and checks its next word in the order of R72, holds it to its issue qualifier, its stage predicate and the registers it
waits for, and executes it (R49, R50, R55, R61, R148, R160, R163, R165, R171); a service core's turn executes one word
(R375); an event of the opcode table befalls the machine. Step.lean only calls `State.turn`. -/

namespace Sys2Proof.Machine

/-! ### Checks -/

/-- A block header (R51). -/
def isBlock : Instr → Bool
  | .blockPlain _ _ | .blockPlainReg _ _ | .blockStrided _ _ _ _ _ _ | .blockPipelined _ _ _ | .blockTimed _ _ _ => true
  | _ => false

/-- The count register of a header, which is read after every earlier write of it (R53). -/
def countReg : Instr → Option (BitVec 5)
  | .blockPlainReg _ x => some x
  | .blockStrided _ c _ _ _ _ | .blockPipelined _ c _ | .blockTimed _ c _ =>
    (match c with | .imm _ => none | .reg x => some x)
  | _ => none

/-- The word at an address, `len` bytes long, may stand there: outside every block only a header, and in a body no
32-bit word that the body's last half-word begins (R50, R55). DEDUCED (assumption 42). -/
def placeOk (i : Instr) (at_ len : Nat) (blocks : List Block) : Bool :=
  isBlock i || (match blocks with
    | [] => false
    | b :: _ => !(decide (len = 4) && decide (at_ + 2 = b.stop)))

/-- The checks that a decoded word is held to, in their order, whether or not its issue is suppressed (R72, R160); a
repetition has no place of its own (R165). DEDUCED (assumption 42). -/
def State.wordFault (s : State) (id : StreamId) (i : Instr) (at_ len : Nat) (repeated : Bool) : Option KFault :=
  let m := s.stream id
  if !(i.okFor id.eng) then some .illegal
  else if !(i.engineOk id.eng) then some .illegalForEngine
  else if !(i.peerOk (s.declared id.core) id.eng) then some .queuePeer
  else if !repeated && !(placeOk i at_ len m.blocks) then some .blockForm
  else if !(i.allotOk m.xk m.vm id.eng) then some .regAllot
  else if isGo i && !(slotsOk (s.code id.core) (at_ + len) m.blocks) then some .branchSlot
  else none

/-! ### Issue -/

/-- The issue qualifier of the word at an address; a 16-bit word has none (R49). -/
def qualifier (code : List Byte) (a : Nat) : BitVec 2 :=
  if codeLen code a = 4 then (codeWord code a).extractLsb' 21 2 else 0

/-- The word issues in this iteration: its qualifier and its stage predicate permit it (R49, R163). Headers heed the
predicate themselves (R164). DEDUCED (assumption 53). -/
def State.permits (s : State) (id : StreamId) (i : Instr) (at_ : Nat) : Bool :=
  let m := s.stream id
  isBlock i || isRep i || (iqOk (qualifier (s.code id.core) at_) m.blocks && stageOk m.spw at_ m.blocks)

/-- The repetition that issues next, its fields advanced without wrap; none where a field passes 31 (R165). -/
noncomputable def repetition (code : List Byte) (pc left : Nat) : Option Instr :=
  let r := codeHalf code pc
  let w := codeWord code (pc + 2)
  let i := (r.extractLsb' 7 6).toNat - left
  let d := (w.extractLsb' 16 5).toNat + i * (r.extractLsb' 5 2).toNat
  let a := (w.extractLsb' 11 5).toNat + i * (r.extractLsb' 3 2).toNat
  let b := (w.extractLsb' 6 5).toNat + i * (r.extractLsb' 1 2).toNat
  if 31 < d ∨ 31 < a ∨ 31 < b then none
  else decodeWord (w.extractLsb' 21 11 ++ BitVec.ofNat 5 d ++ BitVec.ofNat 5 a ++ BitVec.ofNat 5 b ++ w.extractLsb' 0 6)

/-- A word has executed: unless it waits, ended its stream or was stopped by a fault, it has completed (R148). -/
def State.afterWord (s : State) (id : StreamId) : State :=
  let m := s.stream id
  if m.phase = .live ∧ s.live id.core ∧ m.wait = .none then s.complete id else s

/-- The stream is about to execute the word at its pc, which `npc` follows. -/
def State.issuing (s : State) (id : StreamId) (npc : Nat) : State :=
  { (s.modStream id (fun m => { m with
      npc := npc, wait := .none, fence := 0, spent := false, passed := m.wait.isArriving })) with cur := id }

/-- The barrier that a word acts on (R297). -/
def barrierOf : Instr → Option (BitVec 5)
  | .barInit _ a _ | .barSync _ a | .barArrive _ _ a | .barWait _ a _ => some a
  | _ => none

/-- Words of one core that act on one barrier in one tract cycle take effect in the order AP, XP, MX, a `kn.end` after
them (R297): a word that would come too late acts in the next cycle. -/
def State.barLate (s : State) (id : StreamId) (i : Instr) : Bool :=
  match barrierOf i with
  | none => false
  | some a => decide (id.eng.num + 1 < (s.bar id.core a.toNat).by_)

/-- Issue cycles that a word has taken beyond its first (R171); a word that waits has none. -/
def State.extraCycles (s t : State) (id : StreamId) : Nat :=
  if (t.stream id).wait = .none then (t.stream id).busy - (s.stream id).busy else 0

/-- A word of several issue cycles takes effect in the last of them, so that FRAME_OVERRUN finds it without effect (R118,
R171, R195): until they have passed the stream is busy at the word. DEDUCED (assumption 103). -/
def State.issued (s t u : State) (id : StreamId) : State :=
  let n := t.extraCycles u id
  if n = 0 then u.afterWord id
  else if (s.stream id).spent then (u.modStream id (fun m => { m with busy := (t.stream id).busy })).afterWord id
  else s.modStream id (fun m => { m with busy := m.busy + n, spent := true })

/-- A decoded word issues: its checks, its stalls, then its effect; a suppressed word takes its cycle (R49, R72, R171).
DEDUCED (assumption 54). -/
def State.issueWith (s : State) (id : StreamId) (i : Instr) (at_ len : Nat) (repeated : Bool) : Out :=
  match s.wordFault id i at_ len repeated with
  | some f => .next (s.streamFault id f 0)
  | none =>
    let t := s.issuing id (at_ + len)
    if !(s.permits id i at_) then .next (t.complete id)
    else if s.stalls id i || (match countReg i with | some x => s.pending id (.x x) | none => false) || s.barLate id i then
      .next s
    else
      match exec i t with
      | .next u => .next (s.issued t u id)
      | o => o

/-- The word at a stream's pc, or the next repetition of the word behind its `rep`, issues (R50, R72, R165). -/
noncomputable def State.issueWord (s : State) (id : StreamId) : Out :=
  let m := s.stream id
  let code := s.code id.core
  if m.repOn then
    match repetition code m.pc m.repc with
    | some i => s.issueWith id i (m.pc + 2) 4 true
    | none => .next (s.streamFault id .illegal 0)
  else
    match decode (codeAt code m.pc) with
    | .ok i len => s.issueWith id i m.pc len false
    | .illegal => exec .unassignedEncoding (s.issuing id m.pc)
    | .blockForm => .next (s.streamFault id .blockForm 0)

/-- A stream may issue in this cycle: its kernel runs, its tract stands inside a sample, and no earlier word or fetch
keeps it (R60, R61, R106, R135, R148). -/
def State.mayIssue (s : State) (id : StreamId) : Bool :=
  let m := s.stream id
  s.live id.core && m.phase = .live && (s.tractOf id.core).issuing && m.busy = 0 && !m.fetching

/-- One issue turn of a stream (R61, R144, R148, R269). -/
noncomputable def State.streamTurn (s : State) (id : StreamId) : Out :=
  let m := s.stream id
  if !(s.mayIssue id) then .next s
  else
    match if m.spent then none else s.divertsTo id with
    | some t => .next (s.divert id t)
    | none =>
      if m.wait ≠ .none ∧ m.wait ≠ .again ∧ !m.wait.isArriving then .next s
      else if m.idling ∨ m.fenced then .next s
      else if !m.fetched then .next (s.modStream id (fun m => { m with fetching := true }))
      else s.issueWord id

/-! ### Service cores -/

/-- The store that a word of the base set makes, by its RV64 opcode and its size: at a free address, of a free value
(assumption 37). -/
def serviceStore (n : Nat) (w : BitVec 32) : List (Nat × Nat × Nat) :=
  if w.extractLsb' 0 7 = 0x23#7 then
    let k := 2 ^ (w.extractLsb' 12 2).toNat
    [((Config.freeCoreReg n 38).toNat / k * k, k, (Config.freeCoreReg n 39).toNat)]
  else []

/-- A word of the service core's RV64 base set, which R373 names and no chapter describes: its registers take free values, a
store joins those that are not performed yet (R376), and the oldest of these may be performed. PRESUMED (assumption 37). -/
def State.serviceOwn (s : State) (port : Nat) (w : BitVec 32) : State :=
  let n := s.freeCtr
  let s := if Config.freePerform n then s.svcStore port else s
  let p := s.svc port
  { (s.setSvc port { p with
      stores := p.stores ++ serviceStore n w
      x := Vector.ofFn (fun i => Config.freeCoreReg n i.val)
      pc := Config.freeCoreReg n 32
      mepc := Config.freeCoreReg n 33
      mcause := Config.freeCoreReg n 34
      mtval := Config.freeCoreReg n 35
      mtvec := Config.freeCoreReg n 36
      mstatus := Config.freeCoreReg n 37 }) with freeCtr := n + 1 }

/-- One word of a service core: a command-port instruction, its illegal-instruction exception, or a word of the base set
(R373, R375). A core that is halted or held in reset executes nothing (R373, R374). -/
noncomputable def State.serviceTurn (s : State) (port : Nat) (w : BitVec 32) : Out :=
  if !((s.die port).healthy) then .next s
  else if w.extractLsb' 0 7 ≠ 0x0B#7 then .next (s.serviceOwn port w)
  else
    match decodePort w with
    | some i => exec i { s with port := port }
    | none => .next (s.serviceTrap port w)

/-! ### Turns -/

/-- An event of the opcode table: a constructor without words of its own. -/
def isEvent (i : Instr) : Bool := (encode i).isNone && i != .unassignedEncoding

/-- What a turn leaves to the links, the command complex and the context unit (R322, R343, R344, R350). -/
def State.settle (s : State) : State := 
  s.settleLinks.settleNotes.settleCalls.settlePreempt.settleResets.settleContexts.settleRecords

/-- One turn. -/
noncomputable def State.take (s : State) (t : Turn) : Out :=
  match t with
  | .stream pcn eng => if pcn < 512 then s.streamTurn { core := pcn, eng := eng } else .fault (.noSuchUnit pcn)
  | .cycle pcl => if pcl < 64 then s.cycle pcl else .fault (.noSuchUnit pcl)
  | .tick => .next (s.placePass.tickOn)
  | .service port w => if port < 4 then s.serviceTurn port w else .fault (.noSuchUnit port)
  | .event i => if isEvent i then exec i s else .next s

/-- The machine after a turn. -/
def settled (o : Out) : Out :=
  match o with
  | .next s => .next s.settle
  | o => o

/-- The next turn of the machine: the agenda's first, or, where it lists none, a free one (assumption 1). -/
noncomputable def State.turn (s : State) : Out :=
  match s.agenda with
  | t :: r => settled (({ s with agenda := r }).take t)
  | [] => settled (({ s with freeCtr := s.freeCtr + 1 }).take (Config.freeTurn s.freeCtr))

/-! ### The first instruction of a run -/

/-- The first engine that may issue a word. -/
def engineFor (i : Option Instr) : Eng :=
  match i with
  | none => .ap
  | some i => if i.engineOk .ap && i.okFor .ap then .ap else if i.engineOk .xp then .xp else .mx

/-- The code image that stands for a word: a plain header of one iteration where the word needs a block around it, the
word, and zeros behind it, the longest instruction and two delay slots among them. -/
def imageFor (e : Encoded) (bare : Bool) : List Byte :=
  (if bare then [] else (Encoded.word (encodeHeader 0 511 (.imm 1))).bytes) ++ e.bytes ++ List.replicate 64 0

/-- A package whose core 0 runs a kernel with a word at the pc of one stream, and nothing to wait for: the issue cycles of
a long word but the last are behind it.
DESIGN CHOICE (assumption 3). -/
noncomputable def State.placeWord (s : State) (e : Encoded) : State :=
  let i := decodeEncoded e
  let bare := match i with | some i => isBlock i | none => false
  let code := imageFor e bare
  let pc := if bare then 0 else 4
  let eng := engineFor i
  let k := s.nextKernel
  let hdr : Header := { streams := 7, xk := Vector.replicate 3 32, vm := 32 }
  let s := s.setKernel k { state := .running, hdr := hdr, code := code, seats := [{ pcn := 0 }], released := false }
  let s := { (s.modCore 0 (fun c => { c with kernel := some k })) with nextKernel := k + 1 }
  let s := [Eng.ap, .xp, .mx].foldl (fun s e => s.modStream { core := 0, eng := e } (fun m => { m with
    phase := .live, xk := 32, vm := if e = .xp then 32 else 0, pc := pc, npc := pc, repOn := false
    blocks := if bare then [] else [{ entry := 0, body := 4, stop := 1026, count := 1 }]
    window := none, wait := .none, saved := none, busy := 0, late := [], pend := [], fence := 0, hpend := []
    spent := true, passed := false, owed := []
    lbuf := (0, code.length), fetching := false })) s
  { (s.modTract 0 (fun t => { t with state := .locked, edge := .inside, restart := false, held := false })) with
    agenda := [.stream 0 eng] }

end Sys2Proof.Machine
end

