-- ==== Sys2Proof/Machine/Step.lean ====
section
/-! DEFINITION. Machine/Step.lean: the step of the machine, and how a test places one instruction before it. -/

namespace Sys2Proof.Machine

/-- One step: the next turn of the agenda, or a free one (assumption 1). -/
noncomputable def step (s : State) : Host.Outcome State Fault Refusal := s.turn

/-- The state with an instruction where the next step fetches: a stream's word in the code image of a kernel that runs on
core 0, or a word of service core 0 (assumption 3). -/
noncomputable def State.withFetchWord (s : State) (nbits w : Nat) : State :=
  match tableEncoded nbits w with
  | .riscv v => { s with agenda := [.service 0 v] }
  | e => s.placeWord e

end Sys2Proof.Machine
end

