-- ==== Sys2Proof/Safety.lean ====
section
/-! DEFINITION. Safety.lean: what a safe run is, and what the statements say an instruction leaves as it was. The VR-960
has no state in which it stops: every fault of the manual is a next state. A step is safe when it answers one, and memory
is well formed when every byte store of the package is in canonical form. -/

namespace Sys2Proof.Machine

/-- Every byte memory of the package is in canonical form: main memory, the weight stores and the scratchpads. -/
def State.MemWf (s : State) : Prop :=
  Mem.wf s.mem = true ∧ (∀ p ∈ s.dies, Mem.wf p.2.ws = true) ∧ (∀ p ∈ s.cores, Mem.wf p.2.sp = true)

/-- A run of n steps meets no stop. -/
def Safe : Nat → State → Prop
  | 0, _ => True
  | n + 1, s => ∃ t, step s = .next t ∧ Safe n t

/-- The words of a major whose fields but FN are all zero: each form listed stands at its FN, and every other FN is
ILLEGAL (R48, R71). -/
def MajorForms (base : Nat) (l : List (Nat × Instr)) : Prop :=
  ∀ n < 64, decode (Encoded.word (BitVec.ofNat 32 (base + n))).bytes =
    match l.find? (fun p => p.1 = n) with
    | some p => .ok p.2 4
    | none => .illegal

/-- A word that is ILLEGAL. -/
def IllegalWord (w : Nat) : Prop := decode (Encoded.word (BitVec.ofNat 32 w)).bytes = .illegal

/-! ### Values of numbers -/

/-- The rational number that a value stands for; 0 for a NaN or an infinity. -/
def FVal.rat : FVal → ℚ
  | .fin n m e => (if n then -1 else 1) * m * 2 ^ e
  | _ => 0

/-- The rational number that an exact result stands for; 0 for a NaN or an infinity. -/
def XVal.rat : XVal → ℚ
  | .val n num den e => (if n then -1 else 1) * num / den * 2 ^ e
  | _ => 0

/-- A code of R29 for a value (R39): its sign, and the index of the nearest magnitude, of two as near the even one; the
last for an infinity, and 7 for a NaN. -/
def Nq4Nearest (v : FVal) (code : Nat) : Prop :=
  match v with
  | .nan => code = 7
  | .inf n => code = if n then 15 else 7
  | .fin n m e =>
    let off (i : Nat) : ℚ := |256 * m * 2 ^ e - (nq4Mag i : ℚ)|
    code / 8 = num n ∧ ∀ i < 8, off (code % 8) ≤ off i ∧ (off (code % 8) = off i → i ≠ code % 8 → code % 2 = 0)

/-! ### Frames -/

/-- Every byte of main memory, of every weight store and of every scratchpad reads as before. -/
def State.SameBytes (s t : State) : Prop :=
  (∀ a, Mem.byte t.mem a = Mem.byte s.mem a) ∧ (∀ d a, Mem.byte (t.die d).ws a = Mem.byte (s.die d).ws a)
    ∧ (∀ c a, Mem.byte (t.core c).sp a = Mem.byte (s.core c).sp a)

/-- Nothing but the issuing stream has changed: no other core, no other part of its core, no byte, no unit of the
package. -/
def State.OnlyMe (s t : State) : Prop :=
  t = { s with cores := t.cores } ∧ (∀ c, c ≠ s.cur.core → t.core c = s.core c)
    ∧ t.myCore = s.myCore.setStream s.cur.eng t.me ∧ s.SameBytes t

/-- Nothing but the issuing stream's core has changed, and of it no byte of the scratchpad. -/
def State.OnlyMyCore (s t : State) : Prop :=
  t = { s with cores := t.cores } ∧ (∀ c, c ≠ s.cur.core → t.core c = s.core c) ∧ s.SameBytes t

/-- The instruction completes, writes v into x[d] (nothing for x0) and changes no other register, flag or byte. -/
def GivesX (i : Instr) (s : State) (d : BitVec 5) (v : Word) : Prop :=
  ∃ t, exec i s = .next t ∧ s.OnlyMe t ∧ t.me = { s.me with x := t.me.x } ∧ (∀ r, r ≠ d → t.rx r = s.rx r)
    ∧ t.rx d = if d = 0 then 0 else v

/-- The instruction completes, writes v into a[d] and changes no other register, flag or byte. -/
def GivesA (i : Instr) (s : State) (d : BitVec 4) (v : Word) : Prop :=
  ∃ t, exec i s = .next t ∧ s.OnlyMe t ∧ t.me = { s.me with a := t.me.a } ∧ (∀ r, r ≠ d → t.me.ra r = s.me.ra r)
    ∧ t.me.ra d = v

/-- The instruction completes, writes v into v[d] and changes no other register, flag or byte. -/
def GivesV (i : Instr) (s : State) (d : BitVec 5) (v : Row) : Prop :=
  ∃ t, exec i s = .next t ∧ s.OnlyMe t ∧ t.me = { s.me with v := t.me.v } ∧ (∀ r, r ≠ d → t.rv r = s.rv r)
    ∧ t.rv d = v

/-- The instruction completes and writes v into v[d], which a later word finds ready n cycles after (R171); no other
register, flag or byte changes. -/
def GivesVLate (i : Instr) (s : State) (d : BitVec 5) (v : Row) (n : Nat) : Prop :=
  ∃ t, exec i s = .next t ∧ s.OnlyMe t ∧ t.me = { s.me with v := t.me.v, late := s.me.late ++ [(.v d, n)] }
    ∧ (∀ r, r ≠ d → t.rv r = s.rv r) ∧ t.rv d = v

/-- The instruction completes and writes v and v' into the pair v[d], v[d + 1]; no other register, flag or byte
changes, and the issue takes one cycle more. -/
def GivesPair (i : Instr) (s : State) (d : BitVec 5) (v v' : Row) : Prop :=
  ∃ t, exec i s = .next t ∧ s.OnlyMe t ∧ t.me = { s.me with v := t.me.v, busy := s.me.busy + 1 }
    ∧ (∀ r, r ≠ d → r ≠ d + 1 → t.rv r = s.rv r) ∧ t.rv d = v ∧ t.rv (d + 1) = v'

/-- The instruction completes, writes v into p[d] and changes no other register, flag or byte. -/
def GivesP (i : Instr) (s : State) (d : BitVec 3) (v : Pred) : Prop :=
  ∃ t, exec i s = .next t ∧ s.OnlyMe t ∧ t.me = { s.me with p := t.me.p } ∧ (∀ r, r ≠ d → t.me.rp r = s.me.rp r)
    ∧ t.me.rp d = v

/-- The instruction completes, writes the truth value v into the condition register c[d] and changes no other register,
flag or byte. -/
def GivesC (i : Instr) (s : State) (d : Nat) (v : Bool) : Prop :=
  ∃ t, exec i s = .next t ∧ s.OnlyMe t ∧ t.me = { s.me with c := t.me.c } ∧ (∀ r, r ≠ d → t.me.rc r = s.me.rc r)
    ∧ t.me.rc d = v

/-- The instruction completes, leaves the issuing stream as m, and changes nothing else. -/
def GivesMe (i : Instr) (s : State) (m : Stream) : Prop :=
  ∃ t, exec i s = .next t ∧ s.OnlyMe t ∧ t.me = m

/-- The instruction completes and changes nothing but the core of the issuing stream, which becomes c; every byte of its
scratchpad is as before. -/
def GivesCore (i : Instr) (s : State) (c : Core) : Prop :=
  ∃ t, exec i s = .next t ∧ s.OnlyMyCore t ∧ t.myCore = c

/-- The instruction completes at a stream of a core, after a wait: nothing but that core has changed, of it no byte, and
the stream has gone on from m. -/
def Resumes (i : Instr) (s : State) (id : StreamId) (m : Stream) : Prop :=
  ∃ t, exec i s = .next t ∧ t = { s with cores := t.cores } ∧ (∀ c, c ≠ id.core → t.core c = s.core c)
    ∧ s.SameBytes t ∧ t.stream id = m.complete id.eng

/-- The word completes, or waits, on barrier n without changing it, and has acted on it in this tract cycle (R297); the issuing
stream stands as m, and nothing else has changed. -/
def ActsOnBarrier (i : Instr) (s : State) (n : Nat) (m : Stream) : Prop :=
  ∃ t, exec i s = .next t ∧ s.OnlyMyCore t ∧ t.me = m
    ∧ t.bar s.cur.core n = { s.bar s.cur.core n with by_ := max (s.bar s.cur.core n).by_ (s.cur.eng.num + 1) }
    ∧ (∀ k, k ≠ n → t.bar s.cur.core k = s.bar s.cur.core k)
    ∧ ∀ e, e ≠ s.cur.eng → t.myCore.stream e = s.myCore.stream e

/-- Frame cycle 0 begins in a cluster (R117, R118): of streams that may run, one that waited for it starts, a timed block that
idles begins its next iteration or is left, and others stand as they did, where none has a word of its iteration still to
issue; where one has, its kernel takes FRAME_OVERRUN at that word. -/
def FrameBegins (s u : State) (pcl : Nat) : Prop :=
  let late (id : StreamId) : Bool := (s.stream id).phase = .live && s.live id.core
    && (s.stream id).wait != .frame && ((s.stream id).atTest id.eng).overruns
  let ours (id : StreamId) : Prop := id.core / 8 = pcl
  (∀ id, ¬ ours id → u.stream id = s.stream id)
  ∧ ((∀ id, ours id → late id = false) → u.kernels = s.kernels ∧ ∀ id, ours id →
      let m := s.stream id
      u.stream id =
        if m.phase ≠ .live ∨ s.live id.core = false then m
        else if m.wait = .frame then ({ m with wait := .none } : Stream).frameStart id.eng
        else if (m.atTest id.eng).idling = false then m
        else match m.wait with
          | .trAt n => { (m.complete id.eng).frameStart id.eng with wait := .trAtPast n, busy := m.busy }
          | _ => m.frameStart id.eng)
  ∧ ∀ id k, ours id → late id = true → (s.core id.core).kernel = some k → (∀ j, ours j → late j = true → j = id) →
      (u.kernel k).state = .faulted ∧ (u.kernel k).fault.map (·.code) = some .frameOverrun
        ∧ (u.kernel k).fault.map (·.whr) = some (word ((s.stream id).atTest id.eng).pc)

/-- The value of the count field of a header, and whether it names a register of the allotment (R51, R53). -/
def State.countOf (s : State) : Count → Nat
  | .imm r => r.toNat
  | .reg x => (s.rx x).toNat

def State.countAllotted (s : State) : Count → Prop
  | .imm _ => True
  | .reg x => x.toNat < s.me.xk

/-- A body of len half-words may open here: it is not empty, the nesting leaves room for it, and it ends within the
innermost active block (R55). -/
abbrev State.BodyFits (s : State) (len : BitVec 10) : Prop :=
  len ≠ 0 ∧ s.me.blocks.length < 6 ∧ ∀ b ∈ s.me.blocks.head?, s.me.npc + 2 * len.toNat ≤ b.stop

/-- The stride pairs of a strided header: none names a register with a stride of 0 (R55). -/
abbrev PairsFit (ra : BitVec 4) (sa : BitVec 10) (rb : BitVec 4) (sb : BitVec 10) : Prop :=
  (sa ≠ 0 ∨ ra = 0) ∧ (sb ≠ 0 ∨ rb = 0)

/-- The x registers that the pairs of a strided header name in an XP or MX stream lie in the allotment (R57). -/
abbrev State.PairsAllotted (s : State) (ra : BitVec 4) (sa : BitVec 10) (rb : BitVec 4) (sb : BitVec 10) : Prop :=
  s.cur.eng = .ap ∨ ((sa = 0 ∨ 16 + ra.toNat < s.me.xk) ∧ (sb = 0 ∨ 16 + rb.toNat < s.me.xk))

/-- A timed block may open here: its cycles are the frame's, its extent fits the loop buffer, and no timed block of the
stream is active (R55). -/
abbrev State.TimedFits (s : State) (len : BitVec 10) (cyc : BitVec 25) : Prop :=
  cyc.toNat = (s.tractOf s.cur.core).n ∧ s.me.npc + 2 * len.toNat ≤ s.me.pc + 512
    ∧ ∀ b ∈ s.me.blocks, ∀ n, b.kind ≠ .timed n

/-- The block that a header opens: its body follows the header's last word. -/
def State.opened (s : State) (kind : BlockKind) (len : BitVec 10) (count : Nat) (idle : Bool) : Block :=
  { kind := kind, entry := s.me.pc, body := s.me.npc, stop := s.me.npc + 2 * len.toNat, count := count, spw := s.me.spw,
    idle := idle }

/-- A kernel in one of the three states in which its streams may fault (R135, R142). -/
abbrev Kernel.Faultable (K : Kernel) : Prop := K.state = .starting ∨ K.state = .running ∨ K.state = .draining

/-- The record of a fault of the issuing word: the core, the engine, the word's address and the kernel's record (R142). -/
def State.faultRec (s : State) (k : Nat) (c : KFault) (detail : Nat) : FaultRec :=
  { code := c, pcn := s.cur.core, eng := s.cur.eng.num, whr := word s.me.pc, recVa := (s.kernel k).krec, detail := detail }

/-- The instruction completes by taking the kernel fault c at the issuing word: the kernel of the stream's core is FAULTED
with that record, and no register, no scratchpad byte and no other kernel has changed. -/
def TakesFault (i : Instr) (s : State) (k : Nat) (c : KFault) (detail : Nat) : Prop :=
  ∃ t, exec i s = .next t ∧ (t.kernel k).state = .faulted ∧ t.cores = s.cores ∧ (∀ j, j ≠ k → t.kernel j = s.kernel j)
    ∧ (t.kernel k).fault = some (s.faultRec k c detail)

end Sys2Proof.Machine
end

