-- ==== Sys2Proof/Certificates/Slice0/Obligations.lean ====
section
/-! DEFINITION. Certificates/Slice0/Obligations.lean: the statements for the provers. Each names the rules or the
chapter of spec/ it formalises; `Gives…` and `Only…` are those of Safety.lean, and say what an instruction writes and
that it changes nothing else. -/

open Sys2Proof Sys2Proof.Machine


/-! ### Scalar words -/

/-- Chapter 8, ia (0x01): the integer words that write one x register, each on every operand. -/
def Obligations.IntegerWordsGiveTheirResults : Prop :=
  ∀ (s : State) (i : BitVec 2) (d a b : BitVec 5),
    GivesX (.iaAdd i d a b) s d (s.rx a + s.rx b)
    ∧ GivesX (.iaSub i d a b) s d (s.rx a - s.rx b)
    ∧ GivesX (.iaAnd i d a b) s d (s.rx a &&& s.rx b)
    ∧ GivesX (.iaOr i d a b) s d (s.rx a ||| s.rx b)
    ∧ GivesX (.iaXor i d a b) s d (s.rx a ^^^ s.rx b)
    ∧ GivesX (.iaMov i d a) s d (s.rx a)
    ∧ GivesX (.iaAndn i d a b) s d (s.rx a &&& ~~~(s.rx b))
    ∧ GivesX (.iaOrn i d a b) s d (s.rx a ||| ~~~(s.rx b))
    ∧ GivesX (.iaMul i d a b) s d (BitVec.ofInt 64 ((s.rx a).toInt * (s.rx b).toInt))
    ∧ GivesX (.iaMulh i d a b) s d
        ((((s.rx a).signExtend 128 * (s.rx b).signExtend 128) >>> 64).setWidth 64)
    ∧ GivesX (.iaMulhu i d a b) s d
        ((((s.rx a).setWidth 128 * (s.rx b).setWidth 128) >>> 64).setWidth 64)
    ∧ GivesX (.iaMin i d a b) s d (if (s.rx a).toInt ≤ (s.rx b).toInt then s.rx a else s.rx b)
    ∧ GivesX (.iaMax i d a b) s d (if (s.rx a).toInt ≤ (s.rx b).toInt then s.rx b else s.rx a)
    ∧ GivesX (.iaMinu i d a b) s d (if (s.rx a).toNat ≤ (s.rx b).toNat then s.rx a else s.rx b)
    ∧ GivesX (.iaMaxu i d a b) s d (if (s.rx a).toNat ≤ (s.rx b).toNat then s.rx b else s.rx a)
    ∧ GivesX (.iaAdds i d a b) s d
        (BitVec.ofInt 64 (max (-2 ^ 63) (min (2 ^ 63 - 1) ((s.rx a).toInt + (s.rx b).toInt))))
    ∧ GivesX (.iaSubs i d a b) s d
        (BitVec.ofInt 64 (max (-2 ^ 63) (min (2 ^ 63 - 1) ((s.rx a).toInt - (s.rx b).toInt))))
    ∧ GivesX (.iaSxt i d a 1) s d (((s.rx a).setWidth 8).signExtend 64)
    ∧ GivesX (.iaSxt i d a 2) s d (((s.rx a).setWidth 16).signExtend 64)
    ∧ GivesX (.iaSxt i d a 3) s d (((s.rx a).setWidth 32).signExtend 64)
    ∧ GivesX (.iaZxt i d a 0) s d (((s.rx a).setWidth 8).setWidth 64)
    ∧ GivesX (.iaZxt i d a 1) s d (((s.rx a).setWidth 16).setWidth 64)
    ∧ GivesX (.iaZxt i d a 2) s d (((s.rx a).setWidth 32).setWidth 64)

/-- R173: the four divisions complete on every operand, zero divisors and −2^63 by −1 among them, and change besides x[d]
only the stream's issue cycles. Where the divisor is not zero the quotient rounds toward zero. -/
def Obligations.DivisionsRoundTowardZeroAndNeverFault : Prop :=
  ∀ (s : State) (i : BitVec 2) (d a b : BitVec 5),
    let sa := (s.rx a).toInt
    let sb := (s.rx b).toInt
    let ua := (s.rx a).toNat
    let ub := (s.rx b).toNat
    ∀ n : Nat, n < 4 →
      ∃ t w, exec (([.iaDiv i d a b, .iaRem i d a b, .iaDivu i d a b, .iaRemu i d a b] : List Instr).getD n .nop) s = .next t
        ∧ s.OnlyMe t ∧ t.me = { s.me with x := t.me.x, busy := t.me.busy } ∧ (∀ r, r ≠ d → t.rx r = s.rx r)
        ∧ (t.rx d = if d = 0 then 0 else w)
        ∧ (n = 0 → if sb = 0 then w = -1 else if sa = -2 ^ 63 ∧ sb = -1 then w.toInt = -2 ^ 63
            else w.toInt.natAbs = sa.natAbs / sb.natAbs ∧ (w.toInt = 0 ∨ w.toInt.sign = (sa * sb).sign))
        ∧ (n = 1 → if sb = 0 then w = s.rx a else if sa = -2 ^ 63 ∧ sb = -1 then w = 0
            else (∃ q : Int, w.toInt = sa - sb * q ∧ q.natAbs = sa.natAbs / sb.natAbs ∧ (q = 0 ∨ q.sign = (sa * sb).sign))
              ∧ (w.toInt = 0 ∨ w.toInt.sign = sa.sign))
        ∧ (n = 2 → w.toNat = if ub = 0 then 2 ^ 64 - 1 else ua / ub)
        ∧ (n = 3 → w.toNat = if ub = 0 then ua else ua % ub)

/-- R174: each word of the carry chain writes the sum or difference into x[d] and the carry or borrow into c3, as one
equation over the natural numbers, and changes nothing else; c3 is written where d is 0 as well. -/
def Obligations.CarryChainWords : Prop :=
  ∀ (s : State) (i : BitVec 2) (d a b : BitVec 5) (n : Nat), n < 4 →
    let ua := (s.rx a).toNat
    let ub := (s.rx b).toNat
    let cin := if n % 2 = 1 ∧ s.me.rc 3 then 1 else 0
    ∃ t w, exec (([.iaAddco i d a b, .iaAddc i d a b, .iaSubbo i d a b, .iaSubb i d a b] : List Instr).getD n .nop) s = .next t
      ∧ s.OnlyMe t ∧ t.me = { s.me with x := t.me.x, c := t.me.c } ∧ (∀ r, r ≠ d → t.rx r = s.rx r)
      ∧ (∀ r, r ≠ 3 → t.me.rc r = s.me.rc r) ∧ (t.rx d = if d = 0 then 0 else w)
      ∧ (n < 2 → w.toNat + 2 ^ 64 * (if t.me.rc 3 then 1 else 0) = ua + ub + cin)
      ∧ (2 ≤ n → w.toNat + ub + cin = ua + 2 ^ 64 * (if t.me.rc 3 then 1 else 0))

/-- Chapter 8, ia (0x20 to 0x23): the words between the x and the a registers of an AP stream. R175: `ii.add`, its base word and its effect. Chapter 8 (iw, bf) and chapter 3 (compact ALU): the insert, and the compact forms, which act as the 32-bit word they
stand for. -/
def Obligations.AddressImmediateAndCompactWords : Prop :=
  (∀ (s : State) (i : BitVec 2) (d a b : BitVec 5),
    GivesA (.iaAmov i d a) s (d.setWidth 4) (s.rx a)
    ∧ GivesX (.iaXmov i d a) s d (s.me.ra (a.setWidth 4))
    ∧ GivesA (.iaAadd i d a b) s (d.setWidth 4) (s.me.ra (a.setWidth 4) + s.rx b)
    ∧ GivesA (.iaArow i d a b) s (d.setWidth 4) (s.me.ra (a.setWidth 4) + 64 * s.rx b))
  ∧ (encode (.iiAdd 0 0 0 0) = some (.word 0xE1000000)
  ∧ ∀ (s : State) (i : BitVec 2) (d a : BitVec 5) (k : BitVec 11),
      GivesX (.iiAdd i d a k) s d (BitVec.ofInt 64 ((s.rx a).toNat + k.toInt)) ∧ -1024 ≤ k.toInt ∧ k.toInt ≤ 1023
        ∧ (∀ k8 : BitVec 8, k.toInt = k8.toInt → GivesX (.compactLoadImmediate d k8) s d (BitVec.ofInt 64 k.toInt)))
  ∧ (∀ (s : State) (i : BitVec 2) (d a : BitVec 5) (k : BitVec 16),
    GivesX (.iwIns i d k) s d (BitVec.ofNat 64 ((s.rx d).toNat * 2 ^ 16 + k.toNat))
    ∧ GivesX (.compactAdd d a) s d (s.rx d + s.rx a)
    ∧ GivesX (.compactSub d a) s d (s.rx d - s.rx a)
    ∧ GivesX (.compactAnd d a) s d (s.rx d &&& s.rx a)
    ∧ GivesX (.compactOr d a) s d (s.rx d ||| s.rx a)
    ∧ GivesX (.compactXor d a) s d (s.rx d ^^^ s.rx a)
    ∧ GivesX (.compactMov d a) s d (s.rx a)
    ∧ GivesX (.compactSll d a) s d (s.rx d <<< ((s.rx a).toNat % 64))
    ∧ GivesX (.compactSrl d a) s d (s.rx d >>> ((s.rx a).toNat % 64)))

/-- R177, bf (0x03): the FN of each form; shifts, rotates, extracts, the insert and the funnel shift, each bit by bit, with k the shift
amount, and pos and len of the field control word; a len of 0 stands for 64. Other bits of x[b] have no effect. The count words, the two reversals, and the immediate shifts by k = 32 × FN[0] + B. A count is the
number of bits set, or the length of the longest run of zeros at one end. -/
def Obligations.BitFieldWords : Prop :=
  (MajorForms 0xE1800000 [(0x00, .bfSll 0 0 0 0), (0x01, .bfSrl 0 0 0 0), (0x02, .bfSra 0 0 0 0), (0x03, .bfRol 0 0 0 0),
    (0x04, .bfRor 0 0 0 0), (0x05, .bfBfx 0 0 0 0), (0x06, .bfBfxs 0 0 0 0), (0x07, .bfBfi 0 0 0 0), (0x08, .bfFsh 0 0 0 0),
    (0x09, .bfPop 0 0 0), (0x0A, .bfClz 0 0 0), (0x0B, .bfCtz 0 0 0), (0x0C, .bfRev 0 0 0), (0x0D, .bfRevb 0 0 0),
    (0x20, .bfSlli 0 0 0 0 0), (0x21, .bfSlli 0 0 0 0 1), (0x22, .bfSrli 0 0 0 0 0), (0x23, .bfSrli 0 0 0 0 1),
    (0x24, .bfSrai 0 0 0 0 0), (0x25, .bfSrai 0 0 0 0 1), (0x26, .bfRoli 0 0 0 0 0), (0x27, .bfRoli 0 0 0 0 1),
    (0x28, .bfRori 0 0 0 0 0), (0x29, .bfRori 0 0 0 0 1)]
  ∧ ∀ (s : State) (i : BitVec 2) (d a b : BitVec 5),
    let A := s.rx a
    let k := (s.rx b).toNat % 64
    let len := if (s.rx b).toNat / 256 % 64 = 0 then 64 else (s.rx b).toNat / 256 % 64
    ∀ n : Nat, n < 9 →
      ∃ w, GivesX (([.bfSll i d a b, .bfSrl i d a b, .bfSra i d a b, .bfRol i d a b, .bfRor i d a b, .bfBfx i d a b,
          .bfBfxs i d a b, .bfBfi i d a b, .bfFsh i d a b] : List Instr).getD n .nop) s d w ∧ ∀ j, j < 64 →
        (n = 0 → w.getLsbD j = (decide (k ≤ j) && A.getLsbD (j - k)))
        ∧ (n = 1 → w.getLsbD j = A.getLsbD (j + k))
        ∧ (n = 2 → w.getLsbD j = if j + k < 64 then A.getLsbD (j + k) else A.getLsbD 63)
        ∧ (n = 3 → w.getLsbD j = A.getLsbD ((j + 64 - k) % 64))
        ∧ (n = 4 → w.getLsbD j = A.getLsbD ((j + k) % 64))
        ∧ (n = 5 → w.getLsbD j = (decide (j < len) && A.getLsbD (j + k)))
        ∧ (n = 6 → w.getLsbD j = if j < len then A.getLsbD (j + k) else A.getLsbD (k + len - 1))
        ∧ (n = 7 → w.getLsbD j = if k ≤ j ∧ j < k + len then A.getLsbD (j - k) else (s.rx d).getLsbD j)
        ∧ (n = 8 → w.getLsbD j = if k ≤ j then (s.rx d).getLsbD (j - k) else A.getLsbD (j + 64 - k)))
  ∧ (∀ (s : State) (i : BitVec 2) (d a s5 : BitVec 5) (h : BitVec 1),
    let A := s.rx a
    let k := 32 * h.toNat + s5.toNat
    GivesX (.bfPop i d a) s d (BitVec.ofNat 64 ((List.range 64).countP (fun j => A.getLsbD j)))
    ∧ (∃ n ≤ 64, GivesX (.bfClz i d a) s d (BitVec.ofNat 64 n) ∧ (∀ j, 64 - n ≤ j → A.getLsbD j = false)
        ∧ (n < 64 → A.getLsbD (63 - n) = true))
    ∧ (∃ n ≤ 64, GivesX (.bfCtz i d a) s d (BitVec.ofNat 64 n) ∧ (∀ j, j < n → A.getLsbD j = false)
        ∧ (n < 64 → A.getLsbD n = true))
    ∧ (∃ w, GivesX (.bfRev i d a) s d w ∧ ∀ j, j < 64 → w.getLsbD j = A.getLsbD (63 - j))
    ∧ (∃ w, GivesX (.bfRevb i d a) s d w ∧ ∀ j, j < 64 → w.getLsbD j = A.getLsbD (8 * (7 - j / 8) + j % 8))
    ∧ GivesX (.bfSlli i d a s5 h) s d (A <<< k)
    ∧ GivesX (.bfSrli i d a s5 h) s d (A >>> k)
    ∧ GivesX (.bfSrai i d a s5 h) s d (A.sshiftRight k)
    ∧ GivesX (.bfRoli i d a s5 h) s d (A.rotateLeft k)
    ∧ GivesX (.bfRori i d a s5 h) s d (A.rotateRight k))

/-- R156, cmp (0x05): the FN of each form; a true comparison writes 1 and a false one 0 into c[d], on whole registers, and
nothing else changes; a c field above 3, an s field above 7, and an FN outside the table are ILLEGAL. -/
def Obligations.CompareWords : Prop :=
  MajorForms 0xE2800000 [(0x00, .cmpEq 0 0 0 0), (0x01, .cmpNe 0 0 0 0), (0x02, .cmpLt 0 0 0 0), (0x03, .cmpGe 0 0 0 0),
    (0x04, .cmpLtu 0 0 0 0), (0x05, .cmpGeu 0 0 0 0), (0x06, .cmpTst 0 0 0 0), (0x07, .cmpNtst 0 0 0 0),
    (0x08, .cmpAnd 0 0 0 0), (0x09, .cmpOr 0 0 0 0), (0x0A, .cmpAndn 0 0 0 0), (0x0B, .cmpXor 0 0 0 0), (0x0C, .cmpStg 0 0 0)]
  ∧ (∀ n < 64, ∀ f < 32, (4 ≤ f → IllegalWord (0xE2800000 + 2 ^ 16 * f + n))
      ∧ (8 ≤ n → n < 12 → 4 ≤ f → IllegalWord (0xE2800000 + 2 ^ 11 * f + n) ∧ IllegalWord (0xE2800000 + 2 ^ 6 * f + n))
      ∧ (n = 12 → (8 ≤ f → IllegalWord (0xE2800000 + 2 ^ 11 * f + n)) ∧ (0 < f → IllegalWord (0xE2800000 + 2 ^ 6 * f + n))))
  ∧ ∀ (s : State) (i : BitVec 2) (d a b : BitVec 5), d.toNat < 4 →
    let A := s.rx a
    let B := s.rx b
    let ca := s.me.rc a.toNat
    let cb := s.me.rc b.toNat
    GivesC (.cmpEq i d a b) s d.toNat (decide (A = B))
    ∧ GivesC (.cmpNe i d a b) s d.toNat (decide (A ≠ B))
    ∧ GivesC (.cmpLt i d a b) s d.toNat (decide (A.toInt < B.toInt))
    ∧ GivesC (.cmpGe i d a b) s d.toNat (decide (B.toInt ≤ A.toInt))
    ∧ GivesC (.cmpLtu i d a b) s d.toNat (decide (A.toNat < B.toNat))
    ∧ GivesC (.cmpGeu i d a b) s d.toNat (decide (B.toNat ≤ A.toNat))
    ∧ GivesC (.cmpTst i d a b) s d.toNat (decide (A &&& B ≠ 0))
    ∧ GivesC (.cmpNtst i d a b) s d.toNat (decide (A &&& B = 0))
    ∧ GivesC (.cmpAnd i d a b) s d.toNat (ca && cb)
    ∧ GivesC (.cmpOr i d a b) s d.toNat (ca || cb)
    ∧ GivesC (.cmpAndn i d a b) s d.toNat (ca && !cb)
    ∧ GivesC (.cmpXor i d a b) s d.toNat (xor ca cb)
    ∧ GivesC (.cmpStg i d a) s d.toNat (s.me.spw.getLsbD a.toNat)

/-- Chapter 6, sp (0x0C) and its compact forms: a spill changes the named slot alone, and a fill that follows it, with any
register as its destination, returns the value spilled; a slot that nothing has spilled to is filled as zero. -/
def Obligations.FillReturnsTheLatestSpill : Prop :=
  ∀ (s : State) (i : BitVec 2) (a d : BitVec 5) (slot : BitVec 8) (c : BitVec 7),
    (∃ t, exec (.spSpill i a slot) s = .next t ∧ s.OnlyMe t ∧ t.me = { s.me with spill := t.me.spill }
      ∧ (∀ n, n ≠ slot.toNat → t.me.spill.get 0 n = s.me.spill.get 0 n) ∧ GivesX (.spFill i d slot) t d (s.rx a))
    ∧ (∃ t, exec (.compactSpill c a) s = .next t ∧ s.OnlyMe t ∧ t.me = { s.me with spill := t.me.spill }
      ∧ (∀ n, n ≠ c.toNat → t.me.spill.get 0 n = s.me.spill.get 0 n) ∧ GivesX (.compactFill c d) t d (s.rx a))
    ∧ (∃ t, exec (.spVspill i a slot) s = .next t ∧ s.OnlyMe t ∧ t.me = { s.me with vspill := t.me.vspill }
      ∧ (∀ n, n ≠ slot.toNat → t.me.vspill.get 0 n = s.me.vspill.get 0 n) ∧ GivesV (.spVfill i d slot) t d (s.rv a))
    ∧ (s.me.spill = [] → GivesX (.spFill i d slot) s d 0 ∧ GivesX (.compactFill c d) s d 0)
    ∧ (s.me.vspill = [] → GivesV (.spVfill i d slot) s d 0)


/-! ### Control -/

/-- Chapter 3, block headers (R51 to R59): on every header that passes its checks with a count that is not 0, a new entry
of the block stack opens, of its kind; a pipelined block starts SPW at 1, a timed one waits for frame cycle 0, and what the
loop buffer does not hold of it is fetched meanwhile (R61). Nothing else changes. -/
def Obligations.BlockHeadersOpenTheirBlocks : Prop :=
  ∀ (s : State) (len r : BitVec 10) (x : BitVec 5) (c : Count) (ra rb : BitVec 4) (sa sb : BitVec 10) (sm1 : BitVec 3)
    (cyc : BitVec 25), s.BodyFits len → stageOk s.me.spw s.me.pc s.me.blocks = true →
    (r ≠ 0 → GivesMe (.blockPlain len r) s { s.me with blocks := s.opened .plain len r.toNat false :: s.me.blocks })
    ∧ (x.toNat < s.me.xk → 0 < (s.rx x).toNat → (s.rx x).toNat < 2 ^ 32 → GivesMe (.blockPlainReg len x) s
        { s.me with blocks := s.opened .plain len (s.rx x).toNat false :: s.me.blocks })
    ∧ (s.countAllotted c → 0 < s.countOf c → s.countOf c < 2 ^ 32 →
        (PairsFit ra sa rb sb → s.PairsAllotted ra sa rb sb → GivesMe (.blockStrided len c ra sa rb sb) s
            { s.me with blocks := s.opened (.strided ra sa rb sb) len (s.countOf c) false :: s.me.blocks })
        ∧ GivesMe (.blockPipelined len c sm1) s
            { s.me with
              blocks := s.opened (.pipelined (sm1.toNat + 1)) len (s.countOf c) false :: s.me.blocks, spw := 1 }
        ∧ (s.TimedFits len cyc → GivesMe (.blockTimed len c cyc) s
              { s.me with
                blocks := s.opened (.timed cyc.toNat) len (s.countOf c) true :: s.me.blocks
                fetching := s.me.fetching
                  || !(s.me.lbuf.1 ≤ s.me.pc && s.me.npc + 2 * len.toNat ≤ s.me.lbuf.2) }))

/-- R54: a count of 0 skips the block, whatever its kind and its engine: control goes on behind the body, no stride is
added, SPW stands, no frame is waited for. So does a header whose stage predicate is 0 (R164). The checks of R55, and
those of the count register (R53) and of the stride registers (R57), come first, and one that fails faults whatever the
count is; those of a header's own bits are made where it decodes. -/
def Obligations.ACountOfZeroSkipsTheBlock : Prop :=
  (∀ (s : State) (len r : BitVec 10) (x : BitVec 5) (c : Count) (ra rb : BitVec 4) (sa sb : BitVec 10) (sm1 : BitVec 3)
    (cyc : BitVec 25),
    let past : Stream := { s.me with npc := s.me.npc + 2 * len.toNat }
    let skips (n : Nat) : Prop := n = 0 ∨ (stageOk s.me.spw s.me.pc s.me.blocks = false ∧ n < 2 ^ 32)
    (s.BodyFits len →
      (skips r.toNat → GivesMe (.blockPlain len r) s past)
      ∧ (x.toNat < s.me.xk → skips (s.rx x).toNat → GivesMe (.blockPlainReg len x) s past)
      ∧ (s.countAllotted c → skips (s.countOf c) →
          GivesMe (.blockPipelined len c sm1) s past
          ∧ (PairsFit ra sa rb sb → s.PairsAllotted ra sa rb sb → GivesMe (.blockStrided len c ra sa rb sb) s past)
          ∧ (s.TimedFits len cyc → GivesMe (.blockTimed len c cyc) s past)))
    ∧ ∀ k, s.myCore.kernel = some k → (s.kernel k).Faultable →
      (¬s.BodyFits len → TakesFault (.blockPlain len r) s k .blockForm 0 ∧ TakesFault (.blockPlainReg len x) s k .blockForm 0
        ∧ TakesFault (.blockPipelined len c sm1) s k .blockForm 0
        ∧ TakesFault (.blockStrided len c ra sa rb sb) s k .blockForm 0 ∧ TakesFault (.blockTimed len c cyc) s k .blockForm 0)
      ∧ (¬PairsFit ra sa rb sb → TakesFault (.blockStrided len c ra sa rb sb) s k .blockForm 0)
      ∧ (¬s.TimedFits len cyc → TakesFault (.blockTimed len c cyc) s k .blockForm 0)
      ∧ (s.BodyFits len → s.me.xk ≤ x.toNat → TakesFault (.blockPlainReg len x) s k .regAllot 0)
      ∧ (s.BodyFits len → ¬s.countAllotted c → TakesFault (.blockPipelined len c sm1) s k .regAllot 0
        ∧ (s.TimedFits len cyc → TakesFault (.blockTimed len c cyc) s k .regAllot 0))
      ∧ (s.BodyFits len → PairsFit ra sa rb sb → ¬(s.countAllotted c ∧ s.PairsAllotted ra sa rb sb) →
        TakesFault (.blockStrided len c ra sa rb sb) s k .regAllot 0))
  ∧ ∀ w e : BitVec 32, w.extractLsb' 23 9 = 0x1C0 →
    let kind := (w.extractLsb' 21 2).toNat
    w.getLsbD 0 = true ∧ w.extractLsb' 6 5 ≠ 0 ∨ kind ≠ 0 ∧ e.extractLsb' 29 3 ≠ 7 ∨ kind = 1 ∧ e.getLsbD 0 = true
      ∨ kind = 2 ∧ e.extractLsb' 0 26 ≠ 0 ∨ kind = 3 ∧ e.extractLsb' 25 4 ≠ 0 →
    decode (Encoded.header w e).bytes = .blockForm

/-- Chapter 3 (R52, R57, R58, R117): the end of a body, of every kind. Where the pc arrives at it, a plain, strided or
pipelined block runs its body again while passes remain, and after the last pass control goes on behind the body and a
pipelined block gives SPW back. Each pass of a strided block, the last one too, adds both strides, to address registers
in rows and to x registers in ones, and to a register that both pairs name twice; what an access has still to write into
an x register has the stride added when it is written. A timed block waits behind its body for the next frame. -/
def Obligations.ABodyRepeatsUntilItsCountIsSpent : Prop :=
  ∀ (m : Stream) (e : Eng) (b : Block) (rest : List Block), m.blocks = b :: rest → m.npc = b.stop → m.window = none →
    m.repOn = false → (∀ o ∈ rest.head?, b.stop ≠ o.stop) →
    (b.kind = .plain → b.iter + 1 < b.count →
      m.complete e = { m with busy := m.busy + 1, wait := .none, pc := b.body,
                              blocks := { b with iter := b.iter + 1 } :: rest })
    ∧ (b.kind = .plain → b.count ≤ b.iter + 1 →
      m.complete e = { m with busy := m.busy + 1, wait := .none, pc := b.stop, blocks := rest })
    ∧ (∀ st, b.kind = .pipelined st → b.iter + 1 < b.count + st - 1 →
      m.complete e = { m with busy := m.busy + 1, wait := .none, pc := b.body,
                              spw := (m.spw <<< 1) ||| (if b.iter + 1 < b.count then 1 else 0)
                              blocks := { b with iter := b.iter + 1 } :: rest })
    ∧ (∀ st, b.kind = .pipelined st → b.count + st - 1 ≤ b.iter + 1 →
      m.complete e = { m with busy := m.busy + 1, wait := .none, pc := b.stop, spw := b.spw, blocks := rest })
    ∧ (∀ n, b.kind = .timed n →
      m.complete e = { m with busy := m.busy + 1, wait := .none, pc := b.stop,
                              blocks := { b with iter := b.iter + 1, idle := true } :: rest })
    ∧ (∀ ra sa rb sb, b.kind = .strided ra sa rb sb →
      let t := m.complete e
      t = { m with busy := m.busy + 1, wait := .none, x := t.x, a := t.a, owed := t.owed
                   pc := if b.iter + 1 < b.count then b.body else b.stop
                   blocks := if b.iter + 1 < b.count then { b with iter := b.iter + 1 } :: rest else rest }
      ∧ (e = .ap → t.x = m.x ∧ t.owed = m.owed ∧ ∀ n, t.ra n = m.ra n + (if n = ra then 64 * sa.signExtend 64 else 0)
          + (if n = rb then 64 * sb.signExtend 64 else 0))
      ∧ (e ≠ .ap → t.a = m.a ∧ ∀ n : BitVec 5,
          let more : Word := (if n.toNat = 16 + ra.toNat then sa.signExtend 64 else 0)
            + (if n.toNat = 16 + rb.toNat then sb.signExtend 64 else 0)
          if ∃ y ∈ m.pend, y.kind.dest = some (.x n)
          then t.rx n = m.rx n ∧ t.owed.get 0 n.toNat = m.owed.get 0 n.toNat + more
          else t.rx n = m.rx n + more ∧ t.owed.get 0 n.toNat = m.owed.get 0 n.toNat))

/-- Chapter 7, br (R157, R158, R160): `br.prep` and `br.prepx` set t to a target within the code section, and fault
BAD_TARGET on any other with t unchanged; `br.tget` reads t; `br.go` and its short forms hold a transfer whose condition
and target are read now, with two delay slots to come, and fault BRANCH_SLOT where the slots do not fit. R158, R161, R162:
behind the first slot nothing is transferred; behind the second a transfer that is taken replaces the end of an iteration
and leaves every active block whose body does not hold its target, and no other, giving back the SPW of a pipelined one;
one that is not taken goes on in sequence. -/
def Obligations.BranchWordsAndTheirTransfers : Prop :=
  (∀ (s : State) (i : BitVec 2) (d a : BitVec 5) (t c : BitVec 2) (k : BitVec 13),
    let size : Int := (s.code s.cur.core).length
    let rel : Int := s.me.pc + 2 * k.toInt
    let abs : Int := (s.rx a).toNat
    let held (take : Bool) (t : BitVec 2) : Stream :=
      { s.me with window := some { slots := 3, take := take, dest := (s.me.rt t).toNat } }
    (rel % 2 = 0 → 0 ≤ rel → rel < size → GivesMe (.brPrep i t k) s (s.me.wt t (BitVec.ofInt 64 rel)))
    ∧ (abs % 2 = 0 → abs < size → GivesMe (.brPrepx i d a) s (s.me.wt (d.setWidth 2) (s.rx a)))
    ∧ GivesX (.brTget i d a) s d (s.me.rt (a.setWidth 2))
    ∧ (s.slotsFit = true →
        GivesMe (.brGo i d a) s (held (s.me.rc a.toNat) (d.setWidth 2))
        ∧ GivesMe (.brGoNot i d a) s (held (!s.me.rc a.toNat) (d.setWidth 2))
        ∧ GivesMe (.brGoAlways i d) s (held true (d.setWidth 2))
        ∧ GivesMe (.shortTransfer t c) s (held (s.me.rc c.toNat) t)
        ∧ GivesMe (.shortTransferNot t c) s (held (!s.me.rc c.toNat) t)
        ∧ GivesMe (.shortTransferAlways t) s (held true t))
    ∧ ∀ K, s.myCore.kernel = some K → (s.kernel K).Faultable →
        (¬(rel % 2 = 0 ∧ 0 ≤ rel ∧ rel < size) → TakesFault (.brPrep i t k) s K .badTarget 0)
        ∧ (¬(abs % 2 = 0 ∧ abs < size) → TakesFault (.brPrepx i d a) s K .badTarget 0)
        ∧ (s.slotsFit = false →
          TakesFault (.brGo i d a) s K .branchSlot 0 ∧ TakesFault (.brGoNot i d a) s K .branchSlot 0
          ∧ TakesFault (.brGoAlways i d) s K .branchSlot 0 ∧ TakesFault (.shortTransfer t c) s K .branchSlot 0
          ∧ TakesFault (.shortTransferNot t c) s K .branchSlot 0
          ∧ TakesFault (.shortTransferAlways t) s K .branchSlot 0))
  ∧ (∀ (m : Stream) (e : Eng) (w : Window), m.window = some w → m.repOn = false →
    let spent : Stream := { m with busy := m.busy + 1, wait := .none }
    (w.slots ≤ 1 → w.take = true → m.complete e = { spent with window := none }.transfer w.dest m.blocks)
    ∧ ((∀ b ∈ m.blocks.head?, m.npc ≠ b.stop) →
      (2 ≤ w.slots → m.complete e = { spent with pc := m.npc, window := some { w with slots := w.slots - 1 } })
      ∧ (w.slots ≤ 1 → w.take = false → m.complete e = { spent with pc := m.npc, window := none }))
    ∧ (w.slots ≤ 1 → w.take = false →
      m.complete e = ({ m with window := none } : Stream).complete e))
  ∧ ∀ (m : Stream) (dest : Nat) (l : List Block), ∃ j ≤ l.length,
      m.transfer dest l = { m with
        blocks := l.drop j, pc := dest
        spw := (((l.take j).reverse.find? (fun b => match b.kind with | .pipelined _ => true | _ => false)).map
          (fun b => b.spw)).getD m.spw }
      ∧ (∀ b ∈ l.take j, ¬(b.body ≤ dest ∧ dest < b.stop)) ∧ ∀ b ∈ (l.drop j).head?, b.body ≤ dest ∧ dest < b.stop

/-- Chapters 3 and 7: `rep` over a word that may follow it starts its repetitions, `rep` with n = 0 passes over the word,
`nop` changes nothing, and a fetch that arrives fills the loop buffer (R61, R65, R165). Chapter 7 (R165 to R168): each repetition counts REPC down and the word issues again; behind the last one REPC is 0
and control goes on behind the repeated word. Where the manual leaves them open these clauses follow the model's own
choice: the gating of repetitions (assumption 53). -/
def Obligations.RepNopAndFetchArrival : Prop :=
  (∀ (s : State) (n : BitVec 6) (d a b : BitVec 2) (pcn : Nat) (e : Eng),
    (repWordOk (s.code s.cur.core) s.me.npc b = true → (∀ o ∈ s.me.blocks, s.me.npc + 4 ≤ o.stop) →
      (n ≠ 0 → GivesMe (.rep n d a b) s { s.me with
        repOn := true, repOld := false, npc := s.me.pc
        repc := if s.me.repc = 0 ∨ s.me.repOld = true then n.toNat else s.me.repc })
      ∧ (n = 0 → GivesMe (.rep n d a b) s { s.me with npc := s.me.npc + 4, repc := 0, repOld := false }))
    ∧ exec .nop s = .next s
    ∧ ((s.stream ⟨pcn, e⟩).fetching = true → ∃ t, exec (.instructionFetchArrival pcn e) s = .next t
        ∧ t.stream ⟨pcn, e⟩ = { s.stream ⟨pcn, e⟩ with
            fetching := false, lbuf := extentFor (s.stream ⟨pcn, e⟩).pc (s.stream ⟨pcn, e⟩).blocks }
        ∧ s.SameBytes t ∧ ∀ id, id ≠ ⟨pcn, e⟩ → t.stream id = s.stream id))
  ∧ (∀ (m : Stream) (e : Eng), m.repOn = true → m.npc ≠ m.pc → m.window = none → (∀ b ∈ m.blocks.head?, m.npc ≠ b.stop) →
    (1 < m.repc → m.complete e = { m with busy := m.busy + 1, wait := .none, repc := m.repc - 1 })
    ∧ (m.repc = 1 → m.complete e = { m with busy := m.busy + 1, wait := .none, repc := 0, repOn := false, pc := m.npc }))


/-! ### Kernel faults and the sys words -/

/-- Chapter 6, sys (0x07) (R133, R151 to R153, R268): identifiers, system registers, the call of a service and its answer,
and the fence. R142, R387: the fault of an issued word is precise. An encoding that is no instruction faults ILLEGAL, `sys.trap`
faults TRAP with its code in the record, an `sys.wr` of a BFMT value that R33 refuses faults ILLEGAL_FORMAT: each
makes its kernel FAULTED with the record of that word and changes no register. Where the manual leaves them open these
clauses follow the model's own choice: the place of the code of `sys.trap` in the record (assumption 51). -/
def Obligations.SystemWords : Prop :=
  (∀ (s : State) (i : BitVec 2) (d a b : BitVec 5) (k : Nat), s.myCore.kernel = some k →
    let c := s.myCore
    let K := s.kernel k
    let g := K.gshp.toNat
    (∀ n, n < 12 → GivesX (.sysId i d (BitVec.ofNat 5 n)) s d
      (([word c.gdie, word c.gclu, word c.gcor, word c.stg, word s.cur.eng.num, word K.kid.toNat, word (g % 4 + 1),
         word (g / 4 % 16 + 1), word (g / 64 % 8 + 1), word (g / 512 % 16 + 1), K.run, word s.cur.core] : List Word).getD n 0))
    ∧ (∀ n (h : n < 32), GivesX (.sysRd i d (BitVec.ofNat 10 n)) s d (c.bfmt[n].setWidth 64))
    ∧ GivesX (.sysRd i d 0x20) s d (s.me.spw.setWidth 64)
    ∧ GivesX (.sysRd i d 0x21) s d (word s.me.repc)
    ∧ (∃ w, GivesX (.sysRd i d 0x22) s d w ∧ ∀ n (h : n < 64), w.getLsbD n = decide (c.tags[n] = 0))
    ∧ GivesX (.sysRd i d 0x23) s d (s.helm.mode.setWidth 64)
    ∧ GivesX (.sysRd i d 0x24) s d (word s.me.dpc)
    ∧ GivesMe (.sysWr i d 0x20) s { s.me with spw := (s.rx d).setWidth 8 }
    ∧ (∀ n (h : n < 32), bfmtOk ((s.rx d).setWidth 32) = true →
        GivesCore (.sysWr i d (BitVec.ofNat 10 n)) s
          { c with bfmt := c.bfmt.set n ((s.rx d).setWidth 32 &&& 0xFE3FFFFF) h })
    ∧ (∀ m, exec (.sysFence i m 0) s = .next s)
    ∧ (∀ m sc, sc ≠ 0 → s.me.fence = 0 → ∃ w, GivesMe (.sysFence i m sc) s { s.me with fence := w }
        ∧ ∀ n, n < 16 → w.getLsbD n = (m.getLsbD n || decide (n = 15)))
    ∧ (bits (s.rx b) 63 24 = 0 → (s.locked s.cur.core && s.assisted 7) = false →
        ∃ t, exec (.sysScall i d a b) s = .next t ∧ t.me = { s.me with wait := .scall d s.nextScall } ∧ s.SameBytes t
          ∧ t.nextScall = s.nextScall + 1 ∧ t.kernels = s.kernels
          ∧ t.scalls = s.scalls ++ [{ id := s.nextScall, who := s.cur, asid := K.asid, kid := K.kid, arg := s.rx a, req := s.rx b
                                      svc := ((s.rx b) >>> 8).setWidth 16, tok := (s.rx b).setWidth 8 }])
    ∧ (∀ pcn e n v q, s.awake pcn = true → (s.stream ⟨pcn, e⟩).wait = .scall d n →
        s.scalls.find? (fun q => q.id = n) = some q → q.answer = some v → q.writes = [] →
        s.owing (.svc (pcn / 128) q.asid) = false →
        ∃ t, exec (.scallReturn pcn e) s = .next t ∧ t.stream ⟨pcn, e⟩ = ((s.stream ⟨pcn, e⟩).wx d v).complete e
          ∧ t.scalls = s.scalls.filter (fun q => q.id != n) ∧ s.SameBytes t ∧ ∀ id, id ≠ ⟨pcn, e⟩ → t.stream id = s.stream id))
  ∧ (∀ (s : State) (k : Nat), s.myCore.kernel = some k → (s.kernel k).Faultable →
    TakesFault .unassignedEncoding s k .illegal 0
    ∧ (∀ i c, TakesFault (.sysTrap i c) s k .trap c.toNat)
    ∧ (∀ i d (r : BitVec 10), r.toNat < 32 → bfmtOk ((s.rx d).setWidth 32) = false →
        TakesFault (.sysWr i d r) s k .illegalFormat 0)
    ∧ (∀ i d a b, bits (s.rx b) 63 24 ≠ 0 → TakesFault (.sysScall i d a b) s k .scallForm 0))


/-! ### Queue registers, barriers, ends and rendezvous -/

/-- Chapter 6, q (0x0D) and its compact forms (R136 to R139, R150). A push at a queue with room enters its value behind
the elements there, one bit of it in q6 and q7, and changes no register; at a full queue the stream waits, and faults
QUEUE_DEAD once the queue's popper has ended. A pop whose oldest element stood there at the start of the cycle, with every
access its push releases performed, takes that element from the front into x[d] or c[d]; else the stream waits, and at an
empty queue whose pusher has ended it faults QUEUE_DEAD. `q.cnt` reads the occupancy. In a drain stub each of them faults
STUB_QUEUE. A stream that waits goes on with its element, or its slot, once there is one, and takes the same fault while it
waits. -/
def Obligations.QueueRegisterWords : Prop :=
  (∀ (s : State) (i : BitVec 2) (d a : BitVec 5) (q : BitVec 3),
    let c := s.myCore
    let full (n : Nat) : Prop := ¬(c.occupancy n < queueDepth n ∧ (c.queueOf n).length < queueDepth n)
    let new (n : Nat) (v : Word) : QElem :=
      { v := if n < 6 then v else v &&& 1, eng := s.cur.eng, seq := s.me.seq, new := true }
    let after (n : Nat) (v : Word) : Core := { c with q := c.q.setIfInBounds n (c.queueOf n ++ [new n v]) }
    let dead (ins : Instr) : Prop := ∀ k, c.kernel = some k → (s.kernel k).Faultable → TakesFault ins s k .queueDead 0
    let waits (ins : Instr) (w : Wait) : Prop := GivesMe ins s { s.me with wait := w }
    let pushes (ins : Instr) (n : Nat) (v : Word) : Prop :=
      (¬full n → GivesCore ins s (after n v))
      ∧ (full n → (c.stream (queuePopper n)).phase ≠ .ended → waits ins (.push n v))
      ∧ (full n → (c.stream (queuePopper n)).phase = .ended → dead ins)
    let pops (ins : Instr) (n : Nat) (m : Word → Stream) (w : Wait) : Prop :=
      (∀ e rest, c.queueOf n = e :: rest → e.new = false → (∀ p ∈ (c.stream e.eng).pend, e.seq ≤ p.seq) →
        ∃ t, exec ins s = .next t ∧ t.me = m e.v ∧ s.OnlyMyCore t ∧ t.myCore.queueOf n = rest
          ∧ (∀ k, k ≠ n → t.myCore.queueOf k = c.queueOf k) ∧ ∀ f, f ≠ s.cur.eng → t.myCore.stream f = c.stream f)
      ∧ (∀ e rest, c.queueOf n = e :: rest → (e.new = true ∨ ∃ p ∈ (c.stream e.eng).pend, p.seq < e.seq) → waits ins w)
      ∧ (c.queueOf n = [] → (c.stream (queuePusher n)).phase ≠ .ended → waits ins w)
      ∧ (c.queueOf n = [] → (c.stream (queuePusher n)).phase = .ended → dead ins)
    (s.me.inStub = false →
      (d.toNat < 8 → pushes (.qPush i d a) d.toNat (s.rx a)
        ∧ pushes (.qPushc i d a) d.toNat (if s.me.rc a.toNat then 1 else 0))
      ∧ pushes (.compactPush q a) q.toNat (s.rx a)
      ∧ (a.toNat < 8 → pops (.qPop i d a) a.toNat (s.me.wx d) (.popX d a.toNat)
        ∧ (d.toNat < 4 → pops (.qPopc i d a) a.toNat (fun v => s.me.wc d.toNat (v.getLsbD 0)) (.popC d a.toNat))
        ∧ GivesX (.qCnt i d a) s d (word (c.occupancy a.toNat)))
      ∧ pops (.compactPop q d) q.toNat (s.me.wx d) (.popX d q.toNat))
    ∧ (∀ k, s.me.inStub = true → c.kernel = some k → (s.kernel k).Faultable →
        TakesFault (.qPush i d a) s k .stubQueue 0 ∧ TakesFault (.qPushc i d a) s k .stubQueue 0
        ∧ TakesFault (.compactPush q a) s k .stubQueue 0 ∧ TakesFault (.qPop i d a) s k .stubQueue 0
        ∧ TakesFault (.qPopc i d a) s k .stubQueue 0 ∧ TakesFault (.compactPop q d) s k .stubQueue 0
        ∧ TakesFault (.qCnt i d a) s k .stubQueue 0))
  ∧ (∀ (s : State) (pcn q : Nat) (e : Eng) (d : BitVec 5) (v : Word), s.awake pcn = true → q < 8 →
    let c := s.core pcn
    let m := s.stream ⟨pcn, e⟩
    let goes (i : Instr) (l : List QElem) (r : Stream) : Prop := ∃ t, exec i s = .next t ∧ (t.core pcn).queueOf q = l
      ∧ t.stream ⟨pcn, e⟩ = r.complete e ∧ s.SameBytes t ∧ (∀ n, n ≠ pcn → t.core n = s.core n)
      ∧ (∀ n, n ≠ q → (t.core pcn).queueOf n = c.queueOf n) ∧ ∀ f, f ≠ e → t.stream ⟨pcn, f⟩ = s.stream ⟨pcn, f⟩
    let dead (i : Instr) : Prop := ∃ t k, exec i s = .next t ∧ c.kernel = some k ∧ (t.kernel k).state = .faulted
      ∧ t.cores = s.cores ∧ (t.kernel k).fault.map (·.code) = some .queueDead
    (∀ x rest, c.queueOf q = x :: rest → x.new = false → (∀ p ∈ (c.stream x.eng).pend, x.seq ≤ p.seq) →
      (m.wait = .popX d q → goes (.queuePopUnblock pcn e) rest (m.wx d x.v))
      ∧ (m.wait = .popC d q → goes (.queuePopUnblock pcn e) rest (m.wc d.toNat (x.v.getLsbD 0))))
    ∧ (m.wait = .push q v → c.occupancy q < queueDepth q → (c.queueOf q).length < queueDepth q →
        goes (.queuePushUnblock pcn e)
          (c.queueOf q ++ [{ v := if q < 6 then v else v &&& 1, eng := e, seq := m.seq, new := true }]) m)
    ∧ (c.queueOf q = [] → (c.stream (queuePusher q)).phase = .ended → m.wait = .popX d q ∨ m.wait = .popC d q →
        dead (.queuePopUnblock pcn e))
    ∧ (m.wait = .push q v → queueDepth q ≤ c.occupancy q ∨ queueDepth q ≤ (c.queueOf q).length →
        (c.stream (queuePopper q)).phase = .ended → dead (.queuePushUnblock pcn e)))

/-- Chapter 15, bar (R293, R297, R300): a configuration is accepted or faults, and wakes the streams that wait for the
phase to differ from 1; a read gives BCFG and BSTAT as they stood when the cycle began; a wait on a phase that has passed,
or has not, goes on or waits, and has acted on the barrier in this cycle either way (R297). R295, R300: a member's first
arrival in a phase, at a barrier of any scope, sets its ARR bit, and LOC once the arrivals cover the live members of its core;
`bar.arrive` reads the phase it arrived in and `bar.sync` waits for its end. Where that brings the core to LOC and another
member core at LOC has another SCOPE, OWN or PH, it faults BAR_SKEW. A stream that has arrived waits to arrive again, as one
does at system scope whose own work is not done (R140), and one that is no member, or finds the barrier off, faults. R294,
R295: a phase completes once every member core of the scope has offered its part under one PH, SCOPE and OWN and performed
what its arrivals release. Its release turns PH over, clears ARR and LOC, and lets the streams that wait on that phase go on:
on every member core in one step at cluster scope, else on one core in each step, the completion standing on the others. A
phase that is not complete is not released. Where the manual leaves them open these clauses follow the model's own choice:
the release of a phase in a step of its own (assumption 88). -/
def Obligations.BarrierWordsAndTheirRelease : Prop :=
  (∀ (s : State) (i : BitVec 2) (d a b : BitVec 5) (k : Nat), s.myCore.kernel = some k → (s.kernel k).Faultable →
    let c := s.rx b
    let n := a.toNat
    let old := s.bar s.cur.core n
    let first : Word × Word := old.start.getD
      (word (num old.en * 128 + num old.own * 64 + old.scope.toNat * 8 + old.emask.toNat),
       word (num old.ph * 128 + num (s.barLoc s.cur.core n) * 64 + old.arr.toNat * 8
          + (old.emask &&& (s.kernel k).hdr.streams &&& ~~~s.myCore.endedMask).toNat))
    (bits c 63 8 = 0 → (bit c 7 = true → 1 ≤ bits c 5 3 ∧ bits c 5 3 ≤ 5 ∧ bits c 2 0 ≠ 0) →
      (old.arr = 0 → s.barLoc s.cur.core n = false → ∃ t, exec (.barInit i a b) s = .next t ∧ s.OnlyMyCore t
        ∧ t.bar s.cur.core n = { en := bit c 7, own := bit c 6, scope := c.extractLsb' 3 3, emask := c.extractLsb' 0 3
                                 start := some first, by_ := max old.by_ (s.cur.eng.num + 1) }
        ∧ (∀ m, m ≠ n → t.bar s.cur.core m = s.bar s.cur.core m)
        ∧ ∀ e, t.myCore.stream e = if (s.myCore.stream e).wait = .barWait n true then (s.myCore.stream e).complete e
            else s.myCore.stream e)
      ∧ (old.arr ≠ 0 ∨ s.barLoc s.cur.core n = true → TakesFault (.barInit i a b) s k .barBusy 0))
    ∧ (bits c 63 8 ≠ 0 ∨ (bit c 7 = true ∧ (bits c 5 3 = 0 ∨ 5 < bits c 5 3 ∨ bits c 2 0 = 0)) →
        TakesFault (.barInit i a b) s k .barRange 0)
    ∧ (old.en = false → TakesFault (.barWait i a b) s k .barOff 0)
    ∧ (old.en = true → old.ph ≠ bit c 0 → ActsOnBarrier (.barWait i a b) s n s.me)
    ∧ (old.en = true → old.ph = bit c 0 → ActsOnBarrier (.barWait i a b) s n { s.me with wait := .barWait n (bit c 0) })
    ∧ GivesX (.barRd i d a 0) s d first.1 ∧ GivesX (.barRd i d a 1) s d first.2)
  ∧ (∀ (s : State) (i : BitVec 2) (d a : BitVec 5) (k : Nat), s.myCore.kernel = some k → (s.kernel k).Faultable →
    let n := a.toNat
    let b := s.bar s.cur.core n
    let arr := b.arr ||| (1 <<< s.cur.eng.num)
    let live := b.emask &&& (s.kernel k).hdr.streams &&& ~~~s.myCore.endedMask
    let loc := b.loc || decide (arr &&& live = live)
    let skewed := loc = true ∧ ∃ p ∈ s.barMembers s.cur.core n, p ≠ s.cur.core ∧
      let x := s.bar p n
      x.en = true ∧ x.loc = true ∧ x.done = false ∧ (x.scope ≠ b.scope ∨ x.own ≠ b.own ∨ x.ph ≠ b.ph)
    let waits : Prop := ActsOnBarrier (.barSync i a) s n { s.me with wait := .arriving n }
      ∧ ActsOnBarrier (.barArrive i d a) s n { s.me with wait := .arriving n }
    let arrived (j : Instr) (m : Stream) : Prop := ∃ t, exec j s = .next t ∧ s.OnlyMyCore t ∧ t.me = m
      ∧ (t.bar s.cur.core n).arr = arr ∧ (t.bar s.cur.core n).loc = loc ∧ (t.bar s.cur.core n).ph = b.ph
      ∧ (t.bar s.cur.core n).rel.toList.getD s.cur.eng.num 0 = s.me.seq
      ∧ (t.bar s.cur.core n).scope = b.scope ∧ (t.bar s.cur.core n).emask = b.emask
      ∧ ∀ m, m ≠ n → t.bar s.cur.core m = s.bar s.cur.core m
    let skews (j : Instr) : Prop := ∃ t, exec j s = .next t ∧ (t.kernel k).state = .faulted
      ∧ (t.kernel k).fault = some (s.faultRec k .barSkew 0)
    (s.me.passed = false →
      (b.en = false → TakesFault (.barSync i a) s k .barOff 0 ∧ TakesFault (.barArrive i d a) s k .barOff 0)
      ∧ (b.en = true → b.emask.getLsbD s.cur.eng.num = false →
        TakesFault (.barSync i a) s k .barMember 0 ∧ TakesFault (.barArrive i d a) s k .barMember 0))
    ∧ (b.en = true → b.emask.getLsbD s.cur.eng.num = true →
        (b.arr.getLsbD s.cur.eng.num = true → waits) ∧ (b.scope = 5 → s.endReady s.cur = false → waits))
    ∧ (b.en = true → b.emask.getLsbD s.cur.eng.num = true → b.arr.getLsbD s.cur.eng.num = false →
        (b.scope = 5 → s.endReady s.cur = true) →
        (¬skewed → arrived (.barSync i a) { s.me with wait := .barSync n b.ph }
          ∧ arrived (.barArrive i d a) (s.me.wx d (if b.ph then 1 else 0)))
        ∧ (skewed → skews (.barSync i a) ∧ skews (.barArrive i d a))))
  ∧ (∀ (s : State) (pcn n : Nat), n < 32 → s.awake pcn = true →
    let b := s.bar pcn n
    let M := s.barMembers pcn n
    let released (t : State) (p : Nat) : Prop :=
      let x := s.bar p n
      (t.bar p n).ph = !x.ph ∧ (t.bar p n).arr = 0 ∧ (t.bar p n).loc = false ∧ (t.bar p n).done = false
      ∧ (t.bar p n).emask = x.emask ∧ (∀ m, m ≠ n → t.bar p m = s.bar p m)
      ∧ ∀ e, let w := (s.stream ⟨p, e⟩).wait
          t.stream ⟨p, e⟩ = if w = .barSync n x.ph ∨ w = .barWait n x.ph then (s.stream ⟨p, e⟩).complete e
            else s.stream ⟨p, e⟩
    let complete : Prop := b.en = true ∧ ∀ p ∈ M, let x := s.bar p n
      x.en = true ∧ (x.loc = true ∨ s.barLive p n = 0) ∧ x.ph = b.ph ∧ x.scope = b.scope ∧ x.own = b.own
    (b.done = true → ∃ t, exec (.barrierRelease pcn n) s = .next t ∧ released t pcn ∧ s.SameBytes t
        ∧ ∀ p, p ≠ pcn → t.core p = s.core p)
    ∧ (b.done = false → complete → (∀ p ∈ M, s.barPerformed p n = true ∧ s.live p = true) → M.Nodup →
        ∃ t, exec (.barrierRelease pcn n) s = .next t ∧ s.SameBytes t ∧ (∀ p, p ∉ M → p ≠ pcn → t.core p = s.core p)
        ∧ (b.scope = 2 → ∀ p ∈ M, released t p)
        ∧ (b.scope ≠ 2 → released t pcn ∧ ∀ p ∈ M, p ≠ pcn → t.bar p n = { s.bar p n with done := true }
            ∧ (∀ m, m ≠ n → t.bar p m = s.bar p m) ∧ ∀ e, t.stream ⟨p, e⟩ = s.stream ⟨p, e⟩))
    ∧ (b.done = false → ¬complete → exec (.barrierRelease pcn n) s = .next s))

/-- Chapter 6, kn (R140, R141, R146, R149): the words of the kn major where they need not wait, and the waits where they
must. R140, R141, R146: a stream that waits to end or to yield does so once what it waits for has completed, and the streams
of a core that all stand at a rendezvous with nothing outstanding go on together. -/
def Obligations.KernelControlWordsAndTheirWaits : Prop :=
  (∀ (s : State) (i : BitVec 2) (d : BitVec 5) (k : Nat), s.myCore.kernel = some k → (s.kernel k).Faultable →
    (s.me.inStub = true → TakesFault (.knEnd i) s k .stubForm 0)
    ∧ (s.me.inStub = false → TakesFault (.knYield i) s k .stubForm 0)
    ∧ (s.me.inStub = false → s.endReady s.cur = false → GivesMe (.knEnd i) s { s.me with wait := .ending })
    ∧ (s.me.inStub = true →
        s.endReady s.cur = false ∨ s.me.pend ≠ [] ∨ (s.cur.eng = .xp ∧ s.myCore.interp ≠ []) → GivesMe (.knYield i) s { s.me with wait := .yielding })
    ∧ (s.me.inStub = false → s.endReady s.cur = true → s.coreYielded s.cur.core = false →
        (∀ n, (s.bar s.cur.core n).emask = 0) →
        GivesMe (.knEnd i) s { s.me with phase := .ended, wait := .none })
    ∧ (s.me.inStub = true → s.endReady s.cur = true → s.me.pend = [] → (s.cur.eng = .xp → s.myCore.interp = []) →
        s.assisted 9 = false →
        (∃ e, e ≠ s.cur.eng ∧ (s.declared s.cur.core).getLsbD e.num = true ∧ (s.myCore.stream e).phase = .live) →
        GivesMe (.knYield i) s { s.me with phase := .yielded, wait := .none })
    ∧ ((∀ e, e ≠ s.cur.eng → (s.declared s.cur.core).getLsbD e.num = true → (s.myCore.stream e).phase = .ended) →
        exec (.knRdv i) s = .next s)
    ∧ (∀ e, e ≠ s.cur.eng → (s.declared s.cur.core).getLsbD e.num = true → (s.myCore.stream e).phase ≠ .ended →
        GivesMe (.knRdv i) s { s.me with wait := .rdv })
    ∧ GivesX (.knPend i d) s d (if (s.kernel k).preempt then 1 else 0))
  ∧ (∀ (s : State) (pcn : Nat) (e : Eng), s.awake pcn = true →
    let m := s.stream ⟨pcn, e⟩
    (m.wait = .ending → s.endReady ⟨pcn, e⟩ = true → s.coreYielded pcn = false → (∀ n, (s.bar pcn n).emask = 0) →
      ∃ t, exec (.streamEnd pcn e) s = .next t ∧ t.stream ⟨pcn, e⟩ = { m with phase := .ended, wait := .none }
        ∧ s.SameBytes t ∧ ∀ id, id ≠ ⟨pcn, e⟩ → t.stream id = s.stream id)
    ∧ (m.wait = .yielding → s.endReady ⟨pcn, e⟩ = true → m.pend = [] → (e = .xp → (s.core pcn).interp = []) →
      s.assisted 9 = false →
      (∃ f, f ≠ e ∧ (s.declared pcn).getLsbD f.num = true ∧ (s.stream ⟨pcn, f⟩).phase = .live) →
      ∃ t, exec (.yieldComplete pcn e) s = .next t ∧ t.stream ⟨pcn, e⟩ = { m with phase := .yielded, wait := .none }
        ∧ s.SameBytes t ∧ ∀ id, id ≠ ⟨pcn, e⟩ → t.stream id = s.stream id)
    ∧ (s.declared pcn = 7 → (∀ f, (s.stream ⟨pcn, f⟩).phase = .live ∧ (s.stream ⟨pcn, f⟩).wait = .rdv
          ∧ (s.stream ⟨pcn, f⟩).pend = []) →
      ∃ t, exec (.rendezvousRelease pcn) s = .next t ∧ (∀ f, t.stream ⟨pcn, f⟩ = (s.stream ⟨pcn, f⟩).complete f)
        ∧ s.SameBytes t ∧ ∀ n, n ≠ pcn → t.core n = s.core n))


/-! ### Tags -/

/-- Chapter 11, tag (R259, R260): bit t of TAGS is 1 while tag t counts 0. The waits end at once where a tag they name is
ready, or where they name none, and else hold the stream until one is; `tag.cnt` reads a count. -/
def Obligations.TagWordsAndTheirReturn : Prop :=
  ∀ (s : State) (i : BitVec 2) (d a : BitVec 5),
    let m := s.rx a
    let ready (t : Nat) : Bool := decide (s.myCore.tags.toList.getD t 0 = 0) && m.getLsbD t
    ∃ w : Word, (∀ t, t < 64 → w.getLsbD t = ready t) ∧
      ((m = 0 ∨ w ≠ 0) → GivesX (.tagWany i d a) s d w
        ∧ (∀ n ≤ 64, (∀ t, t < n → ready t = false) → (n < 64 → ready n = true) → GivesX (.tagFfr i d a) s d (word n)))
      ∧ (m ≠ 0 → w = 0 → GivesMe (.tagWany i d a) s { s.me with wait := .tagAny d m }
        ∧ GivesMe (.tagFfr i d a) s { s.me with wait := .tagFfr d m })
      ∧ (w = m → exec (.tagWall i a) s = .next s)
      ∧ (w ≠ m → GivesMe (.tagWall i a) s { s.me with wait := .tagAll m })
      ∧ GivesX (.tagCnt i d a) s d (word (s.myCore.tags.toList.getD (m.toNat % 64) 0))
      ∧ (s.awake s.cur.core = true →
          (s.me.wait = .tagAny d m → w ≠ 0 →
            Resumes (.tagWaitReturn s.cur.core s.cur.eng) s s.cur (s.me.wx d w))
          ∧ (s.me.wait = .tagAll m → w = m → Resumes (.tagWaitReturn s.cur.core s.cur.eng) s s.cur s.me)
          ∧ (∀ n < 64, s.me.wait = .tagFfr d m → (∀ t, t < n → ready t = false) → ready n = true →
            Resumes (.tagWaitReturn s.cur.core s.cur.eng) s s.cur (s.me.wx d (word n))))


/-! ### Handles, walks and shootdown -/

/-- Chapter 18, xl (R311, R313): a translation whose leaf the TLB holds is on its way to the handle, its page base, size,
pin and direction those of the leaf; `xl.inv` clears HV; `xl.rd` reads a handle's two words; sixteen cycles later the
handle is written. Virtual addresses at or above 2^56 fault VA_RANGE. -/
def Obligations.HandleWords : Prop :=
  ∀ (s : State) (i : BitVec 2) (d a : BitVec 5) (k : Nat) (e : TlbEntry), s.myCore.kernel = some k →
    (s.kernel k).Faultable →
    let va := s.rx a
    let h := s.me.rh (a.setWidth 4)
    let made (kw : Bool) : Handle :=
      { vpb := BitVec.ofNat 40 e.vpb, kw := kw, pin := e.pin, sz := BitVec.ofNat 2 e.sz, made := true, hv := true, pa := e.pa }
    (2 ^ 56 ≤ va.toNat → TakesFault (.xlTr i d a) s k .vaRange 0 ∧ TakesFault (.xlTrw i d a) s k .vaRange 0)
    ∧ (va.toNat < 2 ^ 56 → s.tlbHit (s.cur.core / 128) (s.kernel k).asid va.toNat = some e →
        GivesMe (.xlTr i d a) s { s.me with hpend := s.me.hpend ++ [(d.setWidth 4, made false, 16)] }
        ∧ (e.wr = true →
          GivesMe (.xlTrw i d a) s { s.me with hpend := s.me.hpend ++ [(d.setWidth 4, made true, 16)] }))
    ∧ GivesMe (.xlInv i d) s (s.me.wh (d.setWidth 4) { (s.me.rh (d.setWidth 4)) with hv := false, made := false })
    ∧ GivesX (.xlRd i d a 0) s d
        (word (h.vpb.toNat * 2 ^ 16 + num h.kw * 32 + num h.pin * 16 + h.sz.toNat * 4 + num h.made * 2 + num h.hv))
    ∧ GivesX (.xlRd i d a 1) s d h.pa
    ∧ ∀ (pcn : Nat) (r : BitVec 4) (H : Handle) (rest : List (BitVec 4 × Handle × Nat)),
        (s.tractOf pcn).ticking = true → (s.stream ⟨pcn, .ap⟩).hpend = (r, H, 0) :: rest →
        ∃ t, exec (.handleWrite pcn r) s = .next t
          ∧ t.stream ⟨pcn, .ap⟩ = { (s.stream ⟨pcn, .ap⟩).wh r H with hpend := rest }
          ∧ s.SameBytes t ∧ ∀ id, id ≠ ⟨pcn, .ap⟩ → t.stream id = s.stream id

/-- R309, R310, R313: a translation that misses starts a walk and its stream waits; the walk that finds a leaf fills the
TLB and sends the handle on its way; one that stalled on a migration lock goes on from the entry where it stands. -/
def Obligations.AWalkServesAMissedTranslation : Prop :=
  ∀ (s : State) (i : BitVec 2) (d a : BitVec 5) (k n : Nat) (e : TlbEntry) (w : Walk) (r : BitVec 4) (kw : Bool),
    (s.myCore.kernel = some k → (s.rx a).toNat < 2 ^ 56 →
      s.tlbHit (s.cur.core / 128) (s.kernel k).asid (s.rx a).toNat = none → s.assisted 0 = false →
      (∀ p ∈ s.walks, p.2.who ≠ .ap s.cur.core) →
      ∃ t, exec (.xlTr i d a) s = .next t ∧ t.me = { s.me with wait := .walk (d.setWidth 4) false (s.rx a) } ∧ s.SameBytes t
        ∧ t.walks.find? s.nextWalk =
            some { who := .ap s.cur.core, asid := (s.kernel k).asid, va := s.rx a, write := false })
    ∧ (∀ pcn, s.walks.find? n = some w → w.ha = false → w.who = .ap pcn → (w.write = true → e.wr = true) →
        (s.stream ⟨pcn, .ap⟩).wait = .walk r kw w.va → s.asidOf pcn = w.asid → s.walkOn n w = .leaf e →
        (s.die (pcn / 128)).tlb.length < 2048 →
        let served (i : Instr) : Prop := ∃ t, exec i s = .next t ∧ t.walks.find? n = none ∧ e ∈ (t.die (pcn / 128)).tlb
          ∧ s.SameBytes t ∧ t.stream ⟨pcn, .ap⟩ = ({ s.stream ⟨pcn, .ap⟩ with
              hpend := (s.stream ⟨pcn, .ap⟩).hpend ++ [(r, handleOf e kw, 16)] } : Stream).complete .ap
        (w.first = none → served (.pageWalk n))
        ∧ (∀ c, w.first = some c → 1000 ≤ (s.chron - c).toNat →
          ((s.chron - c).toNat < 64000 → served (.walkReread n))
          ∧ (64000 ≤ (s.chron - c).toNat → served (.walkMigratingTimeout n))))

/-- R309, R314: a walk that finds no leaf halts the AP that waits for it with the cause and nothing else of the stream
changed but a repetition; a migration lock still set 64,000 ticks after the first read of its entry ends the walk so; a walk
that its requester no longer waits for goes without effect. Fault service that
resumes lets the word issue again, and one that declines makes the kernel's fault PAGE_FATAL. R315: a halted copy word's
invalid handle is translated again from its VPB and keeps its direction; it is valid then, with the leaf's address, no walk
of the AP goes on, and the word may issue again. Where the manual leaves them open these clauses follow the model's own choice: the class of the
record of a served fault (assumption 101) and the reads of a stalled walk (assumption 86). -/
def Obligations.TranslationFaultsAndTheirService : Prop :=
  (∀ (s : State) (n pcn k : Nat) (w : Walk) (c : WalkCause) (v : Word), s.live pcn = true → (s.core pcn).kernel = some k →
    s.locked pcn = false → s.assisted 1 = false →
    (s.walks.find? n = some w → w.ha = false → w.who = .ap pcn → s.walkWanted w = false → w.first = none →
      s.walkOn n w = .fail c →
        ∃ t, exec (.pageWalk n) s = .next t ∧ t.walks.find? n = none ∧ s.SameBytes t ∧ t.cores = s.cores
          ∧ t.kernels = s.kernels)
    ∧ (s.walks.find? n = some w → w.ha = false → w.who = .ap pcn →
      s.walkWanted w = true →
      (w.first = none → s.walkOn n w = .fail c → c ≠ .format →
        ∃ t, exec (.pageWalk n) s = .next t ∧ t.walks.find? n = none ∧ s.SameBytes t
          ∧ t.stream ⟨pcn, .ap⟩ = { s.stream ⟨pcn, .ap⟩ with wait := .halted c w.va, repOn := false })
      ∧ (∀ f lvl node, w.first = some f → w.node = some (lvl, node) → s.walkOn n w = .mig lvl node →
        (64000 ≤ (s.chron - f).toNat →
          ∃ t, exec (.walkMigratingTimeout n) s = .next t ∧ t.walks.find? n = none ∧ s.SameBytes t
            ∧ t.stream ⟨pcn, .ap⟩ = { s.stream ⟨pcn, .ap⟩ with wait := .halted .migrating w.va, repOn := false })
        ∧ (1000 ≤ (s.chron - f).toNat → (s.chron - f).toNat < 64000 →
          ∃ t, exec (.walkReread n) s = .next t ∧ t.walks.find? n = some { w with haSeq := none } ∧ s.SameBytes t
            ∧ t.cores = s.cores)))
    ∧ (s.pilotServes = true → (∀ r ∈ s.helm.requests, r.func ≠ 1) → (s.stream ⟨pcn, .ap⟩).wait = .halted c v →
      (∃ t, exec (.faultServiceDone (.ap pcn) true) s = .next t ∧ s.SameBytes t
        ∧ t.stream ⟨pcn, .ap⟩ = { s.stream ⟨pcn, .ap⟩ with wait := .none })
      ∧ (∃ t, exec (.faultServiceDone (.ap pcn) false) s = .next t ∧ t.cores = s.cores ∧ (t.kernel k).state = .faulted
        ∧ (t.kernel k).fault.map (·.code) = some .pageFatal)))
  ∧ (∀ (s : State) (pcn k : Nat) (h : BitVec 4) (e : TlbEntry), s.live pcn = true → (s.core pcn).kernel = some k →
    let m := s.stream ⟨pcn, .ap⟩
    m.wait = .retrans h → s.tlbHit (pcn / 128) (s.kernel k).asid ((m.rh h).vpb.toNat * 2 ^ 16) = some e →
    ((m.rh h).kw = true → e.wr = true) →
    ∃ t, exec (.handleRetranslate pcn) s = .next t ∧ s.SameBytes t ∧ (∀ id, id ≠ ⟨pcn, .ap⟩ → t.stream id = s.stream id)
      ∧ (∀ p ∈ t.walks, p.2.who ≠ .ap pcn)
      ∧ t.stream ⟨pcn, .ap⟩ = { m.wh h (handleOf e (m.rh h).kw) with wait := .none }
      ∧ (handleOf e (m.rh h).kw).pa = e.pa ∧ (handleOf e (m.rh h).kw).hv = true
      ∧ (handleOf e (m.rh h).kw).kw = (m.rh h).kw)

/-- R317: a die's shootdown that no pinned handle stands against is accepted, and waits behind those asked for before it;
once it has cut its range no TLB entry of the context maps an address of the range on any die and no handle of a core of
the context that lies in it is valid; with no copy left that uses the range it ends and the next one is served. A pinned
handle refuses it, and a write while it is BUSY does nothing. Where the manual leaves them open these clauses follow the
model's own choice: whose handles count (assumption 87). -/
def Obligations.ShootdownCutsItsRange : Prop :=
  ∀ (s : State) (die : Nat) (w : Word) (t : Shoot) (r : List Shoot), die < 4 →
    let asid := w.toNat / 2 ^ 16 % 2 ^ 16
    let lo := (s.die die).sdva.toNat
    let hi := lo + (w.toNat / 2 ^ 32 % 2 ^ 16 + 1) * pageBytes (w.toNat / 4 % 4)
    let req : Shoot := { die := some die, asid := asid, lo := lo, hi := hi }
    let st (u : State) (n : Nat) : Prop := bits (u.die die).sdctl 62 61 = n ∧ (u.die die).sdctl.getLsbD 63 = decide (n = 1)
    let free (q : Shoot) : Prop := ∀ e, q.die = some e → s.pinnedIn q.asid q.lo q.hi = false
    let asks (n : Nat) (l : List Shoot) : Prop := ∃ u, exec (.shootdown (.write die w)) s = .next u ∧ u.shoots = l ∧ st u n
      ∧ u.cores = s.cores ∧ s.SameBytes u
    (bits (s.die die).sdctl 62 61 = 1 → exec (.shootdown (.write die w)) s = .next s)
    ∧ (bits (s.die die).sdctl 62 61 ≠ 1 → w.getLsbD 63 = true →
      (s.shoots ≠ [] → asks 1 (s.shoots ++ [req]))
      ∧ (s.shoots = [] → s.pinnedIn asid lo hi = false → asks 1 [req])
      ∧ (s.shoots = [] → s.pinnedIn asid lo hi = true → asks 3 []))
    ∧ (s.shoots = t :: r → t.cut = false → (∀ p ∈ s.walks, p.2.asid ≠ t.asid) →
        ∃ u, exec (.shootdown .serve) s = .next u ∧ u.shoots = { t with cut := true } :: r ∧ s.SameBytes u
          ∧ (∀ d < 4, ∀ e ∈ (u.die d).tlb, e.asid = t.asid → ∀ va, t.lo ≤ va → va < t.hi → e.maps t.asid va = false)
          ∧ (∀ p ∈ s.coresOf t.asid, ∀ h ∈ (u.core p).ap.h.toList, h.inside t.lo t.hi = true → h.hv = false))
    ∧ (s.shoots = t :: r → t.cut = true → s.usersIn t.asid t.lo t.hi = false →
        (∀ q ∈ r.head?, free q) →
        ∃ u, exec (.shootdown .serve) s = .next u ∧ u.shoots = r ∧ u.cores = s.cores ∧ s.SameBytes u
          ∧ (t.die = some die → st u 2))


/-! ### Copies and arrival barriers -/

/-- Chapter 13, cp (R256 to R259): each copy word whose handle, descriptor and rows pass their checks enters its queue
with one more operation on its tag, and changes no register; where its queue is full it waits. A handle that was never
made faults HANDLE_UNSET, and a store through one made for reading HANDLE_PERM. R258: `cp.tok` adds its tokens to a
FIFO of eight, or faults TOKEN_OVF and adds none; `cp.tcnt` reads the count. Where the manual leaves them open these
clauses follow the model's own choice: when the range checks are made (assumption 63). -/
def Obligations.CopyWordsEnterTheirQueues : Prop :=
  (∀ (s : State) (i : BitVec 2) (a b : BitVec 5) (k n core row : Nat) (win : Bool) (l : List (Nat × Nat)),
    s.myCore.kernel = some k → (s.kernel k).Faultable →
    let c := s.myCore
    let x := s.rx b
    let mrow := x.toNat / 2 ^ 39
    let srow := x.toNat / 2 ^ 23 % 2 ^ 16
    let rows := x.toNat / 2 ^ 13 % 2 ^ 10 + 1
    let tag := x.toNat / 2 ^ 7 % 2 ^ 6
    let fmt := x.toNat / 2 ^ 3 % 2 ^ 4
    let H := s.me.rh (a.setWidth 4)
    let page := pageBytes H.sz.toNat
    let entered (o : CopyOp) : CopyOp := { o with pc := s.me.pc, seq := s.me.seq, id := c.nextOp }
    let tags := c.tags.setIfInBounds tag (c.tags.toList.getD tag 0 + 1)
    let main (kind : CopyKind) : CopyOp :=
      { kind := kind, srow := srow, rows := rows, tag := tag, fmt := fmt, tw := x.getLsbD 1, ts := x.getLsbD 0
        pages := [(H.vpb.toNat, H.sz.toNat)] }
    (x.getLsbD 2 = false → H.made = true → 64 * mrow < page → srow + rows ≤ 65536 → 64 * mrow + 64 * n ≤ page → H.hv = true →
      (mainRows false fmt (c.bfOf srow) rows = some n →
        (c.ldq.length < 16 → GivesCore (.cpLd i a b) s { c with
          nextOp := c.nextOp + 1, tags := tags
          ldq := c.ldq ++ [entered (main (.load (H.pa + word (64 * mrow)) (page - 64 * mrow) 0))] })
        ∧ (16 ≤ c.ldq.length → GivesMe (.cpLd i a b) s { s.me with wait := .again }))
      ∧ (mainRows true fmt (c.bfOf srow) rows = some n → H.kw = true → c.stq.length < 16 →
        GivesCore (.cpSt i a b) s { c with
          nextOp := c.nextOp + 1, tags := tags
          stq := c.stq ++ [entered (main (.store (H.pa + word (64 * mrow)) (page - 64 * mrow) 0))] }))
    ∧ (x.getLsbD 2 = false → H.made = false →
        TakesFault (.cpLd i a b) s k .handleUnset 0 ∧ TakesFault (.cpSt i a b) s k .handleUnset 0)
    ∧ (x.getLsbD 2 = false → H.made = true → H.kw = false → TakesFault (.cpSt i a b) s k .handlePerm 0)
    ∧ (x.getLsbD 2 = false → mrow = 0 → fmt = 0 → srow + rows ≤ 65536 →
        reachRow s.cur.core (s.rx a) = some (core, row, win) →
        srcRows (copyWay (bankSide ((s.core core).bfOf row)) (bankSide (c.bfOf srow)))
          (bankSide ((s.core core).bfOf row)) (bankSide (c.bfOf srow)) rows = some n →
        sourceRows s.cur.core (s.rx a) n = some l → c.ldq.length < 16 →
        GivesCore (.cpMv i a b) s { c with
          nextOp := c.nextOp + 1, tags := tags
          ldq := c.ldq ++ [entered { kind := .move (s.rx a), srow := srow, rows := rows, tag := tag
                                     tw := x.getLsbD 1, ts := x.getLsbD 0 }] })
    ∧ (x &&& 0xFFFFFFFFFFFFE070 = 0 → c.cmq.length < 8 →
        GivesCore (.cpMx i a b) s { c with
          nextOp := c.nextOp + 1, tags := tags
          cmq := c.cmq ++ [entered { kind := .harrow (s.rx a), tag := tag, tw := x.getLsbD 3, tw2 := x.getLsbD 2
                                     ts := x.getLsbD 1, ts2 := x.getLsbD 0 }] }))
  ∧ (∀ (s : State) (i : BitVec 2) (d n a : BitVec 5) (k : Nat) (h : d.toNat < 4), s.myCore.kernel = some k →
    (s.kernel k).Faultable →
    (s.myCore.tokens[d.toNat] + n.toNat ≤ 8 → GivesCore (.cpTok i d n) s { s.myCore with
      tokens := s.myCore.tokens.set d.toNat (s.myCore.tokens[d.toNat] + n.toNat) h })
    ∧ (8 < s.myCore.tokens[d.toNat] + n.toNat → TakesFault (.cpTok i d n) s k .tokenOvf 0)
    ∧ ∀ m (hm : m < 4), GivesX (.cpTcnt i a (BitVec.ofNat 5 m)) s a (word s.myCore.tokens[m]))

/-- R254 to R259, R273: the head of LDQ or STQ that may start leaves its queue for flight, taking its token, once the
operation before it has read its rows; a row of an operation whose bytes are copied unchanged is read, which changes no
byte, and written later, into the scratchpad or, by a store, into this package's main memory, which changes no other byte;
an operation whose rows are done and acknowledged pushes its tokens and counts its tag down, one of the harrow among them.
Where the manual leaves them open these clauses follow the model's own choice: when the range checks are made
(assumption 63). -/
def Obligations.CopiesPopMoveAndComplete : Prop :=
  ∀ (s : State) (pcn n : Nat) (st : Bool) (q : CopyQueue) (o : CopyOp) (rest : List CopyOp) (v : Row), s.live pcn = true →
    let c := s.core pcn
    let f := if st then 2 else 1
    let p := s.readFormats pcn o
    (c.waiting st = o :: rest → (c.fly st).length < 4 → (∀ r ∈ c.fly st, r.takes.getD 0 ≤ r.got.length) → c.released o = true →
      (o.tw = true → 0 < c.token f) → s.popBad pcn p = none →
      ∃ t, exec (.copyPop pcn st) s = .next t ∧ (t.core pcn).waiting st = rest ∧ (t.core pcn).fly st = c.fly st ++ [p]
        ∧ (t.core pcn).token f = (if o.tw then c.token f - 1 else c.token f) ∧ s.SameBytes t
        ∧ ∀ id, t.stream id = s.stream id)
    ∧ ((c.fly st)[n]? = some o → o.got.length < o.takes.getD 0 → s.sourceRow pcn o o.got.length = .ok v →
      ∃ t p, exec (.copyRow pcn st (2 * n)) s = .next t ∧ ((t.core pcn).fly st)[n]? = some p ∧ p.got = o.got ++ [v]
        ∧ p = { o with got := p.got, scs := p.scs } ∧ s.SameBytes t ∧ ∀ id, t.stream id = s.stream id)
    ∧ ((c.fly st)[n]? = some o → o.way = .bytes → o.done < o.total → o.got[o.done]? = some v → c.monitors = [] →
      (∀ a b d, o.kind ≠ .store a b d) →
      ∃ t, exec (.copyRow pcn st (2 * n + 1)) s = .next t ∧ (t.core pcn).row (o.srow + o.done) = v
        ∧ ((t.core pcn).fly st)[n]? = some { o with done := o.done + 1 }
        ∧ (∀ a, a < 64 * (o.srow + o.done) ∨ 64 * (o.srow + o.done) + 64 ≤ a →
            Mem.byte (t.core pcn).sp a = Mem.byte c.sp a)
        ∧ (∀ m, m ≠ pcn → t.core m = s.core m) ∧ t.mem = s.mem ∧ ∀ id, t.stream id = s.stream id)
    ∧ (∀ a left b, let pa := o.rowPa o.done
      (c.fly st)[n]? = some o → o.way = .bytes → o.done < o.total → o.got[o.done]? = some v → o.kind = .store a left b →
      paPkg pa = s.pkg → s.agentFull pa = false → (∀ x ∈ s.ctxs, x.2.state ≠ .stopcopy ∧ x.2.state ≠ .precopy) →
      ∃ t, exec (.copyRow pcn st (2 * n + 1)) s = .next t ∧ ((t.core pcn).fly st)[n]? = some { o with done := o.done + 1 }
        ∧ (∀ j < 64, Mem.byte t.mem (pa + j) = Row.byte v j)
        ∧ (∀ x, x < pa ∨ pa + 64 ≤ x → Mem.byte t.mem x = Mem.byte s.mem x)
        ∧ (∀ m, (t.core m).sp = (s.core m).sp) ∧ ∀ id, t.stream id = s.stream id)
    ∧ ((c.flyOf q)[n]? = some o → s.copyDone pcn q o = true → (∀ r ∈ c.flyOf q, r.held = false) → o.tag < 64 →
      (∀ g, c.token g < 8) →
      ∃ t, exec (.copyComplete pcn q n) s = .next t ∧ (t.core pcn).flyOf q = (c.flyOf q).eraseIdx n
        ∧ (t.core pcn).tags.toList.getD o.tag 0 = c.tags.toList.getD o.tag 0 - 1
        ∧ (∀ g < 4, (t.core pcn).token g = c.token g + (if g ∈ o.pushes q then 1 else 0)) ∧ s.SameBytes t
        ∧ ∀ id, t.stream id = s.stream id)

/-- R249 to R253: `ab.init` takes a configuration whose rows lie in the scratchpad once no row is on its way;
the releases of earlier words stand; `ab.await` goes on where the arrived index has reached n and waits where it has not;
`ab.aret` moves L to an arrived index; `ab.rd` reads the configuration and the indices; the wait ends once its index has arrived. -/
def Obligations.ArrivalBarrierWords : Prop :=
  ∀ (s : State) (i : BitVec 2) (d a b : BitVec 5) (k : Nat), a.toNat < 16 → s.myCore.kernel = some k →
    (s.kernel k).Faultable →
    let c := s.myCore
    let x := s.rx b
    let n : BitVec 32 := x.setWidth 32
    let bar := c.ab a.toNat
    let A := c.abA a.toNat
    let rbase := x.toNat / 2 ^ 16 % 2 ^ 16
    let w := 2 ^ (x.toNat % 16)
    (x.toNat / 2 ^ 5 % 2 ^ 11 = 0 → x.toNat % 16 ≤ 12 → rbase + w ≤ 65536 →
      (bar.i = A → GivesCore (.abInit i a b) s
        (c.setAb a.toNat { cfg := x.setWidth 32, i := (x >>> 32).setWidth 32, l := (x >>> 32).setWidth 32, rel := bar.rel }))
      ∧ (bar.i ≠ A → TakesFault (.abInit i a b) s k .abBusy 0))
    ∧ (65536 < rbase + w → TakesFault (.abInit i a b) s k .abRange 0)
    ∧ (bar.w < (n - bar.l).toNat → TakesFault (.abAwait i a b) s k .abRange 0)
    ∧ ((n - bar.l).toNat ≤ bar.w →
        ((n - bar.l).toNat ≤ (A - bar.l).toNat → exec (.abAwait i a b) s = .next s)
        ∧ ((A - bar.l).toNat < (n - bar.l).toNat →
          GivesMe (.abAwait i a b) s { s.me with wait := .await a.toNat n bar.l }))
    ∧ ((n - bar.l).toNat ≤ (A - bar.l).toNat → ∃ r, GivesCore (.abAret i a b) s
        (c.setAb a.toNat { bar with l := n, rel := r }) ∧ (s.cur.eng, s.me.seq) ∈ r)
    ∧ ((A - bar.l).toNat < (n - bar.l).toNat → TakesFault (.abAret i a b) s k .abRange 0)
    ∧ GivesX (.abRd i d a 0) s d (bar.cfg.setWidth 64) ∧ GivesX (.abRd i d a 1) s d (bar.i.setWidth 64)
    ∧ GivesX (.abRd i d a 2) s d (A.setWidth 64) ∧ GivesX (.abRd i d a 3) s d (bar.l.setWidth 64)
    ∧ (∀ l, s.awake s.cur.core = true → s.me.wait = .await a.toNat n l → (n - l).toNat ≤ (A - l).toNat →
        Resumes (.abAwaitReturn s.cur.core s.cur.eng) s s.cur s.me)


/-! ### Tracts and stiles -/

/-- Chapter 5, tr (R110, R111, R122 to R124): reads of the tract's registers, the output sample, the wait for a cycle of
the present sample, and the acknowledgement of status bits (R115): a slip or an event of the same tract cycle comes after
it, and so stands. -/
def Obligations.TractWords : Prop :=
  ∀ (s : State) (i : BitVec 2) (d a : BitVec 5) (k15 : BitVec 15) (k11 : BitVec 11) (k : Nat), s.myCore.kernel = some k →
    (s.kernel k).Faultable →
    let t := s.tractOf s.cur.core
    let pcl := s.cur.core / 8
    let at_ (n : Nat) : Stream := { s.me with busy := s.me.busy + 1, wait := .trAt n }
    let cycles := (t.n + t.m - 1) / t.m
    GivesX (.trTap i d) s d t.tap ∧ GivesX (.compactTrTap d) s d t.tap
    ∧ GivesX (.trRd i d 0) s d t.tstat ∧ GivesX (.trRd i d 1) s d (t.slipc.setWidth 64)
    ∧ GivesX (.trRd i d 2) s d t.tstamp ∧ GivesX (.trRd i d 3) s d (word t.fcyc)
    ∧ GivesX (.trRd i d 4) s d (word (t.fcyc - t.sidx * t.n / t.m)) ∧ GivesX (.trRd i d 5) s d (word t.sidx)
    ∧ GivesX (.trRd i d 6) s d s.chron ∧ GivesX (.trRd i d 7) s d t.frames
    ∧ (s.myCore.otapBy ≤ s.cur.eng.num + 1 → GivesCore (.trOtap i a) s
        { s.myCore with otap := s.rx a, otapBy := s.cur.eng.num + 1 })
    ∧ (s.cur.eng.num + 1 < s.myCore.otapBy → exec (.trOtap i a) s = .next s)
    ∧ (if k15.toNat < cycles then GivesMe (.trAt i k15) s (at_ k15.toNat) else TakesFault (.trAt i k15) s k .badCycle 0)
    ∧ (if k11.toNat < cycles then GivesMe (.compactTrAt k11) s (at_ k11.toNat)
        else TakesFault (.compactTrAt k11) s k .badCycle 0)
    ∧ (if (s.rx a).toNat < cycles then GivesMe (.trAtx i a) s (at_ (s.rx a).toNat)
        else TakesFault (.trAtx i a) s k .badCycle 0)
    ∧ (∀ n, s.live s.cur.core = true → s.me.busy = 0 → t.issuing = true → t.fcyc - t.sidx * t.n / t.m = n →
        (s.me.wait = .trAt n → (s.me.complete s.cur.eng).idling = false →
          ∃ u, exec (.trAtRelease s.cur.core s.cur.eng) s = .next u ∧ s.OnlyMe u
            ∧ u.me = { s.me.complete s.cur.eng with busy := (s.me.complete s.cur.eng).busy - 1 })
        ∧ (s.me.wait = .trAtPast n → GivesMe (.trAtRelease s.cur.core s.cur.eng) s { s.me with wait := .none }))
    ∧ (((s.rx a).getLsbD 6 = false ∨ t.state ≠ .slipped ∨ t.changed = true) → ∃ u, exec (.trAck i a) s = .next u
        ∧ u.cores = s.cores ∧ s.SameBytes u ∧ (∀ n, n ≠ pcl → u.tract n = s.tract n)
        ∧ u.tract pcl = { t with
            evt := t.evt && (!(s.rx a).getLsbD 4 || t.changed), slip := t.slip && (!(s.rx a).getLsbD 6 || t.slipped != 0)
            range := t.range && !(s.rx a).getLsbD 7, ceil := t.ceil && !(s.rx a).getLsbD 8
            slipc := if (s.rx a).getLsbD 0 then BitVec.ofNat 32 t.slipped else t.slipc })
    ∧ ((s.rx a).getLsbD 6 = true → t.state = .slipped → t.changed = false → ∃ u, exec (.trAck i a) s = .next u
        ∧ u.cores = s.cores ∧ (u.tract pcl).evt = true
        ∧ (t.slipped = 0 → (u.tract pcl).state = .locked ∧ (u.tract pcl).slip = false)
        ∧ (t.slipped ≠ 0 → (u.tract pcl).state = .slipped ∧ (u.tract pcl).slip = t.slip))

/-- Chapter 5, sti (R125 to R131): a put joins those of its tract cycle, and enters HOLD, BOX or INTERP as that cycle ends,
which drops an older put of the same source sample; gets, the status word, acknowledgement and coefficients; every form
faults at an unbound stile and, but for `sti.stat`, at one of which the core is not on the side it needs; a get that waits
takes its message. Where the manual leaves them open these clauses follow the model's own choice: what a stile holds before
its first output (assumption 89). -/
def Obligations.StileWords : Prop :=
  (∀ (s : State) (i : BitVec 2) (d a b : BitVec 5) (k : Nat), s.myCore.kernel = some k → (s.kernel k).Faultable →
    let n := s.cur.core / 128 * 32 + a.toNat
    let t := s.stile n
    let clu := s.cur.core / 8 % 16
    let x := s.rx b
    let box (v : Word) (rest : List (Word × Bool × StreamId × Nat)) : Prop :=
      ∃ id seq, t.box = (v, true, id, seq) :: rest ∧ ∀ p ∈ (s.stream id).pend, seq ≤ p.seq
    (t.state = 0 → TakesFault (.stiPut i a b) s k .stileUnbound 0 ∧ TakesFault (.stiGet i d a) s k .stileUnbound 0
      ∧ TakesFault (.stiStat i d a) s k .stileUnbound 0 ∧ TakesFault (.stiAck i a b) s k .stileUnbound 0
      ∧ TakesFault (.stiCoef i a b) s k .stileUnbound 0)
    ∧ (t.state ≠ 0 → t.sclu ≠ clu → TakesFault (.stiPut i a b) s k .stileSide 0)
    ∧ (t.state ≠ 0 → t.dclu ≠ clu ∨ t.out = true → TakesFault (.stiGet i d a) s k .stileSide 0)
    ∧ (t.state ≠ 0 → t.sclu ≠ clu → t.dclu ≠ clu →
        TakesFault (.stiAck i a b) s k .stileSide 0 ∧ TakesFault (.stiCoef i a b) s k .stileSide 0)
    ∧ (t.state ≠ 0 → t.sclu = clu → ∃ u, exec (.stiPut i a b) s = .next u ∧ u.cores = s.cores ∧ s.SameBytes u
        ∧ u.stile n = { t with puts := t.puts ++ [(s.cur, x, (s.tractOf s.cur.core).tstamp, s.me.seq)] }
        ∧ ∀ m, m ≠ n → u.stile m = s.stile m)
    ∧ (t.state ≠ 0 → t.dclu = clu → t.out = false →
        (t.mode ≠ 3 → GivesX (.stiGet i d a) s d t.sto)
        ∧ (t.mode = 3 → t.box = [] → GivesMe (.stiGet i d a) s { s.me with wait := .stile d n })
        ∧ (∀ v rest, t.mode = 3 → box v rest → ∃ u, exec (.stiGet i d a) s = .next u ∧ u.me = s.me.wx d v
          ∧ u.stile n = { t with box := rest } ∧ s.SameBytes u))
    ∧ (t.state ≠ 0 → GivesX (.stiStat i d a) s d (word (t.dropc.toNat * 2 ^ 24 + t.rptc.toNat * 2 ^ 16
        + t.box.length * 2 ^ 6 + num t.stale * 32 + num t.ovf * 16 + num t.drop * 8 + num t.rpt * 4 + t.state.toNat)))
    ∧ (t.state ≠ 0 → (t.sclu = clu ∨ t.dclu = clu) →
        (∃ u, exec (.stiAck i a b) s = .next u ∧ u.cores = s.cores ∧ s.SameBytes u ∧ u.stile n = { t with
          rpt := t.rpt && !x.getLsbD 2, drop := t.drop && !x.getLsbD 3, ovf := t.ovf && !x.getLsbD 4
          dropc := if x.getLsbD 0 then 0 else t.dropc, rptc := if x.getLsbD 0 then 0 else t.rptc })
        ∧ (∃ u, exec (.stiCoef i a b) s = .next u ∧ u.cores = s.cores ∧ s.SameBytes u
          ∧ ∀ j, (u.stile n).coef.get 0 j = if j = x.toNat % 2 ^ 10 then (x >>> 16).setWidth 16 else t.coef.get 0 j))
    ∧ (s.awake s.cur.core = true → s.me.wait = .stile d n →
        (∀ v rest, t.state ≠ 0 → box v rest → ∃ u, exec (.stiGetReturn s.cur.core s.cur.eng) s = .next u
          ∧ u.me = (s.me.wx d v).complete s.cur.eng ∧ u.stile n = { t with box := rest } ∧ s.SameBytes u)
        ∧ (t.state = 0 → Resumes (.stiGetReturn s.cur.core s.cur.eng) s s.cur (s.me.wx d 0))))
  ∧ (∀ (s : State) (pcl n : Nat) (id : StreamId) (v stamp : Word) (seq : Nat), n / 32 = pcl / 16 →
    let r := s.tract pcl
    let t := s.stile n
    let e : Word × BitVec 32 := (stamp, v.setWidth 32)
    let again : Stile := { t with put := true, puts := [], drop := t.drop || t.put
                                  dropc := if t.put && t.dropc != 255 then t.dropc + 1 else t.dropc }
    r.issuing = true → r.fcyc + 1 = (r.sidx + 1) * r.n / r.m → t.sclu = pcl % 16 → t.puts = [(id, v, stamp, seq)] →
    ∃ u, exec (.sinkTake pcl) s = .next u
      ∧ (t.mode = 2 → u.stile n = { again with slot := some v })
      ∧ (t.mode = 1 → u.stile n = { again with hist := (e :: (if t.put then t.hist.tail else t.hist)).take 16 })
      ∧ (t.mode = 3 → u.stile n = if t.box.length < 16 then { t with puts := [], box := t.box ++ [(v, false, id, seq)] }
          else { t with puts := [], ovf := true }))

/-- R102, R103, R107, R109: a source port that is on, a pace source whose time has come and a link that carries each
present their sample, with its stamp, to every tract bound to them that runs and has no frame held, sign-extended from
the port's width. R106, R107, R110: the last cycle of a sample gives OTAP to the sink port bound; a sample boundary presents one
fresh sample as TAP and begins SCYC 0; a frame boundary counts the frame and returns to sample 0. R113: a sample that
is lost or repeated at a boundary is counted in SLIPC, and the tract is SLIPPED. R113, R116: a boundary in COAST holds TAP,
with STALE and one boundary of HOLD fewer. R107, R117, R118: the first sample boundary of a frame begins frame cycle 0: a
stream that awaited it starts, a timed block that idles begins its next iteration or is left, and a stream with a word of
its iteration still to issue takes FRAME_OVERRUN there. R127 to R129: at a boundary of its destination a FLOWING HOLD gives
the input since the last boundary, or repeats with RPT, RPTC + 1 and STALE; an INTERP gives the filtered value of the phase
of its newest entry not after TSTAMP - DLY, rounded to nearest even and saturated, or 0; a BOX's messages become eligible;
a boundary of its source begins a new source sample. Where the manual leaves them open these clauses follow the model's own
choice: the time of a boundary, which the turns decide (assumption 47), where frame cycle 0 finds a stream (assumption 48)
and the arithmetic of INTERP's phase (assumption 89). -/
def Obligations.SamplesTractsAndSinks : Prop :=
  (∀ (s : State) (pcl n : Nat) (v : Word), pcl < 64 →
    let t := s.tract pcl
    let bound (kind : Nat) : Prop := tctlKind t.tctl = kind ∧ tctlSrc t.tctl = n ∧ (t.state = .locked ∨ t.state = .slipped)
      ∧ t.held = false
    let takes (u : State) (stamp w : Word) : Prop :=
      (u.tract pcl).fresh = t.fresh ++ [(stamp, w)] ∧ (u.tract pcl).lastEdge = stamp ∧ u.cores = s.cores ∧ s.SameBytes u
    (n < 32 → bound 1 → (s.spcfg.get 0 n).getLsbD 31 = true → ∃ u, exec (.sampleArrival (.port n) v) s = .next u
      ∧ takes u s.chron (signLow (portWidth (s.spcfg.get 0 n)) v))
    ∧ (n < 12 → bound 3 → (s.link n).carries = true → ∃ u, exec (.sampleArrival (.link n) v) s = .next u
      ∧ takes u s.chron (signLow (portWidth (s.link n).cfg) v))
    ∧ (n < 16 → bound 2 → (s.pace n).on = true → (s.pace n).num ≠ 0 → (s.pace n).stamp.toNat ≤ s.chron.toNat →
      ∃ u, exec (.paceSample n) s = .next u ∧ takes u (s.pace n).stamp (word (s.pace n).j)
        ∧ (u.pace n).j = (s.pace n).j + 1))
  ∧ (∀ (s : State) (pcl : Nat),
    let t := s.tract pcl
    let port := t.tsnk.toNat % 32
    (t.issuing = true → t.fcyc + 1 = (t.sidx + 1) * t.n / t.m → ∃ u, exec (.sinkTake pcl) s = .next u
      ∧ (u.tract pcl).edge = .taken ∧ s.SameBytes u
      ∧ (u.sink port).out = (if t.tsnk.getLsbD 11 && (s.sink port).cfg.getLsbD 31 then
          word ((s.core (8 * pcl + t.tsnk.toNat / 2 ^ 8 % 8)).otap.toNat % 2 ^ portWidth (s.sink port).cfg)
            :: (s.sink port).out else (s.sink port).out)
      ∧ ∀ c < 8, (u.core (8 * pcl + c)).otap = (s.core (8 * pcl + c)).otap ∧ (u.core (8 * pcl + c)).otapBy = 0)
    ∧ (∀ l st v, t.state = .locked ∨ t.state = .slipped → t.held = false → t.edge = .taken → t.sidx + 1 < t.m →
        let next (u : State) : Prop := (u.tract pcl).sidx = t.sidx + 1 ∧ (u.tract pcl).fcyc = t.fcyc + 1
          ∧ (u.tract pcl).edge = .inside ∧ u.cores = s.cores
        let slips (u : State) (k : Nat) : Prop := (u.tract pcl).slipc.toNat = min (t.slipc.toNat + k) (2 ^ 32 - 1)
          ∧ (u.tract pcl).slip = true ∧ (u.tract pcl).state = .slipped
        let tapIs (u : State) (w : Word) : Prop :=
          (∀ m < 32, (s.stile (32 * (pcl / 16) + m)).state = 0) → (u.tract pcl).tap = w
        (t.off = false → t.fresh = (st, v) :: l → ∃ u, exec (.sampleBoundary pcl) s = .next u ∧ next u ∧ tapIs u v
          ∧ (u.tract pcl).tstamp = st ∧ (u.tract pcl).fresh = l ∧ (u.tract pcl).stale = false
          ∧ (u.tract pcl).slipc = t.slipc ∧ (u.tract pcl).state = t.state ∧ s.SameBytes u)
        ∧ (t.off = true → t.fresh = l ++ [(st, v)] → ∃ u, exec (.sampleBoundary pcl) s = .next u ∧ next u ∧ tapIs u v
          ∧ (u.tract pcl).tstamp = st ∧ (u.tract pcl).fresh = [] ∧ (l ≠ [] → slips u l.length))
        ∧ (t.restart = false → t.fresh = [] → t.slow s.chron = true → t.stopped s.chron = false →
          ∃ u, exec (.sampleBoundary pcl) s = .next u ∧ next u ∧ tapIs u t.tap ∧ (u.tract pcl).stale = true ∧ slips u 1))
    ∧ (t.state.runs = true → t.edge = .taken → t.sidx + 1 = t.m → t.relock = none →
        let u' := { t with frames := t.frames + 1, fcyc := 0, sidx := 0, edge := .framed }
        (t.back = false → t.state = .coast ∨ t.alternate = false ∨ tctlKind t.tctl ≠ 2 →
          ∃ u, exec (.frameBoundary pcl) s = .next u ∧ u.tract pcl = u' ∧ u.cores = s.cores ∧ s.SameBytes u)
        ∧ (t.back = false → t.state ≠ .coast → t.alternate = true → tctlKind t.tctl = 2 →
          ∃ u, exec (.frameBoundary pcl) s = .next u ∧ u.tract pcl = { u' with held := true, acq := [], fresh := [] }
            ∧ u.cores = s.cores ∧ s.SameBytes u)
        ∧ (t.back = true → ∃ u, exec (.frameBoundary pcl) s = .next u ∧ u.cores = s.cores ∧ u.tract pcl = { u' with
            state := .locked, restart := true, stale := false, back := false, acq := [], changed := false, evt := true }))
    ∧ (t.state = .coast → t.held = false → (t.edge = .framed ∧ t.holdLeft ≠ 0) ∨ (t.edge = .taken ∧ t.sidx + 1 < t.m) →
        ∃ u, exec (.sampleBoundary pcl) s = .next u ∧ (u.tract pcl).state = .coast ∧ (u.tract pcl).stale = true
          ∧ (u.tract pcl).holdLeft = t.holdLeft - 1 ∧ (u.tract pcl).slipc = t.slipc ∧ (u.tract pcl).edge = .inside
          ∧ ((∀ m < 32, (s.stile (32 * (pcl / 16) + m)).state = 0) → (u.tract pcl).tap = t.tap)
          ∧ (t.edge = .taken → u.cores = s.cores))
    ∧ (∀ l st v, t.state = .locked ∨ t.state = .slipped → t.held = false → t.edge = .framed → t.off = false →
        t.fresh = (st, v) :: l → ∃ u, exec (.sampleBoundary pcl) s = .next u ∧ (u.tract pcl).fresh = l
          ∧ (u.tract pcl).tstamp = st ∧ (u.tract pcl).sidx = t.sidx ∧ (u.tract pcl).fcyc = t.fcyc
          ∧ (u.tract pcl).edge = .inside ∧ (u.tract pcl).restart = false ∧ (u.tract pcl).stale = false
          ∧ (u.tract pcl).state = t.state
          ∧ ((∀ m < 32, (s.stile (32 * (pcl / 16) + m)).state = 0) → (u.tract pcl).tap = v)
          ∧ FrameBegins s u pcl)
    ∧ (∀ n l st v, n / 32 = pcl / 16 → (s.stile n).dclu = pcl % 16 → (s.stile n).state = 2 → t.state = .locked ∨
        t.state = .slipped → t.held = false → t.off = false → t.fresh = (st, v) :: l → t.edge = .framed ∨
        (t.edge = .taken ∧ t.sidx + 1 < t.m) →
        let T := { s.stile n with
          box := (s.stile n).box.map (fun (e : Word × Bool × StreamId × Nat) => (e.1, true, e.2.2))
          put := (s.stile n).put && (s.stile n).sclu != pcl % 16 }
        let src := s.tract (pcl / 16 * 16 + T.sclu)
        let alone := ∀ m < 32, 32 * (pcl / 16) + m ≠ n → (s.stile (32 * (pcl / 16) + m)).state = 0
        ∃ u, exec (.sampleBoundary pcl) s = .next u
          ∧ (T.mode = 3 → u.stile n = { T with stale := false })
          ∧ (∀ w, (T.mode = 2 ∨ T.mode = 1) → (u.stile n).last = w →
              (T.out = false → (u.stile n).sto = w) ∧ (T.out = true → alone → (u.tract pcl).tap = w))
          ∧ (∀ w, T.mode = 2 → T.slot = some w →
              u.stile n = { T with slot := none, stale := false, last := w, sto := if T.out then T.sto else w })
          ∧ (T.mode = 2 → T.slot = none → u.stile n = { T with
              rpt := true, rptc := if T.rptc = 255 then 255 else T.rptc + 1, stale := true
              sto := if T.out then T.sto else T.last })
          ∧ (T.mode = 1 → (∀ e ∈ T.hist, st.toNat < e.1.toNat + T.dly) → (u.stile n).last = 0 ∧ (u.stile n).stale = true)
          ∧ (∀ (a : List (Word × BitVec 32)) (e : Word × BitVec 32) (r : List (Word × BitVec 32)), T.mode = 1 → T.hist = a ++ e :: r →
              (∀ x ∈ a, st.toNat < x.1.toNat + T.dly) → e.1.toNat + T.dly ≤ st.toNat →
              let d := st.toNat - T.dly - e.1.toNat
              let phi := min 63 (64 * d * src.rate.1 / (10 ^ 9 * src.rate.2))
              let acc : Int := ((List.range 16).map (fun j => match (e :: r)[j]? with
                | none => 0
                | some x => (T.coef.get 0 (16 * phi + j)).toInt * x.2.toInt)).sum
              (u.stile n).stale = decide (2 * (10 ^ 9 * src.rate.2) ≤ d * src.rate.1)
              ∧ ∀ k : Int, (2 * |k * 2 ^ 14 - acc| < 2 ^ 14 ∨ (2 * |k * 2 ^ 14 - acc| = 2 ^ 14 ∧ k % 2 = 0)) →
                (u.stile n).last = sword (max (-(2 ^ 31)) (min (2 ^ 31 - 1) k)))))

/-- R105, R112, R113, R115, R288, R340: a lock that has its rate within the ceiling and the floor succeeds, whoever asked
for it, and the packet that asked completes; one whose rate is outside them, or that takes too long, falls back to the
binding before it, FREE to FREE, with its fault to the packet that asked and to every launch that waits on it; a source that stays away for two periods leaves the tract in COAST, COAST that has used up
HOLD becomes BECALMED, and a source that is back in range locks it again. Each raises EVT. Where the manual leaves
them open these clauses follow the model's own choice: the rounding of measured intervals (assumption 46) and the
binding that a failed lock returns to (assumption 45). -/
def Obligations.TractStatesChangeAsTheirSourcesDo : Prop :=
  ∀ (s : State) (pcl : Nat),
    let t := s.tract pcl
    let reached : Prop := ∀ p odd, s.route p odd false ≠ .none
    let asks (q : Nat) : Prop := t.asker = some (.packet q)
    let failed (i : Instr) (f : QFault) : Prop := ∀ o, t.old = some o → ∃ u, exec i s = .next u
      ∧ (u.tract pcl).state = o.state ∧ (u.tract pcl).tctl = o.tctl ∧ (u.tract pcl).rate = o.rate ∧ (u.tract pcl).evt = true
      ∧ (u.tract pcl).asker = none
      ∧ (o.state ≠ .free → u.cores = s.cores ∧ u.kernels = s.kernels)
      ∧ (o.state = .free → (u.tract pcl).queue = none ∧ ∀ k ∈ s.awaitingLock pcl, (u.kernel k).state = .faulted)
      ∧ ∀ q, asks q → (u.queue q).lock = none ∧ (reached → (s.queue q).hand = none → (s.queue q).takesFault = true →
          (u.queue q).state = .faulted ∧ (u.queue q).fcode = some f ∧ (u.queue q).flvl = (s.queue q).stack.length
            ∧ (u.queue q).foff = (s.queue q).place)
    (∀ r, t.state = .locking → t.haSeq = none → s.measured pcl = some r → s.assisted 8 = false →
        (s.chron - t.since).toNat ≤ 16000000 →
        (r.1 * t.n ≤ s.ceiling * r.2 * t.m → 50000000 * r.2 * t.m ≤ r.1 * t.n →
          ∃ u, exec (.lockAcquired pcl) s = .next u ∧ (u.tract pcl).state = .locked ∧ (u.tract pcl).rate = r
            ∧ (u.tract pcl).fcyc = 0 ∧ (u.tract pcl).sidx = 0 ∧ (u.tract pcl).evt = true ∧ (u.tract pcl).asker = none
            ∧ u.cores = s.cores ∧ u.kernels = s.kernels
            ∧ ((∀ q, ¬ asks q) → (u.tract pcl).queue = t.queue)
            ∧ ∀ q h, asks q → (s.queue q).lock = some (pcl, h) → (s.queue q).hand = none → reached →
                let p : Packet := { hdr := h }
                let past := (s.queue q).advance p.bytes
                (u.tract pcl).queue = some q ∧ (u.queue q).lock = none ∧ (u.queue q).rptr = past.rptr
                  ∧ (u.queue q).stack = past.stack ∧ (u.queue q).state = past.settle.state
                  ∧ (p.notify = true → (s.queue q).notes = [] →
                      (u.queue q).done = (s.queue q).done + 1))
        ∧ (s.ceiling * r.2 * t.m < r.1 * t.n → failed (.lockAcquired pcl) .lockCeil)
        ∧ (r.1 * t.n ≤ s.ceiling * r.2 * t.m → r.1 * t.n < 50000000 * r.2 * t.m → failed (.lockAcquired pcl) .lockFloor))
    ∧ (t.state = .locking → 16000000 < (s.chron - t.since).toNat → failed (.lockTimeout pcl) .lockTimeout)
    ∧ ((t.state = .locked ∨ t.state = .slipped) → t.held = false → t.fresh = [] → t.edge ≠ .inside →
        2 * 10 ^ 9 * t.rate.2 ≤ (s.chron - t.lastEdge).toNat * t.rate.1 →
        ∃ u, exec (.sourceStopped pcl) s = .next u ∧ u.tract pcl = { t with
          state := .coast, stale := true, holdLeft := tctlHold t.tctl, acq := [], restart := false, off := false
          changed := true, evt := true } ∧ u.cores = s.cores)
    ∧ (t.state = .coast → t.edge = .framed → t.holdLeft = 0 → t.back = false →
        ∃ u, exec (.enterBecalmed pcl) s = .next u ∧ u.tract pcl = { t with state := .becalmed, changed := false, evt := true }
          ∧ u.cores = s.cores)
    ∧ (t.state = .becalmed → 16 ≤ t.acq.length → ∃ u, exec (.sourceReturn pcl) s = .next u
        ∧ u.tract pcl = { t with state := .locked, restart := true, acq := [], fresh := [], changed := false, evt := true }
        ∧ u.cores = s.cores)
    ∧ (t.state = .coast → 16 ≤ t.acq.length → ∃ u, exec (.sourceReturn pcl) s = .next u ∧ u.cores = s.cores
        ∧ (t.edge ≠ .framed → u.tract pcl = { t with back := true, acq := [] })
        ∧ (t.edge = .framed → u.tract pcl = { t with
            state := .locked, restart := true, stale := false, acq := [], fresh := [], changed := false, evt := true }))


/-! ### Scratchpad accesses -/

/-- Chapters 8 and 11 (R178, R180, R192, R224, R263): a load or store form whose address reaches a row is issued behind
the stream's earlier accesses, with its class, its row and its offset, and changes no byte and no register; one whose
address reaches none faults ADDR_RANGE. Chapter 11, at and mon (R230 to R232): every atomic and monitored form issues an access to the row its base reaches,
with the low bytes of its operand, x[d] and for `at.cas` x[d + 1]; a monitored wait holds the stream. -/
def Obligations.ScratchpadWordsIssueTheirAccesses : Prop :=
  (∀ (s : State) (i : BitVec 2) (d a : BitVec 5) (v : BitVec 3) (b : BitVec 5) (c : BitVec 4) (o : BitVec 7) (k : Nat)
    (h h' : Home) (w w' : Bool) (p n : Nat), s.myCore.kernel = some k → (s.kernel k).Faultable →
    let base := if s.cur.eng = .ap then s.me.ra (a.setWidth 4) else s.rx a
    let ea := base + 64 * o.signExtend 64
    let vea := s.rx (v.setWidth 5) + 64 * o.signExtend 64
    let acc (m : Stream) (h : Home) (w : Bool) (ea : Word) (c : BitVec 4) (x : AccKind) : Access :=
      { seq := m.seq, cls := c, home := h, off := ea.toNat % 64, win := w, kind := x }
    let issued (m : Stream) (h : Home) (w : Bool) (ea : Word) (c : BitVec 4) (x : AccKind) (r : Option RegName) : Stream :=
      { m with pend := m.pend ++ [acc m h w ea c x], seq := m.seq + 1
               late := m.late ++ r.toList.map (fun r => (r, if w then 12 else 4)) }
    (reach s.cur.core ea = some (h, w) → GivesMe (.ld i d a c o) s (issued s.me h w ea c (.loadX d) (some (.x d))))
    ∧ (reach s.cur.core ea = none → TakesFault (.ld i d a c o) s k .addrRange 0 ∧ TakesFault (.st i d a c o) s k .addrRange 0)
    ∧ (reachRow s.cur.core ea = some (p, n, w) →
        GivesMe (.st i d a c o) s (issued s.me (.bank p n) w ea c (.storeX (s.rx d)) none))
    ∧ (reach s.cur.core vea = some (h, w) →
        GivesMe (.vmLd i d v c o) s (issued s.me h w vea c (.loadV d) (some (.v d))))
    ∧ (reachRow s.cur.core vea = some (p, n, w) →
        GivesMe (.vmSt i d v c o) s (issued s.me (.bank p n) w vea c (.storeV (s.rv d)) none))
    ∧ (reach s.cur.core vea = some (h, w) → reach s.cur.core (vea + 64) = some (h', w') →
        GivesMe (.vmRmg i d v c o) s
          (issued (issued s.me h w vea c (.rmgLow d) (some (.v d))) h' w' vea c (.rmgHigh d) (some (.v d))))
    ∧ (reachRow s.cur.core (s.rx a) = some (p, n, w) → GivesMe (.rgClaim i d a b) s
        { issued s.me (.bank p n) w (s.rx a) 15 (.claim d (s.rx b)) (some (.x d)) with wait := .claim d }))
  ∧ (∀ (s : State) (i : BitVec 2) (d a : BitVec 5) (c : BitVec 4) (w : BitVec 3) (p n : Nat) (win : Bool),
    let base := if s.cur.eng = .ap then s.me.ra (a.setWidth 4) else s.rx a
    let low (v : Word) : Word := word (v.toNat % 2 ^ (8 * laneBytes w))
    let issued (x : AccKind) : Stream :=
      { s.me with
        pend := s.me.pend ++ [{ seq := s.me.seq, cls := c, home := .bank p n, off := base.toNat % 64, win := win, kind := x }]
        seq := s.me.seq + 1, late := s.me.late ++ [(.x d, if win then 12 else 4)] }
    let at_ (op : AtOp) : Stream :=
      issued (.atomic op w d (low (s.rx d)) (low (s.rx (d + 1))))
    let mon (op : MonOp) : Stream :=
      { issued (.monitor op w d (low (s.rx d))) with late := s.me.late, wait := .monitor d }
    reachRow s.cur.core base = some (p, n, win) →
      GivesMe (.atAdd i d a c w) s (at_ .add) ∧ GivesMe (.atAnd i d a c w) s (at_ .and)
      ∧ GivesMe (.atOr i d a c w) s (at_ .or) ∧ GivesMe (.atXor i d a c w) s (at_ .xor)
      ∧ GivesMe (.atMin i d a c w) s (at_ .min) ∧ GivesMe (.atMax i d a c w) s (at_ .max)
      ∧ GivesMe (.atMinu i d a c w) s (at_ .minu) ∧ GivesMe (.atMaxu i d a c w) s (at_ .maxu)
      ∧ GivesMe (.atSwap i d a c w) s (at_ .swap) ∧ GivesMe (.atCas i d a c w) s (at_ .cas)
      ∧ GivesMe (.atFadd i d a c w) s (at_ .fadd)
      ∧ GivesMe (.monWaiteq i d a c w) s (mon .eq) ∧ GivesMe (.monWaitne i d a c w) s (mon .ne)
      ∧ GivesMe (.monWaitge i d a c w) s (mon .ge) ∧ GivesMe (.monWaitgeu i d a c w) s (mon .geu))

/-- R178, R225, R227: a bank performs an access in one step, byte by byte: a scalar load and store take the eight bytes from
the offset on, wrapping within the row, a row load and store the whole row. A store changes those bytes and no other, and
a load none. R52, R144: the strides that fell due meanwhile are added to a loaded register, and a load that issued before
the stream diverted reaches the register state that the diversion saves too. -/
def Obligations.BanksPerformLoadsAndStores : Prop :=
  ∀ (s : State) (pcn : Nat) (e : Eng) (a : Access) (c n : Nat) (d : BitVec 5) (v : Word) (r : Row),
    (s.tractOf pcn).ticking = true → (s.stream ⟨pcn, e⟩).pend = [a] → a.home = .bank c n → a.off < 64 →
    (s.core c).monitors = [] →
    let m : Stream := { s.stream ⟨pcn, e⟩ with pend := [] }
    let rd (t : State) (j : Nat) : Byte := Mem.byte (t.core c).sp (64 * n + j)
    let only (t : State) : Prop := t.mem = s.mem ∧ (∀ b, b ≠ c → (t.core b).sp = (s.core b).sp)
      ∧ ∀ x, x < 64 * n ∨ 64 * n + 64 ≤ x → Mem.byte (t.core c).sp x = Mem.byte (s.core c).sp x
    (a.kind = .loadX d → ∃ (t : State) (w : Word), exec (.bankAccess pcn (.stream e) 0) s = .next t ∧ s.SameBytes t
      ∧ (∀ j < 8, (w >>> (8 * j)).setWidth 8 = rd s ((a.off + j) % 64))
      ∧ (m.saved = none → t.stream ⟨pcn, e⟩ =
          { m.wx d (w + m.owed.get 0 d.toNat) with owed := m.owed.erase d.toNat })
      ∧ (∀ z, m.saved = some z → a.seq < z.seq → d ≠ 0 → ∃ y, (t.stream ⟨pcn, e⟩).saved = some y
          ∧ y.x.get d.toFin = w + z.owed.get 0 d.toNat ∧ ∀ r, r ≠ d → y.x.get r.toFin = z.x.get r.toFin))
    ∧ (a.kind = .storeX v → ∃ t, exec (.bankAccess pcn (.stream e) 0) s = .next t ∧ t.stream ⟨pcn, e⟩ = m ∧ only t
      ∧ ∀ j < 64, rd t j = if (j + 64 - a.off) % 64 < 8 then (v >>> (8 * ((j + 64 - a.off) % 64))).setWidth 8 else rd s j)
    ∧ (a.kind = .loadV d → ∃ t w, exec (.bankAccess pcn (.stream e) 0) s = .next t ∧ s.SameBytes t
      ∧ (m.saved = none → t.stream ⟨pcn, e⟩ = m.wv d w) ∧ ∀ j < 64, Row.byte w j = rd s j)
    ∧ (a.kind = .storeV r → ∃ t, exec (.bankAccess pcn (.stream e) 0) s = .next t ∧ t.stream ⟨pcn, e⟩ = m ∧ only t
      ∧ ∀ j < 64, rd t j = Row.byte r j)

/-- R230 to R233, R192: an atomic returns the lane as it was, at every offset and of every lane type, and leaves the result
of its operation there; a claim below its limit takes the number and counts it up, and one at its limit takes nothing; a
monitored wait whose condition holds is answered with the lane, and else arms a monitor at its bank; the answers of a
claim and of a monitored wait reach x[d] once their latency has passed. -/
def Obligations.BanksPerformAtomicsClaimsAndMonitors : Prop :=
  ∀ (s : State) (pcn : Nat) (e : Eng) (a : Access) (c n : Nat) (d : BitVec 5) (w : BitVec 3) (opd cmp lim : Word),
    let M := s.stream ⟨pcn, e⟩
    let X := s.stream ⟨pcn, .xp⟩
    let m : Stream := { M with pend := [] }
    let nb := laneBytes w
    let lane (t : State) (k : Nat) : Nat := Row.bytesAt ((t.core c).row n) a.off k
    let sg (v : Nat) : Int := (BitVec.ofNat (8 * nb) v).toInt
    let rd (t : State) (j : Nat) : Byte := Mem.byte (t.core c).sp (64 * n + j)
    let only (t : State) (k : Nat) : Prop := t.mem = s.mem
      ∧ (∀ j < 64, k ≤ (j + 64 - a.off) % 64 → rd t j = rd s j)
      ∧ ∀ x, x < 64 * n ∨ 64 * n + 64 ≤ x → Mem.byte (t.core c).sp x = Mem.byte (s.core c).sp x
    let old := lane s nb
    let o := opd.toNat
    let does (op : AtOp) (new : Nat) : Prop := a.kind = .atomic op w d opd cmp →
      ∃ t, exec (.bankAccess pcn (.stream e) 0) s = .next t ∧ lane t nb = new % 2 ^ (8 * nb) ∧ only t nb
        ∧ (m.saved = none → m.owed = [] → t.stream ⟨pcn, e⟩ = m.wx d (word old))
    let holds (op : MonOp) : Prop := match op with
      | .eq => old ≠ o
      | .ne => old = o
      | .ge => sg o ≤ sg old
      | .geu => o ≤ old
    ((s.tractOf pcn).ticking = true → M.pend = [a] → a.home = .bank c n → a.off < 64 → (s.core c).monitors = [] →
      (w.toNat < 4 → o < 2 ^ (8 * nb) → cmp.toNat < 2 ^ (8 * nb) →
        does .add (old + o) ∧ does .and (old &&& o) ∧ does .or (old ||| o) ∧ does .xor (old ^^^ o)
        ∧ does .min (if sg o < sg old then o else old) ∧ does .max (if sg old < sg o then o else old)
        ∧ does .minu (min old o) ∧ does .maxu (max old o)
        ∧ does .swap o ∧ does .cas (if old = o then cmp.toNat else old)
        ∧ ∀ op, a.kind = .monitor op w d opd →
            (holds op → m.wait = .monitor d → ∃ t, exec (.bankAccess pcn (.stream e) 0) s = .next t ∧ s.SameBytes t
              ∧ t.stream ⟨pcn, e⟩ = { m with
                  wait := .answered d (word old), late := m.late ++ [(.x d, if a.win then 12 else 4)] })
            ∧ (¬holds op → ∃ t, exec (.bankAccess pcn (.stream e) 0) s = .next t ∧ s.SameBytes t
              ∧ (t.core c).monitors.map (fun x => (x.row, x.who, x.d)) = [(n, ⟨pcn, e⟩, d)]))
      ∧ (w = 4 → does .fadd (FFmt.bf16.arith false (FVal.sum [FFmt.bf16.decode old, FFmt.bf16.decode o])))
      ∧ (w = 5 → does .fadd (FFmt.fp32.arith false (FVal.sum [FFmt.fp32.decode old, FFmt.fp32.decode o])))
      ∧ (a.kind = .claim d lim → lane s 8 < lim.toNat → ∃ t, exec (.bankAccess pcn (.stream e) 0) s = .next t
          ∧ t.stream ⟨pcn, e⟩ = { m with wait := .claimed d (word (lane s 8)) } ∧ lane t 8 = lane s 8 + 1 ∧ only t 8)
      ∧ (a.kind = .claim d lim → lim.toNat ≤ lane s 8 → ∃ t, exec (.bankAccess pcn (.stream e) 0) s = .next t
          ∧ t.stream ⟨pcn, e⟩ = { m with wait := .claimed d (-1) } ∧ s.SameBytes t))
    ∧ (∀ v, X.wait = .claimed d v → s.awake pcn = true →
        ((∃ k, k ≠ 0 ∧ (.x d, k) ∈ X.late) → exec (.claimAnswer pcn) s = .next s)
        ∧ ((∀ k, (.x d, k) ∈ X.late → k = 0) → X.saved = none → X.owed = [] →
          ∃ t, exec (.claimAnswer pcn) s = .next t ∧ s.SameBytes t ∧ t.stream ⟨pcn, .xp⟩ =
            { (X.wx d v).complete .xp with busy := ((X.wx d v).complete .xp).busy - 1 }))
    ∧ (∀ v, M.wait = .answered d v → s.live pcn = true → (s.tractOf pcn).issuing = true →
        (s.tractOf pcn).lastCycle = true → M.late = [] → M.saved = none → M.owed = [] → M.blocks = [] → M.window = none →
        M.repOn = false → ∃ t, exec (.sinkTake (pcn / 8)) s = .next t ∧ (t.stream ⟨pcn, e⟩).wait = .none
          ∧ (t.stream ⟨pcn, e⟩).pc = M.npc ∧ (t.stream ⟨pcn, e⟩).rx d = if d = 0 then 0 else v)

/-- R263 to R265: of two accesses that a stream has issued, the later is not performed before the earlier where they
agree in class or in row, or either is of class 15; nothing happens then. -/
def Obligations.AccessesKeepTheirOrder : Prop :=
  ∀ (s : State) (pcn : Nat) (e : Eng) (x y : Access) (l r z : List Access),
    (s.stream ⟨pcn, e⟩).pend = l ++ [x] ++ r ++ [y] ++ z →
    (x.cls = y.cls ∨ x.cls = 15 ∨ y.cls = 15 ∨ x.home = y.home) →
    exec (.bankAccess pcn (.stream e) (l.length + 1 + r.length)) s = .next s


/-! ### Vector words -/

/-- R181, vi (0x18): the FN of each form, T = 7 being ILLEGAL; the integer lane words, lane by lane of the type's width,
and the bitwise words. -/
def Obligations.IntegerLaneWords : Prop :=
  MajorForms 0xEC000000 [(0, .viAdd 0 0 0 0 0), (1, .viAdd 0 0 0 0 1), (2, .viAdd 0 0 0 0 2), (3, .viAdd 0 0 0 0 3),
    (4, .viAdd 0 0 0 0 4), (5, .viAdd 0 0 0 0 5), (6, .viAdd 0 0 0 0 6), (8, .viSub 0 0 0 0 0),
    (9, .viSub 0 0 0 0 1), (10, .viSub 0 0 0 0 2), (11, .viSub 0 0 0 0 3), (12, .viSub 0 0 0 0 4),
    (13, .viSub 0 0 0 0 5), (14, .viSub 0 0 0 0 6), (16, .viMul 0 0 0 0 0), (17, .viMul 0 0 0 0 1),
    (18, .viMul 0 0 0 0 2), (19, .viMul 0 0 0 0 3), (20, .viMul 0 0 0 0 4), (21, .viMul 0 0 0 0 5),
    (22, .viMul 0 0 0 0 6), (24, .viMin 0 0 0 0 0), (25, .viMin 0 0 0 0 1), (26, .viMin 0 0 0 0 2),
    (27, .viMin 0 0 0 0 3), (28, .viMin 0 0 0 0 4), (29, .viMin 0 0 0 0 5), (30, .viMin 0 0 0 0 6),
    (32, .viMax 0 0 0 0 0), (33, .viMax 0 0 0 0 1), (34, .viMax 0 0 0 0 2), (35, .viMax 0 0 0 0 3),
    (36, .viMax 0 0 0 0 4), (37, .viMax 0 0 0 0 5), (38, .viMax 0 0 0 0 6), (40, .viAdds 0 0 0 0 0),
    (41, .viAdds 0 0 0 0 1), (42, .viAdds 0 0 0 0 2), (43, .viAdds 0 0 0 0 3), (44, .viAdds 0 0 0 0 4),
    (45, .viAdds 0 0 0 0 5), (46, .viAdds 0 0 0 0 6), (48, .viSll 0 0 0 0 0), (49, .viSll 0 0 0 0 1),
    (50, .viSll 0 0 0 0 2), (51, .viSll 0 0 0 0 3), (52, .viSrl 0 0 0 0 0), (53, .viSrl 0 0 0 0 1),
    (54, .viSrl 0 0 0 0 2), (55, .viSrl 0 0 0 0 3), (56, .viSra 0 0 0 0 0), (57, .viSra 0 0 0 0 1),
    (58, .viSra 0 0 0 0 2), (59, .viSra 0 0 0 0 3), (60, .viAnd 0 0 0 0), (61, .viOr 0 0 0 0), (62, .viXor 0 0 0 0),
    (63, .viAndn 0 0 0 0)]
  ∧ ∀ (s : State) (i : BitVec 2) (d a b : BitVec 5) (t : BitVec 3) (wc : BitVec 2),
    let W := tWidth t
    let A (k : Nat) : BitVec W := Row.lane W (s.rv a) k
    let B (k : Nat) : BitVec W := Row.lane W (s.rv b) k
    let val (x : BitVec W) : Int := if tSigned t then x.toInt else x.toNat
    let lo : Int := if tSigned t then -2 ^ (W - 1) else 0
    let hi : Int := if tSigned t then 2 ^ (W - 1) - 1 else 2 ^ W - 1
    let S := wWidth wc
    let X (k : Nat) : BitVec S := Row.lane S (s.rv a) k
    let n (k : Nat) : Nat := (Row.lane S (s.rv b) k).toNat % S
    let lanes (ins : Instr) (f : Nat → BitVec W) : Prop :=
      ∃ w, GivesV ins s d w ∧ ∀ k, k < 512 / W → Row.lane W w k = f k
    let shifts (ins : Instr) (f : Nat → BitVec S) : Prop :=
      ∃ w, GivesV ins s d w ∧ ∀ k, k < 512 / S → Row.lane S w k = f k
    lanes (.viAdd i d a b t) (fun k => A k + B k) ∧ lanes (.viSub i d a b t) (fun k => A k - B k)
    ∧ lanes (.viMul i d a b t) (fun k => A k * B k)
    ∧ lanes (.viMin i d a b t) (fun k => if val (A k) ≤ val (B k) then A k else B k)
    ∧ lanes (.viMax i d a b t) (fun k => if val (A k) ≤ val (B k) then B k else A k)
    ∧ lanes (.viAdds i d a b t) (fun k => BitVec.ofInt W (max lo (min hi (val (A k) + val (B k)))))
    ∧ shifts (.viSll i d a b wc) (fun k => X k <<< n k) ∧ shifts (.viSrl i d a b wc) (fun k => X k >>> n k)
    ∧ shifts (.viSra i d a b wc) (fun k => (X k).sshiftRight (n k))
    ∧ GivesV (.viAnd i d a b) s d (s.rv a &&& s.rv b) ∧ GivesV (.viOr i d a b) s d (s.rv a ||| s.rv b)
    ∧ GivesV (.viXor i d a b) s d (s.rv a ^^^ s.rv b) ∧ GivesV (.viAndn i d a b) s d (s.rv a &&& ~~~(s.rv b))

/-- Chapter 8, vf (R182): every lane is the exact result of its operation rounded once, and readable three cycles later;
a NaN lane gives the canonical NaN; the complex multiply-add works on pairs of lanes. -/
def Obligations.FloatLaneWords : Prop :=
  ∀ (s : State) (i : BitVec 2) (d a b : BitVec 5) (r : BitVec 1) (f : BitVec 2),
    let F := ftFmt f
    let W := F.width
    let L (x : BitVec 5) (k : Nat) : FVal := F.decode (Row.lane W (s.rv x) k).toNat
    let rnd (v : XVal) : BitVec W := BitVec.ofNat W (F.arith (r == 1) v)
    let pick (p : Bool) (x y : Nat) : BitVec W :=
      if F.decode x = .nan ∨ F.decode y = .nan then BitVec.ofNat W F.nan else BitVec.ofNat W (if p then x else y)
    let sign (x : BitVec W) (neg : Bool) : BitVec W :=
      if F.decode x.toNat = .nan then BitVec.ofNat W F.nan
      else if neg then x ^^^ BitVec.ofNat W (2 ^ (W - 1)) else x &&& BitVec.ofNat W (2 ^ (W - 1) - 1)
    let lanes (ins : Instr) (g : Nat → BitVec W) : Prop :=
      ∃ w, GivesVLate ins s d w 3 ∧ ∀ k, k < 512 / W → Row.lane W w k = g k
    let N (x : BitVec 5) (k : Nat) : Nat := (Row.lane W (s.rv x) k).toNat
    lanes (.vfAdd i d a b r f) (fun k => rnd (FVal.sum [L a k, L b k]))
    ∧ lanes (.vfSub i d a b r f) (fun k => rnd (FVal.sum [L a k, (L b k).neg]))
    ∧ lanes (.vfMul i d a b r f) (fun k => rnd ((L a k).mul (L b k)).exact)
    ∧ lanes (.vfFma i d a b r f) (fun k => rnd (FVal.sum [L d k, (L a k).mul (L b k)]))
    ∧ lanes (.vfMin i d a b f) (fun k => pick ((L a k).le (L b k)) (N a k) (N b k))
    ∧ lanes (.vfMax i d a b f) (fun k => pick (!(L a k).le (L b k)) (N a k) (N b k))
    ∧ lanes (.vfNeg i d a f) (fun k => sign (Row.lane W (s.rv a) k) true)
    ∧ lanes (.vfAbs i d a f) (fun k => sign (Row.lane W (s.rv a) k) false)
    ∧ lanes (.vfSqrt i d a r f) (fun k => rnd (L a k).sqrt) ∧ lanes (.vfRcp i d a r f) (fun k => rnd (L a k).rcp)
    ∧ (f ≠ 3 → lanes (.vfCfma i d a b r f) (fun k =>
        let e := k / 2 * 2
        if k % 2 = 0 then rnd (FVal.sum [L d e, (L a e).mul (L b e), ((L a (e + 1)).mul (L b (e + 1))).neg])
        else rnd (FVal.sum [L d (e + 1), (L a e).mul (L b (e + 1)), (L a (e + 1)).mul (L b e)])))
    ∧ (∃ t, exec (.vfCfma i d a b r 3) s = .next t ∧ s.OnlyMe t ∧ (∀ q, q ≠ d → q ≠ d + 1 → t.rv q = s.rv q)
        ∧ t.me = { s.me with v := t.me.v, late := s.me.late ++ [(.v d, 3), (.v (d + 1), 3)] }
        ∧ ∀ k < 64, t.pairLane 16 d k = cfmaLane .bf16 (r == 1) (fun j => FFmt.bf16.decode (s.pairLane 16 d j))
            (fun j => FFmt.bf16.decode (s.pairLane 16 a j)) (fun j => FFmt.bf16.decode (s.pairLane 16 b j)) k % 2 ^ 16)

/-- Chapter 2 (R24 to R28): rounding loses nothing that a format can hold. Reading a BF16, FP16, FP32 or FP8 pattern that
is a number and rounding its exact value, under either rounding, as a result of arithmetic or as a conversion, gives the
pattern back; a negative zero keeps its sign. A value halfway between two integers goes to the even one under RNE and
to the one nearer zero under RZ, and every other to the nearer one, or the one nearer zero. -/
def Obligations.RoundingKeepsRepresentableValues : Prop :=
  (∀ (F : FFmt) (rz : Bool) (x : Nat), x < 2 ^ F.width → (∃ neg m e, F.decode x = .fin neg m e) →
    F.arith rz (F.decode x).exact = x ∧ F.conv rz (F.decode x).exact = x)
  ∧ ∀ (n d : Nat) (e q : Int), 0 < d → let v : ℚ := n / d * 2 ^ (e - q)
      (|v - roundUnits false n d e q| ≤ 1 / 2 ∧ (|v - roundUnits false n d e q| = 1 / 2 → roundUnits false n d e q % 2 = 0))
      ∧ ((roundUnits true n d e q : ℚ) ≤ v ∧ v < roundUnits true n d e q + 1)

/-- Chapter 8, vc and vp (R183, R184): a convert that widens or keeps the width takes every lane of its part, and one
that narrows writes its part and keeps the rest; the moves of lanes and bytes. R28, R36: an integer converted to an integer
is clamped, a float to an integer rounded and clamped, a NaN to 0; a conversion to a float rounds the exact value once, and
one to q4 takes the nearest code (R39). R39: the float immediate in each type. Chapter 8, vr (R186): a sum over the lanes is
the sum of their values mod 2^64, a minimum or maximum is a lane that no other passes, the float ones in the order of
`vf.min`, the float sum is exact and rounded once, and the predicate words count, or ask for, bits set. Where the
manual leaves them open these clauses follow the model's own choice: the sign of an exact zero sum (assumption 41). -/
def Obligations.ConvertPermuteAndReduceWords : Prop :=
  (∀ (s : State) (i : BitVec 2) (d a b : BitVec 5) (r : BitVec 1) (p x y : BitVec 3) (wc : BitVec 2) (t : BitVec 3)
    (n : BitVec 3),
    let wd := cvtWidth x
    let ws := cvtWidth y
    let lc := 512 / max wd ws
    let S := wWidth wc
    let A (k : Nat) : BitVec S := Row.lane S (s.rv a) k
    let lanes (ins : Instr) (f : Nat → BitVec S) : Prop :=
      ∃ w, GivesV ins s d w ∧ ∀ k, k < 512 / S → Row.lane S w k = f k
    let cv (k : Nat) : BitVec wd := BitVec.ofNat wd (cvtElem (r == 1) x y (Row.lane ws (s.rv a) k).toNat)
    (∃ w, GivesVLate (.vcCvt i d a r p x y) s d w 3 ∧ ∀ k, k < 512 / wd → Row.lane wd w k =
      if ws ≤ wd then cv (p.toNat * lc + k)
      else if p.toNat * lc ≤ k ∧ k < p.toNat * lc + lc then cv (k - p.toNat * lc) else Row.lane wd (s.rv d) k)
    ∧ lanes (.vpPerm i d a b wc) (fun k => A ((Row.lane S (s.rv b) k).toNat % (512 / S)))
    ∧ lanes (.vpBcst i d a wc) (fun _ => (s.rx a).setWidth S)
    ∧ GivesX (.vpGet i d a b wc) s d ((A ((s.rx b).toNat % (512 / S))).signExtend 64)
    ∧ lanes (.vpPut i d a b wc) (fun k =>
        if k = (s.rx b).toNat % (512 / S) then (s.rx a).setWidth S else Row.lane S (s.rv d) k)
    ∧ lanes (.vpSel i d a b wc n) (fun k => if (s.me.rp n).getLsbD k then A k else Row.lane S (s.rv b) k)
    ∧ (∃ w, GivesV (.vpRot i d a b) s d w
        ∧ ∀ j, j < 64 → Row.byte w j = Row.byte (s.rv a) ((j + (s.rx b).toNat % 64) % 64))
    ∧ (let q := (s.rx a).toNat % 2 ^ 16
       let V := FFmt.bf16.decode q
       let fills (w : Nat) (r : Nat) : Prop := r < 2 ^ w ∧ ∃ v, GivesV (.vpFimm i d a t) s d v
         ∧ ∀ k, k < 512 / w → (Row.lane w v k).toNat = r
       (t = 0 → fills 16 (if V = .nan then 0x7FC0 else q)) ∧ (t = 1 → fills 16 (FFmt.fp16.conv false V.exact))
       ∧ (t = 2 → fills 32 (if V = .nan then 0x7FC00000 else q * 2 ^ 16)) ∧ (t = 3 → fills 8 (FFmt.fp8.conv false V.exact))
       ∧ (t = 4 → ∃ r, fills 4 r ∧ Nq4Nearest V r)))
  ∧ (∀ (rz : Bool) (x y : BitVec 3) (p : Nat), p < 2 ^ cvtWidth y →
    let r := cvtElem rz x y p
    let wd := cvtWidth x
    let lo : Int := -2 ^ (wd - 1)
    let hi : Int := 2 ^ (wd - 1) - 1
    let out : Int := (BitVec.ofNat wd r).toInt
    let i : Int := (BitVec.ofNat (cvtWidth y) p).toInt
    let fmt (k : BitVec 3) : FFmt := [FFmt.fp8, .fp16, .bf16, .fp32].getD (k.toNat - 3) .fp8
    let V := (fmt y).decode p
    (x.toNat < 3 → y.toNat < 3 → out = max lo (min hi i))
    ∧ (x.toNat < 3 → 3 ≤ y.toNat → y ≠ 7 → match V with
        | .nan => out = 0
        | .inf n => out = if n then lo else hi
        | .fin _ _ _ => ∃ q : Int, out = max lo (min hi q)
            ∧ (rz = false → |V.rat - q| ≤ 1 / 2 ∧ (|V.rat - q| = 1 / 2 → q % 2 = 0))
            ∧ (rz = true → |(q : ℚ)| ≤ |V.rat| ∧ |V.rat| < |(q : ℚ)| + 1 ∧ 0 ≤ q * V.rat))
    ∧ (3 ≤ x.toNat → x ≠ 7 → y.toNat < 3 → r = (fmt x).conv rz (.val (decide (i < 0)) i.natAbs 1 0))
    ∧ (3 ≤ x.toNat → x ≠ 7 → 3 ≤ y.toNat → y ≠ 7 → r = (fmt x).conv rz V.exact)
    ∧ (3 ≤ x.toNat → x ≠ 7 → y = 7 → r = (fmt x).conv rz (.val (decide (8 ≤ p)) (nq4Mag (p % 8)) 1 (-8)))
    ∧ (x = 7 → 3 ≤ y.toNat → y ≠ 7 → r < 16 ∧ Nq4Nearest V r))
  ∧ (∀ (s : State) (i : BitVec 2) (d a : BitVec 5) (t : BitVec 3) (f : BitVec 2) (wc : BitVec 2),
    let W := tWidth t
    let val (k : Nat) : Int := if tSigned t then (Row.lane W (s.rv a) k).toInt else (Row.lane W (s.rv a) k).toNat
    let F := ftFmt f
    let x (k : Nat) : Nat := (Row.lane F.width (s.rv a) k).toNat
    let P := s.me.rp (a.setWidth 3)
    GivesX (.vrSum i d a t) s d (BitVec.ofInt 64 (((List.range (512 / W)).map val).sum))
    ∧ (∃ k < 512 / W, GivesX (.vrMin i d a t) s d (BitVec.ofInt 64 (val k)) ∧ ∀ j < 512 / W, val k ≤ val j)
    ∧ (∃ k < 512 / W, GivesX (.vrMax i d a t) s d (BitVec.ofInt 64 (val k)) ∧ ∀ j < 512 / W, val j ≤ val k)
    ∧ GivesX (.vrFsum i d a f) s d
        (word (F.arith false (FVal.sum ((List.range (512 / F.width)).map (fun k => F.decode (x k))))))
    ∧ (∃ v, GivesX (.vrFmin i d a f) s d (word v) ∧ if ∃ k < 512 / F.width, F.decode (x k) = .nan then v = F.nan
        else ∃ k < 512 / F.width, v = x k ∧ ∀ j < 512 / F.width, (F.decode (x k)).le (F.decode (x j)) = true)
    ∧ (∃ v, GivesX (.vrFmax i d a f) s d (word v) ∧ if ∃ k < 512 / F.width, F.decode (x k) = .nan then v = F.nan
        else ∃ k < 512 / F.width, v = x k ∧ ∀ j < 512 / F.width, (F.decode (x j)).le (F.decode (x k)) = true)
    ∧ (d.toNat < 4 → GivesC (.vrAny i d a) s d.toNat (decide (P ≠ 0))
        ∧ GivesC (.vrAll i d a wc) s d.toNat (decide (∀ k < 512 / wWidth wc, P.getLsbD k = true)))
    ∧ GivesX (.vrPcnt i d a) s d (word ((List.range 128).countP (fun k => P.getLsbD k))))

/-- R185, vq (0x1E): the FN of each form; a p field above 7 is ILLEGAL; a compare writes one bit for each lane and zeros above them; the bitwise words act on all 128
bits; the moves to and from x act on one half. -/
def Obligations.PredicateWords : Prop :=
  MajorForms 0xEF000000 [(0, .vqEq 0 0 0 0 0), (1, .vqEq 0 0 0 0 1), (2, .vqEq 0 0 0 0 2), (3, .vqEq 0 0 0 0 3), (4, .vqEq 0 0 0 0 4),
    (5, .vqEq 0 0 0 0 5), (6, .vqEq 0 0 0 0 6), (8, .vqNe 0 0 0 0 0), (9, .vqNe 0 0 0 0 1), (10, .vqNe 0 0 0 0 2),
    (11, .vqNe 0 0 0 0 3), (12, .vqNe 0 0 0 0 4), (13, .vqNe 0 0 0 0 5), (14, .vqNe 0 0 0 0 6),
    (16, .vqLt 0 0 0 0 0), (17, .vqLt 0 0 0 0 1), (18, .vqLt 0 0 0 0 2), (19, .vqLt 0 0 0 0 3),
    (20, .vqLt 0 0 0 0 4), (21, .vqLt 0 0 0 0 5), (22, .vqLt 0 0 0 0 6), (24, .vqLe 0 0 0 0 0),
    (25, .vqLe 0 0 0 0 1), (26, .vqLe 0 0 0 0 2), (27, .vqLe 0 0 0 0 3), (28, .vqLe 0 0 0 0 4),
    (29, .vqLe 0 0 0 0 5), (30, .vqLe 0 0 0 0 6), (32, .vqFeq 0 0 0 0 0), (33, .vqFeq 0 0 0 0 1),
    (34, .vqFeq 0 0 0 0 2), (36, .vqFlt 0 0 0 0 0), (37, .vqFlt 0 0 0 0 1), (38, .vqFlt 0 0 0 0 2),
    (40, .vqFle 0 0 0 0 0), (41, .vqFle 0 0 0 0 1), (42, .vqFle 0 0 0 0 2), (44, .vqFun 0 0 0 0 0),
    (45, .vqFun 0 0 0 0 1), (46, .vqFun 0 0 0 0 2), (0x30, .vqAnd 0 0 0 0), (0x31, .vqOr 0 0 0 0),
    (0x32, .vqXor 0 0 0 0), (0x33, .vqAndn 0 0 0 0), (0x34, .vqNot 0 0 0), (0x35, .vqOnes 0 0), (0x36, .vqZero 0 0),
    (0x37, .vqLim 0 0 0), (0x38, .vqTox 0 0 0 0), (0x39, .vqFrx 0 0 0 0)]
  ∧ (∀ n < 64, ∀ f < 32, 8 ≤ f → (n ≠ 0x38 → IllegalWord (0xEF000000 + 2 ^ 16 * f + n))
      ∧ (0x30 ≤ n → n < 0x35 ∨ n = 0x38 → IllegalWord (0xEF000000 + 2 ^ 11 * f + n))
      ∧ (0x30 ≤ n → n < 0x34 → IllegalWord (0xEF000000 + 2 ^ 6 * f + n)))
  ∧ ∀ (s : State) (i : BitVec 2) (d a b : BitVec 5) (t : BitVec 3) (f : BitVec 2) (h : BitVec 1), d.toNat < 8 →
    let W := tWidth t
    let val (r : BitVec 5) (k : Nat) : Int :=
      if tSigned t then (Row.lane W (s.rv r) k).toInt else (Row.lane W (s.rv r) k).toNat
    let F := ftFmt f
    let L (r : BitVec 5) (k : Nat) : FVal := F.decode (Row.lane F.width (s.rv r) k).toNat
    let num (k : Nat) : Prop := L a k ≠ .nan ∧ L b k ≠ .nan
    let D : BitVec 3 := d.setWidth 3
    let p (r : BitVec 5) : Pred := s.me.rp (r.setWidth 3)
    let lanes (ins : Instr) (W : Nat) (g : Nat → Prop) : Prop :=
      ∃ w, GivesP ins s D w ∧ ∀ k, k < 128 → (w.getLsbD k = true ↔ k < 512 / W ∧ g k)
    lanes (.vqEq i d a b t) W (fun k => val a k = val b k) ∧ lanes (.vqNe i d a b t) W (fun k => val a k ≠ val b k)
    ∧ lanes (.vqLt i d a b t) W (fun k => val a k < val b k) ∧ lanes (.vqLe i d a b t) W (fun k => val a k ≤ val b k)
    ∧ lanes (.vqFeq i d a b f) F.width (fun k => num k ∧ (L a k).eqv (L b k) = true)
    ∧ lanes (.vqFlt i d a b f) F.width (fun k => num k ∧ (L a k).le (L b k) = true ∧ (L a k).eqv (L b k) = false)
    ∧ lanes (.vqFle i d a b f) F.width (fun k => num k ∧ ((L a k).le (L b k) = true ∨ (L a k).eqv (L b k) = true))
    ∧ lanes (.vqFun i d a b f) F.width (fun k => ¬num k)
    ∧ GivesP (.vqAnd i d a b) s D (p a &&& p b) ∧ GivesP (.vqOr i d a b) s D (p a ||| p b)
    ∧ GivesP (.vqXor i d a b) s D (p a ^^^ p b) ∧ GivesP (.vqAndn i d a b) s D (p a &&& ~~~(p b))
    ∧ GivesP (.vqNot i d a) s D (~~~(p a)) ∧ GivesP (.vqOnes i d) s D (-1) ∧ GivesP (.vqZero i d) s D 0
    ∧ (∃ w, GivesP (.vqLim i d a) s D w ∧ ∀ k, k < 128 → w.getLsbD k = decide (k < (s.rx a).toNat))
    ∧ (∃ w, GivesX (.vqTox i d a h) s d w ∧ ∀ k, k < 64 → w.getLsbD k = (p a).getLsbD (64 * h.toNat + k))
    ∧ (∃ w, GivesP (.vqFrx i d a h) s D w ∧ ∀ k, k < 128 →
        w.getLsbD k = if k / 64 = h.toNat then (s.rx a).getLsbD (k % 64) else (p d).getLsbD k)

/-- Chapter 8, vt and rg (R187 to R191): a table lookup enters the unit's FIFO of four and completes there, oldest first,
once the stores before it are performed and its table's rows are read, one at a time (R284); each lane is the interpolation
between two table entries, exact and rounded once; a table outside its 4 MiB faults TABLE_ADDR, and a full FIFO stalls the
word; the mix runs its n rounds in four groups and takes max(1, n) cycles; the expert words count, sum and scatter over 64
lanes of 16 bits. Where the manual leaves them open these clauses follow the model's own choice: the sign of an exact zero sum
(assumption 41), the turn that reads a row (assumption 117), a descriptor of more than 2^10 intervals and a bad one that finds
the FIFO full (assumption 120). -/
def Obligations.TableMixAndExpertWords : Prop :=
  ∀ (s : State) (i : BitVec 2) (d a b n : BitVec 5) (k pcn : Nat) (c : InterpCmd) (rest : List InterpCmd),
    s.myCore.kernel = some k → (s.kernel k).Faultable →
    let x := s.rx b
    let lane (r : Row) (j : Nat) : Nat := (Row.lane 16 r j).toNat
    let pair (r : BitVec 5) (j : Nat) : Nat := if j < 32 then lane (s.rv r) j else lane (s.rv (r + 1)) (j - 32)
    let put (w w' : Row) (j : Nat) : Nat := if j < 32 then lane w j else lane w' (j - 32)
    let id (j : Nat) : Nat := (Row.lane 8 (s.rv a) j).toNat
    let push (fp32 : Bool) (t : State) : Prop := s.OnlyMyCore t
      ∧ t.myCore.interp = s.myCore.interp ++ [{
          d := d, src := s.rv a, desc := x, fp32 := fp32, seq := s.me.seq, old := s.me.saved.isNone }]
      ∧ t.me = { s.me with late := s.me.late ++ [(.v d, 8)] }
    (tableOk x = true → s.myCore.interp.length < 4 →
      (∃ t, exec (.vtInterpFp32 i d a b) s = .next t ∧ push true t)
      ∧ (∃ t, exec (.vtInterpBf16 i d a b) s = .next t ∧ push false t))
    ∧ (tableOk x = true → 4 ≤ s.myCore.interp.length →
        GivesMe (.vtInterpFp32 i d a b) s { s.me with wait := .again }
        ∧ GivesMe (.vtInterpBf16 i d a b) s { s.me with wait := .again })
    ∧ (tableOk x = false → TakesFault (.vtInterpFp32 i d a b) s k .tableAddr 0
        ∧ TakesFault (.vtInterpBf16 i d a b) s k .tableAddr 0)
    ∧ ((s.core pcn).interp = c :: rest → (s.tractOf pcn).ticking = true → (∀ p ∈ (s.core pcn).xp.pend, c.seq ≤ p.seq) →
        let F : FFmt := if c.fp32 then .fp32 else .bf16
        let N : Nat := 2 ^ (c.desc.toNat / 2 ^ 24 % 16)
        let C := s.core pcn
        let sp := (C.seeing c.got).sp
        let u (j : Nat) : FVal := F.decode (Row.lane F.width c.src j).toNat
        let e (j : Nat) : FVal := FFmt.fp32.decode (Mem.num sp (c.desc.toNat % 2 ^ 22 + 4 * j) 4)
        let finite (v : FVal) : Prop := ∃ neg m q, v = .fin neg m q
        (missing c.got c.rows ≠ [] → ∃ r ∈ missing c.got c.rows, exec (.interpComplete pcn) s = .next
          { s.setCore pcn { C with interp := { c with got := c.got.set r (C.row r) } :: rest } with freeCtr := s.freeCtr + 1 })
        ∧ (missing c.got c.rows = [] → ∃ t w, exec (.interpComplete pcn) s = .next t ∧ s.SameBytes t ∧ (t.core pcn).interp = rest
          ∧ ((s.stream ⟨pcn, .xp⟩).saved = none → t.stream ⟨pcn, .xp⟩ = (s.stream ⟨pcn, .xp⟩).wv c.d w)
          ∧ ∀ j < 512 / F.width, ∃ out, Row.lane F.width w j = BitVec.ofNat F.width out ∧
            if u j = .nan then out = F.nan
            else
              let p : ℚ := if u j = .inf false then N else max 0 (min N ((u j).rat * N))
              let i := min ⌊p⌋.toNat (N - 1)
              (finite (e i) → finite (e (i + 1)) → ∃ neg n m q, 0 < m ∧ out = F.arith false (.val neg n m q)
                ∧ (XVal.val neg n m q).rat = (e i).rat + (p - i) * ((e (i + 1)).rat - (e i).rat))
              ∧ (¬finite (e i) ∨ ¬finite (e (i + 1)) → out = F.nan)))
    ∧ (∃ t, exec (.vtRmix i d a n) s = .next t ∧ s.OnlyMe t ∧ t.me.busy = s.me.busy + (max 1 n.toNat - 1)
        ∧ (∀ r, r ≠ d → t.rv r = s.rv r) ∧ (n = 0 → t.rv d = s.rv d)
        ∧ ∃ C : Nat → Nat → BitVec 32, (∀ j < 16, C 0 j = Row.lane 32 (s.rv d) j ∧ C n.toNat j = Row.lane 32 (t.rv d) j)
          ∧ ∀ k < n.toNat, ∀ g < 4,
            let K (j : Nat) : BitVec 32 := Row.lane 32 (s.rv a) (4 * g + j % 4)
            C (k + 1) (4 * g) = (C k (4 * g) + K k).rotateLeft 7 ^^^ C k (4 * g + 3)
            ∧ C (k + 1) (4 * g + 1) = (C k (4 * g + 1) ^^^ C (k + 1) (4 * g)) * 0x2F4BC5A9
            ∧ C (k + 1) (4 * g + 2) = (C k (4 * g + 2) + C (k + 1) (4 * g + 1)).rotateLeft 13
                ^^^ (K (k + 1) + BitVec.ofNat 32 k)
            ∧ C (k + 1) (4 * g + 3) = (C k (4 * g + 3) ^^^ C (k + 1) (4 * g + 2)) * 0x91D36E17)
    ∧ (∃ w w', GivesPair (.rgEcount i d a) s d w w' ∧ ∀ e < 64,
        put w w' e = min (pair d e + (List.range 64).countP (fun j => id j = e)) 65535)
    ∧ (∃ w w', GivesPair (.rgEscan i d a) s d w w' ∧ ∀ e < 64,
        put w w' e = ((List.range e).map (pair a)).sum % 65536)
    ∧ (b ≠ d → b + 1 ≠ d → b ≠ d + 1 → ∃ t, exec (.rgEscat i d a b) s = .next t ∧ s.OnlyMe t
        ∧ (∀ r, r ≠ d → r ≠ d + 1 → r ≠ b → r ≠ b + 1 → t.rv r = s.rv r)
        ∧ (∀ j < 64, put (t.rv d) (t.rv (d + 1)) j =
            if id j < 64 then (pair b (id j) + (List.range j).countP (fun m => id m = id j)) % 65536 else 65535)
        ∧ (∀ e < 64, put (t.rv b) (t.rv (b + 1)) e = (pair b e + (List.range 64).countP (fun j => id j = e)) % 65536))


/-! ### The harrow -/

/-- R213, R215, R217, R218, R364, R365: the mc and mg words. While a bank is armed, a word that writes the shadow bank, and
`mg.swap`, wait; else `mc.set` writes one shadow register but for its reserved bits, `mc.clr` all twelve, and `mg.go` arms.
`mg.go.ind` first takes eight registers from a row. A word that has issued rows goes on once they are performed (R216), or
takes the fault of the first row that it could not reach (R222).
`mx.rd` and `mx.rep` serve the Sextant that launched the kernel. -/
def Obligations.HarrowControlWords : Prop :=
  ∀ (s : State) (i : BitVec 2) (d a : BitVec 5) (p n : Nat) (win : Bool) (k pcl role : Nat) (pcn : Nat) (w : HWait),
    let H := s.myCore.harrow
    let sh (h : Harrow) (k : Nat) : Word := h.shadow.toList.getD k 0
    let waits (ins : Instr) (w : HWait) : Prop := GivesMe ins s { s.me with wait := .harrow w }
    let X := s.sextant pcl
    let me : StreamId := { core := pcn, eng := .mx }
    (H.armed = true → waits (.mcSet i d a) .armed ∧ waits (.mcClr i) .armed ∧ waits (.mgGo i) .armed
      ∧ waits (.mgGoInd i a) .armed ∧ waits (.mgSwap i) .armed ∧ waits (.mgWait i) .idle)
    ∧ (H.armed = false →
        (∃ h, GivesCore (.mcSet i d a) s { s.myCore with harrow := h } ∧ h = { H with shadow := h.shadow }
          ∧ ∀ k < 12, sh h k = if k = d.toNat then s.rx a &&& shadowMask k else sh H k)
        ∧ (∃ h, GivesCore (.mcClr i) s { s.myCore with harrow := h } ∧ h = { H with shadow := h.shadow }
          ∧ ∀ k < 12, sh h k = if k = 4 then 0x3F800000 else if 6 ≤ k then 0x0001000000000000 else 0)
        ∧ GivesCore (.mgGo i) s { s.myCore with harrow := { H with
            armed := true, armBy := .word s.me.pc, steps := if H.state = .idle then 0 else H.steps
            seen := if H.state = .idle then [] else H.seen } }
        ∧ GivesMe (.mgSwap i) s s.me ∧ (H.state = .idle → GivesMe (.mgWait i) s s.me)
        ∧ (reachRow s.cur.core (s.rx a) = some (p, n, win) →
            ∃ h t, exec (.mgGoInd i a) s = .next t ∧ s.OnlyMyCore t ∧ t.me.busy = s.me.busy + (if win then 12 else 4)
              ∧ t.myCore.harrow = h ∧ h.armed = true ∧ h.armBy = .word s.me.pc
              ∧ (∀ q ∈ [0, 1, 2, 3, 6, 7, 8, 9].zipIdx,
                  sh h q.1 = Row.lane 64 ((s.core p).row n) q.2 &&& shadowMask q.1)
              ∧ ∀ k ∈ [4, 5, 10, 11], sh h k = sh H k))
    ∧ GivesX (.mcGet i d a) s d (sh H a.toNat) ∧ GivesX (.mcGeta i d a) s d (H.active.toList.getD a.toNat 0)
    ∧ GivesX (.mgStat i d) s d H.hstat
    ∧ (s.myCore.kernel = some k → (s.kernel k).sx = some (pcl, role) →
        GivesX (.mxRd i d 0) s d X.sxstat ∧ GivesX (.mxRd i d 1) s d (X.r.setWidth 64)
        ∧ GivesX (.mxRd i d 2) s d (X.p.setWidth 64) ∧ GivesX (.mxRd i d 3) s d X.block
        ∧ (role = 1 → X.repBy ≤ 4 * s.cur.core + s.cur.eng.num + 1 → exec (.mxRep i a) s = .next (s.setSextant pcl { X with
            rep := (s.rx a).setWidth 32, repd := true, repBy := 4 * s.cur.core + s.cur.eng.num + 1 }))
        ∧ (role ≠ 1 → (s.kernel k).Faultable → TakesFault (.mxRep i a) s k .sxPhase 0))
    ∧ (s.myCore.kernel = some k → (s.kernel k).Faultable → (s.kernel k).sx = none →
        TakesFault (.mxRd i d a) s k .sxNone 0 ∧ TakesFault (.mxRep i a) s k .sxNone 0)
    ∧ (s.awake pcn = true → (s.stream me).wait = .harrow w →
        (w ≠ .stored → w ≠ .storedBad → (s.core pcn).harrow.waitOver w = true →
          exec (.harrowWaitEnd pcn) s = .next (s.modStream me (fun m => { m with wait := .none })))
        ∧ (w = .stored → (s.stream me).pend = [] → Resumes (.harrowWaitEnd pcn) s me (s.stream me))
        ∧ (w = .storedBad → (s.stream me).pend = [] → (s.core pcn).kernel = some k → (s.kernel k).Faultable →
          ∃ t, exec (.harrowWaitEnd pcn) s = .next t ∧ (t.kernel k).state = .faulted ∧ t.cores = s.cores
            ∧ (t.kernel k).fault = some { code := .addrRange, pcn := pcn, eng := 2, whr := word (s.stream me).pc
                                          recVa := (s.kernel k).krec })
        ∧ (w = .stored ∨ w = .storedBad → (s.stream me).pend ≠ [] → exec (.harrowWaitEnd pcn) s = .next s))

/-- R198, R199, R200, R219: the mb words. While an operator is armed or runs they wait, but for the two that only read; else
a count steps each counter once for each of its code pairs, a merge adds one bin into the other, and a drain adds each
cell's contribution to its tile with one rounding and clears the bin; a count and a drain read their rows one at a time
first (R284), and a count that the counters have no room for faults BIN_DEPTH. R219 to R222: the mw words. A word waits
until no running or armed operator can write its tile; else `mw.wb` issues stores, of class 15, to the rows of the layout in
x[b] and no other, `mw.topk` one of the best entries for each tile row up to the first that it cannot reach, and both wait
for them (R216); `mw.zero` makes the tile +0, and `mw.rd` reads one element. Where the manual leaves them open these clauses
follow the model's own choice: the modes of a bin (assumption 55), the checks of the bin and tile words (assumptions 59, 60),
the turn that reads a row (assumption 117) and when BFMT is read (assumption 118). -/
def Obligations.HarrowBinAndTileWords : Prop :=
  (∀ (s : State) (i : BitVec 2) (d a b : BitVec 5) (e : BitVec 1),
    let H := s.myCore.harrow
    let o := s.mbHop
    let C := s.myCore.seeing H.mbSeen
    let I := { H with mbSeen := [] }
    let B := H.bin a.toNat
    let D := H.bin d.toNat
    let kb := (s.rx b).toNat
    let CA := C.codes o o.a 0 kb
    let CB := C.codes o o.b 0 kb
    let step (n x : Nat) : Int := ((List.range 64).map (fun k =>
      match pairStep o.a.nq4 o.b.nq4 ((CA.getD (n / 64) []).getD k 0) ((CB.getD (n % 64) []).getD k 0) with
      | some (y, st) => if y = x then st else 0
      | none => 0)).sum
    let waits (ins : Instr) : Prop := GivesMe ins s { s.me with wait := .harrow .idle }
    let ready := H.state = .idle ∧ H.armed = false
    let gives (ins : Instr) (cycles : Nat) (h : Harrow) : Prop :=
      GivesCore ins s { s.myCore.setStream s.cur.eng { s.me with busy := s.me.busy + cycles } with harrow := h }
    let read (need : List Nat) : Prop := missing H.mbSeen need = []
    let reads (ins : Instr) (need : List Nat) : Prop := ready → ¬ read need → ∃ r ∈ missing H.mbSeen need, ∃ t,
      exec ins s = .next t ∧ t = { s with cores := t.cores, freeCtr := s.freeCtr + 1 } ∧ s.SameBytes t
        ∧ (∀ c, c ≠ s.cur.core → t.core c = s.core c)
        ∧ t.myCore = { s.myCore.setStream s.cur.eng { s.me with wait := .again } with
            harrow := { H with mbSeen := H.mbSeen.set r (s.myCore.row r) } }
    let off (ins : Instr) : Prop :=
      GivesCore ins s { s.myCore.setStream s.cur.eng { s.me with wait := .harrow .idle } with harrow := I }
    (¬ ready → waits (.mbClr i a e) ∧ off (.mbCount i a b) ∧ waits (.mbMerge i d a) ∧ off (.mbDrain i d a e))
    ∧ (o.badBlock (some kb) true = none → B.depth + 64 ≤ 32767 → H.edep + 64 ≤ 65535 →
        reads (.mbCount i a b) (o.countRows 0 0 kb))
    ∧ (o.badBlock B.tag false = none → reads (.mbDrain i d a e) (H.drainRows o a.toNat 0 0))
    ∧ GivesX (.mbDepth i d a) s d (word B.depth)
    ∧ (bits (s.rx b) 19 18 = 0 → GivesX (.mbRdc i d a b) s d
        (sword ((B.cell (64 * bits (s.rx b) 17 12 + bits (s.rx b) 11 6)).getD (bits (s.rx b) 5 0) 0)))
    ∧ (ready → gives (.mbClr i a e) 0 (if e = 1
        then { H.setBin a.toNat {} with edgeA := [], edgeB := [], edep := 0 } else H.setBin a.toNat {}))
    ∧ (ready → o.badBlock (some kb) true = none → B.depth + 64 ≤ 32767 → H.edep + 64 ≤ 65535 → a.toNat < 2 →
        read (o.countRows 0 0 kb) → (∀ n < 4096, (B.cell n).length = 64) →
        ∃ h, gives (.mbCount i a b) 7 h ∧ (h.bin a.toNat).depth = B.depth + 64 ∧ (h.bin a.toNat).tag = some kb
          ∧ h.edep = H.edep + 64 ∧ h.mbSeen = [] ∧ h.bin (1 - a.toNat) = H.bin (1 - a.toNat)
          ∧ (∀ n < 4096, ∀ x < 64, ((h.bin a.toNat).cell n).getD x 0 = (B.cell n).getD x 0 + step n x)
          ∧ ∀ n < 1024, h.edgeA.get 0 n = H.edgeA.get 0 n + ((CA.getD (n / 16) []).filter (· = n % 16)).length
            ∧ h.edgeB.get 0 n = H.edgeB.get 0 n + ((CB.getD (n / 16) []).filter (· = n % 16)).length)
    ∧ (ready → d ≠ a → d.toNat < 2 → a.toNat < 2 → D.depth + B.depth ≤ 32767 →
        (∀ n < 4096, (B.cell n).length = 64 ∧ (D.cell n).length = 64) →
        ∃ h, gives (.mbMerge i d a) 1 h ∧ (h.bin d.toNat).depth = D.depth + B.depth
          ∧ (h.bin d.toNat).tag = (if D.depth = 0 then B.tag else D.tag) ∧ h.bin a.toNat = {}
          ∧ ∀ n < 4096, ∀ x < 64, ((h.bin d.toNat).cell n).getD x 0 = (D.cell n).getD x 0 + (B.cell n).getD x 0)
    ∧ (ready → o.badBlock B.tag false = none → a.toNat < 2 → d.toNat < 2 → B.depth ≠ 0 → e = 0 →
        read (H.drainRows o a.toNat 0 0) → ∃ h, gives (.mbDrain i d a e) 3 h ∧ h.bin a.toNat = {} ∧ h.bin (1 - a.toNat) = H.bin (1 - a.toNat)
          ∧ h.edep = 0 ∧ h.edgeA = [] ∧ h.edgeB = [] ∧ h.mbSeen = [] ∧ (∀ n, h.acc (1 - d.toNat) n = H.acc (1 - d.toNat) n)
          ∧ ∀ n < 4096, h.acc d.toNat n = accAdd (H.acc d.toNat n) (o.alpha.mul
              (((C.sideScale o o.a 0 (B.tag.getD 0) (n / 64)).mul (C.sideScale o o.b 0 (B.tag.getD 0) (n % 64))).mul
                (dyadic (((B.cell n).zip ((List.range 64).map (fun x => (counterValue o.a.nq4 o.b.nq4 x : Int)))).map
                  (fun q => q.1 * q.2)).sum (countUnit o.a.nq4 o.b.nq4)))))
    ∧ (ready → o.badBlock B.tag false = none → B.depth = 0 → gives (.mbDrain i d a e) 3 I)
    ∧ (∀ k f, s.myCore.kernel = some k → (s.kernel k).Faultable → ready →
        (o.badBlock (some kb) true = some f → TakesFault (.mbCount i a b) s k f 0)
        ∧ (o.badBlock (some kb) true = none → 32767 < B.depth + 64 ∨ 65535 < H.edep + 64 →
            TakesFault (.mbCount i a b) s k .binDepth 0)
        ∧ (32767 < D.depth + B.depth → TakesFault (.mbMerge i d a) s k .binDepth 0)))
  ∧ (∀ (s : State) (i : BitVec 2) (d a b : BitVec 5) (z q : BitVec 1) (k : BitVec 3),
    let H := s.myCore.harrow
    let L := s.rx b
    let bf := s.myCore.bfmt.toList.getD (bits L 31 27) 0
    let B := wbBytes (bfEfmt bf)
    let place (n : Nat) : Nat := 2048 * bits L 31 27 + bits L 26 16 + n / B * bits L 15 5 + n % B
    let waits (ins : Instr) (t : Nat) : Prop := GivesMe ins s { s.me with wait := .harrow (.tile t) }
    let stored (n : Nat) (p : Nat × Nat × Bool) (r : Row) : Access :=
      { seq := s.me.seq + n, cls := 15, home := .bank p.1 p.2.1, off := 0, win := p.2.2, kind := .storeV r }
    (H.waitOver (.tile d.toNat) = false → waits (.mwWb i d z b) d.toNat ∧ waits (.mwTopk i d q k b) d.toNat
      ∧ waits (.mwZero i d) d.toNat ∧ waits (.mwRd i a d b) d.toNat)
    ∧ (H.waitOver (.tile d.toNat) = true → d.toNat < 2 →
        (wbFormatOk bf = true → bits L 26 16 + 63 * bits L 15 5 + B ≤ 2048 →
          ∃ t, exec (.mwWb i d z b) s = .next t ∧ s.OnlyMyCore t
            ∧ t.me = { s.me with pend := t.me.pend, seq := s.me.seq + 64 * B, wait := .harrow .stored
                                 busy := s.me.busy + (64 * B - 1) }
            ∧ t.me.pend = s.me.pend ++ (List.range (64 * B)).map (fun n =>
                stored n (s.cur.core, place n, false) (H.wbRow d.toNat (bfEfmt bf) (n / B) (n % B)))
            ∧ ∀ n, t.myCore.harrow.acc d.toNat n = if z = 1 then 0 else H.acc d.toNat n)
        ∧ (∀ (p : Nat → Nat × Nat × Bool) (m : Nat), 0 < m → m ≤ 64 →
            (∀ n < m, reachRow s.cur.core (L + word (64 * n)) = some (p n)) →
            (m < 64 → reachRow s.cur.core (L + word (64 * m)) = none) →
            ∃ t, ∃ R : Nat → Row, exec (.mwTopk i d q k b) s = .next t ∧ s.OnlyMyCore t ∧ t.myCore.harrow = H
              ∧ t.me = { s.me with pend := t.me.pend, seq := s.me.seq + m, busy := s.me.busy + 71
                                   wait := .harrow (if m < 64 then .storedBad else .stored) }
              ∧ t.me.pend = s.me.pend ++ (List.range m).map (fun n => stored n (p n) (R n))
              ∧ ∀ n < m, let f (j : Nat) : BitVec 32 := H.acc d.toNat (64 * n + j)
                  ∃ σ : Nat → Nat, (∀ e, k.toNat < e → e < 8 → Row.lane 64 (R n) e = 0)
                    ∧ ∀ e ≤ k.toNat, σ e < 64
                      ∧ Row.lane 64 (R n) e = word ((f (σ e)).toNat + 2 ^ 32 * σ e)
                      ∧ ∀ j < 64, j ≠ σ e → (∀ e' < e, j ≠ σ e') → ranksBefore (q == 1) f (σ e) j = true)
        ∧ (∀ c, s.myCore.kernel = some c → (s.kernel c).Faultable → reachRow s.cur.core L = none →
            TakesFault (.mwTopk i d q k b) s c .addrRange 0)
        ∧ (∃ h, GivesCore (.mwZero i d) s
              { s.myCore.setStream s.cur.eng { s.me with busy := s.me.busy + 1 } with harrow := h }
            ∧ (∀ n, h.acc d.toNat n = 0) ∧ ∀ n, h.acc (1 - d.toNat) n = H.acc (1 - d.toNat) n)
        ∧ GivesX (.mwRd i a d b) s a ((H.acc d.toNat (64 * bits L 11 6 + bits L 5 0)).setWidth 64)))

/-- R211 to R213: an operator swaps in from the armed bank and is checked; its blocks are counted or multiplied into its
tile (R203 to R205), a block with a non-finite exponent giving NaN, its drains follow, its tile steps walk the nest, its
rows are written back one at a time, and it leaves RUNNING when the nest has run out. Each of these steps first reads its
rows, one at a time (R284). A check that fails, or a count that the counters have no room for, stops the harrow and faults
the kernel for the word that armed it. Where the manual leaves them open these clauses follow the model's own choice: the
order of the checks (assumption 57), the turn that reads a row (assumption 117) and the rows beside a bank (assumption 121). -/
def Obligations.AnOperatorRunsItsNest : Prop :=
  ∀ (s : State) (pcn : Nat), s.harrowOn pcn = true →
    let C := s.core pcn
    let H := C.harrow
    let S := C.seeing H.seen
    let o := C.readHop H.shadow
    let R := H.run
    let Z := H.tileStart
    let planes (d : HSide) (x : Nat) : List Row := S.planesOf H.op d (H.off x) R.kb
    let read (need : List Nat) : Prop := missing H.seen need = []
    let reads (i : Instr) (need : List Nat) : Prop := ¬ read need → ∃ r ∈ missing H.seen need, exec i s = .next
      { s.setCore pcn { C with harrow := { H with seen := H.seen.set r (C.row r) } } with freeCtr := s.freeCtr + 1 }
    let counted := H.op.countRows (H.off 0) (H.off 1) R.kb
    let drained := H.drainRows H.op R.bin (H.off 0) (H.off 1)
    let multiplied := H.op.multiplyRows (H.off 0) (H.off 1) R.kb
    let el (d : HSide) (x n p k : Nat) : Int :=
      bitsInt n (H.op.sideFmt d != 2) (H.op.mulBits d (planes d x) R.kb n p k)
    let limb (d : HSide) (x n p k h : Nat) : Int :=
      bitsInt 16 true (H.op.mulBits d (planes d x) R.kb n p k / 2 ^ (16 * h))
    let w := planeBits H.op.efmt
    let v := if H.op.prec = 0 then w else H.op.prec
    let z := wbBytes (bfEfmt H.fmtW)
    (H.armed = true → H.state = .idle → o.bad = none → reads (.harrowSwapIn pcn) o.permRows
      ∧ (read o.permRows → exec (.harrowSwapIn pcn) s = .next (s.setCore pcn { C with harrow := { H with
          active := H.shadow, armed := false, state := .running, steps := 0, runBy := H.armBy, fmtA := o.a.bf, fmtB := o.b.bf
          fmtW := o.bfW, perm := (S.readHop H.shadow).perm, run := { ended := o.empty }, seen := [] } })))
    ∧ (∀ f k pc, H.armed = true → H.state = .idle → o.bad = some f → H.armBy = .word pc → C.kernel = some k →
        (s.kernel k).Faultable → ∃ t, exec (.harrowSwapIn pcn) s = .next t ∧ (t.core pcn).harrow.state = .stopped
          ∧ (t.kernel k).state = .faulted ∧ (t.kernel k).fault = some
            { code := f, pcn := pcn, eng := 2, whr := word pc, recVa := (s.kernel k).krec })
    ∧ (H.blockReady = true → H.op.counting = true → (H.bin R.bin).depth + 64 ≤ 32767 → H.edep + 64 ≤ 65535 →
        reads (.harrowCountStep pcn) counted
        ∧ (read counted → exec (.harrowCountStep pcn) s = .next (s.setCore pcn { C with harrow := {
            Z.count S H.op R.bin (H.off 0) (H.off 1) R.kb with
            run := { R with kb := R.kb + 1, due := (R.kb + 1) % H.op.dpb = 0 || R.kb + 1 = H.op.kb }, seen := [] } })))
    ∧ (∀ k pc, H.blockReady = true → H.op.counting = true → 32767 < (H.bin R.bin).depth + 64 ∨ 65535 < H.edep + 64 →
        H.runBy = .word pc → C.kernel = some k → (s.kernel k).Faultable → ∃ t, exec (.harrowCountStep pcn) s = .next t
          ∧ (t.core pcn).harrow.state = .stopped ∧ (t.kernel k).state = .faulted ∧ (t.kernel k).fault = some
            { code := .binDepth, pcn := pcn, eng := 2, whr := word pc, recVa := (s.kernel k).krec })
    ∧ (H.state = .running → R.due = true → reads (.harrowDrain pcn) drained)
    ∧ (H.blockReady = true → H.op.counting = false → reads (.harrowMultiplyBlock pcn) multiplied)
    ∧ (H.state = .running → R.due = true → R.bin < 2 → read drained → ∃ t, exec (.harrowDrain pcn) s = .next t
        ∧ (t.core pcn).harrow.run = { R with due := false, bin := 1 - R.bin } ∧ (t.core pcn).harrow.bin R.bin =
          (if (H.bin R.bin).depth = 0 then H.bin R.bin else {}) ∧ (t.core pcn).sp = C.sp)
    ∧ (H.blockReady = true → H.op.counting = false → H.op.efmt ≤ 2 → read multiplied → ∃ t, exec (.harrowMultiplyBlock pcn) s = .next t
        ∧ (t.core pcn).harrow.run = { R with kb := R.kb + 1 } ∧ (t.core pcn).sp = C.sp
        ∧ ∀ n < 4096, (t.core pcn).harrow.acc H.tile n = accSum (Z.acc H.tile n) (H.op.alpha.mul (dyadic
            ((List.range 64).map (fun k => el H.op.a 0 w (n / 64) k * el H.op.b 1 v (n % 64) k)).sum 0)))
    ∧ (H.blockReady = true → H.op.counting = false → H.op.efmt ∈ [9, 10, 11] → read multiplied → ∃ t,
        exec (.harrowMultiplyBlock pcn) s = .next t
        ∧ (t.core pcn).harrow.run = { R with kb := R.kb + 1 } ∧ (t.core pcn).sp = C.sp
        ∧ ∀ n < 4096, let x := S.planeExpOf H.op H.op.a (H.off 0) R.kb (n / 64)
            let y := S.planeExpOf H.op H.op.b (H.off 1) R.kb (n % 64)
            let sum (f : Nat → Int) : Int := ((List.range 64).map f).sum
            let p (k h : Nat) : Int := limb H.op.a 0 w (n / 64) k h
            let q (k h : Nat) : Int := limb H.op.b 1 v (n % 64) k h
            (t.core pcn).harrow.acc H.tile n =
              if x = 0x7FFF ∨ y = 0x7FFF then BitVec.ofNat 32 FFmt.fp32.nan
              else accSum (Z.acc H.tile n) (H.op.alpha.mul (if H.op.efmt = 11 then
                  dyadic (sum (fun k => p k 1 * q k 1) * 2 ^ 30 + sum (fun k => p k 0 * q k 1 + p k 1 * q k 0) * 2 ^ 15) (x + y - 58)
                else dyadic (sum (fun k => el H.op.a 0 w (n / 64) k * el H.op.b 1 v (n % 64) k)) (x + y - 28))))
    ∧ (H.tileFull = true → H.op.wbOn = false → ∃ t, exec (.harrowTileStep pcn) s = .next t
        ∧ (t.core pcn).harrow.steps = H.steps + 1 ∧ (t.core pcn).harrow.run.kb = 0
        ∧ (t.core pcn).harrow.run.ended = (nextIdx H.op.nst R.idx).isNone
        ∧ (t.core pcn).harrow.run.idx = (nextIdx H.op.nst R.idx).getD R.idx ∧ s.SameBytes t)
    ∧ (∀ n, H.state = .running → R.wb = some n → n < 64 * z → ∃ t, exec (.harrowWriteBack pcn) s = .next t
        ∧ (t.core pcn).row (wbPlace H.op.wb R.wbOff (n / z) (n % z)) =
          H.wbRow R.wbTile (bfEfmt H.fmtW) (n / z) (n % z)
        ∧ (∀ x, x < 64 * wbPlace H.op.wb R.wbOff (n / z) (n % z)
            ∨ 64 * wbPlace H.op.wb R.wbOff (n / z) (n % z) + 64 ≤ x →
            Mem.byte (t.core pcn).sp x = Mem.byte C.sp x)
        ∧ (t.core pcn).harrow.run.wb = if n + 1 = 64 * z ∧ H.op.ping then none else some (n + 1))
    ∧ (H.state = .running → R.ended = true → R.wb = none → ∃ t, exec (.harrowOperatorDone pcn) s = .next t
        ∧ (t.core pcn).harrow = { H with state := .idle, steps := if H.armed then 0 else H.steps } ∧ s.SameBytes t
        ∧ ∀ x, H.runBy = .cmq x → (t.core pcn).cmFly = markDone x.id C.cmFly)
    ∧ (∀ x rest ea p n win, C.cmq = x :: rest → x.kind = .harrow ea → s.awake pcn = true → H.armed = false →
        s.goFirst pcn = false → C.released x = true → x.tw = false → x.tw2 = false → reachRow pcn ea = some (p, n, win) →
        ∃ t, exec (.cmqPop pcn) s = .next t ∧ (t.core pcn).cmq = rest ∧ (t.core pcn).cmFly = C.cmFly ++ [x]
          ∧ (t.core pcn).harrow.armed = true ∧ (t.core pcn).harrow.armBy = .cmq x ∧ s.SameBytes t
          ∧ ∀ q ∈ [0, 1, 2, 3, 6, 7, 8, 9].zipIdx, (t.core pcn).harrow.shadow.toList.getD q.1 0 =
              Row.lane 64 ((s.core p).row n) q.2 &&& shadowMask q.1)


/-! ### Drills -/

/-- R240, R242, R246, R257: `cp.drill` hands its drill a start command from a row, a start row of the wrong form faults
DRILL_FORM, and a full FIFO waits; `cp.dstop` answers with the rows pushed of a run that has ended, stops a run of its own
kernel and waits for its end, and faults DRILL_OWNER for a drill that the kernel never started. R240, R243 to R246: a
drill takes the next start command and performs its list: each operation, told by its words, has its effect on the
drill, which goes on at the operation after it. Where the manual leaves them open these clauses follow the model's own
choice: the waits of `cp.drill` and `cp.dstop` (assumption 63), the checks of an operation (assumption 62) and a WAITSIG
on a locked tract (assumption 111). -/
def Obligations.DrillWordsAndTheirLists : Prop :=
  (∀ (s : State) (i : BitVec 2) (d a : BitVec 5) (k p r : Nat) (win : Bool), s.myCore.kernel = some k →
    let W (j : Nat) : Word := Row.lane 64 ((s.core p).row r) j
    let ok := (W 0).toNat % 32 = 0 ∧ (W 1).toNat < 24 ∧ W 6 = 0 ∧ W 7 = 0
    let n := 24 * (s.cur.core / 128) + (W 1).toNat
    let x := s.rx a
    let m := 24 * (s.cur.core / 128) + x.toNat
    let D := s.drill m
    (reachRow s.cur.core x = some (p, r, win) →
      (s.me.pend ≠ [] → GivesMe (.cpDrill i a) s { s.me with wait := .again })
      ∧ (s.me.pend = [] → ¬ ok → (s.kernel k).Faultable → TakesFault (.cpDrill i a) s k .drillForm 0)
      ∧ (s.me.pend = [] → ok → 4 ≤ (s.commands n).length → GivesMe (.cpDrill i a) s { s.me with wait := .again })
      ∧ (s.me.pend = [] → ok → (s.commands n).length < 4 → ∃ t, exec (.cpDrill i a) s = .next t ∧ s.SameBytes t
          ∧ t.me = { s.me with busy := s.me.busy + (if win then 12 else 4) }
          ∧ t.drill n = { s.drill n with fifo := s.commands n ++ [{
              list := W 0, p := #v[W 2, W 3, W 4, W 5], owner := .kernel k s.cur.core, asid := s.asidOf s.cur.core }] }
          ∧ ∀ j, j ≠ n → t.drill j = s.drill j))
    ∧ (reachRow s.cur.core x = none → (s.kernel k).Faultable → TakesFault (.cpDrill i a) s k .addrRange 0)
    ∧ (∀ v, x.toNat < 24 → (s.kernel k).drills.find? m = some v →
        (D.state = .idle → GivesX (.cpDstop i d a) s d (word v))
        ∧ (D.state = .running ∨ D.state = .waiting ∨ D.state = .paused → D.kernelOwner = some k →
            ∃ t, exec (.cpDstop i d a) s = .next t ∧ t.me = { s.me with wait := .dstop d m none }
              ∧ t.drill m = { D with stop := true } ∧ s.SameBytes t))
    ∧ (x.toNat < 24 → (s.kernel k).drills.find? m = none → (s.kernel k).Faultable →
        TakesFault (.cpDstop i d a) s k .drillOwner 0)
    ∧ (∀ pcn v, (s.stream ⟨pcn, .ap⟩).wait = .dstop d m (some v) → s.awake pcn = true →
        Resumes (.dstopReturn pcn) s ⟨pcn, .ap⟩ ((s.stream ⟨pcn, .ap⟩).wx d v)))
  ∧ (∀ (s : State) (n : Nat) (w1 w2 w3 : Word) (f x y z : Nat),
    let D := s.drill n
    let reads (w0 : Nat) (l : List Word) : Prop :=
      s.drillOn n = true ∧ D.state = .running ∧ D.push = none ∧ s.drillOp n = .ok (word w0 :: l)
    let gives (i : Instr) (E : Drill) : Prop := exec i s = .next ((s.setDrill n E).drillPast n)
    let goes (i : Instr) (E : Drill) : Prop := gives i { E with at_ := D.at_ + 32, seen := [] }
    let base (sel : Nat) : Nat := (D.cmd.p.toList.getD sel 0 + w1).toNat
    let cnt (w : Word) : List Nat := [bits w 15 0, bits w 31 16, bits w 47 32, bits w 63 48]
    (∀ c r, D.state = .idle → s.commands n = c :: r →
      exec (.drillStart n) s = .next (s.setDrill n { state := .running, fifo := r, cmd := c }))
    ∧ (reads (12 * 2 ^ 56) [0, 0, 0] → goes (.drillNop n) D)
    ∧ (reads (11 * 2 ^ 56) [0, 0, 0] → ∃ t, exec (.drillHalt n) s = .next t ∧ (t.drill n).state = .idle
        ∧ (t.drill n).fifo = D.fifo
        ∧ ∀ k c, D.cmd.owner = .kernel k c → (t.kernel k).drills.get 0 n = D.pushed ∧ s.SameBytes t)
    ∧ (D.state = .running ∨ D.state = .waiting ∨ D.state = .paused → D.stop = true ∨ s.ownerOn D.cmd.owner = false →
        ∃ t, exec (.drillStop n) s = .next t ∧ (t.drill n).state = .idle ∧ (t.drill n).push = none
          ∧ ∀ k c, D.cmd.owner = .kernel k c → (t.kernel k).drills.get 0 n = D.pushed ∧ s.SameBytes t)
    ∧ (D.state = .faulted → (∃ k c, D.cmd.owner = .kernel k c ∧ (s.kernel k).state ≠ .faulted)
        ∨ (∃ q, D.cmd.owner = .queue q ∧ (s.queue q).state = .resetting) →
        ∃ t, exec (.drillStop n) s = .next t ∧ (t.drill n).state = .idle)
    ∧ (∀ k c, D.state = .faulted → D.cmd.owner = .kernel k c → (s.kernel k).state = .faulted →
        exec (.drillStop n) s = .next s)
    ∧ (D.state = .waiting → s.drillOn n = true → s.waitHolds n = .ok true →
        exec (.drillWaitEnd n) s = .next (s.setDrill n { D with state := .running }))
    ∧ (f < 14 → x < 4 → reads (2 ^ 56 + num (16 ≤ n % 24) * 2 ^ 55 + f * 2 ^ 50 + 3 * 2 ^ 48 + x * 2 ^ 46) [w1, w2, w3] →
        base x % 64 = 0 → (∀ c ∈ cnt w2, c ≠ 0) →
        let P : Pattern := {
          ws := decide (16 ≤ n % 24), fmt := f, ndm1 := 3, base := BitVec.ofNat 64 (base x), counts := cnt w2
          strides := (cnt w3).map (bitsInt 16 true) }
        P.below = true → goes (.drillStream n) { D with pat := some P })
    ∧ (∀ p, reads (3 * 2 ^ 56) [w1, 0, 0] → w1.toNat % 64 = 0 → D.pat = some p →
        let P : Pattern := { p with base := p.base + w1, pos := 0 }
        P.below = true → goes (.drillWindow n) { D with pat := some P })
    ∧ (∀ v, x < 2 ^ 32 → 0 < y → y < 2 ^ 32 → reads (4 * 2 ^ 56 + x) [word y, 0, 0] → D.loops.length < 4 →
        s.drillRead n ((D.cmd.list.toNat + D.at_ + 32 * y) % 2 ^ 64) 8 = .ok v → v / 2 ^ 56 = 5 →
        if x = 0 then gives (.drillLoop n) { D with at_ := D.at_ + 32 * y + 32 }
        else goes (.drillLoop n) { D with loops := (D.at_ + 32, x) :: D.loops })
    ∧ (∀ b c r, reads (5 * 2 ^ 56) [0, 0, 0] → D.loops = (b, c) :: r →
        if 1 < c then gives (.drillEndl n) { D with at_ := b, loops := (b, c - 1) :: r }
        else goes (.drillEndl n) { D with loops := r })
    ∧ (x < 2 ^ 16 → y < 2 ^ 32 → f = 12 ∨ f = 13 → reads (6 * 2 ^ 56 + f * 2 ^ 52 + x) [word y, 0, 0] →
        (∃ q m e, FFmt.fp32.decode y = .fin q m e ∧ m ≠ 0) →
        goes (.drillConvert n) { D with conv := some (f, BitVec.ofNat 16 x, BitVec.ofNat 32 y) })
    ∧ (reads (6 * 2 ^ 56) [0, 0, 0] → goes (.drillConvert n) { D with conv := none })
    ∧ (∀ v, x < 4 → reads (7 * 2 ^ 56 + x * 2 ^ 46) [w1, w2, 0] → base x % 8 = 0 → s.drillRead n (base x) 8 = .ok v →
        if w2.toNat ≤ v then goes (.drillWaitsig n) D
        else gives (.drillWaitsig n) { D with state := .waiting })
    ∧ (∀ pa v q, x < 4 → reads (8 * 2 ^ 56 + x * 2 ^ 46) [w1, w2, 0] → base x % 8 = 0 → s.rowsLanded n = true →
        s.drillXl n (base x) true = .ok pa → s.load pa 8 = some v → s.place pa = some q → paPkg q = s.pkg →
        s.agentFull pa = false → (∀ c ∈ s.ctxs, c.2.state ≠ .precopy) →
        ∃ t, exec (.drillSignal n) s = .next t ∧ t.drill n = { D with at_ := D.at_ + 32, seen := [] }
          ∧ Mem.num t.mem q 8 = (v + w2.toNat) % 2 ^ 64
          ∧ ∀ j, j < q ∨ q + 8 ≤ j → Mem.byte t.mem j = Mem.byte s.mem j)
    ∧ (f < 16 → x < 16 → y < 8 → 0 < z → z < 2 ^ 32 → s.targetAllowed n (128 * (n / 24) + 8 * x + y) = true →
        let m (k : MoveKind) : Moving := { kind := k, ab := f, pcn := 128 * (n / 24) + 8 * x + y, left := some z }
        (reads (10 * 2 ^ 56 + f * 2 ^ 51 + y * 2 ^ 48 + x * 2 ^ 44) [word z, 0, 0] →
          gives (.drillFill n) { D with push := some (m .fill) })
        ∧ (∀ p, reads (2 * 2 ^ 56 + f * 2 ^ 51 + y * 2 ^ 48 + x * 2 ^ 44) [word z, 0, 0] → D.pat = some p →
          (p.fmt = 0 → 512 * z ≤ 512 * p.rows - p.pos) →
          gives (.drillPush n) { D with push := some (m .push) }))
    ∧ (∀ l, s.drillOn n = true → D.state = .running → D.push = none → s.drillOp n = .ok (word (f * 2 ^ 56) :: l) →
        f = 0 ∨ 12 < f → f < 256 → ∃ t, exec (.unassignedDrillOpcode n) s = .next t ∧ (t.drill n).state = .faulted))

/-- R241, R246, R252: a row of a FILL, or of a PUSH moved unchanged, is admitted to the ring of its core under the next
index, with its slot and its data, and counted; one that its barrier does not let in makes the drill wait. A PUSH reads the
rows of its pattern one at a time first (R225, R273). R236, R237, R238, R244: a WSWRITE of a queue's drill begins when no
kernel runs on its die, takes the weight store, and writes one row of its pattern at a time and no other byte; refresh
windows open and close, one that a period's end falls into running on for its 512 ticks, and a new period takes the phases
declared for it. Where the manual leaves them open these clauses follow the model's own choice: the order of the checks
(assumptions 62, 102) and the turn that reads a row (assumption 117). -/
def Obligations.RowsAndWeightsMove : Prop :=
  (∀ (s : State) (n : Nat) (m : Moving) (p : Pattern) (src : Nat → Row),
    let D := s.drill n
    let C := s.core m.pcn
    let left := m.left.map (· - 1)
    let moved (E : Drill) (m : Moving) : Drill := 
      if left = some 0 then { E with at_ := D.at_ + 32, push := none, state := .running, seen := [] }
      else { E with push := some { m with left := left }, state := .running, seen := [] }
    D.push = some m → s.drillOn n = true → s.targetAllowed n m.pcn = true → m.mc = false → m.mrow = m.mtot →
    (m.kind = .fill → C.admits m.ab = true → m.left ≠ none → ∃ t, exec (.drillRowAdmit n) s = .next t ∧ s.SameBytes t
        ∧ t.core m.pcn = C.takeRow n m.ab 0
        ∧ t.drill n = moved { D with pushed := D.pushed + 1, pat := D.pat } m)
    ∧ (m.kind = .push → D.pat = some p → p.fmt = 0 → C.admits m.ab = true → m.left ≠ none → 512 ≤ D.leftBits →
        s.patternBits n p p.pos 512 = .ok src → ∃ t, exec (.drillRowAdmit n) s = .next t ∧ s.SameBytes t
        ∧ t.core m.pcn = C.takeRow n m.ab (src 0)
        ∧ t.drill n = moved { D with pushed := D.pushed + 1, pat := some { p with pos := p.pos + 512 } } m)
    ∧ (m.kind = .push → D.pat = some p → p.fmt = 0 → C.admits m.ab = true → 512 ≤ D.leftBits →
        let need := (List.range ((p.pos % 512 + 1023) / 512)).map (p.pos / 512 + ·)
        (∀ u, s.patternBits n p p.pos 512 = .error u → exec (.drillRowAdmit n) s = .next u)
        ∧ (p.ws = true → missing D.seen need ≠ [] → (∀ j ∈ need, (p.addr j).toNat < 2 ^ 32
            ∧ s.refreshing (n / 24) ((p.addr j).toNat / 2 ^ 27) = false) →
          ∃ j ∈ missing D.seen need, exec (.drillRowAdmit n) s = .next { s.setDrill n { D with
            seen := D.seen.set j (Mem.row (s.die (n / 24)).ws (p.addr j).toNat) } with freeCtr := s.freeCtr + 1 }))
    ∧ (m.kind ≠ .wswrite → C.admits m.ab = false →
        exec (.drillRowAdmit n) s = .next ((s.setDrill n { D with state := .waiting }).drillPast n)))
  ∧ (∀ (s : State) (n die sub x z : Nat) (w1 : Word) (m : Moving) (p : Pattern) (src : Nat → Row),
    let D := s.drill n
    let I := s.die die
    let b := (D.cmd.p.toList.getD x 0 + w1).toNat
    let per := s.chron.toNat / 16000000
    let now := per * 16000000 + s.phaseNow die sub
    let inside := (now ≤ s.chron.toNat ∧ s.chron.toNat < now + 512)
      ∨ (0 < per ∧ s.chron.toNat < (per - 1) * 16000000 + s.phaseBefore die sub + 512)
    (x < 4 → 0 < z → z < 2 ^ 32 → s.drillOn n = true → D.state = .running → D.push = none → n % 24 < 16 →
      D.kernelOwner = none → s.drillOp n = .ok [word (9 * 2 ^ 56 + x * 2 ^ 46), w1, word z, 0] → b % 64 = 0 →
      b + 64 * z ≤ 2 ^ 32 → 512 * z ≤ D.leftBits → s.wsFree (n / 24) = true →
      ∃ t, exec (.drillWswrite n) s = .next t ∧ (t.die (n / 24)).wsBusy = true ∧ s.SameBytes t
        ∧ t.drill n = { D with push := some { kind := .wswrite, left := some z, off := b } })
    ∧ (D.push = some m → m.kind = .wswrite → m.left = some (z + 1) → s.drillOn n = true → D.pat = some p →
        s.patternBits n p p.pos 512 = .ok src → ∃ t, exec (.drillWswrite n) s = .next t
          ∧ Mem.row (t.die (n / 24)).ws m.off = src 0
          ∧ (∀ a, a < m.off ∨ m.off + 64 ≤ a → Mem.byte (t.die (n / 24)).ws a = Mem.byte (s.die (n / 24)).ws a)
          ∧ t.mem = s.mem ∧ t.cores = s.cores ∧ (t.drill n).pat = some { p with pos := p.pos + 512 }
          ∧ (t.drill n).push = (if z = 0 then none else some { m with left := some z, off := m.off + 64 })
          ∧ (z = 0 → (t.die (n / 24)).wsBusy = false))
    ∧ (∀ u, D.push = some m → m.kind = .wswrite → s.drillOn n = true → D.pat = some p →
        s.patternBits n p p.pos 512 = .error u → exec (.drillWswrite n) s = .next u)
    ∧ (sub < 32 → inside → sub ∉ I.window →
        exec (.refreshWindowStart die sub) s = .next (s.setDie die { I with window := I.window ++ [sub] }))
    ∧ (¬ inside → exec (.refreshWindowEnd die sub) s =
        .next (s.setDie die { I with window := I.window.filter (fun w => w != sub) }))
    ∧ (I.period < per → exec (.refreshPeriod die) s = .next (s.setDie die { I with
        period := per, inForce := I.phase, before := if I.period + 1 = per then I.inForce else I.phase })))


/-! ### The life of a kernel -/

/-- R132, R286, R289, R291, R337: a placement pass that can place the one waiting request reserves its cores for it in one
step, with their group coordinates; in STARTING its streams stand at its entry and its records are taken; in RUNNING they
set off, on a locked tract at frame cycle 0. R105, R288: STARTING starts a stopped pace source of a TKIND 2 launch, binds the
FREE tracts of the group and leaves the others; a launch whose source or rate fails takes its lock fault, gives its cores
back, and leaves the pace source that it started running. R147: a relaunch on a group of the same shape restores each core
from its record: each stream at its DPC with its blocks and registers, each handle that was made to be translated again. R36,
R273, R337, R366, R367: an in-copy reads rows of main memory and writes the rows of its record, an out-copy reads rows of the
scratchpad and stores them, one row a step, and neither changes another byte; each is made once. Where the manual leaves
them open these clauses follow the model's own choice: the moments of placement (assumption 66), what RUNNING asks of a
tract (assumption 67), the copies of a resumed unit (assumption 69), when a copy of a record writes (assumption 117), the
header that restoring goes by (assumption 105) and the bits of a save (assumption 40). -/
def Obligations.KernelsArePlacedAndTheirRecordsMove : Prop :=
  (∀ (s : State) (k : Nat),
    let K := s.kernel k
    let u : State := { s with passDue := false }
    let alone (l : List Seat) (x : Seat) : Prop := ∀ y ∈ l, y.pcn = x.pcn → y = x
    let P := s.pace K.hdr.tsrc
    let v := (s.startPace K).getD s
    let starts : Prop := K.hdr.tkind = 2 ∧ P.on = false
    let paced : Prop := K.hdr.tkind = 2 → P.on = true → P.dnum * K.hdr.pden = K.hdr.pnum * P.dden
    let free (c : Nat) : Prop := (s.tract c).state = .free
    let bindable : Prop := K.hdr.tkind = 0 ∨ (K.hdr.sourced = true ∧ paced
      ∧ ((∀ c ∈ K.clusters, ¬ free c) ∨ (s.lockDenied K.asid K.hdr.decl = false ∧ v.lockBad K.hdr.decl = none)))
    let bad (f : QFault) : Prop := K.hdr.tkind ≠ 0 ∧ ((K.hdr.sourced = false ∧ f = .lockRatio)
      ∨ (K.hdr.sourced = true ∧ ¬ paced ∧ f = .lockRatio) ∨ (K.hdr.sourced = true ∧ paced ∧ (∃ c ∈ K.clusters, free c)
        ∧ if s.lockDenied K.asid K.hdr.decl = true then f = .ctxMigrating else v.lockBad K.hdr.decl = some f))
    let pacesAt (t : State) : Prop :=
      (starts → t.pace K.hdr.tsrc = { on := true, num := K.hdr.pnum, den := K.hdr.pden, dnum := K.hdr.pnum
                                      dden := K.hdr.pden, t0 := s.chron })
      ∧ ∀ n, (¬ starts ∨ n ≠ K.hdr.tsrc) → t.pace n = s.pace n
    let bound (t : State) : Prop := pacesAt t ∧ ∀ c ∈ K.clusters,
      if K.hdr.tkind ≠ 0 ∧ free c then (t.tract c).state = .locking ∧ (t.tract c).tctl = K.hdr.decl
        ∧ (t.tract c).asker = some (.kernel k) ∧ (t.tract c).queue = some K.queue ∧ (t.tract c).asid = K.asid
        ∧ (t.tract c).since = s.chron ∧ (t.tract c).frames = 0 ∧ (t.tract c).slipc = 0
      else t.tract c = s.tract c
    (s.passDue = true → u.nextPlacement = none → exec .placementPass s = .next u.tickOn)
    ∧ (∀ b, s.passDue = true → s.waitingKernels = [k] → u.nextPlacement = some (k, b) → K.hdr.refresh = [] →
        ∃ t, exec .placementPass s = .next t
          ∧ t.kernel k = { K with state := .placed, seats := b, released := false, since := s.chron }
          ∧ (∀ c, (∀ x ∈ b, x.pcn ≠ c) → t.core c = s.core c) ∧ s.SameBytes t
          ∧ ∀ x ∈ b, alone b x → t.core x.pcn = { s.core x.pcn with
              kernel := some k, gdie := x.die, gclu := x.clu, gcor := x.cor, stg := x.stg })
    ∧ (∀ code rows, s.mayStart k = true → s.rdStart K (s.unitIdx k) = .got (code, rows) → bindable →
        s.sameShape K = none → ∃ t, exec (.kernelStarting k) s = .next t
          ∧ t.kernel k = { K with state := .starting, code := code, saveAt := none, kept := [] } ∧ t.mem = s.mem
          ∧ bound t ∧ ∀ x ∈ K.seats, alone K.seats x → (t.core x.pcn).kernel = some k ∧ (t.core x.pcn).gdie = x.die
            ∧ (t.core x.pcn).sp = writeImages [] rows
            ∧ ∀ e : Eng, (t.stream ⟨x.pcn, e⟩).phase = (if K.hdr.streams.getLsbD e.num then .live else .off)
              ∧ (K.hdr.streams.getLsbD e.num → (t.stream ⟨x.pcn, e⟩).pc = K.hdr.entry ∧ (t.stream ⟨x.pcn, e⟩).blocks = [])
              ∧ ∀ r, (t.stream ⟨x.pcn, e⟩).rx r = 0)
    ∧ (∀ code rows f l, s.mayStart k = true → s.rdStart K (s.unitIdx k) = .got (code, rows) → bad f →
        (s.queue K.queue).launch = some l → l.port = none → (s.queue K.queue).takesFault = true →
        ∃ t, exec (.kernelStarting k) s = .next t ∧ (t.kernel k).state = .faulted ∧ (t.queue K.queue).state = .faulted
          ∧ (t.queue K.queue).fcode = some f ∧ (∀ x ∈ K.seats, (t.core x.pcn).kernel = none)
          ∧ (f ≠ .ctxMigrating → ∀ c ∈ K.clusters, (t.tract c).evt = true)
          ∧ (K.hdr.sourced = true → pacesAt t))
    ∧ (∀ code rows a, s.mayStart k = true → s.rdStart K (s.unitIdx k) = .got (code, rows) → bindable →
        s.sameShape K = some a → ∃ t, exec (.kernelStarting k) s = .next t
          ∧ t.kernel k = { K with state := .starting, code := code, saveAt := none, kept := [] } ∧ t.mem = s.mem
          ∧ bound t ∧ ∀ x ∈ K.seats, ∀ b, alone K.seats x → s.recordOf a x = some b → (t.core x.pcn).kernel = some k
            ∧ (t.core x.pcn).gdie = x.die ∧ (t.core x.pcn).gclu = x.clu ∧ (t.core x.pcn).gcor = x.cor
            ∧ (∀ j < 2 ^ 22, Mem.byte (t.core x.pcn).sp j = Mem.byte s.mem (b + 0x10000 + j))
            ∧ (∀ n < 4096, (t.core x.pcn).harrow.acc 0 n = BitVec.ofNat 32 (Mem.num s.mem (b + 0x7000 + 4 * n) 4)
              ∧ (t.core x.pcn).harrow.acc 1 n = BitVec.ofNat 32 (Mem.num s.mem (b + 0xB000 + 4 * n) 4))
            ∧ ∀ e : Eng, K.hdr.streams.getLsbD e.num = true →
              let o := b + streamBlock e
              let z := K.hdr.sizes e
              let z0 := (K.was.getD K.hdr).sizes e
              let ended := (Mem.num s.mem (o + 0x2A0) 8).testBit 19
              let m := t.stream ⟨x.pcn, e⟩
              m.phase = (if ended then .ended else .live) ∧ m.pc = Mem.num s.mem (o + 0x2A8) 8 ∧ m.npc = m.pc
                ∧ m.xk = z.xk ∧ m.blocks = blocksFrom code s.mem o m.pc ∧ m.spw = BitVec.ofNat 8 (Mem.num s.mem (o + 0x2A1) 1)
                ∧ (∀ r : BitVec 5, r.toNat < min z.xk z0.xk → r ≠ 0 → m.rx r = Mem.word s.mem (o + 8 * r.toNat))
                ∧ (e = .ap → ∀ r : BitVec 4, m.ra r = Mem.word s.mem (o + 0x100 + 8 * r.toNat)
                    ∧ m.rh r = handleFrom (Mem.word s.mem (o + 0x180 + 16 * r.toNat)))
                ∧ (e = .xp → ∀ r : BitVec 5, r.toNat < min z.vm z0.vm → m.rv r = Mem.row s.mem (o + 0x1000 + 64 * r.toNat))
                ∧ m.wait = (if e = .ap ∧ ended = false then m.retransNext 0 else .none))
    ∧ (∀ ws, K.mxop = some ws → K.state = .starting → K.resume = false → K.mxLoaded = false →
        ∃ t, exec (.mxopRecord k) s = .next t ∧ t.kernel k = { K with mxLoaded := true } ∧ s.SameBytes t
          ∧ ∀ x ∈ K.seats, ∀ j < 12, (t.core x.pcn).harrow.shadow.toList.getD j 0 =
              if j < ws.length then ws.getD j 0 &&& shadowMask j else shadowReset.toList.getD j 0)
    ∧ (K.state = .starting ∨ K.state = .running ∨ K.state = .draining → K.named < K.copies.length →
        exec (.copyRecord k K.named) s = .next (s.setKernel k { K with named := K.named + 1 }))
    ∧ (s.ready k = true → ∃ t, exec (.kernelRunning k) s = .next t ∧ s.SameBytes t
        ∧ t.kernel k = { K with state := if K.preempt then .draining else .running, since := s.chron }
        ∧ ∀ x ∈ K.seats, (∀ e : Eng, t.stream ⟨x.pcn, e⟩ =
            if K.onLocked = true ∧ (s.stream ⟨x.pcn, e⟩).phase = .live then { s.stream ⟨x.pcn, e⟩ with wait := .frame }
            else s.stream ⟨x.pcn, e⟩)
          ∧ (K.mxop.isSome → K.resume = false → (t.core x.pcn).harrow.armed = true
            ∧ (t.core x.pcn).harrow.armBy = .record K.mxrec)))
  ∧ (∀ (s : State) (k i pcn g n v : Nat) (r : CopyRec) (pas : List Nat) (pa b : Nat),
    let K := s.kernel k
    let C := s.core pcn
    let M := mainSide r.fmt
    let B := bankSide (C.bfOf r.srow)
    let ix := s.unitIdx k + r.pos
    let A := K.copyAt i pcn
    let key := 512 * i + pcn
    let src (j : Nat) : Row := A.got.getD j 0
    let sc (j e : Nat) : Option (Nat × Nat) := (A.scs.getD j [])[e]?
    let at_ (t : State) (a : CopyAt) : Prop := t.kernel k = { K with copying := K.copying.set key a }
    let wrote (t : State) (n : Nat) : Prop := if A.done + 1 = n
      then t.kernel k = { K with copied := (i, pcn) :: K.copied, copying := K.copying.erase key }
      else at_ t { A with done := A.done + 1 }
    let has (way : CopyWay) (x y : Side) : Bool := (copyNeeds way x y r.rows A.done).all (fun j => decide (j < A.got.length))
    K.copies[i]? = some r → K.groupIndex pcn = some g → i < K.named → (i, pcn) ∉ K.copied → C.oneFormat r.srow r.rows = true →
    (K.state = .starting → K.resume = false → r.out = false → (K.mxop = none ∨ K.mxLoaded = true) → copyWay M B ≠ .bad →
      srcRows (copyWay M B) M B r.rows = some n →
      let full := has (copyWay M B) M B
      let reads (t : State) : Prop := at_ t { A with got := A.got ++ [BitVec.ofNat 512 v] } ∧ t.mem = s.mem ∧ t.cores = s.cores
      let writes (t : State) : Prop := wrote t r.rows ∧ t.mem = s.mem
        ∧ (t.core pcn).row (r.srow + A.done) = copyDest (copyWay M B) M B r.rows src (fun _ _ => none) A.done
        ∧ ∀ a, a < 64 * (r.srow + A.done) ∨ 64 * (r.srow + A.done + 1) ≤ a → Mem.byte (t.core pcn).sp a = Mem.byte C.sp a
      (full = true → n ≤ A.got.length → ∃ t, exec (.inCopy k i pcn) s = .next t ∧ writes t)
      ∧ (s.feRead K.queue (.record ix) ((r.base g).toNat + 64 * A.got.length) 64 = .ok v →
          (full = false → ∃ t, exec (.inCopy k i pcn) s = .next t ∧ reads t)
          ∧ (full = true → ∃ t, exec (.inCopy k i pcn) s = .next t ∧ (writes t ∨ reads t))))
    ∧ (s.ending k = true → r.out = true → copyWay B M ≠ .bad → dstRows (copyWay B M) B M r.rows = some n →
      (∀ c ∈ s.ctxs, c.2.state ≠ .precopy) →
      let full := has (copyWay B M) B M
      let reads (t : State) : Prop := at_ t (A.read C (C.bfOf r.srow) (r.srow + A.got.length)) ∧ t.mem = s.mem
        ∧ t.cores = s.cores
      let writes (t : State) : Prop := wrote t n ∧ t.cores = s.cores
        ∧ Mem.row t.mem b = copyDest (copyWay B M) B M r.rows src sc A.done
        ∧ ∀ a, a < b ∨ b + 64 ≤ a → Mem.byte t.mem a = Mem.byte s.mem a
      let lands : Prop := s.feWritable K.queue (.record ix) [(r.base g).toNat + 64 * A.done] = .ok [pa]
        ∧ s.place pa = some b ∧ paPkg b = s.pkg
      (A.got = [] → s.feWritable K.queue (.record ix) (r.rowsAt g n) = .ok pas →
          ∃ t, exec (.outCopy k i pcn) s = .next t ∧ reads t)
      ∧ (A.got ≠ [] → full = false → ∃ t, exec (.outCopy k i pcn) s = .next t ∧ reads t)
      ∧ (A.got ≠ [] → full = true → lands → ∃ t, exec (.outCopy k i pcn) s = .next t
          ∧ (writes t ∨ (A.got.length < r.rows ∧ reads t)))))

/-- R135, R140, R144, R146, R327, R337, R338: a kernel whose streams have ended and whose work is performed retires and gives
its cores back, and its chain goes on; a stream of a draining kernel diverts to its stub and keeps what the save takes; a
drained kernel is saved at the first place that fits and gives its cores back; a LAUNCH ends with its outcome in LAST.
Where the manual leaves them open these clauses follow the model's own choice: the waits that a diversion abandons
(assumption 50), the end of a draining kernel (assumption 68), the place and bits of a save (assumption 40) and which
request decides the outcome (assumption 70). -/
def Obligations.KernelsDivertSaveAndRetire : Prop :=
  ∀ (s : State) (k pcn : Nat) (e : Eng),
    let K := s.kernel k
    let Q := s.queue K.queue
    let id : StreamId := { core := pcn, eng := e }
    let m := s.stream id
    (∀ l, s.ending k = true → K.copiesDone true = true → s.owing (.queue K.queue) = false → Q.launch = some l →
      l.kernel = some k → K.sx = none → ∃ t, exec (.kernelRetire k) s = .next t ∧ (t.kernel k).state = .retired
        ∧ (∀ x ∈ K.seats, (t.core x.pcn).kernel = none) ∧ t.passDue = true ∧ s.SameBytes t
        ∧ t.queue K.queue = { Q with oper := 0, launch := some { l with kernel := none, idx := l.idx + K.records } })
    ∧ (∀ st, s.divertsTo id = some st → ∃ t, exec (.diversion pcn e) s = .next t ∧ s.SameBytes t
        ∧ (t.stream id).pc = st.stub ∧ (t.stream id).npc = st.stub ∧ (t.stream id).blocks = [] ∧ (t.stream id).wait = .none
        ∧ (t.stream id).saved = some m.snapshot ∧ (t.stream id).dpc = m.nextAt
        ∧ ∀ j, j ≠ id → (t.stream j).x = (s.stream j).x ∧ (t.stream j).pc = (s.stream j).pc)
    ∧ (∀ a, s.drained k = true → K.saveAt = none → s.assisted 9 = false → s.savePlace k = some a →
        (∀ r ∈ s.helm.requests, r.func = 9 → r.key ≠ k) → (∀ p ∈ framesOf a 64, paPkg p = s.pkg) →
        (∀ c ∈ s.ctxs, c.2.state ≠ .precopy ∧ c.2.state ≠ .stopcopy) → ∃ t, exec (.kernelSaved k) s = .next t ∧ (t.kernel k).state = .saved
          ∧ (t.kernel k).saveAt = some (word a) ∧ (∀ x ∈ K.seats, (t.core x.pcn).kernel = none) ∧ t.passDue = true
          ∧ Mem.word t.mem a = K.kid.setWidth 64 ∧ (t.ctx K.asid).saves = (s.ctx K.asid).saves ++
            [(K.kid.toNat, word a, saveBytes K.seats.length)]
          ∧ ∀ l, Q.launch = some l → l.kernel = some k → (t.queue K.queue).launch = some (if l.pre
            then { l with kernel := none, ended := some .saved, idx := l.idx + K.records }
            else { l with kernel := none, again := true, next := if l.sx.isSome then l.next else K.krec }))
    ∧ (∀ q l o, (s.queue q).launch = some l → l.outcome = some o → s.owing (.queue q) = false → l.notify = none →
        l.port = none → exec (.launchEnd q) s = .next (s.setQueue q { s.queue q with
          launch := none, oper := 0, last := if o = .saved then 1 else 0 }))


/-! ### The queue -/

/-- R331 to R335, R338, R341, R343, R347: the packet at the head of a queue has its effect and leaves the head; a packet that
awaits earlier work, or room, leaves its queue in RUNNING or WAITING; a TYPE that no packet has faults BADTYPE. A doorbell
moves WPTR and wakes an idle queue, a WAIT is read again, and the coalescing timer sends what is due. Where the manual
leaves them open these clauses follow the model's own choice: the completion of IB (assumption 74) and the boundary at
which a port packet enters (assumption 77). -/
def Obligations.PacketsRunInOrder : Prop :=
  ∀ (s : State) (q : Nat) (p : Packet),
    let Q := s.queue q
    let head (ty n : Nat) : Prop :=
      s.feReady q = true ∧ s.fetchPacket q = .ok p ∧ p.type = ty ∧ p.flags = 0 ∧ p.past = false ∧ p.count = n
        ∧ Q.tmask ty = true ∧ Q.hand = none
    let past : Queue := ({ Q.advance p.bytes with performed := false, skip := 0 } : Queue).settle
    let becomes (i : Instr) (R : Queue) : Prop := exec i s = .next ((s.setQueue q R).fePacketPast q)
    let stays (i : Instr) (R : Queue) : Prop := exec i s = .next (s.setQueue q R)
    let faults (i : Instr) (f : QFault) (lvl off : Nat) : Prop :=
      ∃ t, exec i s = .next t ∧ (t.queue q).state = .faulted ∧ (t.queue q).fcode = some f ∧ (t.queue q).flvl = lvl
        ∧ (t.queue q).foff = off ∧ ∀ r, r ≠ q → t.queue r = s.queue r
    (∀ n, head 0 n → becomes (.nopPacket q) past)
    ∧ (s.feReady q = true → s.fetchPacket q = .ok p → p.type = 0 → p.flags = 1 → p.past = false → Q.tmask 0 = true →
        Q.hand = none → Q.notes = [] → ∃ t, exec (.nopPacket q) s = .next t ∧ (t.queue q).done = Q.done + 1
          ∧ (t.queue q).seq = Q.seq + 1 ∧ (t.queue q).notes = [] ∧ (t.queue q).chron = s.chron)
    ∧ (head 6 0 → if Q.quiet then becomes (.fence q) past else
        ∃ t, exec (.fence q) s = .next t ∧ t.queue q = { Q with state := .running, skip := p.bytes })
    ∧ (head 2 2 → p.w 1 % 4 = 0 → p.w 2 % 4 = 0 → 4 ≤ p.w 2 → Q.stack.length < 4 → p.w 1 + p.w 2 ≤ Q.capLen 1 →
        ∃ t, exec (.ib q) s = .next t ∧ (t.queue q).stack = (p.w 1, p.w 1 + p.w 2) :: (Q.stepOver p).stack
          ∧ (t.queue q).state = .fetching ∧ (t.queue q).rptr = (Q.stepOver p).rptr ∧ s.SameBytes t)
    ∧ (head 2 2 → p.w 1 % 4 = 0 → p.w 2 % 4 = 0 → 4 ≤ p.w 2 →
        (4 ≤ Q.stack.length → faults (.ib q) .ibDepth Q.stack.length Q.place)
        ∧ (Q.stack.length < 4 → Q.capLen 1 < p.w 1 + p.w 2 → faults (.ib q) .capBounds Q.stack.length Q.place))
    ∧ (∀ n, head 4 4 → p.w2 1 < 2 ^ 56 → p.w2 1 % 8 = 0 → s.feRead q .packet (p.w2 1) 8 = .ok n →
        if p.w2 3 ≤ n then becomes (.wait q) { past with wait := none, recheck := false }
        else becomes (.wait q) { Q with
          wait := some (word (p.w2 1), word (p.w2 3)), waitHa := s.assisted 2, recheck := false, state := .waiting
          skip := p.bytes })
    ∧ (∀ va v n, Q.wait = some (va, v) → Q.state = .waiting → s.ctxOpen Q.asid = true → Q.held = false → Q.fault? = none →
        (Q.waitHa = true → Q.recheck = true) → s.fetchPacket q = .ok p → p.notify = false → Q.hand = none →
        s.feRead q .packet va.toNat 8 = .ok n →
        if v.toNat ≤ n then becomes (.waitReevaluate q) { past with wait := none, recheck := false }
        else becomes (.waitReevaluate q) { Q with recheck := false })
    ∧ (head 1 2 → p.w2 1 < 2 ^ 56 → p.w2 1 % 64 = 0 → Q.launch = none → becomes (.launch q) { past with launch := some {
          head := word (p.w2 1), next := word (p.w2 1), off := Q.place, lvl := Q.stack.length } })
    ∧ (∀ l, head 1 2 → p.w2 1 < 2 ^ 56 → p.w2 1 % 64 = 0 → Q.launch = some l →
        stays (.launch q) { Q with state := .waiting, skip := p.bytes })
    ∧ (s.feReady q = true → s.fetchPacket q = .ok p → Q.hand = none → 0x0C < p.type →
        faults (.badtypePacket q) .badType Q.stack.length Q.place)
    ∧ (∀ fn w, s.rings fn q = false ∨ Q.state = .disabled → exec (.doorbell ⟨fn, q⟩ w) s = .next s)
    ∧ (∀ (fn : Nat) (w : Word), s.rings fn q = true → Q.state ≠ .disabled → w.toNat % 4 = 0 → w.toNat < Q.capLen 0 →
        stays (.doorbell ⟨fn, q⟩ w) { Q with
          wptr := bits w 31 0, recheck := true
          state := if Q.state = .idle ∧ (Q.rptr ≠ bits w 31 0 ∨ Q.hand.isSome) ∧ s.ctxOpen Q.asid = true ∧ Q.held = false
            then .fetching else Q.state })
    ∧ (∀ (fn : Nat) (w : Word), s.rings fn q = true → w.toNat % 4 ≠ 0 ∨ Q.capLen 0 ≤ w.toNat →
        (Q.state ≠ .disabled → Q.state ≠ .faulted → Q.state ≠ .resetting → faults (.doorbell ⟨fn, q⟩ w) .badPtr 0 Q.rptr)
        ∧ (Q.state = .resetting → exec (.doorbell ⟨fn, q⟩ w) s = .next s))
    ∧ (∀ d, Q.timer = some d → d.toNat ≤ s.chron.toNat → ∃ t, exec (.coalTimer q) s = .next t ∧ (t.queue q).timer = none
        ∧ (t.queue q).sent = Q.seq)
    ∧ (∀ r, head 12 1 → p.w 1 = r → r < 4096 → r ≠ q → Q.priv = true → (s.queue r).part = Q.part →
        (s.queue r).state ≠ .disabled → (s.queue r).state ≠ .resetting → ∃ t, exec (.reset q) s = .next t
          ∧ (t.queue r).state = .resetting ∧ (t.queue r).launch = none ∧ (t.queue r).wptr = (s.queue r).wptr
          ∧ (t.queue q).lock = some (64 + r, p.hdr) ∧ s.SameBytes t
          ∧ ∀ k ∈ s.kernels, k.2.queue = r → (t.kernel k.1).state = .retired)

/-- R225, R333, R334, R357: SIGNAL adds to a word and STAMP stores the chronometer, each once all earlier work has completed;
WRITE writes its payload, one row a turn, and completes with the last; no other byte changes. One that another package
takes waits for its acknowledgement. DRILL, SEXTANT and WSLOAD hand their work on, and a WSLOAD moves one row a turn
into the weight store (R92, R225, R236), which it holds from its first row to its last. Memory is that of this package, which no context copies while it runs (PRECOPY). Where the
manual leaves them open these clauses follow the model's own choice: the turns of a WRITE (assumption 76). -/
def Obligations.PacketsReachMemoryAndUnits : Prop :=
  ∀ (s : State) (q : Nat) (p : Packet), (∀ c ∈ s.ctxs, c.2.state ≠ .precopy) → s.owing (.queue q) = false →
    let Q := s.queue q
    let head (ty n : Nat) : Prop :=
      s.feReady q = true ∧ s.fetchPacket q = .ok p ∧ p.type = ty ∧ p.flags = 0 ∧ p.past = false ∧ p.count = n
        ∧ Q.tmask ty = true ∧ Q.hand = none
    let past : Queue := ({ Q.advance p.bytes with performed := false, skip := 0 } : Queue).settle
    let here (pa b : Nat) : Prop := s.place pa = some b ∧ paPkg b = s.pkg ∧ s.agentFull pa = false
    let stores (i : Instr) (b v : Nat) : Prop := ∃ t, exec i s = .next t ∧ t.queue q = past ∧ Mem.num t.mem b 8 = v
      ∧ ∀ a, a < b ∨ b + 8 ≤ a → Mem.byte t.mem a = Mem.byte s.mem a
    let writes (ws : List (Nat × Nat)) : Prop := ∀ k pa b, 0 < k → k ≤ ws.length → pa % 64 + 4 * k ≤ 64 → here pa b →
      (∀ i < k, (ws.getD i (0, 0)).1 = pa + 4 * i ∧ (ws.getD i (0, 0)).2 < 2 ^ 32) →
      (∀ w ∈ (ws.drop k).head?, rowAt w.1 ≠ rowAt pa) → ∃ t, exec (.write q) s = .next t
        ∧ t.queue q = (if k = ws.length then { past with writes := [] }
          else { Q with performed := true, writes := ws.drop k, skip := p.bytes })
        ∧ (∀ i < k, Mem.num t.mem (b + 4 * i) 4 = (ws.getD i (0, 0)).2)
        ∧ ∀ a, a < b ∨ b + 4 * k ≤ a → Mem.byte t.mem a = Mem.byte s.mem a
    (∀ pa, Q.quiet = true → Q.performed = false → Q.writes = [] → p.w2 1 < 2 ^ 56 → p.w2 1 % 8 = 0 →
      s.feXl q .packet (p.w2 1) true = .ok pa →
      (∀ b, here pa b → (head 3 4 → stores (.signal q) b ((Mem.num s.mem b 8 + p.w2 3) % 2 ^ 64))
        ∧ (head 7 2 → stores (.stamp q) b s.chron.toNat))
      ∧ (s.agentFull pa = false → (∀ b, s.place pa = some b → paPkg b ≠ s.pkg) → head 3 4 → ∃ t,
          exec (.signal q) s = .next t ∧ t.mem = s.mem ∧ t.queue q = { Q with performed := true, skip := p.bytes }
            ∧ t.remotes = s.remotes ++ [{ itag := s.nextTag, who := .queue q, kind := 3, addr := rowAt pa, queue := some q }]))
    ∧ (∀ (n : Nat) (pas : List Nat), head 5 (n + 2) → 0 < n → Q.quiet = true → Q.performed = false → p.w2 1 < 2 ^ 56 →
        p.w2 1 % 4 = 0 → s.feWritable q .packet ((List.range n).map (fun i => p.w2 1 + 4 * i)) = .ok pas →
        writes ((List.range n).map (fun i => (pas.getD i 0, p.w (3 + i)))))
    ∧ (∀ n, head 5 (n + 2) → 0 < n → Q.performed = true → p.w2 1 < 2 ^ 56 → p.w2 1 % 4 = 0 → writes Q.writes)
    ∧ (head 3 4 → Q.quiet = false → Q.performed = false → p.w2 1 < 2 ^ 56 → p.w2 1 % 8 = 0 →
        exec (.signal q) s = .next (s.setQueue q { Q with state := .running, skip := p.bytes }))
    ∧ (∀ vs, head 8 2 → p.w2 1 < 2 ^ 56 → p.w2 1 % 64 = 0 →
        s.feReads q .packet 8 ((List.range 8).map (fun i => p.w2 1 + 8 * i)) = .ok vs →
        let w (i : Nat) : Word := (vs.map word).getD i 0
        let n := 24 * (q / 1024) + (w 1).toNat
        (w 0).toNat % 32 = 0 → (w 1).toNat < 24 → w 6 = 0 → w 7 = 0 → (s.commands n).length < 4 →
        ∃ t, exec (.drill q) s = .next t ∧ s.SameBytes t
          ∧ t.drill n = { s.drill n with fifo := s.commands n ++ [{
              list := w 0, p := #v[w 2, w 3, w 4, w 5], owner := .queue q, asid := Q.asid }] }
          ∧ t.queue q = { past with drills := Q.drills ++ [{ drill := n, off := Q.place, lvl := Q.stack.length }] })
    ∧ (∀ x, head 9 3 → p.w2 1 < 2 ^ 56 → p.w2 1 % 64 = 0 → p.w 3 < 64 → Q.launch = none → s.sextant (p.w 3) = x →
        x.state = 0 → x.claim = none → x.waits = [] → ∃ t, exec (.sextant q) s = .next t ∧ s.SameBytes t
          ∧ t.sextant (p.w 3) = { x with claim := some q, rr := q }
          ∧ t.queue q = { past with launch := some { packet := some p.pay, off := Q.place, lvl := Q.stack.length } })
    ∧ (head 11 5 → p.w2 1 < 2 ^ 56 → p.w2 1 % 64 = 0 → p.w 3 < 4 → p.w 4 % 64 = 0 → p.w 5 ≠ 0 →
        p.w 4 + 64 * p.w 5 ≤ 2 ^ 32 → exec (.wsload q) s = .next ((s.setQueue q { past with wsl := Q.wsl ++ [{
          va := word (p.w2 1), die := p.w 3, off := p.w 4, rows := p.w 5, fof := Q.place, lvl := Q.stack.length }] }).fePacketPast q))
    ∧ (∀ l r v, Q.wsl = l :: r → l.notify = none → l.port = none →
        l.on = true ∨ (s.wsFree l.die = true ∧ s.ctxOpen Q.asid = true) →
        s.feRead q .wsload (l.va.toNat + 64 * l.done) 64 = .ok v →
        let a := l.off + 64 * l.done
        ∃ t, exec (.wsloadComplete q) s = .next t ∧ t.mem = s.mem
          ∧ t.queue q = { Q with wsl := if l.rows ≤ l.done + 1 then r else { l with on := true, done := l.done + 1 } :: r }
          ∧ (t.die l.die).wsBusy = decide (l.done + 1 < l.rows)
          ∧ Mem.num (t.die l.die).ws a 64 = v % 2 ^ 512
          ∧ ∀ b, b < a ∨ a + 64 ≤ b → Mem.byte (t.die l.die).ws b = Mem.byte (s.die l.die).ws b)
    ∧ (∀ l r, Q.wsl = l :: r → l.on = false → s.wsFree l.die = false ∨ s.ctxOpen Q.asid = false →
        exec (.wsloadComplete q) s = .next s)


/-! ### TRACT packets, records and Sextants -/

/-- R103, R105, R108, R109, R113, R125, R339, R340: each TRACT packet that its checks let through binds, re-locks, unbinds
or configures its tract, stile, pace, port or link, and a lock request that fails one of R105 is the queue's fault.
Where the manual leaves them open these clauses follow the model's own choice: the fault of a packet that no row of
R340 takes (assumptions 43, 44). -/
def Obligations.TractPacketsBindAndConfigure : Prop :=
  ∀ (s : State) (q : Nat) (p : Packet),
    let Q := s.queue q
    let is (op words : Nat) : Prop :=
      s.feReady q = true ∧ s.fetchPacket q = .ok p ∧ p.type = 10 ∧ p.flags = 0 ∧ p.past = false ∧ p.count = 1 + words
        ∧ Q.tmask 10 = true ∧ Q.hand = none ∧ p.w 1 % 16 = op
    let past : Queue := ({ Q.advance p.bytes with performed := false, skip := 0 } : Queue).settle
    let pcl := p.w 1 / 2 ^ 8 % 64
    let T := s.tract pcl
    let w : Word := word (p.w2 2) &&& ~~~0x20#64
    let c : BitVec 32 := BitVec.ofNat 32 (p.w 2)
    let unit := p.w 1 / 2 ^ 16
    let goes (i : Instr) (done : State → Prop) : Prop :=
      ∃ t, exec i s = .next t ∧ t.queue q = past ∧ s.SameBytes t ∧ done t
    (is 0 2 → s.tractTaken pcl Q.asid = false → T.state = .free → s.lockDenied Q.asid w = false →
      (s.requestBad pcl w = none → ∃ t, exec (.tractBind q) s = .next t ∧ (t.tract pcl).state = .locking
        ∧ (t.tract pcl).tctl = w ∧ (t.tract pcl).asid = Q.asid ∧ (t.tract pcl).queue = some q ∧ (t.tract pcl).slipc = 0 ∧ (t.tract pcl).frames = 0 ∧ (t.tract pcl).since = s.chron
        ∧ (t.queue q).lock = some (pcl, p.hdr) ∧ s.SameBytes t)
      ∧ ∀ f, s.requestBad pcl w = some f → ∃ t, exec (.tractBind q) s = .next t ∧ (t.queue q).state = .faulted
          ∧ (t.queue q).fcode = some f ∧ (t.tract pcl).state = .free)
    ∧ (is 1 2 → s.tractTaken pcl Q.asid = false → T.state ≠ .free → T.asker = none → s.lockDenied Q.asid w = false →
        s.requestBad pcl w = none → ∃ t, exec (.tractRelock q) s = .next t
          ∧ (t.queue q).lock = some (pcl, p.hdr) ∧ s.SameBytes t
          ∧ if T.ticking = true ∧ T.edge ≠ .framed
            then t.tract pcl = { T with asker := some (.packet q), relock := some w }
            else (t.tract pcl).state = .locking ∧ (t.tract pcl).tctl = w ∧ (t.tract pcl).queue = T.queue
              ∧ (T.old = none ∨ T.state ≠ .locking →
                (t.tract pcl).old = some { tctl := T.tctl, state := T.state, rate := T.rate }))
    ∧ (∀ o, is 1 2 → s.tractTaken pcl Q.asid = false → T.state ≠ .free → T.asker = some (.packet o) → o ≠ q →
        (s.queue o).hand = none → (s.queue o).takesFault = true → s.lockDenied Q.asid w = false →
        s.requestBad pcl w = none → ∃ t, exec (.tractRelock q) s = .next t ∧ (t.queue q).lock = some (pcl, p.hdr)
          ∧ (t.tract pcl).asker = some (.packet q) ∧ (t.queue o).state = .faulted ∧ (t.queue o).fcode = some .lockTimeout)
    ∧ (is 2 0 → s.tractTaken pcl Q.asid = false → s.placedIn pcl = [] → T.asker = none → goes (.tractUnbind q) (fun t =>
        (t.tract pcl).state = .free ∧ (t.tract pcl).tctl = 0 ∧ (t.tract pcl).queue = none))
    ∧ (is 3 1 → s.tractTaken pcl Q.asid = false → goes (.tractSink q) (fun t =>
        t.tract pcl = { T with tsnk := c &&& 0x00000F1F }))
    ∧ (is 4 1 →
        let n := unit % 4 * 32 + p.w 1 / 2 ^ 18 % 32
        let d := c &&& 0xEFFFFFFF
        let X : Stile := { cfg := d }
        s.stileTaken n d Q.asid = false → (X.mode = 0 ∨ (X.mode = 3 → X.out = false) ∧ X.sclu ≠ X.dclu) →
        goes (.tractStile q) (fun t => (t.stile n).cfg = d ∧ (t.stile n).asid = Q.asid ∧ (t.stile n).box = []
          ∧ (t.stile n).puts = [] ∧ (t.stile n).hist = []
          ∧ (X.mode = 0 → (t.stile n).state = 0) ∧ (X.mode ≠ 0 → (t.stile n).dropc = 0 ∧ (t.stile n).rptc = 0)))
    ∧ (is 5 4 → p.w2 2 < 2 ^ 63 → p.w2 4 < 2 ^ 63 → p.w2 4 ≠ 0 → goes (.tractPace q) (fun t =>
        t.pace (unit % 16) = if p.w2 2 = 0 then { s.pace (unit % 16) with on := false, num := 0, dnum := 0 }
          else { on := true, num := p.w2 2, den := p.w2 4, dnum := p.w2 2, dden := p.w2 4, t0 := s.chron }))
    ∧ (is 6 1 → Q.priv = true → c &&& 0x7FFFFFC0 = 0 → goes (.tractPort q) (fun t =>
        if p.w 1 / 2 ^ 8 % 2 = 0 then t.spcfg.get 0 (unit % 32) = c
        else t.sink (unit % 32) = { s.sink (unit % 32) with cfg := c }))
    ∧ (is 7 1 → Q.priv = true → c &&& 0x7FFFE0C0 = 0 → unit % 16 < 12 → goes (.tractLinkcfg q) (fun t =>
        t.link (unit % 16) = { s.link (unit % 16) with cfg := c }))

/-- R287, R336, R337, R358 to R364: a unit that reads well becomes a LOADED kernel before the placer, and one that does not is
its LAUNCH's fault; an accepted SEXTANT unit begins its command; a Sextant goes from its factor kernel to its correction
kernel, counts the pass, and the tests, made in order on exact values, end the command, escalate it, trap, or correct once
more; the norm is the latest report or else the norm word. RESULT is written when it ends, and the unit ends once that
write is performed (R357). Where the manual leaves them open these clauses follow the model's own choice:
the faults of a bad unit and the norm that a test keeps (assumptions 69, 90). -/
def Obligations.UnitsAndSextantsProceed : Prop :=
  ∀ (s : State) (q pcl : Nat) (l : Launch) (w : List Word) (u : UnitIn) (K : Kernel) (v : State) (x : Sextant)
    (norm : Nat),
    let Q := s.queue q
    let X := s.sextant pcl
    let ix (n : Nat) : Nat := l.idx + n
    let becomes (i : Instr) (Y : Sextant) : Prop := ∃ t, exec i s = .next t ∧ (t.sextant pcl = Y
      ∨ t.sextant pcl = { Y with
          claim := if Y.claim = some X.queue then none else Y.claim, waits := Y.waits.filter (fun r => r != X.queue) })
    let ends (i : Instr) (l : Launch) (Y : Sextant) : Prop := ∀ pa b,
      s.feXl X.queue (.record l.idx) (X.block.toNat + 56) true = .ok pa → s.place pa = some b → paPkg b = s.pkg →
      X.fin = false → s.agentFull pa = false → s.owing (.queue X.queue) = false → (∀ c ∈ s.ctxs, c.2.state ≠ .precopy) → ∃ t, exec i s = .next t ∧ t.sextant pcl = { Y with state := 0 }
        ∧ Mem.num t.mem b 8 = Y.r.toNat * 2 ^ 32 + Y.pass % 2 ^ 16 * 2 ^ 16 + Y.step % 4 * 2 ^ 10 + Y.exit.toNat * 2 ^ 4 + 1
        ∧ (t.queue X.queue).launch = some { l with sx := none, kernel := none, idx := l.idx + 1 }
    (s.unitDue q = some l → l.sx = none → l.packet = none → s.rdRecord q l.idx l.next.toNat = .got w → recKind w = 1 →
      s.rdUnit q ix l.next.toNat = .got u →
      (s.rdKernel q ix u l.again = .got K → s.assisted 3 = false → K.sx = none → ∃ t, exec (.kernelRecord q) s = .next t
        ∧ t.kernel s.nextKernel = { K with order := s.nextKernel, granted := true } ∧ t.nextKernel = s.nextKernel + 1
        ∧ t.queue q = { Q with
          oper := K.krec, launch := some { l with kernel := some s.nextKernel, again := false, next := word u.next } }
        ∧ t.passDue = true ∧ s.SameBytes t)
      ∧ ∀ f n, s.rdKernel q ix u l.again = .bad f n → Q.state ≠ .faulted → l.port = none →
        ∃ t, exec (.kernelRecord q) s = .next t ∧ (t.queue q).state = .faulted ∧ (t.queue q).fcode = some f
          ∧ (t.queue q).flvl = 5 ∧ (t.queue q).foff = n ∧ (t.queue q).last = 2)
    ∧ (s.unitDue q = some l → l.sx = none → l.again = false → s.rdSextantRecord q l = .got w → recKind w = 4 →
        sextantRecOk w = true → (w.getD 1 0).toNat < 2 ^ 56 → (w.getD 1 0).toNat % 64 = 0 → (w.getD 2 0).toNat = pcl →
        (∀ v', s.claimSextant pcl q = (some v, v') → v.rdBlock q pcl l.idx (w.getD 1 0).toNat = .got x →
          ∃ t, exec (.sextantRecord q) s = .next t ∧ (t.sextant pcl).state = 1 ∧ (t.sextant pcl).pass = 0
            ∧ (t.sextant pcl).block = w.getD 1 0 ∧ (t.sextant pcl).words = x.words ∧ (t.sextant pcl).r = 0
            ∧ (t.sextant pcl).p = 0 ∧ (t.sextant pcl).exit = 0)
        ∧ (s.claimSextant pcl q = (none, v) → Q.state = .idle ∨ Q.state = .fetching →
            ∃ t, exec (.sextantRecord q) s = .next t ∧ (t.queue q).state = .waiting ∧ (t.sextant pcl).state = X.state))
    ∧ (s.sxRetired pcl 1 = some l → becomes (.sxFactorRetire pcl) { X with state := 2, repd := false })
    ∧ (s.sxRetired pcl 2 = some l → becomes (.sxCorrectRetire pcl) { X with state := 3, pass := X.pass + 1 })
    ∧ (s.sxRetired pcl 4 = some l → ends (.sxTrapRetire pcl) l X)
    ∧ (X.state ≠ 0 → s.sxLost pcl = true → becomes (.sxKernelFault pcl) { X with state := 0, exit := 5 })
    ∧ (X.fin = true → s.sxUnit pcl = some l → X.state = 3 → if s.owing (.queue X.queue) = true
        then exec (.sxTest pcl) s = .next (s.setSextant pcl X)
        else ∃ t, exec (.sxTest pcl) s = .next t ∧ t.sextant pcl = { X with state := 0, fin := false } ∧ s.SameBytes t
          ∧ (t.queue X.queue).launch = some { l with sx := none, kernel := none, idx := l.idx + 1 })
    ∧ (s.sxUnit pcl = some l → s.sextant pcl = x → x.state = 3 → x.fin = false →
        x.repd = true ∨ s.feRead x.queue (.record l.idx) (x.w 2).toNat 8 = .ok norm →
        let X : Sextant := if x.repd then x else { x with rep := BitVec.ofNat 32 norm, repd := true }
        let r := fp32Mag X.rep
        let P := fp32Mag X.p
        let n := if X.prev = true ∧ fp32Mag X.rstag * P < r * 2 ^ 150 then X.scnt + 1 else 0
        let Y (scnt : Nat) : Sextant := { X with r := X.rep, scnt := scnt }
        let outcome (exit : BitVec 4) (act scnt : Nat) : Prop :=
          if act = 1 ∧ X.step < X.nstep then becomes (.sxTest pcl) { Y 0 with
            state := 1, step := X.step + 1, prev := false
            fmt := BitVec.ofNat 4 (bits (X.w 5) (4 * (X.step + 1) + 3) (4 * (X.step + 1))) }
          else if act ≠ 0 ∧ X.w 6 ≠ 0 then becomes (.sxTest pcl) { Y scnt with state := 4, exit := exit }
          else ends (.sxTest pcl) l { Y scnt with exit := exit }
        if fp32Wild X.rep then outcome 3 (bits (X.w 5) 23 22) X.scnt
        else if r ≤ fp32Mag X.tol then ends (.sxTest pcl) l { Y X.scnt with exit := 1 }
        else if X.prev = true ∧ fp32Mag X.rdiv * P < r * 2 ^ 150 then outcome 3 (bits (X.w 5) 23 22) X.scnt
        else if X.sstag ≠ 0 ∧ X.sstag ≤ n then outcome 2 (bits (X.w 5) 21 20) n
        else if X.limit ≤ X.pass then outcome 4 (bits (X.w 5) 25 24) n
        else becomes (.sxTest pcl) { Y n with state := 2, p := X.rep, prev := true, repd := false })


/-! ### Commands of queues and contexts -/

/-- R328, R329, R343, R344: each command of QCTL that its queue's state lets through moves it as the state table says and
reads DONE, or BUSY while it goes on, and one that it does not is REFUSED with its cause and changes nothing else; a reset
ends, with the queue IDLE and empty, when its last agent has acknowledged. Where the manual leaves them open these
clauses follow the model's own choice: the numbering of the agents of a reset (assumption 73), the writes while BUSY
(assumption 71), the packet that CLEAR passes over (assumption 72), the outcome after PREEMPT (assumption 70) and the
LAUNCH that RESTORE builds (assumption 78). -/
def Obligations.QueueCommandsMoveTheirQueues : Prop :=
  ∀ (s : State) (w : Word) (op q : Nat),
    let Q := s.queue q
    let cmd (n : Nat) : Prop := op = n ∧ bits s.qctl 62 61 ≠ 1 ∧ bits w 55 52 = op ∧ bit w 63 = true ∧ bits w 43 32 = q
    let reads (t : State) (st cause : Nat) : Prop := bits t.qctl 62 61 = st ∧ bits t.qctl 7 0 = cause ∧ bits t.qctl 43 32 = q
      ∧ bits t.qctl 55 52 = op ∧ bit t.qctl 63 = decide (st = 1)
    let refused (i : Instr) (cause : Nat) : Prop := ∃ t, exec i s = .next t ∧ reads t 3 cause ∧ t = { s with qctl := t.qctl }
    (cmd 0 →
      (Q.state ≠ .disabled → refused (.qctlEnable w) 2)
      ∧ (Q.state = .disabled → Q.capsOk = false → refused (.qctlEnable w) 3)
      ∧ (Q.state = .disabled → Q.capsOk = true → s.ctxFits q = false → refused (.qctlEnable w) 4)
      ∧ (Q.state = .disabled → Q.capsOk = true → s.ctxFits q = true → ∃ t, exec (.qctlEnable w) s = .next t ∧ reads t 2 0
          ∧ (t.queue q).eprio = Q.prio ∧ (Q.rptr = Q.wptr → Q.hand = none → (t.queue q).state = .idle)
          ∧ (Q.rptr ≠ Q.wptr → s.ctxOpen Q.asid = true → Q.held = false → (t.queue q).state = .fetching)))
    ∧ (cmd 1 →
        (Q.state ≠ .idle → refused (.qctlDisable w) 2)
        ∧ (Q.state = .idle → Q.quiet = false ∨ s.hasSaved q = true → refused (.qctlDisable w) 5)
        ∧ (Q.state = .idle → Q.quiet = true → s.hasSaved q = false → ∃ t, exec (.qctlDisable w) s = .next t ∧ reads t 2 0
            ∧ t.queue q = { Q with state := .disabled }))
    ∧ (cmd 2 →
        (Q.state ≠ .faulted → refused (.qctlClear w) 2)
        ∧ (Q.state = .faulted → ∃ t, exec (.qctlClear w) s = .next t ∧ reads t 2 0 ∧ t.queue q = Q.cleared
            ∧ (t.queue q).fcode = none ∧ ∀ k, (s.kernel k).queue = q → (s.kernel k).state = .faulted →
              (t.kernel k).state = .retired))
    ∧ (cmd 3 →
        (Q.state = .disabled → ∃ t, exec (.qctlReset w) s = .next t ∧ reads t 2 0 ∧ t.queue q = Q)
        ∧ (Q.state ≠ .disabled → Q.state ≠ .resetting → ∃ t, exec (.qctlReset w) s = .next t ∧ reads t 1 0
            ∧ (t.queue q).state = .resetting ∧ (t.queue q).launch = none ∧ (t.queue q).acks = none ∧ s.SameBytes t
            ∧ ∀ k ∈ s.kernels, k.2.queue = q → (t.kernel k.1).state = .retired))
    ∧ (cmd 4 →
        (Q.launch = none → ∃ t, exec (.qctlPreempt w) s = .next t ∧ reads t 2 0 ∧ t = { s with qctl := t.qctl })
        ∧ (∀ l, Q.launch = some l → l.sx ≠ none ∨ (l.packet ≠ none ∧ l.idx = 0) ∨ (∃ x ∈ s.sextants, x.2.claim = some q) →
            refused (.qctlPreempt w) 2)
        ∧ (∀ l k, Q.launch = some l → l.sx = none → l.packet = none → (∀ x ∈ s.sextants, x.2.claim ≠ some q) →
            l.kernel = some k → s.preemptOver k = true → ∃ t, exec (.qctlPreempt w) s = .next t ∧ reads t 2 0
              ∧ t = { s with qctl := t.qctl })
        ∧ (∀ l k, Q.launch = some l → l.sx = none → l.packet = none → (∀ x ∈ s.sextants, x.2.claim ≠ some q) →
            l.kernel = some k → (s.kernel k).state = .running →
            ∃ t, exec (.qctlPreempt w) s = .next t ∧ reads t 1 0 ∧ t.qctlK = some k
              ∧ t.kernel k = { s.kernel k with preempt := true, state := .draining }
              ∧ (t.queue q).launch = some { l with pre := l.pre || !(s.kernel k).preempt } ∧ s.SameBytes t))
    ∧ (cmd 5 →
        let g (n : Nat) : Word := s.qimg.toList.getD n 0
        (Q.state ≠ .disabled → refused (.qctlRestore w) 2)
        ∧ (Q.state = .disabled → bits (g 1) 2 0 = 0 ∨ 4 < bits (g 1) 2 0 → refused (.qctlRestore w) 2)
        ∧ (Q.state = .disabled → 1 ≤ bits (g 1) 2 0 → bits (g 1) 2 0 ≤ 4 → ∃ t, exec (.qctlRestore w) s = .next t
            ∧ reads t 2 0 ∧ (t.queue q).state = qstateOf (bits (g 1) 2 0) ∧ (t.queue q).rptr = bits (g 0) 63 32
            ∧ (t.queue q).wptr = bits (g 0) 31 0 ∧ (t.queue q).oper = g 2 ∧ (t.queue q).held = true))
    ∧ (∀ l a, Q.acks = some l → Q.lock = none → a ∈ l → a < 1280 ∨ s.linkQuiet q (a - 1280) = true →
        ∃ t, exec (.resetAck q a) s = .next t ∧ if l.erase a = []
          then (t.queue q).state = .idle ∧ (t.queue q).rptr = Q.wptr ∧ (t.queue q).stack = [] ∧ (t.queue q).acks = none
          else (t.queue q).acks = some (l.erase a))
    ∧ (∀ l, Q.acks = some l → Q.lock = none → Config.ackTicks ≤ (s.chron - Q.ackAt).toNat → (∀ a ∈ l, a < 1280) →
        ∃ t, exec (.resetAckTimeout q) s = .next t ∧ (t.queue q).state = .idle ∧ (t.queue q).rptr = Q.wptr
          ∧ (t.queue q).stack = [] ∧ (t.queue q).acks = none)
    ∧ (s.lineFrozen q = [] → ∀ i < 8,
        (Q.state ≠ .disabled → exec (.queueLineWrite q i w) s = .next s)
        ∧ (Q.state = .disabled → ∃ t, exec (.queueLineWrite q i w) s = .next t
            ∧ (t.queue q).line.toList.getD i 0 = lineMask i w ∧ (∀ j, j ≠ i →
              (t.queue q).line.toList.getD j 0 = Q.line.toList.getD j 0) ∧ ∀ r, r ≠ q → t.queue r = s.queue r))

/-- R319 to R327: each command of CXCMD that its context's state lets through takes it to its next state, or leaves ST BUSY
until what it waits for is over, a suspension, a whole-context shootdown or a backlog; one that it does not
is REFUSED with its cause and changes nothing else; STOPCOPY holds other parties' accesses, and COMMIT lets them go. A
command whose record, list or save area a STOPCOPY holds stays BUSY and waits for it (R325).
Where the manual leaves them open these clauses follow the model's own choice: ABORT while BUSY (assumption 79) and
the checks of a record and of an area of saves (assumption 80). -/
def Obligations.ContextCommandsMoveTheirContexts : Prop :=
  ∀ (s : State) (w : Word) (op asid : Nat),
    let C := s.ctx asid
    let cmd (n : Nat) : Prop := op = n ∧ bits s.cxcmd 62 61 ≠ 1 ∧ bits w 55 52 = op ∧ bit w 63 = true ∧ bits w 31 16 = asid
      ∧ s.cxHeld op asid = false
    let reads (t : State) (st cause : Nat) : Prop := bits t.cxcmd 62 61 = st ∧ bits t.cxcmd 15 8 = cause
      ∧ bits t.cxcmd 31 16 = asid ∧ bits t.cxcmd 55 52 = op ∧ bit t.cxcmd 63 = decide (st = 1)
    let refused (i : Instr) (cause : Nat) : Prop := ∃ t, exec i s = .next t ∧ reads t 3 cause ∧ t = { s with cxcmd := t.cxcmd }
    let done (i : Instr) (st : CState) : Prop := ∃ t, exec i s = .next t ∧ reads t 2 0 ∧ (t.ctx asid).state = st
      ∧ (t.ctx asid).pending = false ∧ (s.recs = [] → (∀ x ∈ [48, 56], s.holder (s.recordAt asid + x) = none) →
        ∀ a, a ≠ asid → t.ctx a = s.ctx a)
    let asked (i : Instr) (stop : Bool) : Prop := ∃ t, exec i s = .next t ∧ reads t 1 0 ∧ (t.ctx asid).pending = true
      ∧ (t.ctx asid).stopAfter = stop ∧ s.SameBytes t ∧ ∀ k, (s.kernel k).asid = asid → (s.kernel k).state = .running →
        (t.kernel k).state = .draining ∧ (t.kernel k).preempt = true
    let S := s.snapshotOf asid C
    let frees (i : Instr) : Prop := ∃ t, exec i s = .next t ∧ reads t 1 0 ∧ t.ctx asid = { C with freeing := true }
      ∧ t.shoots = s.shoots ++ [{ asid := asid, lo := 0, hi := 2 ^ 56 }] ∧ ∀ a, a ≠ asid → t.ctx a = s.ctx a
    (∀ x ∈ [(0, Instr.ctxEnable w), (1, .ctxSuspend w), (2, .ctxResume w), (3, .ctxPrecopy w), (4, .ctxStopcopy w),
        (5, .ctxCommit w), (9, .ctxImport w)], op = x.1 → bits s.cxcmd 62 61 ≠ 1 → bits w 55 52 = op → bit w 63 = true →
        bits w 31 16 = asid → s.cxHeld op asid = true → ∃ t, exec x.2 s = .next t ∧ reads t 1 0 ∧ t.cxWait = true
          ∧ t = { s with cxcmd := t.cxcmd, cxWait := true })
    ∧ (cmd 0 → (C.state ≠ .free → refused (.ctxEnable w) 2) ∧ (C.state = .free → s.recordOk asid = false → refused (.ctxEnable w) 4)
      ∧ (C.state = .free → s.recordOk asid = true → done (.ctxEnable w) .live))
    ∧ (cmd 1 → (C.state ≠ .live → refused (.ctxSuspend w) 2) ∧ (C.state = .live → s.spaceOk asid S = false → refused (.ctxSuspend w) 7)
      ∧ (C.state = .live → s.spaceOk asid S = true → asked (.ctxSuspend w) false))
    ∧ (cmd 2 → (C.state ≠ .suspended → refused (.ctxResume w) 2)
      ∧ (C.state = .suspended → C.pending = false → done (.ctxResume w) .live))
    ∧ (cmd 3 → (C.state ≠ .live → refused (.ctxPrecopy w) 2) ∧ (C.state = .live → s.mayMove asid = false → refused (.ctxPrecopy w) 3)
      ∧ (C.state = .live → C.pending = false → s.mayMove asid = true → done (.ctxPrecopy w) .precopy))
    ∧ (cmd 4 →
        (C.state ≠ .precopy ∧ C.state ≠ .suspended ∨ s.sextantBusy asid = true → refused (.ctxStopcopy w) 2)
        ∧ (C.state = .precopy ∨ C.state = .suspended → s.sextantBusy asid = false →
          (s.mayMove asid = false → refused (.ctxStopcopy w) 3)
          ∧ (s.mayMove asid = true → s.spaceOk asid S = false → refused (.ctxStopcopy w) 7)
          ∧ (s.mayMove asid = true → s.spaceOk asid S = true → asked (.ctxStopcopy w) true)))
    ∧ (cmd 5 → (C.state ≠ .stopcopy → refused (.ctxCommit w) 2)
        ∧ (C.state = .stopcopy → C.held = [] → ∃ t, exec (.ctxCommit w) s = .next t ∧ reads t 1 0
            ∧ (t.ctx asid).commit = true ∧ (t.ctx asid).dst = bits w 50 32 ∧ (t.ctx asid).state = .stopcopy))
    ∧ (cmd 6 → C.pending = false →
        (C.state = .precopy → done (.ctxAbort w) .live)
        ∧ (C.state = .stopcopy → C.commit = true → refused (.ctxAbort w) 6)
        ∧ (C.state = .stopcopy → C.commit = false → C.held = [] → done (.ctxAbort w) .suspended)
        ∧ (C.state = .free ∨ C.state = .live ∨ C.state = .suspended ∨ C.state = .faulted → refused (.ctxAbort w) 2))
    ∧ (op = 6 → bits s.cxcmd 62 61 = 1 → bits s.cxcmd 31 16 = asid → bits w 55 52 = 6 → bit w 63 = true →
        bits w 31 16 = asid → C.pending = true → done (.ctxAbort w) .live)
    ∧ (cmd 7 → (C.state = .free ∨ C.state = .precopy ∨ C.state = .faulted → refused (.ctxDisable w) 2)
        ∧ (C.state = .live ∨ C.state = .suspended → s.ctxEmpty asid = false → refused (.ctxDisable w) 5)
        ∧ (C.state = .live ∨ C.state = .suspended → s.ctxEmpty asid = true → frees (.ctxDisable w))
        ∧ (C.state = .stopcopy → C.commit = true → frees (.ctxDisable w)))
    ∧ (cmd 8 → (C.state ≠ .faulted → refused (.ctxClear w) 2) ∧ (C.state = .faulted → frees (.ctxClear w)))
    ∧ (cmd 9 → (C.state ≠ .free → refused (.ctxImport w) 2) ∧ (C.state = .free → s.recordOk asid = false → refused (.ctxImport w) 4)
        ∧ (C.state = .free → s.recordOk asid = true → done (.ctxImport w) .suspended))
    ∧ (∀ acc h, C.state = .stopcopy → frameHit acc.addr C.frames = some h →
        (C.commit = false → s.holds (memLink acc.addr) < Config.holdSlots →
          exec (.heldAccess asid acc) s = .next (s.setCtx asid { C with
            held := C.held ++ [{ agent := memLink acc.addr, acc := acc }] }))
        ∧ (C.commit = true → exec (.heldAccess asid acc) s = .next (s.performAccess none { acc := acc })))
    ∧ (op = bits s.cxcmd 55 52 → asid = bits s.cxcmd 31 16 → bits s.cxcmd 62 61 = 1 → s.cxWait = false →
        let t := s.settleContexts
        (C.pending = true → s.stillOf asid = true →
          reads t 2 0 ∧ (t.ctx asid).state = if C.stopAfter then .stopcopy else .suspended)
        ∧ (C.pending = false → C.freeing = true → s.shooting asid = false → reads t 2 0 ∧ (t.ctx asid).state = .free)
        ∧ (C.pending = false → C.freeing = false → C.commit = true → s.backlog asid = false → reads t 2 0))
    ∧ (∀ code info, C.state ≠ .free → C.state ≠ .faulted → ∃ t, exec (.contextFault asid code info) s = .next t
        ∧ (t.ctx asid).state = .faulted ∧ (t.ctx asid).fcode = code ∧ (t.ctx asid).finfo = info
        ∧ ∀ q ∈ s.queuesOf asid, (t.queue q).state = .faulted)


/-! ### Links, hosts, service cores and the helm -/

/-- R101, R102, R351 to R357: a flit with a good CRC and the next SEQ is taken and acknowledged, one that has been taken is
acknowledged again, a bad one is counted; a write or signal of another package is performed at its home and acknowledged, a
read and an atomic are answered; an answer reaches the access that waits for it. Unacknowledged flits are sent
again and leave when they are acknowledged; a sample keeps the stamp of its entry; a link trains, aligns, goes on with eight
lanes, and faults, by its state table; an exchange, due in ALIGN and every 1,000,000 ticks, measures its offset. An access
that the home has taken is not taken again, and elided sectors are zero again. Where the manual leaves them open these clauses
follow the model's own choice: the bytes of a partial write and the flits of an exchange (assumption 25), the tags and lanes
(assumption 82), commands without effect (assumption 83) and the correction left over (assumption 84). -/
def Obligations.LinksCarryAndRecover : Prop :=
  ∀ (s : State) (l : Nat) (f : BitVec 256) (data : Row) (w : Word),
    let L := s.link l
    let P := L.inPeriod s.chron
    let up (M : Link) : Prop := M.state = .up ∨ M.state = .degraded
    let becomes (i : Instr) (M : Link) : Prop := exec i s = .next (s.setLink l M)
    let lands (i : Instr) (M : Link) : Prop := ∃ t, exec i s = .next t ∧ t.link l = M ∧ t = { s with links := t.links }
      ∧ ∀ k, k ≠ l → t.link k = s.link k
    let state (i : Instr) (st : LState) : Prop := ∃ t, exec i s = .next t ∧ (t.link l).state = st
    let cmd (act : Nat) : Prop := bits s.helm.mbcmd 62 61 ≠ 1 ∧ bit w 63 = true ∧ bits w 55 48 = 7 ∧ bits w 31 0 = act
      ∧ bits w 47 32 = l
    let taken : Link := { P with expect := P.expect + 1, acks := flitSeq f :: P.acks }
    let answers (t : State) (n : Nat) (kind : Nat) (row : Row) : Prop := ∀ k,
      s.route (flitSrc f) (paOdd (flitAddr f)) false = .via k →
      (withSeq (markFlit (answerFlit s.pkg f kind) row) ((s.link k).sent + BitVec.ofNat 16 n), row, 0) ∈ (t.link k).unacked
    let data' := unelide f data
    (up P ∨ P.state = .align →
      (∀ ok, ok = false ∨ 8 ≤ flitKind f → becomes (.flitReceive l f data ok) { P with crcs := P.crcs + 1 })
      ∧ (flitKind f < 8 → flitSeq f ≠ P.expect →
          ((P.expect - flitSeq f).toNat < 2 ^ 15 →
            becomes (.flitReceive l f data true) { P with acks := flitSeq f :: P.acks })
          ∧ (2 ^ 15 ≤ (P.expect - flitSeq f).toNat → becomes (.flitReceive l f data true) P))
      ∧ (flitKind f = 5 → flitSeq f = P.expect →
          lands (.flitReceive l f data true) { taken with inbox := P.inbox ++ [(s.chron, flitPay f)] })
      ∧ (flitKind f = 6 → flitSeq f = P.expect → lands (.flitReceive l f data true) taken)
      ∧ (flitKind f < 4 → flitSeq f = P.expect → flitDst f = s.pkg → withSeq f 0 ∈ s.heard →
          lands (.flitReceive l f data true) taken)
      ∧ (∀ b, flitSeq f = P.expect → flitDst f = s.pkg → flitSrc f ≠ s.pkg → withSeq f 0 ∉ s.heard → s.agentFull (flitAddr f) = false →
          s.holder (flitAddr f) = none → s.place (flitAddr f) = some b → paPkg b = s.pkg →
          (∀ c ∈ s.ctxs, c.2.state ≠ .precopy) →
          (flitKind f = 0 → b % 64 = 0 → ∃ t, exec (.flitReceive l f data true) s = .next t ∧ t.mem = s.mem
            ∧ (t.link l).expect = P.expect + 1 ∧ answers t 0 4 (Mem.row s.mem b) ∧ answers t 1 7 0)
          ∧ (flitKind f = 1 → flitAddr f % 64 = 0 → b % 64 = 0 → ∃ t, exec (.flitReceive l f data true) s = .next t
            ∧ Mem.row t.mem b = maskedRow (flitPay f) (Mem.row s.mem b) data' ∧ (t.link l).expect = P.expect + 1 ∧ answers t 0 7 0
            ∧ ∀ a, a < b ∨ b + 64 ≤ a → Mem.byte t.mem a = Mem.byte s.mem a)
          ∧ (flitKind f = 2 → ∃ t, exec (.flitReceive l f data true) s = .next t
            ∧ Mem.num t.mem b 8 = (Mem.num s.mem b 8 + data'.toNat) % 2 ^ 64 ∧ (t.link l).expect = P.expect + 1
            ∧ answers t 0 4 (BitVec.ofNat 512 (Mem.num s.mem b 8)) ∧ answers t 1 7 0
            ∧ ∀ a, a < b ∨ b + 8 ≤ a → Mem.byte t.mem a = Mem.byte s.mem a)
          ∧ (flitKind f = 3 → ∃ t, exec (.flitReceive l f data true) s = .next t
            ∧ Mem.num t.mem b 8 = (Mem.num s.mem b 8 + (flitPay f).toNat) % 2 ^ 64 ∧ (t.link l).expect = P.expect + 1
            ∧ answers t 0 7 0 ∧ ∀ a, a < b ∨ b + 8 ≤ a → Mem.byte t.mem a = Mem.byte s.mem a))
      ∧ (∀ r, flitKind f = 4 → flitSeq f = P.expect → flitDst f = s.pkg →
          s.remotes.find? (fun r => r.itag = flitTag f) = some r → r.orig = none → ¬ (r.who = .agent ∧ r.kind = 0) →
          ∃ t, exec (.flitReceive l f data true) s = .next t ∧ t.link l = taken ∧ t.remotes =
            s.remotes.map (fun (x : Remote) => if x.itag = r.itag
              then { x with back := some data', asid := if x.kind = 0 then none else x.asid } else x)))
    ∧ (up P → P.unacked ≠ [] → becomes (.flitReplay l) { P with
        unacked := P.unacked.map (fun u => (u.1, u.2.1, u.2.2 + 1))
        replay := BitVec.ofNat 8 (min 255 (P.replay.toNat + P.unacked.length)) })
    ∧ (∀ tag, tag < 2 ^ 16 → becomes (.remoteAck l tag) { L with
        unacked := L.unacked.filter (fun u => flitSeq u.1 ≠ BitVec.ofNat 16 tag) })
    ∧ (∀ (tag : BitVec 16) r, s.remotes.find? (fun r => r.itag = tag) = some r → r.orig = none → r.kind ≠ 0 →
        (∀ q, r.who ≠ .note q) → exec (.remoteAck l (2 ^ 16 + tag.toNat)) s = .next { s with
          remotes := s.remotes.filter (fun x => x.itag != tag) })
    ∧ (∀ at_ v r, L.inbox = (at_, v) :: r → up L → ∃ t, exec (.linkSample l) s = .next t
        ∧ t.link l = { L with inbox := r, xstr := true } ∧ t.cores = s.cores
        ∧ ∀ pcl < 64, let T := s.tract pcl
          tctlKind T.tctl = 3 → tctlSrc T.tctl = l → T.state = .locked → T.held = false →
          (t.tract pcl).fresh = T.fresh ++ [(at_, signLow (portWidth L.cfg) v)])
    ∧ (∀ lanes peer, L.state = .training → 12 ≤ (linkLanes lanes).length → (s.chron - L.since).toNat ≤ Config.trainTicks →
        becomes (.linkTrained l lanes peer) { L with
          state := .align, lanes := if (linkLanes lanes).length = 16 then lanes else eightLanes lanes, peer := peer
          sent := 0, expect := 0, acks := [] })
    ∧ (L.state = .training → Config.trainTicks < (s.chron - L.since).toNat → ∃ t, exec (.trainingTimeout l) s = .next t
        ∧ (t.link l).state = .faulted ∧ (t.link l).errc = satByte L.errc)
    ∧ (∀ lane, lane < 16 → L.state = .up → L.lanes.getLsbD lane = true → ∃ m, becomes (.laneFailure l lane) { L with
        state := .degraded, errc := satByte L.errc, lanes := m } ∧ m.getLsbD lane = false
          ∧ (∀ n, m.getLsbD n = true → L.lanes.getLsbD n = true)
          ∧ (linkLanes m).length = min 8 ((linkLanes L.lanes).length - 1))
    ∧ (up P → (∃ u ∈ P.unacked, 16 ≤ u.2.2) ∨ 64 ≤ P.crcs → state (.linkFault l) .faulted)
    ∧ (l < 12 →
        (cmd 0 → L.state = .down → state (.linkEnable w) .training) ∧ (cmd 1 → L.state = .faulted → state (.linkRetrain w) .training)
        ∧ (cmd 2 → state (.linkDisable w) .down))
    ∧ (∀ t1 t2 t3 t4, L.exchanges s.chron = false → exec (.chronExchange l t1 t2 t3 t4) s = .next s)
    ∧ (∀ t1 t2 t3 t4, L.state = .align ∨ (up L ∧ 1000000 ≤ (s.chron - L.exchAt).toNat) →
        (4000 < roundTrip t1 t2 t3 t4 → lands (.chronExchange l t1 t2 t3 t4) { L with
            aligned := false, exchAt := s.chron, sent := L.sent + 1
            unacked := L.unacked ++ [(withSeq (headFlit 0 s.pkg L.peer 0 0 6 t1) L.sent, 0, 0)] })
        ∧ (roundTrip t1 t2 t3 t4 ≤ 4000 → s.assisted 5 = false → ∃ t, exec (.chronExchange l t1 t2 t3 t4) s = .next t
            ∧ (t.link l).aligned = true ∧ (t.link l).exchAt = s.chron ∧ (t.link l).offset = exchangeOffset t1 t2 t3 t4
            ∧ (L.state = .align → (t.link l).state = if L.lanes = 0xFFFF then .up else .degraded)
            ∧ (L.state ≠ .align → (t.link l).state = L.state)
            ∧ (s.parentLink ≠ some l → t.adjust = s.adjust)
            ∧ (s.parentLink = some l → t.adjust = exchangeOffset t1 t2 t3 t4)))

/-- R153, R328, R368 to R378: an interface locks, runs, reports, stops, and fails on a write to what it froze; a service pair
beats, halts on a mismatch, and the pilot is taken over with the calls it left; a zq word pushes, writes, waits for or
reads the command port, or traps, and then its core goes on; a port's packet reaches its queue, a service call has its
answer, a FREAD up to the end that stood at its issue, and an extent is revoked; a core's earlier stores go before its
`zq.push` and `zq.pushw`. Where the manual leaves them open these clauses follow the model's own choice: the
frozen registers and the layout of the report (assumptions 28, 36), the trap registers (assumption 30), the packets of a
port (assumption 77), STOP in every state (assumption 91) and file calls (assumptions 29, 98). -/
def Obligations.HostsAndServiceCoresAct : Prop :=
  ∀ (s : State) (n : Nat) (nonce : BitVec 256) (a b d : BitVec 5),
    let V := s.vf n
    let D := s.die n
    let p := s.mySvc
    let reg := (p.rx a).toNat % 2 ^ 16
    let v := p.rx b
    let svc (i : Instr) (q : Port) : Prop := exec i s = .next (s.setSvc s.port q)
    let on (q : Port) : Port := { q with pc := p.pc + 4 }
    let wx (v : Word) : Port := if d = 0 then p else { p with x := p.x.set d.toNat v d.isLt }
    (n < 128 →
      (V.state = .unlocked → exec (.lockInterfaceRequest n nonce) s = .next (s.setVf n { V with
        state := .locked, nonce := nonce, dma := false, refused := false, report := none }))
      ∧ (V.state ≠ .unlocked → exec (.lockInterfaceRequest n nonce) s = .next (s.setVf n { V with refused := true }))
      ∧ (V.state = .locked → V.nonce = nonce →
          exec (.startInterfaceRequest n nonce) s = .next (s.setVf n { V with state := .run, dma := true, refused := false }))
      ∧ (V.state = .locked → V.nonce ≠ nonce →
          exec (.startInterfaceRequest n nonce) s = .next (s.setVf n { V with refused := true }))
      ∧ (∃ t, exec (.stopInterfaceRequest n) s = .next t ∧ (t.vf n).state = .unlocked ∧ (t.vf n).dma = false
          ∧ ∀ q < 4096, (s.queue q).part = n % 64 → (s.queue q).state ≠ .disabled → (t.queue q).state = .resetting)
      ∧ (∀ v, exec (.frozenRegisterWrite ⟨n, .bar0, v⟩) s = .next s)
      ∧ (∀ r v, r ≠ .bar0 → (V.state = .unlocked → exec (.frozenRegisterWrite ⟨n, r, v⟩) s = .next (s.setVf n (V.write r v)))
          ∧ (V.state = .error → exec (.frozenRegisterWrite ⟨n, r, v⟩) s = .next s))
      ∧ (V.state = .locked ∨ V.state = .run →
          (∀ r v, r ≠ .bar0 → ∃ t, exec (.frozenRegisterWrite ⟨n, r, v⟩) s = .next t ∧ (t.vf n).state = .error ∧ (t.vf n).dma = false)
          ∧ exec (.getDeviceInterfaceReport n) s = .next (s.setVf n { V with
              report := some (s.vfReport n), refused := false })))
    ∧ (n = 128 ∨ n = 129 → ∀ r v, exec (.frozenRegisterWrite ⟨n, r, v⟩) s = .next (s.setVf n (V.write r v)))
    ∧ (D.pairOk = true → D.inReset = false → Config.beatTicks ≤ (s.chron - D.beat).toNat →
        exec (.heartbeat n) s = .next (s.setDie n { D with beat := s.chron }))
    ∧ (D.pairOk = true → ∃ t, exec (.lockstepMismatch n) s = .next t ∧ (t.die n).pairOk = false ∧ (t.die n).frozen = true)
    ∧ (∀ o m, s.helm.pilot = some o → pilotTicks ≤ (s.chron - (s.die o).beat).toNat → m < 4 → m ≠ o →
        (s.die m).healthy = true → (∀ k < m, k ≠ o → (s.die k).healthy = false) → ∃ t, exec .pilotTakeover s = .next t
          ∧ t.helm.pilot = some m ∧ (t.die o).inReset = true ∧ t.intr = (1, 0, 0) :: (0, 0, 0) :: s.intr
          ∧ ∀ c ∈ s.scalls, c.who.core / 128 = o → c.answer = none → c.haSeq = none → { c with again := true } ∈ t.scalls)
    ∧ (p.fifo.length < 64 → p.stores = [] → svc (.zqPush b a) (on { p with fifo := p.fifo ++ [((p.rx a).toNat % 4096, v.setWidth 32)] }))
    ∧ (64 ≤ p.fifo.length → exec (.zqPush b a) s = .next s)
    ∧ (p.fifo = [] → p.inFlight = 0 → svc (.zqFence d) (on (wx p.pstat)))
    ∧ (∀ pa m w r c, p.stores = (pa, m, w) :: r → s.agentFull pa = false → s.place pa = some c → paPkg c = s.pkg →
        (∀ x ∈ s.ctxs, x.2.state ≠ .precopy) → pa % 64 + m ≤ 64 →
        let stored (i : Instr) : Prop := ∃ t, exec i s = .next t ∧ t.svc s.port = { p with stores := r }
          ∧ Mem.num t.mem c m = w % 2 ^ (8 * m) ∧ ∀ x, x < c ∨ c + m ≤ x → Mem.byte t.mem x = Mem.byte s.mem x
        (p.fifo.length < 64 → stored (.zqPush b a)) ∧ (reg ≤ 4 → stored (.zqPushw b a)))
    ∧ (p.stores = [] → reg = 2 → s.port < 4 → exec (.zqPushw b a) s = .next ((s.setDie s.port { s.die s.port with
        sdva := v &&& 0x00FFFFFFFFFF0000 }).setSvc s.port (on p)))
    ∧ (p.stores = [] → reg = 4 → exec (.zqPushw b a) s = .next ({ s with ctxtab := v }.setSvc s.port (on p)))
    ∧ (reg = 0 → svc (.zqStat a d) (on (wx s.qctl))) ∧ (reg = 1 → svc (.zqStat a d) (on (wx s.cxcmd)))
    ∧ (reg = 3 → svc (.zqStat a d) (on (wx (s.die s.port).sdctl))) ∧ (reg = 0x20 → svc (.zqStat a d) (on (wx p.pstat)))
    ∧ (0x8000 ≤ reg → svc (.zqStat a d) (on (wx ((s.queue ((reg - 0x8000) / 8)).roWord ((reg - 0x8000) % 8)))))
    ∧ (5 ≤ reg → reg < 0x10 → ∃ t, exec (.zqStat a d) s = .next t ∧ (t.svc s.port).mcause = 2 ∧ (t.svc s.port).mepc = p.pc
        ∧ (t.svc s.port).x = p.x)
    ∧ (∀ port q ws r, ((s.svc port).fifo.map (·.1)).find? (fun q => (fifoPacket (s.svc port).fifo q).isSome
          && s.atBoundary q) = some q → fifoPacket (s.svc port).fifo q = some ws →
        r = fifoDrop q (s.svc port).fifo ws.length → ∃ t, exec (.portPacket port) s = .next t
          ∧ (t.queue q).hand = some (ws, port) ∧ (t.svc port).fifo = r ∧ (t.svc port).inFlight = (s.svc port).inFlight + 1)
    ∧ (∀ i ans c, s.scalls.find? (fun c => c.id = i) = some c → c.answer = none → c.haSeq = none → s.callReady c = true →
        s.callAwaits c = none →
        let gives (d : Scall) : Prop := ∃ t, exec (.serviceCallDispatch i ans) s = .next t
          ∧ t.scalls.find? (fun c => c.id = i) = some d
        let serves : Prop := s.assisted 7 = false ∧ s.agentServes (c.who.core / 128) = true
        (serves → (c.svc = 0 → gives { c with answer := some c.arg, ext := none })
          ∧ (3 ≤ c.svc.toNat → c.svc.toNat < 0x8000 → gives { c with answer := some (-1), ext := none })
          ∧ (0x8000 ≤ c.svc.toNat → gives { c with answer := some ans, ext := none }))
        ∧ (c.svc ≠ 1 → c.svc ≠ 2 → s.assisted 7 = true → gives { c with haSeq := some s.haSeq, ext := none })
        ∧ (∀ e o m x, c.svc = 1 ∨ c.svc = 2 → s.callArg c 0 = some e → s.callArg c 1 = some o → s.callArg c 2 = some m →
            s.callArg c 3 = some x →
            let X := s.extent e.toNat
            let room := match X.length with | none => m.toNat | some n => min m.toNat (n - o.toNat)
            (X.revoked = true → gives { c with answer := some (-2) })
            ∧ (X.revoked = false → s.assisted 7 = true → gives { c with haSeq := some s.haSeq, ext := some e })
            ∧ (X.revoked = false → serves →
              (c.svc = 1 →
                let n := min ans.toNat (match X.endAt c.id with | none => m.toNat | some l => min m.toNat (l - o.toNat))
                gives { c with answer := some (word n), ext := some e, writes := s.fileRows c X o.toNat x.toNat n })
              ∧ (c.svc = 2 → room = m.toNat → gives { c with answer := some (word (min ans.toNat room)), ext := some e })
              ∧ (c.svc = 2 → room < m.toNat → gives { c with answer := some (-3), ext := some e }))))
    ∧ (∀ (e : Word) (len : Nat), s.scalls = [] → exec (.extentRevoke e len) s = .next { s with
        extents := s.extents.set e.toNat (if 2 ^ 64 ≤ len then { s.extents.get {} e.toNat with revoked := true }
          else { s.extents.get {} e.toNat with length := some (match (s.extents.get {} e.toNat).length with
            | none => len | some m => min m len), was := (s.extents.get {} e.toNat).was
              ++ [(s.nextScall, (s.extents.get {} e.toNat).length)] }) })

/-- R368, R379 to R389: each command of MBCMD whose arguments are in range has its effect and reads DONE, and another is
REFUSED; votes raise a rail at once and lower it after its hold, when every clock fits; meters are taken and steps follow a
limit; a hot kernel moves; a soft error faults its kernel or freezes the logbook; and power-on leaves the reset state.
Where the manual leaves them open these clauses follow the model's own choice: the indices of the records (assumption
92), the fall of a rail (assumption 93), the order of the steps (assumption 94), a move seat by seat (assumption 95),
what a power-on keeps (assumption 97) and how energy is measured (assumption 113). -/
def Obligations.TheHelmGovernsAndRecords : Prop :=
  ∀ (s : State) (w : Word) (k : Nat),
    let H := s.helm
    let K := s.kernel k
    let arg0 := bits w 47 32
    let arg1 := bits w 31 0
    let cmd (op : Nat) : Prop := bits H.mbcmd 62 61 ≠ 1 ∧ bit w 63 = true ∧ bits w 55 48 = op
    let reads (t : State) (st : Nat) : Prop := bits t.helm.mbcmd 62 61 = st ∧ bit t.helm.mbcmd 63 = false
      ∧ bits t.helm.mbcmd 55 0 = bits w 55 0
    let helm (i : Instr) (h : Helm) : Prop := ∃ t, exec i s = .next t ∧ reads t 2 ∧ t = { s with helm := { h with
      mbcmd := t.helm.mbcmd } }
    let refused (i : Instr) : Prop := ∃ t, exec i s = .next t ∧ reads t 3 ∧ t = { s with helm := { H with
      mbcmd := t.helm.mbcmd } }
    (∀ part r, cmd 1 → part < 64 → r < 4 → arg0 = part + 256 * r → arg1 ≤ 7 → ∃ t, exec (.vote w) s = .next t ∧ reads t 2
      ∧ (t.rail r).votes = (s.rail r).votes.set part arg1 ∧ (t.rail r).now = (s.rail r).now
      ∧ let x := (t.rail r).asked
        (x < (s.rail r).now → (t.rail r).raise = some x ∧ (t.rail r).hold = none)
        ∧ (x = (s.rail r).now → (t.rail r).raise = none ∧ (t.rail r).hold = none)
        ∧ ((s.rail r).now < x → (t.rail r).raise = none ∧ (t.rail r).hold = some (x, match (s.rail r).hold with
            | none => s.chron
            | some (u, since) => if x < u then s.chron else since)))
    ∧ (cmd 1 → 7 < arg1 → refused (.vote w))
    ∧ (∀ r x since, r < 4 → (s.rail r).hold = some (x, since) → Config.voteHold ≤ (s.chron - since).toNat → s.mayFall x = true →
        ∃ t, exec (.voteHoldExpiry r) s = .next t ∧ (t.rail r).now = x)
    ∧ (∀ r x, r < 4 → (s.rail r).raise = some x →
        ∃ t, exec (.railRaiseComplete r) s = .next t ∧ (t.rail r).now = x)
    ∧ (cmd 2 → arg0 = 0 → arg1 < 1024 → helm (.setmode w) { H with mode := BitVec.ofNat 10 arg1 })
    ∧ (∀ slot m seq r, cmd 3 → arg0 < 4 → slot < 2048 → m < 4 → arg1 = slot + 2048 * m →
        Tbl.find? (s.die arg0).logs slot = some (seq, r) → helm (.logread w) { H with mbdata := match m with
          | 0 => 0
          | 1 => word (r.queue.toNat + r.pcn.toNat * 2 ^ 16 + (r.cls * 2 ^ 12 + r.index) % 2 ^ 16 * 2 ^ 32
              + seq % 2 ^ 16 * 2 ^ 48)
          | 2 => r.detail
          | _ => r.chron })
    ∧ (cmd 4 → arg0 < 4 → arg1 = 0 → ∃ t, exec (.logthaw w) s = .next t ∧ reads t 2
        ∧ t.die arg0 = { s.die arg0 with frozen := false, lost := 0 })
    ∧ (∀ image, cmd 5 → arg0 = 0 → arg1 = 0 →
        let ok : Prop := image.length ≤ Config.imageBytes
          ∧ Config.signed image (Config.digest (image.map (fun b => b.setWidth 64))) = true ∧ H.counter ≤ Config.imageVersion image
        (ok → helm (.stage w image) { H with staged := some image })
        ∧ (¬ ok → ∃ t, exec (.stage w image) s = .next t ∧ reads t 3 ∧ t.helm.staged = H.staged
            ∧ t.helm.running = H.running))
    ∧ (cmd 6 → arg0 < 70 → arg1 = 0 → helm (.sensor w) { H with mbdata := word (if arg0 < 64 then H.meter.temps.getD arg0 0
        else if arg0 < 68 then H.railPower (arg0 - 64) else if arg0 = 68 then H.energy.toNat else H.servicePower) })
    ∧ (cmd 6 → 70 ≤ arg0 → refused (.sensor w))
    ∧ (cmd 8 → arg0 < 2 → arg1 = 0 → H.mbdata.toNat % 2 ^ 17 = 0 → H.requests = [] →
        helm (.haring w) { H with ring := some (arg0, H.mbdata) })
    ∧ (cmd 9 → arg0 = 0 → (∀ r ∈ H.requests, r.seq = arg1 → r.posted = false) → refused (.hanswer w))
    ∧ (∀ r, cmd 9 → arg0 = 0 → H.requests = [r] → r.seq = arg1 → r.posted = true →
        (r.func = 3 → H.mbdata = 1 → ∃ t, exec (.hanswer w) s = .next t ∧ reads t 2 ∧ t.helm.requests = []
          ∧ t.kernel r.key = { s.kernel r.key with granted := true } ∧ t.passDue = true)
        ∧ (r.func = 3 → H.mbdata = 0 → helm (.hanswer w) H)
        ∧ (r.func = 5 → ∃ t, exec (.hanswer w) s = .next t ∧ reads t 2 ∧ t.helm.requests = [] ∧ t.adjust = H.mbdata.toInt))
    ∧ (∀ m, (s.chron - H.periodAt).toNat < Config.powerTicks → exec (.powerPeriod m) s = .next s)
    ∧ (∀ m, Config.powerTicks ≤ (s.chron - H.periodAt).toNat →
        let M : Helm := { H with meter := m, spared := H.elided }
        (∃ t, exec (.powerPeriod m) s = .next t ∧ t.helm.meter = m ∧ t.helm.periodAt = s.chron
          ∧ t.helm.energy = H.energy + word ((H.nano + M.spent) / 1000))
        ∧ (∀ n < 16, M.above 95 = true → s.lowers n = true → ∃ t x, exec (.powerPeriod m) s = .next t
          ∧ t.helm.steps = (1, x) :: H.steps ∧ x / 2 ^ n % 2 = 1
          ∧ (t.pace n).num * (s.pace n).dden * 8 = (s.pace n).dnum * ((s.pace n).eighths - 1) * (t.pace n).den)
        ∧ (∀ x r, M.above 95 = false → M.below 90 = true → 99 ≤ H.calm → 10000000 ≤ (s.chron - H.calmAt).toNat →
          H.steps = x :: r → ∃ t, exec (.powerPeriod m) s = .next t ∧ t.helm.steps = r ∧ t.helm.calmAt = s.chron))
    ∧ (s.assisted 4 = false → s.mayHeatMove k = true → (s.fit (K.leaving s.chron)).isSome →
        ∃ t, exec (.thermalMove k) s = .next t ∧ (t.kernel k).state = .draining ∧ (t.kernel k).preempt = true
          ∧ (t.kernel k).moving = true ∧ s.SameBytes t)
    ∧ (∀ die, exec (.softError die none) s = .next (s.setDie die { s.die die with frozen := true }))
    ∧ (∀ die pcn, (s.core pcn).kernel = some k → K.Faultable → ∃ t, exec (.softError die (some pcn)) s = .next t
        ∧ (t.kernel k).state = .faulted ∧ (t.kernel k).fault = some { code := .softError, pcn := pcn, recVa := K.krec })
    ∧ (∃ t, exec .powerOn s = .next t ∧ t.chron = 0 ∧ t.cores = [] ∧ t.kernels = [] ∧ t.queues = State.reset.queues
        ∧ t.mem = s.mem ∧ (∀ c, (t.ctx c).state = (s.ctx c).state) ∧ (∀ r < 4, (t.rail r).now = 6)
        ∧ (∀ d < 4, (t.die d).logs = (s.die d).logs) ∧ t.helm.running = H.staged.getD H.running)
    ∧ (∀ die, die < 4 → exec (.registerWrite ⟨die, 2⟩ w) s = .next (s.setDie die { s.die die with
        sdva := w &&& 0x00FFFFFFFFFF0000 }))
    ∧ (∀ die, exec (.registerWrite ⟨die, 3⟩ w) s = exec (.shootdown (.write die w)) s)
    ∧ (∀ die, exec (.registerWrite ⟨die, 4⟩ w) s = .next { s with ctxtab := w })
    ∧ (∀ die, exec (.registerWrite ⟨die, 0x31⟩ w) s = .next { s with helm := { H with mbdata := w } })
    ∧ (∀ die (r : BitVec 16), 5 ≤ r.toNat → r.toNat < 0x10 → exec (.registerWrite ⟨die, r⟩ w) s = .next s)


/-! ### The machine as a whole -/

/-- R4, R21, R100, R105, R309, R321, R322, R330, R351, R352, R379, R384: the machine right after reset. No kernel stands, every
core is free with registers, flags and blocks at zero, every queue is DISABLED, every context slot FREE, every tract FREE, every
link DOWN, no flit kept or remembered (R352), every sector's rails voted to P7, and memory lists nothing. The zeros of registers that the manual gives no reset value are
the model's choice (assumption 13), as are the package number and the first chronometer value (assumption 11). -/
def Obligations.ResetState : Prop :=
  let s := State.reset
  s.MemWf ∧ s.mem = [] ∧ s.kernels = [] ∧ s.walks = [] ∧ s.agenda = [] ∧ s.scalls = [] ∧ s.intr = []
    ∧ (∀ a, Mem.byte s.mem a = 0)
    ∧ (∀ c e, let m := s.stream { core := c, eng := e }
        (s.core c).kernel = none ∧ m.phase = .off ∧ m.blocks = [] ∧ m.pc = 0 ∧ m.wait = .none ∧ m.spw = 0
          ∧ (∀ r, (m.x.get r) = 0) ∧ (∀ r, m.rv r = 0) ∧ (∀ r, m.rp r = 0) ∧ (∀ r, r < 4 → m.rc r = false))
    ∧ (∀ q, (s.queue q).state = .disabled)
    ∧ (∀ p, (s.tract p).state = .free) ∧ (∀ l, (s.link l).state = .down)
    ∧ (∀ c, (s.ctx c).state = .free) ∧ (∀ r : Fin 4, (s.helm.rails.get r).now = 7) ∧ s.helm.mode = 0x3FF
    ∧ (∀ d, (s.die d).healthy = true ∧ (s.die d).sdva = 0 ∧ (s.die d).sdctl = 0)
    ∧ (∀ n, (s.vf n).state = .unlocked) ∧ s.shoots = [] ∧ s.remotes = []
    ∧ s.parked = [] ∧ s.heard = [] ∧ s.recs = []
    ∧ s.chron = 0 ∧ s.qctl = 0 ∧ s.cxcmd = 0 ∧ s.helm.mbcmd = 0

/-- R46 to R48, R51, R52, R68, R71, R375: every instruction that has words, with every value of every field that the
tables assign, decodes from its encoding to itself: no bit of an operand is dropped. -/
def Obligations.EncodingRoundTrip : Prop :=
  ∀ (i : Instr) (e : Encoded), i.wf = true → encode i = some e → decodeEncoded e = some i

/-- R71: a word that decodes is the one spelling of its instruction: every other bit pattern of a half-word, of a word, of
a header with its extension word and of a command-port word is refused. -/
def Obligations.DecodingHasOneSpelling : Prop :=
  (∀ (i : Instr) (e : Encoded), decode e.bytes = .ok i e.bytes.length → (∀ w, e ≠ .riscv w) → encode i = some e)
  ∧ (∀ (i : Instr) (w : BitVec 32), decodePort w = some i → encode i = some (.riscv w))

/-- The words that the chapters write out for their own instructions decode to those instructions (R62 to R66, R70, R174,
R220, R222, R375). -/
def Obligations.EncodingWords : Prop :=
  decodeTableWord 32 0xE08B5814 = some (.iaAddc 0 11 11 0) ∧ decodeTableWord 32 0xE1052801 = some (.iiAdd 0 5 5 1)
  ∧ decodeTableWord 32 0xE1821A21 = some (.bfSlli 0 2 3 8 1) ∧ decodeTableWord 32 0xE2812142 = some (.cmpLt 0 1 4 5)
  ∧ decodeTableWord 32 0xE3024801 = some (.brPrepx 0 2 9) ∧ decodeTableWord 32 0xE4840901 = some (.st 0 4 1 2 1)
  ∧ decodeTableWord 32 0xE5061FCB = some (.atCas 0 6 3 15 3) ∧ decodeTableWord 32 0xEC030881 = some (.viAdd 0 3 1 2 1)
  ∧ decodeTableWord 32 0xED06106E = some (.vcCvt 0 6 2 0 1 5 6) ∧ decodeTableWord 32 0xF0022000 = some (.mcSet 0 2 4)
  ∧ decodeTableWord 32 0xF1810A00 = some (.mwWb 0 1 1 8) ∧ decodeTableWord 16 0x8C00 = some (.shortTransfer 1 2)
  ∧ decodeTableWord 16 0xC828 = some (.compactTrAt 40) ∧ decodeTableWord 32 0x00B5100B = some (.zqPushw 11 10)

/-- R49, R50, R55, R72, R148, R165, R171, R297, R375: what a step adds around an instruction. The stream whose turn it is, if
it may issue and neither a pre-emption, a wait, a block that idles, a fence nor a fetch keeps it, runs exactly the instruction
that the bytes at its pc decode to: it takes the fault of a word that its checks refuse, completes a suppressed word without its
effect, waits where a register is pending or a word of its core has acted on the barrier in this cycle, and otherwise does `exec`
of that instruction, with the next pc behind the word, and completes it unless it waits, ended or faulted; a word of several
issue cycles takes effect in the last of them. A repetition of `rep`, a word of a service core and an event run likewise, and
after each the command complex goes on. Where the manual leaves them open these clauses follow the model's own choice:
the choice of the turn (assumption 1), the order of ILLEGAL and BLOCK_FORM (assumption 42), the gating of
repetitions (assumption 53) and the cycle of the effect (assumption 103). -/
def Obligations.StepRunsDecoded : Prop :=
  ∀ (s : State) (r : List Turn) (pcn : Nat) (eng : Eng) (i : Instr) (len : Nat) (f : KFault) (u : State),
    let id : StreamId := { core := pcn, eng := eng }
    let m := s.stream id
    let code := s.code pcn
    let now : State := { s with agenda := r }
    let ready : Prop := s.agenda = .stream pcn eng :: r ∧ pcn < 512 ∧ s.mayIssue id = true
      ∧ (m.spent = true ∨ s.divertsTo id = none) ∧ (m.wait = .none ∨ m.wait = .again ∨ m.wait.isArriving = true)
      ∧ m.idling = false ∧ m.fenced = false ∧ m.fetched = true
    let runs (at_ : Nat) (repeated : Bool) : Prop :=
      let t := now.issuing id (at_ + len)
      let stalled : Prop := s.stalls id i = true ∨ (∃ x, countReg i = some x ∧ s.pending id (.x x) = true)
        ∨ s.barLate id i = true
      let extra := if (u.stream id).wait = .none then (u.stream id).busy - (t.stream id).busy else 0
      (s.wordFault id i at_ len repeated = some f → step s = .next (now.streamFault id f 0).settle)
      ∧ (s.wordFault id i at_ len repeated = none →
          (s.permits id i at_ = false → step s = .next (t.complete id).settle)
          ∧ (s.permits id i at_ = true → stalled → step s = .next now.settle)
          ∧ (s.permits id i at_ = true → ¬stalled → exec i t = .next u →
              (extra = 0 → step s = .next (u.afterWord id).settle)
              ∧ (extra ≠ 0 → m.spent = false → step s = .next
                  (now.modStream id (fun m => { m with busy := m.busy + extra, spent := true })).settle)
              ∧ (extra ≠ 0 → m.spent = true → step s = .next
                  ((u.modStream id (fun m => { m with busy := (t.stream id).busy })).afterWord id).settle)))
    (ready → m.repOn = false → decode (codeAt code m.pc) = .ok i len → runs m.pc false)
    ∧ (ready → m.repOn = true → repetition code m.pc m.repc = some i → len = 4 → runs (m.pc + 2) true)
    ∧ (ready → m.repOn = false → decode (codeAt code m.pc) = .illegal → exec .unassignedEncoding (now.issuing id m.pc) = .next u →
        step s = .next u.settle)
    ∧ (ready → m.repOn = false → decode (codeAt code m.pc) = .blockForm →
        step s = .next (now.streamFault id .blockForm 0).settle)
    ∧ (∀ port w, s.agenda = .service port w :: r → port < 4 → (s.die port).healthy = true → decodePort w = some i →
        exec i { now with port := port } = .next u → step s = .next u.settle)
    ∧ (s.agenda = .event i :: r → encode i = none → i ≠ .unassignedEncoding → exec i now = .next u → step s = .next u.settle)

/-- R306, R226, R243: whatever a step does, every byte memory of the package (main memory, the weight stores and the
scratchpads) stays in canonical form, so that equal memories are equal data. -/
def Obligations.EveryStepKeepsMemoryCanonical : Prop :=
  ∀ (s t : State), s.MemWf → step s = .next t → t.MemWf
end

