-- ==== Sys2Proof/Laws/Tables.lean ====
section
/-! SUPPORT. Laws/Tables.lean: reading a table or a byte memory after writing it, and that every operation over a byte
memory keeps its canonical form. -/

namespace Sys2Proof.Machine

/-! ### Tables -/

theorem Tbl.find?_set {α : Type} (t : Tbl α) (n m : Nat) (x : α) :
    (Tbl.set t n x).find? m = if m = n then some x else t.find? m := by
  induction t with
  | nil => simp [Tbl.set, Tbl.find?, eq_comm]
  | cons p r ih =>
    obtain ⟨k, v⟩ := p
    unfold Tbl.set
    split
    · rename_i h; simp only [Tbl.find?]; split <;> simp_all [eq_comm]
    · split
      · subst_vars; simp only [Tbl.find?]; split <;> simp_all [eq_comm]
      · simp only [Tbl.find?, ih]; split <;> simp_all [eq_comm]

/-- A table reads a number just written as its new value, and every other number as before. -/
theorem Tbl.get_set {α : Type} (t : Tbl α) (d : α) (n m : Nat) (x : α) :
    (Tbl.set t n x).get d m = if m = n then x else t.get d m := by
  unfold Tbl.get; rw [Tbl.find?_set]; split <;> simp

@[simp] theorem Tbl.get_set_self {α : Type} (t : Tbl α) (d : α) (n : Nat) (x : α) : (Tbl.set t n x).get d n = x := by
  simp [Tbl.get_set]

theorem Tbl.get_set_ne {α : Type} (t : Tbl α) (d : α) {n m : Nat} (x : α) (h : m ≠ n) :
    (Tbl.set t n x).get d m = t.get d m := by
  simp [Tbl.get_set, h]

theorem Tbl.mem_set {α : Type} {t : Tbl α} {n : Nat} {x : α} {p : Nat × α} (h : p ∈ Tbl.set t n x) :
    p ∈ t ∨ p = (n, x) := by
  induction t with
  | nil => simp_all [Tbl.set]
  | cons q r ih =>
    unfold Tbl.set at h
    split at h
    · simp_all; tauto
    · split at h
      · simp_all; tauto
      · simp only [List.mem_cons] at h ⊢; rcases h with h | h
        · exact .inl (.inl h)
        · rcases ih h with h | h <;> tauto

/-- A value that a table reads is its default or one of its entries. -/
theorem Tbl.get_cases {α : Type} (t : Tbl α) (d : α) (n : Nat) : t.get d n = d ∨ (n, t.get d n) ∈ t := by
  induction t with
  | nil => simp [Tbl.get, Tbl.find?]
  | cons q r ih =>
    obtain ⟨k, v⟩ := q
    simp only [Tbl.get, Tbl.find?] at ih ⊢
    split
    · subst_vars; simp
    · rcases ih with h | h
      · exact .inl h
      · exact .inr (List.mem_cons_of_mem _ h)

/-! ### Byte memories -/

@[simp] theorem Mem.byte_nil (a : Nat) : Mem.byte [] a = 0 := rfl

theorem Mem.byte_insert (m : Mem) (a b : Nat) (v : Byte) :
    (Mem.insert m a v).byte b = if b = a then v else m.byte b := by
  induction m with
  | nil => simp [Mem.insert, Mem.byte, eq_comm]
  | cons p r ih =>
    obtain ⟨k, w⟩ := p
    unfold Mem.insert
    split
    · simp only [Mem.byte, eq_comm (a := b)]
    · split
      · subst_vars; simp only [Mem.byte, eq_comm (a := b)]; split <;> rfl
      · rename_i h1 h2
        simp only [Mem.byte, ih]
        by_cases hk : k = b
        · subst hk; simp [Ne.symm h2]
        · simp [hk]

theorem Mem.byte_filter_ne (m : Mem) (a b : Nat) :
    Mem.byte (m.filter (fun c => c.1 != a)) b = if b = a then 0 else m.byte b := by
  induction m with
  | nil => simp
  | cons p r ih =>
    obtain ⟨k, w⟩ := p
    by_cases h : k = a
    · subst h; simp only [List.filter_cons, bne_self_eq_false, Bool.false_eq_true, if_false, ih, Mem.byte]
      split <;> simp_all [eq_comm]
    · have : (k != a) = true := by simpa using h
      simp only [List.filter_cons, this, if_true, Mem.byte, ih]
      by_cases hk : k = b
      · subst hk; simp [h]
      · simp [hk]

/-- Reading a byte after a write: the byte written at its address, and every other byte as before. -/
theorem Mem.byte_setByte (m : Mem) (a b : Nat) (v : Byte) :
    (m.setByte a v).byte b = if b = a then v else m.byte b := by
  unfold Mem.setByte
  split
  · rename_i h; rw [Mem.byte_filter_ne]; split <;> simp_all [Mem.unlisted]
  · exact Mem.byte_insert ..

/-- A store of n bytes changes no byte outside them. -/
theorem Mem.byte_setNum_outside (n : Nat) : ∀ (m : Mem) (a v b : Nat), (b < a ∨ a + n ≤ b) →
    (m.setNum a v n).byte b = m.byte b := by
  induction n with
  | zero => intro m a v b _; rfl
  | succ n ih =>
    intro m a v b h
    unfold Mem.setNum
    rw [ih _ _ _ _ (by omega), Mem.byte_setByte, if_neg (by omega)]

/-- Byte j of a store of n bytes is byte j of the number (R2). -/
theorem Mem.byte_setNum_inside (n : Nat) : ∀ (m : Mem) (a v j : Nat), j < n →
    (m.setNum a v n).byte (a + j) = BitVec.ofNat 8 (v / 256 ^ j) := by
  induction n with
  | zero => intro m a v j h; omega
  | succ n ih =>
    intro m a v j h
    unfold Mem.setNum
    rcases j with _ | j
    · rw [Mem.byte_setNum_outside _ _ _ _ _ (by omega), Mem.byte_setByte]; simp
    · have := ih (m.setByte a (BitVec.ofNat 8 v)) (a + 1) (v / 256) j (by omega)
      rw [show a + (j + 1) = a + 1 + j by omega, this, Nat.div_div_eq_div_mul, ← pow_succ']

/-- A number read back is the number stored, less what its bytes do not hold. -/
theorem Mem.num_setNum (n : Nat) : ∀ (m : Mem) (a v : Nat), (m.setNum a v n).num a n = v % 256 ^ n := by
  induction n with
  | zero => intro m a v; simp [Mem.num, Nat.mod_one]
  | succ n ih =>
    intro m a v
    unfold Mem.setNum Mem.num
    rw [Mem.byte_setNum_outside _ _ _ _ _ (by omega), ih, Mem.byte_setByte]
    rw [if_pos rfl, BitVec.toNat_ofNat, show (256 : Nat) ^ (n + 1) = 256 * 256 ^ n from pow_succ' ..]
    exact (Nat.mod_mul (x := v) (a := 256) (b := 256 ^ n)).symm

/-- Reading n bytes that a store does not touch. -/
theorem Mem.num_setNum_disjoint (k : Nat) : ∀ (m : Mem) (a v n b : Nat), (b + k ≤ a ∨ a + n ≤ b) →
    (m.setNum a v n).num b k = m.num b k := by
  induction k with
  | zero => intros; rfl
  | succ k ih =>
    intro m a v n b h
    unfold Mem.num
    rw [Mem.byte_setNum_outside _ _ _ _ _ (by omega), ih _ _ _ _ _ (by omega)]

/-- A value of n bytes reads back as it was stored. -/
theorem Mem.ofNat_num_setNum (n : Nat) (m : Mem) (a : Nat) (r : BitVec (8 * n)) :
    BitVec.ofNat (8 * n) ((m.setNum a r.toNat n).num a n) = r := by
  have h : (256 : Nat) ^ n = 2 ^ (8 * n) := (pow_mul 2 8 n).symm
  rw [Mem.num_setNum, h, Nat.mod_eq_of_lt r.isLt, BitVec.ofNat_toNat, BitVec.setWidth_eq]

theorem Mem.row_setRow (m : Mem) (a : Nat) (r : Row) : (m.setRow a r).row a = r := Mem.ofNat_num_setNum 64 m a r

theorem Mem.word_setWord (m : Mem) (a : Nat) (w : Word) : (m.setWord a w).word a = w := Mem.ofNat_num_setNum 8 m a w

theorem Mem.row_setRow_ne (m : Mem) (a b : Nat) (r : Row) (h : b + 64 ≤ a ∨ a + 64 ≤ b) :
    (m.setRow a r).row b = m.row b := by
  unfold Mem.row Mem.setRow; rw [Mem.num_setNum_disjoint _ _ _ _ _ _ h]

/-! ### The canonical form -/

theorem Mem.wfFrom_mono {lo lo' : Nat} (h : lo' ≤ lo) : ∀ {m : Mem}, Mem.wfFrom lo m = true → Mem.wfFrom lo' m = true
  | [], _ => rfl
  | (a, b) :: r, hm => by
    simp only [Mem.wfFrom, Bool.and_eq_true, decide_eq_true_eq] at hm ⊢
    exact ⟨⟨by omega, hm.1.2⟩, hm.2⟩

theorem Mem.wfFrom_filter (p : Host.Cell → Bool) : ∀ {lo : Nat} {m : Mem}, Mem.wfFrom lo m = true →
    Mem.wfFrom lo (m.filter p) = true
  | _, [], _ => rfl
  | lo, (a, b) :: r, hm => by
    simp only [Mem.wfFrom, Bool.and_eq_true, decide_eq_true_eq] at hm
    rw [List.filter_cons]
    split
    · simp only [Mem.wfFrom, Bool.and_eq_true, decide_eq_true_eq]; exact ⟨hm.1, Mem.wfFrom_filter p hm.2⟩
    · exact Mem.wfFrom_mono (by omega) (Mem.wfFrom_filter p hm.2)

theorem Mem.wfFrom_insert (a : Nat) (v : Byte) (hv : v ≠ 0) : ∀ {lo : Nat} {m : Mem}, lo ≤ a → Mem.wfFrom lo m = true →
    Mem.wfFrom lo (Mem.insert m a v) = true
  | lo, [], ha, _ => by
    simp only [Mem.insert, Mem.wfFrom, Bool.and_eq_true, decide_eq_true_eq, and_true]; exact ⟨ha, hv⟩
  | lo, (k, w) :: r, ha, hm => by
    simp only [Mem.wfFrom, Bool.and_eq_true, decide_eq_true_eq] at hm
    unfold Mem.insert
    split
    · simp only [Mem.wfFrom, Bool.and_eq_true, decide_eq_true_eq]; exact ⟨⟨ha, hv⟩, ⟨⟨by omega, hm.1.2⟩, hm.2⟩⟩
    · split
      · subst_vars
        simp only [Mem.wfFrom, Bool.and_eq_true, decide_eq_true_eq]; exact ⟨⟨ha, hv⟩, hm.2⟩
      · simp only [Mem.wfFrom, Bool.and_eq_true, decide_eq_true_eq]
        exact ⟨hm.1, Mem.wfFrom_insert a v hv (by omega) hm.2⟩

@[simp] theorem Mem.wf_nil : Mem.wf [] = true := rfl

theorem Mem.wf_filter {m : Mem} (p : Host.Cell → Bool) (h : m.wf = true) : Mem.wf (m.filter p) = true :=
  Mem.wfFrom_filter p h

theorem Mem.wf_setByte {m : Mem} (a : Nat) (v : Byte) (h : m.wf = true) : (m.setByte a v).wf = true := by
  unfold Mem.setByte
  split
  · exact Mem.wf_filter _ h
  · rename_i hv; exact Mem.wfFrom_insert a v (by simpa [Mem.unlisted] using hv) (Nat.zero_le a) h

theorem Mem.wf_setNum (n : Nat) : ∀ {m : Mem} (a v : Nat), m.wf = true → (m.setNum a v n).wf = true := by
  induction n with
  | zero => intro m a v h; exact h
  | succ n ih => intro m a v h; exact ih _ _ (Mem.wf_setByte _ _ h)

theorem Mem.wf_setWord {m : Mem} (a : Nat) (w : Word) (h : m.wf = true) : (m.setWord a w).wf = true :=
  Mem.wf_setNum 8 _ _ h

theorem Mem.wf_setRow {m : Mem} (a : Nat) (r : Row) (h : m.wf = true) : (m.setRow a r).wf = true :=
  Mem.wf_setNum 64 _ _ h

theorem Mem.wf_clear {m : Mem} (lo hi : Nat) (h : m.wf = true) : (m.clear lo hi).wf = true := Mem.wf_filter _ h

/-- The canonical form in words: addresses strictly rise, and no cell holds the byte an unlisted address reads as. -/
theorem Mem.wfFrom_iff (lo : Nat) (m : Mem) : Mem.wfFrom lo m = true ↔
    m.Pairwise (fun c d => c.1 < d.1) ∧ (∀ c ∈ m, lo ≤ c.1 ∧ c.2 ≠ 0) := by
  induction m generalizing lo with
  | nil => simp [Mem.wfFrom]
  | cons p r ih =>
    obtain ⟨a, b⟩ := p
    simp only [Mem.wfFrom, Bool.and_eq_true, decide_eq_true_eq, ih, List.pairwise_cons, List.mem_cons, forall_eq_or_imp]
    constructor
    · rintro ⟨⟨h1, h2⟩, h3, h4⟩
      exact ⟨⟨fun c hc => by have := (h4 c hc).1; omega, h3⟩, ⟨h1, h2⟩, fun c hc => ⟨by have := (h4 c hc).1; omega, (h4 c hc).2⟩⟩
    · rintro ⟨⟨h1, h2⟩, ⟨h3, h4⟩, h5⟩
      exact ⟨⟨h3, h4⟩, h2, fun c hc => ⟨by have := h1 c hc; omega, (h5 c hc).2⟩⟩

theorem Mem.wf_slice {m : Mem} (lo len : Nat) (h : m.wf = true) : (m.slice lo len).wf = true := by
  unfold Mem.slice Mem.wf
  rw [Mem.wfFrom_iff]
  have h' := (Mem.wfFrom_iff 0 m).1 h
  constructor
  · rw [List.pairwise_map]
    refine ((h'.1.filter _).imp_of_mem ?_)
    intro c d hc hd hcd
    simp only [List.mem_filter, Bool.and_eq_true, decide_eq_true_eq] at hc hd
    simp only; omega
  · intro c hc
    simp only [List.mem_map, List.mem_filter] at hc
    obtain ⟨d, ⟨hd, -⟩, rfl⟩ := hc
    exact ⟨Nat.zero_le _, (h'.2 d hd).2⟩

theorem Mem.wf_splice {m src : Mem} (lo len : Nat) (h : m.wf = true) (hs : src.wf = true) :
    (m.splice lo len src).wf = true := by
  unfold Mem.splice Mem.wf
  rw [Mem.wfFrom_iff]
  have h' := (Mem.wfFrom_iff 0 m).1 h
  have hs' := (Mem.wfFrom_iff 0 src).1 hs
  constructor
  · rw [List.pairwise_append, List.pairwise_append]
    refine ⟨⟨h'.1.filter _, ?_, ?_⟩, h'.1.filter _, ?_⟩
    · rw [List.pairwise_map]; exact (hs'.1.filter _).imp (by intro c d hcd; simpa using hcd)
    · intro c hc d hd
      simp only [List.mem_filter, List.mem_map, decide_eq_true_eq] at hc hd
      obtain ⟨e, he, rfl⟩ := hd
      simp only; omega
    · intro c hc d hd
      simp only [List.mem_append, List.mem_filter, List.mem_map, decide_eq_true_eq] at hc hd
      rcases hc with hc | ⟨e, he, rfl⟩
      · omega
      · simp only; omega
  · intro c hc
    simp only [List.mem_append, List.mem_filter, List.mem_map] at hc
    refine ⟨Nat.zero_le _, ?_⟩
    rcases hc with (hc | ⟨e, he, rfl⟩) | hc
    · exact (h'.2 c hc.1).2
    · exact (hs'.2 e he.1).2
    · exact (h'.2 c hc.1).2

end Sys2Proof.Machine
end

