-- ==== Sys2Proof/Laws/State.lean ====
section
/-! SUPPORT. Laws/State.lean: what each update of the state leaves as it was, field by field, and what the unit it
replaces then reads as. -/

namespace Sys2Proof.Machine

/-! ### `setCore` -/

theorem State.core_setCore (s : State) (n m : Nat) (v : Core) :
    (s.setCore n v).core m = if m = n then v else s.core m := Tbl.get_set ..

@[simp] theorem State.core_setCore_self (s : State) (n : Nat) (v : Core) : (s.setCore n v).core n = v := by
  simp [State.core_setCore]

@[simp] theorem State.kernel_setCore (s : State) (n m : Nat) (v : Core) : (s.setCore n v).kernel m = s.kernel m := rfl
@[simp] theorem State.tract_setCore (s : State) (n m : Nat) (v : Core) : (s.setCore n v).tract m = s.tract m := rfl
@[simp] theorem State.pace_setCore (s : State) (n m : Nat) (v : Core) : (s.setCore n v).pace m = s.pace m := rfl
@[simp] theorem State.sink_setCore (s : State) (n m : Nat) (v : Core) : (s.setCore n v).sink m = s.sink m := rfl
@[simp] theorem State.stile_setCore (s : State) (n m : Nat) (v : Core) : (s.setCore n v).stile m = s.stile m := rfl
@[simp] theorem State.drill_setCore (s : State) (n m : Nat) (v : Core) : (s.setCore n v).drill m = s.drill m := rfl
@[simp] theorem State.queue_setCore (s : State) (n m : Nat) (v : Core) : (s.setCore n v).queue m = s.queue m := rfl
@[simp] theorem State.ctx_setCore (s : State) (n m : Nat) (v : Core) : (s.setCore n v).ctx m = s.ctx m := rfl
@[simp] theorem State.die_setCore (s : State) (n m : Nat) (v : Core) : (s.setCore n v).die m = s.die m := rfl
@[simp] theorem State.sextant_setCore (s : State) (n m : Nat) (v : Core) : (s.setCore n v).sextant m = s.sextant m := rfl
@[simp] theorem State.link_setCore (s : State) (n m : Nat) (v : Core) : (s.setCore n v).link m = s.link m := rfl
@[simp] theorem State.vf_setCore (s : State) (n m : Nat) (v : Core) : (s.setCore n v).vf m = s.vf m := rfl
@[simp] theorem State.svc_setCore (s : State) (n m : Nat) (v : Core) : (s.setCore n v).svc m = s.svc m := rfl
@[simp] theorem State.pkg_setCore (s : State) (n : Nat) (v : Core) : (s.setCore n v).pkg = s.pkg := rfl
@[simp] theorem State.chron_setCore (s : State) (n : Nat) (v : Core) : (s.setCore n v).chron = s.chron := rfl
@[simp] theorem State.adjust_setCore (s : State) (n : Nat) (v : Core) : (s.setCore n v).adjust = s.adjust := rfl
@[simp] theorem State.nextKernel_setCore (s : State) (n : Nat) (v : Core) : (s.setCore n v).nextKernel = s.nextKernel := rfl
@[simp] theorem State.spcfg_setCore (s : State) (n : Nat) (v : Core) : (s.setCore n v).spcfg = s.spcfg := rfl
@[simp] theorem State.rr_setCore (s : State) (n : Nat) (v : Core) : (s.setCore n v).rr = s.rr := rfl
@[simp] theorem State.passDue_setCore (s : State) (n : Nat) (v : Core) : (s.setCore n v).passDue = s.passDue := rfl
@[simp] theorem State.walks_setCore (s : State) (n : Nat) (v : Core) : (s.setCore n v).walks = s.walks := rfl
@[simp] theorem State.nextWalk_setCore (s : State) (n : Nat) (v : Core) : (s.setCore n v).nextWalk = s.nextWalk := rfl
@[simp] theorem State.remotes_setCore (s : State) (n : Nat) (v : Core) : (s.setCore n v).remotes = s.remotes := rfl
@[simp] theorem State.nextTag_setCore (s : State) (n : Nat) (v : Core) : (s.setCore n v).nextTag = s.nextTag := rfl
@[simp] theorem State.parked_setCore (s : State) (n : Nat) (v : Core) : (s.setCore n v).parked = s.parked := rfl
@[simp] theorem State.heard_setCore (s : State) (n : Nat) (v : Core) : (s.setCore n v).heard = s.heard := rfl
@[simp] theorem State.scalls_setCore (s : State) (n : Nat) (v : Core) : (s.setCore n v).scalls = s.scalls := rfl
@[simp] theorem State.nextScall_setCore (s : State) (n : Nat) (v : Core) : (s.setCore n v).nextScall = s.nextScall := rfl
@[simp] theorem State.extents_setCore (s : State) (n : Nat) (v : Core) : (s.setCore n v).extents = s.extents := rfl
@[simp] theorem State.helm_setCore (s : State) (n : Nat) (v : Core) : (s.setCore n v).helm = s.helm := rfl
@[simp] theorem State.mem_setCore (s : State) (n : Nat) (v : Core) : (s.setCore n v).mem = s.mem := rfl
@[simp] theorem State.fitted_setCore (s : State) (n : Nat) (v : Core) : (s.setCore n v).fitted = s.fitted := rfl
@[simp] theorem State.host_setCore (s : State) (n : Nat) (v : Core) : (s.setCore n v).host = s.host := rfl
@[simp] theorem State.qctl_setCore (s : State) (n : Nat) (v : Core) : (s.setCore n v).qctl = s.qctl := rfl
@[simp] theorem State.qctlK_setCore (s : State) (n : Nat) (v : Core) : (s.setCore n v).qctlK = s.qctlK := rfl
@[simp] theorem State.cxcmd_setCore (s : State) (n : Nat) (v : Core) : (s.setCore n v).cxcmd = s.cxcmd := rfl
@[simp] theorem State.cxWait_setCore (s : State) (n : Nat) (v : Core) : (s.setCore n v).cxWait = s.cxWait := rfl
@[simp] theorem State.recs_setCore (s : State) (n : Nat) (v : Core) : (s.setCore n v).recs = s.recs := rfl
@[simp] theorem State.ctxtab_setCore (s : State) (n : Nat) (v : Core) : (s.setCore n v).ctxtab = s.ctxtab := rfl
@[simp] theorem State.qimg_setCore (s : State) (n : Nat) (v : Core) : (s.setCore n v).qimg = s.qimg := rfl
@[simp] theorem State.shoots_setCore (s : State) (n : Nat) (v : Core) : (s.setCore n v).shoots = s.shoots := rfl
@[simp] theorem State.intr_setCore (s : State) (n : Nat) (v : Core) : (s.setCore n v).intr = s.intr := rfl
@[simp] theorem State.cur_setCore (s : State) (n : Nat) (v : Core) : (s.setCore n v).cur = s.cur := rfl
@[simp] theorem State.port_setCore (s : State) (n : Nat) (v : Core) : (s.setCore n v).port = s.port := rfl
@[simp] theorem State.agenda_setCore (s : State) (n : Nat) (v : Core) : (s.setCore n v).agenda = s.agenda := rfl
@[simp] theorem State.freeCtr_setCore (s : State) (n : Nat) (v : Core) : (s.setCore n v).freeCtr = s.freeCtr := rfl

/-! ### `setKernel` -/

theorem State.kernel_setKernel (s : State) (n m : Nat) (v : Kernel) :
    (s.setKernel n v).kernel m = if m = n then v else s.kernel m := Tbl.get_set ..

@[simp] theorem State.kernel_setKernel_self (s : State) (n : Nat) (v : Kernel) : (s.setKernel n v).kernel n = v := by
  simp [State.kernel_setKernel]

@[simp] theorem State.core_setKernel (s : State) (n m : Nat) (v : Kernel) : (s.setKernel n v).core m = s.core m := rfl
@[simp] theorem State.tract_setKernel (s : State) (n m : Nat) (v : Kernel) : (s.setKernel n v).tract m = s.tract m := rfl
@[simp] theorem State.pace_setKernel (s : State) (n m : Nat) (v : Kernel) : (s.setKernel n v).pace m = s.pace m := rfl
@[simp] theorem State.sink_setKernel (s : State) (n m : Nat) (v : Kernel) : (s.setKernel n v).sink m = s.sink m := rfl
@[simp] theorem State.stile_setKernel (s : State) (n m : Nat) (v : Kernel) : (s.setKernel n v).stile m = s.stile m := rfl
@[simp] theorem State.drill_setKernel (s : State) (n m : Nat) (v : Kernel) : (s.setKernel n v).drill m = s.drill m := rfl
@[simp] theorem State.queue_setKernel (s : State) (n m : Nat) (v : Kernel) : (s.setKernel n v).queue m = s.queue m := rfl
@[simp] theorem State.ctx_setKernel (s : State) (n m : Nat) (v : Kernel) : (s.setKernel n v).ctx m = s.ctx m := rfl
@[simp] theorem State.die_setKernel (s : State) (n m : Nat) (v : Kernel) : (s.setKernel n v).die m = s.die m := rfl
@[simp] theorem State.sextant_setKernel (s : State) (n m : Nat) (v : Kernel) : (s.setKernel n v).sextant m = s.sextant m := rfl
@[simp] theorem State.link_setKernel (s : State) (n m : Nat) (v : Kernel) : (s.setKernel n v).link m = s.link m := rfl
@[simp] theorem State.vf_setKernel (s : State) (n m : Nat) (v : Kernel) : (s.setKernel n v).vf m = s.vf m := rfl
@[simp] theorem State.svc_setKernel (s : State) (n m : Nat) (v : Kernel) : (s.setKernel n v).svc m = s.svc m := rfl
@[simp] theorem State.pkg_setKernel (s : State) (n : Nat) (v : Kernel) : (s.setKernel n v).pkg = s.pkg := rfl
@[simp] theorem State.chron_setKernel (s : State) (n : Nat) (v : Kernel) : (s.setKernel n v).chron = s.chron := rfl
@[simp] theorem State.adjust_setKernel (s : State) (n : Nat) (v : Kernel) : (s.setKernel n v).adjust = s.adjust := rfl
@[simp] theorem State.nextKernel_setKernel (s : State) (n : Nat) (v : Kernel) : (s.setKernel n v).nextKernel = s.nextKernel := rfl
@[simp] theorem State.spcfg_setKernel (s : State) (n : Nat) (v : Kernel) : (s.setKernel n v).spcfg = s.spcfg := rfl
@[simp] theorem State.rr_setKernel (s : State) (n : Nat) (v : Kernel) : (s.setKernel n v).rr = s.rr := rfl
@[simp] theorem State.passDue_setKernel (s : State) (n : Nat) (v : Kernel) : (s.setKernel n v).passDue = s.passDue := rfl
@[simp] theorem State.walks_setKernel (s : State) (n : Nat) (v : Kernel) : (s.setKernel n v).walks = s.walks := rfl
@[simp] theorem State.nextWalk_setKernel (s : State) (n : Nat) (v : Kernel) : (s.setKernel n v).nextWalk = s.nextWalk := rfl
@[simp] theorem State.remotes_setKernel (s : State) (n : Nat) (v : Kernel) : (s.setKernel n v).remotes = s.remotes := rfl
@[simp] theorem State.nextTag_setKernel (s : State) (n : Nat) (v : Kernel) : (s.setKernel n v).nextTag = s.nextTag := rfl
@[simp] theorem State.parked_setKernel (s : State) (n : Nat) (v : Kernel) : (s.setKernel n v).parked = s.parked := rfl
@[simp] theorem State.heard_setKernel (s : State) (n : Nat) (v : Kernel) : (s.setKernel n v).heard = s.heard := rfl
@[simp] theorem State.scalls_setKernel (s : State) (n : Nat) (v : Kernel) : (s.setKernel n v).scalls = s.scalls := rfl
@[simp] theorem State.nextScall_setKernel (s : State) (n : Nat) (v : Kernel) : (s.setKernel n v).nextScall = s.nextScall := rfl
@[simp] theorem State.extents_setKernel (s : State) (n : Nat) (v : Kernel) : (s.setKernel n v).extents = s.extents := rfl
@[simp] theorem State.helm_setKernel (s : State) (n : Nat) (v : Kernel) : (s.setKernel n v).helm = s.helm := rfl
@[simp] theorem State.mem_setKernel (s : State) (n : Nat) (v : Kernel) : (s.setKernel n v).mem = s.mem := rfl
@[simp] theorem State.fitted_setKernel (s : State) (n : Nat) (v : Kernel) : (s.setKernel n v).fitted = s.fitted := rfl
@[simp] theorem State.host_setKernel (s : State) (n : Nat) (v : Kernel) : (s.setKernel n v).host = s.host := rfl
@[simp] theorem State.qctl_setKernel (s : State) (n : Nat) (v : Kernel) : (s.setKernel n v).qctl = s.qctl := rfl
@[simp] theorem State.qctlK_setKernel (s : State) (n : Nat) (v : Kernel) : (s.setKernel n v).qctlK = s.qctlK := rfl
@[simp] theorem State.cxcmd_setKernel (s : State) (n : Nat) (v : Kernel) : (s.setKernel n v).cxcmd = s.cxcmd := rfl
@[simp] theorem State.cxWait_setKernel (s : State) (n : Nat) (v : Kernel) : (s.setKernel n v).cxWait = s.cxWait := rfl
@[simp] theorem State.recs_setKernel (s : State) (n : Nat) (v : Kernel) : (s.setKernel n v).recs = s.recs := rfl
@[simp] theorem State.ctxtab_setKernel (s : State) (n : Nat) (v : Kernel) : (s.setKernel n v).ctxtab = s.ctxtab := rfl
@[simp] theorem State.qimg_setKernel (s : State) (n : Nat) (v : Kernel) : (s.setKernel n v).qimg = s.qimg := rfl
@[simp] theorem State.shoots_setKernel (s : State) (n : Nat) (v : Kernel) : (s.setKernel n v).shoots = s.shoots := rfl
@[simp] theorem State.intr_setKernel (s : State) (n : Nat) (v : Kernel) : (s.setKernel n v).intr = s.intr := rfl
@[simp] theorem State.cur_setKernel (s : State) (n : Nat) (v : Kernel) : (s.setKernel n v).cur = s.cur := rfl
@[simp] theorem State.port_setKernel (s : State) (n : Nat) (v : Kernel) : (s.setKernel n v).port = s.port := rfl
@[simp] theorem State.agenda_setKernel (s : State) (n : Nat) (v : Kernel) : (s.setKernel n v).agenda = s.agenda := rfl
@[simp] theorem State.freeCtr_setKernel (s : State) (n : Nat) (v : Kernel) : (s.setKernel n v).freeCtr = s.freeCtr := rfl

/-! ### `setTract` -/

theorem State.tract_setTract (s : State) (n m : Nat) (v : Tract) :
    (s.setTract n v).tract m = if m = n then v else s.tract m := Tbl.get_set ..

@[simp] theorem State.tract_setTract_self (s : State) (n : Nat) (v : Tract) : (s.setTract n v).tract n = v := by
  simp [State.tract_setTract]

@[simp] theorem State.core_setTract (s : State) (n m : Nat) (v : Tract) : (s.setTract n v).core m = s.core m := rfl
@[simp] theorem State.kernel_setTract (s : State) (n m : Nat) (v : Tract) : (s.setTract n v).kernel m = s.kernel m := rfl
@[simp] theorem State.pace_setTract (s : State) (n m : Nat) (v : Tract) : (s.setTract n v).pace m = s.pace m := rfl
@[simp] theorem State.sink_setTract (s : State) (n m : Nat) (v : Tract) : (s.setTract n v).sink m = s.sink m := rfl
@[simp] theorem State.stile_setTract (s : State) (n m : Nat) (v : Tract) : (s.setTract n v).stile m = s.stile m := rfl
@[simp] theorem State.drill_setTract (s : State) (n m : Nat) (v : Tract) : (s.setTract n v).drill m = s.drill m := rfl
@[simp] theorem State.queue_setTract (s : State) (n m : Nat) (v : Tract) : (s.setTract n v).queue m = s.queue m := rfl
@[simp] theorem State.ctx_setTract (s : State) (n m : Nat) (v : Tract) : (s.setTract n v).ctx m = s.ctx m := rfl
@[simp] theorem State.die_setTract (s : State) (n m : Nat) (v : Tract) : (s.setTract n v).die m = s.die m := rfl
@[simp] theorem State.sextant_setTract (s : State) (n m : Nat) (v : Tract) : (s.setTract n v).sextant m = s.sextant m := rfl
@[simp] theorem State.link_setTract (s : State) (n m : Nat) (v : Tract) : (s.setTract n v).link m = s.link m := rfl
@[simp] theorem State.vf_setTract (s : State) (n m : Nat) (v : Tract) : (s.setTract n v).vf m = s.vf m := rfl
@[simp] theorem State.svc_setTract (s : State) (n m : Nat) (v : Tract) : (s.setTract n v).svc m = s.svc m := rfl
@[simp] theorem State.pkg_setTract (s : State) (n : Nat) (v : Tract) : (s.setTract n v).pkg = s.pkg := rfl
@[simp] theorem State.chron_setTract (s : State) (n : Nat) (v : Tract) : (s.setTract n v).chron = s.chron := rfl
@[simp] theorem State.adjust_setTract (s : State) (n : Nat) (v : Tract) : (s.setTract n v).adjust = s.adjust := rfl
@[simp] theorem State.nextKernel_setTract (s : State) (n : Nat) (v : Tract) : (s.setTract n v).nextKernel = s.nextKernel := rfl
@[simp] theorem State.spcfg_setTract (s : State) (n : Nat) (v : Tract) : (s.setTract n v).spcfg = s.spcfg := rfl
@[simp] theorem State.rr_setTract (s : State) (n : Nat) (v : Tract) : (s.setTract n v).rr = s.rr := rfl
@[simp] theorem State.passDue_setTract (s : State) (n : Nat) (v : Tract) : (s.setTract n v).passDue = s.passDue := rfl
@[simp] theorem State.walks_setTract (s : State) (n : Nat) (v : Tract) : (s.setTract n v).walks = s.walks := rfl
@[simp] theorem State.nextWalk_setTract (s : State) (n : Nat) (v : Tract) : (s.setTract n v).nextWalk = s.nextWalk := rfl
@[simp] theorem State.remotes_setTract (s : State) (n : Nat) (v : Tract) : (s.setTract n v).remotes = s.remotes := rfl
@[simp] theorem State.nextTag_setTract (s : State) (n : Nat) (v : Tract) : (s.setTract n v).nextTag = s.nextTag := rfl
@[simp] theorem State.parked_setTract (s : State) (n : Nat) (v : Tract) : (s.setTract n v).parked = s.parked := rfl
@[simp] theorem State.heard_setTract (s : State) (n : Nat) (v : Tract) : (s.setTract n v).heard = s.heard := rfl
@[simp] theorem State.scalls_setTract (s : State) (n : Nat) (v : Tract) : (s.setTract n v).scalls = s.scalls := rfl
@[simp] theorem State.nextScall_setTract (s : State) (n : Nat) (v : Tract) : (s.setTract n v).nextScall = s.nextScall := rfl
@[simp] theorem State.extents_setTract (s : State) (n : Nat) (v : Tract) : (s.setTract n v).extents = s.extents := rfl
@[simp] theorem State.helm_setTract (s : State) (n : Nat) (v : Tract) : (s.setTract n v).helm = s.helm := rfl
@[simp] theorem State.mem_setTract (s : State) (n : Nat) (v : Tract) : (s.setTract n v).mem = s.mem := rfl
@[simp] theorem State.fitted_setTract (s : State) (n : Nat) (v : Tract) : (s.setTract n v).fitted = s.fitted := rfl
@[simp] theorem State.host_setTract (s : State) (n : Nat) (v : Tract) : (s.setTract n v).host = s.host := rfl
@[simp] theorem State.qctl_setTract (s : State) (n : Nat) (v : Tract) : (s.setTract n v).qctl = s.qctl := rfl
@[simp] theorem State.qctlK_setTract (s : State) (n : Nat) (v : Tract) : (s.setTract n v).qctlK = s.qctlK := rfl
@[simp] theorem State.cxcmd_setTract (s : State) (n : Nat) (v : Tract) : (s.setTract n v).cxcmd = s.cxcmd := rfl
@[simp] theorem State.cxWait_setTract (s : State) (n : Nat) (v : Tract) : (s.setTract n v).cxWait = s.cxWait := rfl
@[simp] theorem State.recs_setTract (s : State) (n : Nat) (v : Tract) : (s.setTract n v).recs = s.recs := rfl
@[simp] theorem State.ctxtab_setTract (s : State) (n : Nat) (v : Tract) : (s.setTract n v).ctxtab = s.ctxtab := rfl
@[simp] theorem State.qimg_setTract (s : State) (n : Nat) (v : Tract) : (s.setTract n v).qimg = s.qimg := rfl
@[simp] theorem State.shoots_setTract (s : State) (n : Nat) (v : Tract) : (s.setTract n v).shoots = s.shoots := rfl
@[simp] theorem State.intr_setTract (s : State) (n : Nat) (v : Tract) : (s.setTract n v).intr = s.intr := rfl
@[simp] theorem State.cur_setTract (s : State) (n : Nat) (v : Tract) : (s.setTract n v).cur = s.cur := rfl
@[simp] theorem State.port_setTract (s : State) (n : Nat) (v : Tract) : (s.setTract n v).port = s.port := rfl
@[simp] theorem State.agenda_setTract (s : State) (n : Nat) (v : Tract) : (s.setTract n v).agenda = s.agenda := rfl
@[simp] theorem State.freeCtr_setTract (s : State) (n : Nat) (v : Tract) : (s.setTract n v).freeCtr = s.freeCtr := rfl

/-! ### `setPace` -/

theorem State.pace_setPace (s : State) (n m : Nat) (v : Pace) :
    (s.setPace n v).pace m = if m = n then v else s.pace m := Tbl.get_set ..

@[simp] theorem State.pace_setPace_self (s : State) (n : Nat) (v : Pace) : (s.setPace n v).pace n = v := by
  simp [State.pace_setPace]

@[simp] theorem State.core_setPace (s : State) (n m : Nat) (v : Pace) : (s.setPace n v).core m = s.core m := rfl
@[simp] theorem State.kernel_setPace (s : State) (n m : Nat) (v : Pace) : (s.setPace n v).kernel m = s.kernel m := rfl
@[simp] theorem State.tract_setPace (s : State) (n m : Nat) (v : Pace) : (s.setPace n v).tract m = s.tract m := rfl
@[simp] theorem State.sink_setPace (s : State) (n m : Nat) (v : Pace) : (s.setPace n v).sink m = s.sink m := rfl
@[simp] theorem State.stile_setPace (s : State) (n m : Nat) (v : Pace) : (s.setPace n v).stile m = s.stile m := rfl
@[simp] theorem State.drill_setPace (s : State) (n m : Nat) (v : Pace) : (s.setPace n v).drill m = s.drill m := rfl
@[simp] theorem State.queue_setPace (s : State) (n m : Nat) (v : Pace) : (s.setPace n v).queue m = s.queue m := rfl
@[simp] theorem State.ctx_setPace (s : State) (n m : Nat) (v : Pace) : (s.setPace n v).ctx m = s.ctx m := rfl
@[simp] theorem State.die_setPace (s : State) (n m : Nat) (v : Pace) : (s.setPace n v).die m = s.die m := rfl
@[simp] theorem State.sextant_setPace (s : State) (n m : Nat) (v : Pace) : (s.setPace n v).sextant m = s.sextant m := rfl
@[simp] theorem State.link_setPace (s : State) (n m : Nat) (v : Pace) : (s.setPace n v).link m = s.link m := rfl
@[simp] theorem State.vf_setPace (s : State) (n m : Nat) (v : Pace) : (s.setPace n v).vf m = s.vf m := rfl
@[simp] theorem State.svc_setPace (s : State) (n m : Nat) (v : Pace) : (s.setPace n v).svc m = s.svc m := rfl
@[simp] theorem State.pkg_setPace (s : State) (n : Nat) (v : Pace) : (s.setPace n v).pkg = s.pkg := rfl
@[simp] theorem State.chron_setPace (s : State) (n : Nat) (v : Pace) : (s.setPace n v).chron = s.chron := rfl
@[simp] theorem State.adjust_setPace (s : State) (n : Nat) (v : Pace) : (s.setPace n v).adjust = s.adjust := rfl
@[simp] theorem State.nextKernel_setPace (s : State) (n : Nat) (v : Pace) : (s.setPace n v).nextKernel = s.nextKernel := rfl
@[simp] theorem State.spcfg_setPace (s : State) (n : Nat) (v : Pace) : (s.setPace n v).spcfg = s.spcfg := rfl
@[simp] theorem State.rr_setPace (s : State) (n : Nat) (v : Pace) : (s.setPace n v).rr = s.rr := rfl
@[simp] theorem State.passDue_setPace (s : State) (n : Nat) (v : Pace) : (s.setPace n v).passDue = s.passDue := rfl
@[simp] theorem State.walks_setPace (s : State) (n : Nat) (v : Pace) : (s.setPace n v).walks = s.walks := rfl
@[simp] theorem State.nextWalk_setPace (s : State) (n : Nat) (v : Pace) : (s.setPace n v).nextWalk = s.nextWalk := rfl
@[simp] theorem State.remotes_setPace (s : State) (n : Nat) (v : Pace) : (s.setPace n v).remotes = s.remotes := rfl
@[simp] theorem State.nextTag_setPace (s : State) (n : Nat) (v : Pace) : (s.setPace n v).nextTag = s.nextTag := rfl
@[simp] theorem State.parked_setPace (s : State) (n : Nat) (v : Pace) : (s.setPace n v).parked = s.parked := rfl
@[simp] theorem State.heard_setPace (s : State) (n : Nat) (v : Pace) : (s.setPace n v).heard = s.heard := rfl
@[simp] theorem State.scalls_setPace (s : State) (n : Nat) (v : Pace) : (s.setPace n v).scalls = s.scalls := rfl
@[simp] theorem State.nextScall_setPace (s : State) (n : Nat) (v : Pace) : (s.setPace n v).nextScall = s.nextScall := rfl
@[simp] theorem State.extents_setPace (s : State) (n : Nat) (v : Pace) : (s.setPace n v).extents = s.extents := rfl
@[simp] theorem State.helm_setPace (s : State) (n : Nat) (v : Pace) : (s.setPace n v).helm = s.helm := rfl
@[simp] theorem State.mem_setPace (s : State) (n : Nat) (v : Pace) : (s.setPace n v).mem = s.mem := rfl
@[simp] theorem State.fitted_setPace (s : State) (n : Nat) (v : Pace) : (s.setPace n v).fitted = s.fitted := rfl
@[simp] theorem State.host_setPace (s : State) (n : Nat) (v : Pace) : (s.setPace n v).host = s.host := rfl
@[simp] theorem State.qctl_setPace (s : State) (n : Nat) (v : Pace) : (s.setPace n v).qctl = s.qctl := rfl
@[simp] theorem State.qctlK_setPace (s : State) (n : Nat) (v : Pace) : (s.setPace n v).qctlK = s.qctlK := rfl
@[simp] theorem State.cxcmd_setPace (s : State) (n : Nat) (v : Pace) : (s.setPace n v).cxcmd = s.cxcmd := rfl
@[simp] theorem State.cxWait_setPace (s : State) (n : Nat) (v : Pace) : (s.setPace n v).cxWait = s.cxWait := rfl
@[simp] theorem State.recs_setPace (s : State) (n : Nat) (v : Pace) : (s.setPace n v).recs = s.recs := rfl
@[simp] theorem State.ctxtab_setPace (s : State) (n : Nat) (v : Pace) : (s.setPace n v).ctxtab = s.ctxtab := rfl
@[simp] theorem State.qimg_setPace (s : State) (n : Nat) (v : Pace) : (s.setPace n v).qimg = s.qimg := rfl
@[simp] theorem State.shoots_setPace (s : State) (n : Nat) (v : Pace) : (s.setPace n v).shoots = s.shoots := rfl
@[simp] theorem State.intr_setPace (s : State) (n : Nat) (v : Pace) : (s.setPace n v).intr = s.intr := rfl
@[simp] theorem State.cur_setPace (s : State) (n : Nat) (v : Pace) : (s.setPace n v).cur = s.cur := rfl
@[simp] theorem State.port_setPace (s : State) (n : Nat) (v : Pace) : (s.setPace n v).port = s.port := rfl
@[simp] theorem State.agenda_setPace (s : State) (n : Nat) (v : Pace) : (s.setPace n v).agenda = s.agenda := rfl
@[simp] theorem State.freeCtr_setPace (s : State) (n : Nat) (v : Pace) : (s.setPace n v).freeCtr = s.freeCtr := rfl

/-! ### `setSink` -/

theorem State.sink_setSink (s : State) (n m : Nat) (v : Sink) :
    (s.setSink n v).sink m = if m = n then v else s.sink m := Tbl.get_set ..

@[simp] theorem State.sink_setSink_self (s : State) (n : Nat) (v : Sink) : (s.setSink n v).sink n = v := by
  simp [State.sink_setSink]

@[simp] theorem State.core_setSink (s : State) (n m : Nat) (v : Sink) : (s.setSink n v).core m = s.core m := rfl
@[simp] theorem State.kernel_setSink (s : State) (n m : Nat) (v : Sink) : (s.setSink n v).kernel m = s.kernel m := rfl
@[simp] theorem State.tract_setSink (s : State) (n m : Nat) (v : Sink) : (s.setSink n v).tract m = s.tract m := rfl
@[simp] theorem State.pace_setSink (s : State) (n m : Nat) (v : Sink) : (s.setSink n v).pace m = s.pace m := rfl
@[simp] theorem State.stile_setSink (s : State) (n m : Nat) (v : Sink) : (s.setSink n v).stile m = s.stile m := rfl
@[simp] theorem State.drill_setSink (s : State) (n m : Nat) (v : Sink) : (s.setSink n v).drill m = s.drill m := rfl
@[simp] theorem State.queue_setSink (s : State) (n m : Nat) (v : Sink) : (s.setSink n v).queue m = s.queue m := rfl
@[simp] theorem State.ctx_setSink (s : State) (n m : Nat) (v : Sink) : (s.setSink n v).ctx m = s.ctx m := rfl
@[simp] theorem State.die_setSink (s : State) (n m : Nat) (v : Sink) : (s.setSink n v).die m = s.die m := rfl
@[simp] theorem State.sextant_setSink (s : State) (n m : Nat) (v : Sink) : (s.setSink n v).sextant m = s.sextant m := rfl
@[simp] theorem State.link_setSink (s : State) (n m : Nat) (v : Sink) : (s.setSink n v).link m = s.link m := rfl
@[simp] theorem State.vf_setSink (s : State) (n m : Nat) (v : Sink) : (s.setSink n v).vf m = s.vf m := rfl
@[simp] theorem State.svc_setSink (s : State) (n m : Nat) (v : Sink) : (s.setSink n v).svc m = s.svc m := rfl
@[simp] theorem State.pkg_setSink (s : State) (n : Nat) (v : Sink) : (s.setSink n v).pkg = s.pkg := rfl
@[simp] theorem State.chron_setSink (s : State) (n : Nat) (v : Sink) : (s.setSink n v).chron = s.chron := rfl
@[simp] theorem State.adjust_setSink (s : State) (n : Nat) (v : Sink) : (s.setSink n v).adjust = s.adjust := rfl
@[simp] theorem State.nextKernel_setSink (s : State) (n : Nat) (v : Sink) : (s.setSink n v).nextKernel = s.nextKernel := rfl
@[simp] theorem State.spcfg_setSink (s : State) (n : Nat) (v : Sink) : (s.setSink n v).spcfg = s.spcfg := rfl
@[simp] theorem State.rr_setSink (s : State) (n : Nat) (v : Sink) : (s.setSink n v).rr = s.rr := rfl
@[simp] theorem State.passDue_setSink (s : State) (n : Nat) (v : Sink) : (s.setSink n v).passDue = s.passDue := rfl
@[simp] theorem State.walks_setSink (s : State) (n : Nat) (v : Sink) : (s.setSink n v).walks = s.walks := rfl
@[simp] theorem State.nextWalk_setSink (s : State) (n : Nat) (v : Sink) : (s.setSink n v).nextWalk = s.nextWalk := rfl
@[simp] theorem State.remotes_setSink (s : State) (n : Nat) (v : Sink) : (s.setSink n v).remotes = s.remotes := rfl
@[simp] theorem State.nextTag_setSink (s : State) (n : Nat) (v : Sink) : (s.setSink n v).nextTag = s.nextTag := rfl
@[simp] theorem State.parked_setSink (s : State) (n : Nat) (v : Sink) : (s.setSink n v).parked = s.parked := rfl
@[simp] theorem State.heard_setSink (s : State) (n : Nat) (v : Sink) : (s.setSink n v).heard = s.heard := rfl
@[simp] theorem State.scalls_setSink (s : State) (n : Nat) (v : Sink) : (s.setSink n v).scalls = s.scalls := rfl
@[simp] theorem State.nextScall_setSink (s : State) (n : Nat) (v : Sink) : (s.setSink n v).nextScall = s.nextScall := rfl
@[simp] theorem State.extents_setSink (s : State) (n : Nat) (v : Sink) : (s.setSink n v).extents = s.extents := rfl
@[simp] theorem State.helm_setSink (s : State) (n : Nat) (v : Sink) : (s.setSink n v).helm = s.helm := rfl
@[simp] theorem State.mem_setSink (s : State) (n : Nat) (v : Sink) : (s.setSink n v).mem = s.mem := rfl
@[simp] theorem State.fitted_setSink (s : State) (n : Nat) (v : Sink) : (s.setSink n v).fitted = s.fitted := rfl
@[simp] theorem State.host_setSink (s : State) (n : Nat) (v : Sink) : (s.setSink n v).host = s.host := rfl
@[simp] theorem State.qctl_setSink (s : State) (n : Nat) (v : Sink) : (s.setSink n v).qctl = s.qctl := rfl
@[simp] theorem State.qctlK_setSink (s : State) (n : Nat) (v : Sink) : (s.setSink n v).qctlK = s.qctlK := rfl
@[simp] theorem State.cxcmd_setSink (s : State) (n : Nat) (v : Sink) : (s.setSink n v).cxcmd = s.cxcmd := rfl
@[simp] theorem State.cxWait_setSink (s : State) (n : Nat) (v : Sink) : (s.setSink n v).cxWait = s.cxWait := rfl
@[simp] theorem State.recs_setSink (s : State) (n : Nat) (v : Sink) : (s.setSink n v).recs = s.recs := rfl
@[simp] theorem State.ctxtab_setSink (s : State) (n : Nat) (v : Sink) : (s.setSink n v).ctxtab = s.ctxtab := rfl
@[simp] theorem State.qimg_setSink (s : State) (n : Nat) (v : Sink) : (s.setSink n v).qimg = s.qimg := rfl
@[simp] theorem State.shoots_setSink (s : State) (n : Nat) (v : Sink) : (s.setSink n v).shoots = s.shoots := rfl
@[simp] theorem State.intr_setSink (s : State) (n : Nat) (v : Sink) : (s.setSink n v).intr = s.intr := rfl
@[simp] theorem State.cur_setSink (s : State) (n : Nat) (v : Sink) : (s.setSink n v).cur = s.cur := rfl
@[simp] theorem State.port_setSink (s : State) (n : Nat) (v : Sink) : (s.setSink n v).port = s.port := rfl
@[simp] theorem State.agenda_setSink (s : State) (n : Nat) (v : Sink) : (s.setSink n v).agenda = s.agenda := rfl
@[simp] theorem State.freeCtr_setSink (s : State) (n : Nat) (v : Sink) : (s.setSink n v).freeCtr = s.freeCtr := rfl

/-! ### `setStile` -/

theorem State.stile_setStile (s : State) (n m : Nat) (v : Stile) :
    (s.setStile n v).stile m = if m = n then v else s.stile m := Tbl.get_set ..

@[simp] theorem State.stile_setStile_self (s : State) (n : Nat) (v : Stile) : (s.setStile n v).stile n = v := by
  simp [State.stile_setStile]

@[simp] theorem State.core_setStile (s : State) (n m : Nat) (v : Stile) : (s.setStile n v).core m = s.core m := rfl
@[simp] theorem State.kernel_setStile (s : State) (n m : Nat) (v : Stile) : (s.setStile n v).kernel m = s.kernel m := rfl
@[simp] theorem State.tract_setStile (s : State) (n m : Nat) (v : Stile) : (s.setStile n v).tract m = s.tract m := rfl
@[simp] theorem State.pace_setStile (s : State) (n m : Nat) (v : Stile) : (s.setStile n v).pace m = s.pace m := rfl
@[simp] theorem State.sink_setStile (s : State) (n m : Nat) (v : Stile) : (s.setStile n v).sink m = s.sink m := rfl
@[simp] theorem State.drill_setStile (s : State) (n m : Nat) (v : Stile) : (s.setStile n v).drill m = s.drill m := rfl
@[simp] theorem State.queue_setStile (s : State) (n m : Nat) (v : Stile) : (s.setStile n v).queue m = s.queue m := rfl
@[simp] theorem State.ctx_setStile (s : State) (n m : Nat) (v : Stile) : (s.setStile n v).ctx m = s.ctx m := rfl
@[simp] theorem State.die_setStile (s : State) (n m : Nat) (v : Stile) : (s.setStile n v).die m = s.die m := rfl
@[simp] theorem State.sextant_setStile (s : State) (n m : Nat) (v : Stile) : (s.setStile n v).sextant m = s.sextant m := rfl
@[simp] theorem State.link_setStile (s : State) (n m : Nat) (v : Stile) : (s.setStile n v).link m = s.link m := rfl
@[simp] theorem State.vf_setStile (s : State) (n m : Nat) (v : Stile) : (s.setStile n v).vf m = s.vf m := rfl
@[simp] theorem State.svc_setStile (s : State) (n m : Nat) (v : Stile) : (s.setStile n v).svc m = s.svc m := rfl
@[simp] theorem State.pkg_setStile (s : State) (n : Nat) (v : Stile) : (s.setStile n v).pkg = s.pkg := rfl
@[simp] theorem State.chron_setStile (s : State) (n : Nat) (v : Stile) : (s.setStile n v).chron = s.chron := rfl
@[simp] theorem State.adjust_setStile (s : State) (n : Nat) (v : Stile) : (s.setStile n v).adjust = s.adjust := rfl
@[simp] theorem State.nextKernel_setStile (s : State) (n : Nat) (v : Stile) : (s.setStile n v).nextKernel = s.nextKernel := rfl
@[simp] theorem State.spcfg_setStile (s : State) (n : Nat) (v : Stile) : (s.setStile n v).spcfg = s.spcfg := rfl
@[simp] theorem State.rr_setStile (s : State) (n : Nat) (v : Stile) : (s.setStile n v).rr = s.rr := rfl
@[simp] theorem State.passDue_setStile (s : State) (n : Nat) (v : Stile) : (s.setStile n v).passDue = s.passDue := rfl
@[simp] theorem State.walks_setStile (s : State) (n : Nat) (v : Stile) : (s.setStile n v).walks = s.walks := rfl
@[simp] theorem State.nextWalk_setStile (s : State) (n : Nat) (v : Stile) : (s.setStile n v).nextWalk = s.nextWalk := rfl
@[simp] theorem State.remotes_setStile (s : State) (n : Nat) (v : Stile) : (s.setStile n v).remotes = s.remotes := rfl
@[simp] theorem State.nextTag_setStile (s : State) (n : Nat) (v : Stile) : (s.setStile n v).nextTag = s.nextTag := rfl
@[simp] theorem State.parked_setStile (s : State) (n : Nat) (v : Stile) : (s.setStile n v).parked = s.parked := rfl
@[simp] theorem State.heard_setStile (s : State) (n : Nat) (v : Stile) : (s.setStile n v).heard = s.heard := rfl
@[simp] theorem State.scalls_setStile (s : State) (n : Nat) (v : Stile) : (s.setStile n v).scalls = s.scalls := rfl
@[simp] theorem State.nextScall_setStile (s : State) (n : Nat) (v : Stile) : (s.setStile n v).nextScall = s.nextScall := rfl
@[simp] theorem State.extents_setStile (s : State) (n : Nat) (v : Stile) : (s.setStile n v).extents = s.extents := rfl
@[simp] theorem State.helm_setStile (s : State) (n : Nat) (v : Stile) : (s.setStile n v).helm = s.helm := rfl
@[simp] theorem State.mem_setStile (s : State) (n : Nat) (v : Stile) : (s.setStile n v).mem = s.mem := rfl
@[simp] theorem State.fitted_setStile (s : State) (n : Nat) (v : Stile) : (s.setStile n v).fitted = s.fitted := rfl
@[simp] theorem State.host_setStile (s : State) (n : Nat) (v : Stile) : (s.setStile n v).host = s.host := rfl
@[simp] theorem State.qctl_setStile (s : State) (n : Nat) (v : Stile) : (s.setStile n v).qctl = s.qctl := rfl
@[simp] theorem State.qctlK_setStile (s : State) (n : Nat) (v : Stile) : (s.setStile n v).qctlK = s.qctlK := rfl
@[simp] theorem State.cxcmd_setStile (s : State) (n : Nat) (v : Stile) : (s.setStile n v).cxcmd = s.cxcmd := rfl
@[simp] theorem State.cxWait_setStile (s : State) (n : Nat) (v : Stile) : (s.setStile n v).cxWait = s.cxWait := rfl
@[simp] theorem State.recs_setStile (s : State) (n : Nat) (v : Stile) : (s.setStile n v).recs = s.recs := rfl
@[simp] theorem State.ctxtab_setStile (s : State) (n : Nat) (v : Stile) : (s.setStile n v).ctxtab = s.ctxtab := rfl
@[simp] theorem State.qimg_setStile (s : State) (n : Nat) (v : Stile) : (s.setStile n v).qimg = s.qimg := rfl
@[simp] theorem State.shoots_setStile (s : State) (n : Nat) (v : Stile) : (s.setStile n v).shoots = s.shoots := rfl
@[simp] theorem State.intr_setStile (s : State) (n : Nat) (v : Stile) : (s.setStile n v).intr = s.intr := rfl
@[simp] theorem State.cur_setStile (s : State) (n : Nat) (v : Stile) : (s.setStile n v).cur = s.cur := rfl
@[simp] theorem State.port_setStile (s : State) (n : Nat) (v : Stile) : (s.setStile n v).port = s.port := rfl
@[simp] theorem State.agenda_setStile (s : State) (n : Nat) (v : Stile) : (s.setStile n v).agenda = s.agenda := rfl
@[simp] theorem State.freeCtr_setStile (s : State) (n : Nat) (v : Stile) : (s.setStile n v).freeCtr = s.freeCtr := rfl

/-! ### `setDrill` -/

theorem State.drill_setDrill (s : State) (n m : Nat) (v : Drill) :
    (s.setDrill n v).drill m = if m = n then v else s.drill m := Tbl.get_set ..

@[simp] theorem State.drill_setDrill_self (s : State) (n : Nat) (v : Drill) : (s.setDrill n v).drill n = v := by
  simp [State.drill_setDrill]

@[simp] theorem State.core_setDrill (s : State) (n m : Nat) (v : Drill) : (s.setDrill n v).core m = s.core m := rfl
@[simp] theorem State.kernel_setDrill (s : State) (n m : Nat) (v : Drill) : (s.setDrill n v).kernel m = s.kernel m := rfl
@[simp] theorem State.tract_setDrill (s : State) (n m : Nat) (v : Drill) : (s.setDrill n v).tract m = s.tract m := rfl
@[simp] theorem State.pace_setDrill (s : State) (n m : Nat) (v : Drill) : (s.setDrill n v).pace m = s.pace m := rfl
@[simp] theorem State.sink_setDrill (s : State) (n m : Nat) (v : Drill) : (s.setDrill n v).sink m = s.sink m := rfl
@[simp] theorem State.stile_setDrill (s : State) (n m : Nat) (v : Drill) : (s.setDrill n v).stile m = s.stile m := rfl
@[simp] theorem State.queue_setDrill (s : State) (n m : Nat) (v : Drill) : (s.setDrill n v).queue m = s.queue m := rfl
@[simp] theorem State.ctx_setDrill (s : State) (n m : Nat) (v : Drill) : (s.setDrill n v).ctx m = s.ctx m := rfl
@[simp] theorem State.die_setDrill (s : State) (n m : Nat) (v : Drill) : (s.setDrill n v).die m = s.die m := rfl
@[simp] theorem State.sextant_setDrill (s : State) (n m : Nat) (v : Drill) : (s.setDrill n v).sextant m = s.sextant m := rfl
@[simp] theorem State.link_setDrill (s : State) (n m : Nat) (v : Drill) : (s.setDrill n v).link m = s.link m := rfl
@[simp] theorem State.vf_setDrill (s : State) (n m : Nat) (v : Drill) : (s.setDrill n v).vf m = s.vf m := rfl
@[simp] theorem State.svc_setDrill (s : State) (n m : Nat) (v : Drill) : (s.setDrill n v).svc m = s.svc m := rfl
@[simp] theorem State.pkg_setDrill (s : State) (n : Nat) (v : Drill) : (s.setDrill n v).pkg = s.pkg := rfl
@[simp] theorem State.chron_setDrill (s : State) (n : Nat) (v : Drill) : (s.setDrill n v).chron = s.chron := rfl
@[simp] theorem State.adjust_setDrill (s : State) (n : Nat) (v : Drill) : (s.setDrill n v).adjust = s.adjust := rfl
@[simp] theorem State.nextKernel_setDrill (s : State) (n : Nat) (v : Drill) : (s.setDrill n v).nextKernel = s.nextKernel := rfl
@[simp] theorem State.spcfg_setDrill (s : State) (n : Nat) (v : Drill) : (s.setDrill n v).spcfg = s.spcfg := rfl
@[simp] theorem State.rr_setDrill (s : State) (n : Nat) (v : Drill) : (s.setDrill n v).rr = s.rr := rfl
@[simp] theorem State.passDue_setDrill (s : State) (n : Nat) (v : Drill) : (s.setDrill n v).passDue = s.passDue := rfl
@[simp] theorem State.walks_setDrill (s : State) (n : Nat) (v : Drill) : (s.setDrill n v).walks = s.walks := rfl
@[simp] theorem State.nextWalk_setDrill (s : State) (n : Nat) (v : Drill) : (s.setDrill n v).nextWalk = s.nextWalk := rfl
@[simp] theorem State.remotes_setDrill (s : State) (n : Nat) (v : Drill) : (s.setDrill n v).remotes = s.remotes := rfl
@[simp] theorem State.nextTag_setDrill (s : State) (n : Nat) (v : Drill) : (s.setDrill n v).nextTag = s.nextTag := rfl
@[simp] theorem State.parked_setDrill (s : State) (n : Nat) (v : Drill) : (s.setDrill n v).parked = s.parked := rfl
@[simp] theorem State.heard_setDrill (s : State) (n : Nat) (v : Drill) : (s.setDrill n v).heard = s.heard := rfl
@[simp] theorem State.scalls_setDrill (s : State) (n : Nat) (v : Drill) : (s.setDrill n v).scalls = s.scalls := rfl
@[simp] theorem State.nextScall_setDrill (s : State) (n : Nat) (v : Drill) : (s.setDrill n v).nextScall = s.nextScall := rfl
@[simp] theorem State.extents_setDrill (s : State) (n : Nat) (v : Drill) : (s.setDrill n v).extents = s.extents := rfl
@[simp] theorem State.helm_setDrill (s : State) (n : Nat) (v : Drill) : (s.setDrill n v).helm = s.helm := rfl
@[simp] theorem State.mem_setDrill (s : State) (n : Nat) (v : Drill) : (s.setDrill n v).mem = s.mem := rfl
@[simp] theorem State.fitted_setDrill (s : State) (n : Nat) (v : Drill) : (s.setDrill n v).fitted = s.fitted := rfl
@[simp] theorem State.host_setDrill (s : State) (n : Nat) (v : Drill) : (s.setDrill n v).host = s.host := rfl
@[simp] theorem State.qctl_setDrill (s : State) (n : Nat) (v : Drill) : (s.setDrill n v).qctl = s.qctl := rfl
@[simp] theorem State.qctlK_setDrill (s : State) (n : Nat) (v : Drill) : (s.setDrill n v).qctlK = s.qctlK := rfl
@[simp] theorem State.cxcmd_setDrill (s : State) (n : Nat) (v : Drill) : (s.setDrill n v).cxcmd = s.cxcmd := rfl
@[simp] theorem State.cxWait_setDrill (s : State) (n : Nat) (v : Drill) : (s.setDrill n v).cxWait = s.cxWait := rfl
@[simp] theorem State.recs_setDrill (s : State) (n : Nat) (v : Drill) : (s.setDrill n v).recs = s.recs := rfl
@[simp] theorem State.ctxtab_setDrill (s : State) (n : Nat) (v : Drill) : (s.setDrill n v).ctxtab = s.ctxtab := rfl
@[simp] theorem State.qimg_setDrill (s : State) (n : Nat) (v : Drill) : (s.setDrill n v).qimg = s.qimg := rfl
@[simp] theorem State.shoots_setDrill (s : State) (n : Nat) (v : Drill) : (s.setDrill n v).shoots = s.shoots := rfl
@[simp] theorem State.intr_setDrill (s : State) (n : Nat) (v : Drill) : (s.setDrill n v).intr = s.intr := rfl
@[simp] theorem State.cur_setDrill (s : State) (n : Nat) (v : Drill) : (s.setDrill n v).cur = s.cur := rfl
@[simp] theorem State.port_setDrill (s : State) (n : Nat) (v : Drill) : (s.setDrill n v).port = s.port := rfl
@[simp] theorem State.agenda_setDrill (s : State) (n : Nat) (v : Drill) : (s.setDrill n v).agenda = s.agenda := rfl
@[simp] theorem State.freeCtr_setDrill (s : State) (n : Nat) (v : Drill) : (s.setDrill n v).freeCtr = s.freeCtr := rfl

/-! ### `setQueue` -/

theorem State.queue_setQueue (s : State) (n m : Nat) (v : Queue) :
    (s.setQueue n v).queue m = if m = n then v else s.queue m := Tbl.get_set ..

@[simp] theorem State.queue_setQueue_self (s : State) (n : Nat) (v : Queue) : (s.setQueue n v).queue n = v := by
  simp [State.queue_setQueue]

@[simp] theorem State.core_setQueue (s : State) (n m : Nat) (v : Queue) : (s.setQueue n v).core m = s.core m := rfl
@[simp] theorem State.kernel_setQueue (s : State) (n m : Nat) (v : Queue) : (s.setQueue n v).kernel m = s.kernel m := rfl
@[simp] theorem State.tract_setQueue (s : State) (n m : Nat) (v : Queue) : (s.setQueue n v).tract m = s.tract m := rfl
@[simp] theorem State.pace_setQueue (s : State) (n m : Nat) (v : Queue) : (s.setQueue n v).pace m = s.pace m := rfl
@[simp] theorem State.sink_setQueue (s : State) (n m : Nat) (v : Queue) : (s.setQueue n v).sink m = s.sink m := rfl
@[simp] theorem State.stile_setQueue (s : State) (n m : Nat) (v : Queue) : (s.setQueue n v).stile m = s.stile m := rfl
@[simp] theorem State.drill_setQueue (s : State) (n m : Nat) (v : Queue) : (s.setQueue n v).drill m = s.drill m := rfl
@[simp] theorem State.ctx_setQueue (s : State) (n m : Nat) (v : Queue) : (s.setQueue n v).ctx m = s.ctx m := rfl
@[simp] theorem State.die_setQueue (s : State) (n m : Nat) (v : Queue) : (s.setQueue n v).die m = s.die m := rfl
@[simp] theorem State.sextant_setQueue (s : State) (n m : Nat) (v : Queue) : (s.setQueue n v).sextant m = s.sextant m := rfl
@[simp] theorem State.link_setQueue (s : State) (n m : Nat) (v : Queue) : (s.setQueue n v).link m = s.link m := rfl
@[simp] theorem State.vf_setQueue (s : State) (n m : Nat) (v : Queue) : (s.setQueue n v).vf m = s.vf m := rfl
@[simp] theorem State.svc_setQueue (s : State) (n m : Nat) (v : Queue) : (s.setQueue n v).svc m = s.svc m := rfl
@[simp] theorem State.pkg_setQueue (s : State) (n : Nat) (v : Queue) : (s.setQueue n v).pkg = s.pkg := rfl
@[simp] theorem State.chron_setQueue (s : State) (n : Nat) (v : Queue) : (s.setQueue n v).chron = s.chron := rfl
@[simp] theorem State.adjust_setQueue (s : State) (n : Nat) (v : Queue) : (s.setQueue n v).adjust = s.adjust := rfl
@[simp] theorem State.nextKernel_setQueue (s : State) (n : Nat) (v : Queue) : (s.setQueue n v).nextKernel = s.nextKernel := rfl
@[simp] theorem State.spcfg_setQueue (s : State) (n : Nat) (v : Queue) : (s.setQueue n v).spcfg = s.spcfg := rfl
@[simp] theorem State.rr_setQueue (s : State) (n : Nat) (v : Queue) : (s.setQueue n v).rr = s.rr := rfl
@[simp] theorem State.passDue_setQueue (s : State) (n : Nat) (v : Queue) : (s.setQueue n v).passDue = s.passDue := rfl
@[simp] theorem State.walks_setQueue (s : State) (n : Nat) (v : Queue) : (s.setQueue n v).walks = s.walks := rfl
@[simp] theorem State.nextWalk_setQueue (s : State) (n : Nat) (v : Queue) : (s.setQueue n v).nextWalk = s.nextWalk := rfl
@[simp] theorem State.remotes_setQueue (s : State) (n : Nat) (v : Queue) : (s.setQueue n v).remotes = s.remotes := rfl
@[simp] theorem State.nextTag_setQueue (s : State) (n : Nat) (v : Queue) : (s.setQueue n v).nextTag = s.nextTag := rfl
@[simp] theorem State.parked_setQueue (s : State) (n : Nat) (v : Queue) : (s.setQueue n v).parked = s.parked := rfl
@[simp] theorem State.heard_setQueue (s : State) (n : Nat) (v : Queue) : (s.setQueue n v).heard = s.heard := rfl
@[simp] theorem State.scalls_setQueue (s : State) (n : Nat) (v : Queue) : (s.setQueue n v).scalls = s.scalls := rfl
@[simp] theorem State.nextScall_setQueue (s : State) (n : Nat) (v : Queue) : (s.setQueue n v).nextScall = s.nextScall := rfl
@[simp] theorem State.extents_setQueue (s : State) (n : Nat) (v : Queue) : (s.setQueue n v).extents = s.extents := rfl
@[simp] theorem State.helm_setQueue (s : State) (n : Nat) (v : Queue) : (s.setQueue n v).helm = s.helm := rfl
@[simp] theorem State.mem_setQueue (s : State) (n : Nat) (v : Queue) : (s.setQueue n v).mem = s.mem := rfl
@[simp] theorem State.fitted_setQueue (s : State) (n : Nat) (v : Queue) : (s.setQueue n v).fitted = s.fitted := rfl
@[simp] theorem State.host_setQueue (s : State) (n : Nat) (v : Queue) : (s.setQueue n v).host = s.host := rfl
@[simp] theorem State.qctl_setQueue (s : State) (n : Nat) (v : Queue) : (s.setQueue n v).qctl = s.qctl := rfl
@[simp] theorem State.qctlK_setQueue (s : State) (n : Nat) (v : Queue) : (s.setQueue n v).qctlK = s.qctlK := rfl
@[simp] theorem State.cxcmd_setQueue (s : State) (n : Nat) (v : Queue) : (s.setQueue n v).cxcmd = s.cxcmd := rfl
@[simp] theorem State.cxWait_setQueue (s : State) (n : Nat) (v : Queue) : (s.setQueue n v).cxWait = s.cxWait := rfl
@[simp] theorem State.recs_setQueue (s : State) (n : Nat) (v : Queue) : (s.setQueue n v).recs = s.recs := rfl
@[simp] theorem State.ctxtab_setQueue (s : State) (n : Nat) (v : Queue) : (s.setQueue n v).ctxtab = s.ctxtab := rfl
@[simp] theorem State.qimg_setQueue (s : State) (n : Nat) (v : Queue) : (s.setQueue n v).qimg = s.qimg := rfl
@[simp] theorem State.shoots_setQueue (s : State) (n : Nat) (v : Queue) : (s.setQueue n v).shoots = s.shoots := rfl
@[simp] theorem State.intr_setQueue (s : State) (n : Nat) (v : Queue) : (s.setQueue n v).intr = s.intr := rfl
@[simp] theorem State.cur_setQueue (s : State) (n : Nat) (v : Queue) : (s.setQueue n v).cur = s.cur := rfl
@[simp] theorem State.port_setQueue (s : State) (n : Nat) (v : Queue) : (s.setQueue n v).port = s.port := rfl
@[simp] theorem State.agenda_setQueue (s : State) (n : Nat) (v : Queue) : (s.setQueue n v).agenda = s.agenda := rfl
@[simp] theorem State.freeCtr_setQueue (s : State) (n : Nat) (v : Queue) : (s.setQueue n v).freeCtr = s.freeCtr := rfl

/-! ### `setCtx` -/

theorem State.ctx_setCtx (s : State) (n m : Nat) (v : Context) :
    (s.setCtx n v).ctx m = if m = n then v else s.ctx m := Tbl.get_set ..

@[simp] theorem State.ctx_setCtx_self (s : State) (n : Nat) (v : Context) : (s.setCtx n v).ctx n = v := by
  simp [State.ctx_setCtx]

@[simp] theorem State.core_setCtx (s : State) (n m : Nat) (v : Context) : (s.setCtx n v).core m = s.core m := rfl
@[simp] theorem State.kernel_setCtx (s : State) (n m : Nat) (v : Context) : (s.setCtx n v).kernel m = s.kernel m := rfl
@[simp] theorem State.tract_setCtx (s : State) (n m : Nat) (v : Context) : (s.setCtx n v).tract m = s.tract m := rfl
@[simp] theorem State.pace_setCtx (s : State) (n m : Nat) (v : Context) : (s.setCtx n v).pace m = s.pace m := rfl
@[simp] theorem State.sink_setCtx (s : State) (n m : Nat) (v : Context) : (s.setCtx n v).sink m = s.sink m := rfl
@[simp] theorem State.stile_setCtx (s : State) (n m : Nat) (v : Context) : (s.setCtx n v).stile m = s.stile m := rfl
@[simp] theorem State.drill_setCtx (s : State) (n m : Nat) (v : Context) : (s.setCtx n v).drill m = s.drill m := rfl
@[simp] theorem State.queue_setCtx (s : State) (n m : Nat) (v : Context) : (s.setCtx n v).queue m = s.queue m := rfl
@[simp] theorem State.die_setCtx (s : State) (n m : Nat) (v : Context) : (s.setCtx n v).die m = s.die m := rfl
@[simp] theorem State.sextant_setCtx (s : State) (n m : Nat) (v : Context) : (s.setCtx n v).sextant m = s.sextant m := rfl
@[simp] theorem State.link_setCtx (s : State) (n m : Nat) (v : Context) : (s.setCtx n v).link m = s.link m := rfl
@[simp] theorem State.vf_setCtx (s : State) (n m : Nat) (v : Context) : (s.setCtx n v).vf m = s.vf m := rfl
@[simp] theorem State.svc_setCtx (s : State) (n m : Nat) (v : Context) : (s.setCtx n v).svc m = s.svc m := rfl
@[simp] theorem State.pkg_setCtx (s : State) (n : Nat) (v : Context) : (s.setCtx n v).pkg = s.pkg := rfl
@[simp] theorem State.chron_setCtx (s : State) (n : Nat) (v : Context) : (s.setCtx n v).chron = s.chron := rfl
@[simp] theorem State.adjust_setCtx (s : State) (n : Nat) (v : Context) : (s.setCtx n v).adjust = s.adjust := rfl
@[simp] theorem State.nextKernel_setCtx (s : State) (n : Nat) (v : Context) : (s.setCtx n v).nextKernel = s.nextKernel := rfl
@[simp] theorem State.spcfg_setCtx (s : State) (n : Nat) (v : Context) : (s.setCtx n v).spcfg = s.spcfg := rfl
@[simp] theorem State.rr_setCtx (s : State) (n : Nat) (v : Context) : (s.setCtx n v).rr = s.rr := rfl
@[simp] theorem State.passDue_setCtx (s : State) (n : Nat) (v : Context) : (s.setCtx n v).passDue = s.passDue := rfl
@[simp] theorem State.walks_setCtx (s : State) (n : Nat) (v : Context) : (s.setCtx n v).walks = s.walks := rfl
@[simp] theorem State.nextWalk_setCtx (s : State) (n : Nat) (v : Context) : (s.setCtx n v).nextWalk = s.nextWalk := rfl
@[simp] theorem State.remotes_setCtx (s : State) (n : Nat) (v : Context) : (s.setCtx n v).remotes = s.remotes := rfl
@[simp] theorem State.nextTag_setCtx (s : State) (n : Nat) (v : Context) : (s.setCtx n v).nextTag = s.nextTag := rfl
@[simp] theorem State.parked_setCtx (s : State) (n : Nat) (v : Context) : (s.setCtx n v).parked = s.parked := rfl
@[simp] theorem State.heard_setCtx (s : State) (n : Nat) (v : Context) : (s.setCtx n v).heard = s.heard := rfl
@[simp] theorem State.scalls_setCtx (s : State) (n : Nat) (v : Context) : (s.setCtx n v).scalls = s.scalls := rfl
@[simp] theorem State.nextScall_setCtx (s : State) (n : Nat) (v : Context) : (s.setCtx n v).nextScall = s.nextScall := rfl
@[simp] theorem State.extents_setCtx (s : State) (n : Nat) (v : Context) : (s.setCtx n v).extents = s.extents := rfl
@[simp] theorem State.helm_setCtx (s : State) (n : Nat) (v : Context) : (s.setCtx n v).helm = s.helm := rfl
@[simp] theorem State.mem_setCtx (s : State) (n : Nat) (v : Context) : (s.setCtx n v).mem = s.mem := rfl
@[simp] theorem State.fitted_setCtx (s : State) (n : Nat) (v : Context) : (s.setCtx n v).fitted = s.fitted := rfl
@[simp] theorem State.host_setCtx (s : State) (n : Nat) (v : Context) : (s.setCtx n v).host = s.host := rfl
@[simp] theorem State.qctl_setCtx (s : State) (n : Nat) (v : Context) : (s.setCtx n v).qctl = s.qctl := rfl
@[simp] theorem State.qctlK_setCtx (s : State) (n : Nat) (v : Context) : (s.setCtx n v).qctlK = s.qctlK := rfl
@[simp] theorem State.cxcmd_setCtx (s : State) (n : Nat) (v : Context) : (s.setCtx n v).cxcmd = s.cxcmd := rfl
@[simp] theorem State.cxWait_setCtx (s : State) (n : Nat) (v : Context) : (s.setCtx n v).cxWait = s.cxWait := rfl
@[simp] theorem State.recs_setCtx (s : State) (n : Nat) (v : Context) : (s.setCtx n v).recs = s.recs := rfl
@[simp] theorem State.ctxtab_setCtx (s : State) (n : Nat) (v : Context) : (s.setCtx n v).ctxtab = s.ctxtab := rfl
@[simp] theorem State.qimg_setCtx (s : State) (n : Nat) (v : Context) : (s.setCtx n v).qimg = s.qimg := rfl
@[simp] theorem State.shoots_setCtx (s : State) (n : Nat) (v : Context) : (s.setCtx n v).shoots = s.shoots := rfl
@[simp] theorem State.intr_setCtx (s : State) (n : Nat) (v : Context) : (s.setCtx n v).intr = s.intr := rfl
@[simp] theorem State.cur_setCtx (s : State) (n : Nat) (v : Context) : (s.setCtx n v).cur = s.cur := rfl
@[simp] theorem State.port_setCtx (s : State) (n : Nat) (v : Context) : (s.setCtx n v).port = s.port := rfl
@[simp] theorem State.agenda_setCtx (s : State) (n : Nat) (v : Context) : (s.setCtx n v).agenda = s.agenda := rfl
@[simp] theorem State.freeCtr_setCtx (s : State) (n : Nat) (v : Context) : (s.setCtx n v).freeCtr = s.freeCtr := rfl

/-! ### `setDie` -/

theorem State.die_setDie (s : State) (n m : Nat) (v : Die) :
    (s.setDie n v).die m = if m = n then v else s.die m := Tbl.get_set ..

@[simp] theorem State.die_setDie_self (s : State) (n : Nat) (v : Die) : (s.setDie n v).die n = v := by
  simp [State.die_setDie]

@[simp] theorem State.core_setDie (s : State) (n m : Nat) (v : Die) : (s.setDie n v).core m = s.core m := rfl
@[simp] theorem State.kernel_setDie (s : State) (n m : Nat) (v : Die) : (s.setDie n v).kernel m = s.kernel m := rfl
@[simp] theorem State.tract_setDie (s : State) (n m : Nat) (v : Die) : (s.setDie n v).tract m = s.tract m := rfl
@[simp] theorem State.pace_setDie (s : State) (n m : Nat) (v : Die) : (s.setDie n v).pace m = s.pace m := rfl
@[simp] theorem State.sink_setDie (s : State) (n m : Nat) (v : Die) : (s.setDie n v).sink m = s.sink m := rfl
@[simp] theorem State.stile_setDie (s : State) (n m : Nat) (v : Die) : (s.setDie n v).stile m = s.stile m := rfl
@[simp] theorem State.drill_setDie (s : State) (n m : Nat) (v : Die) : (s.setDie n v).drill m = s.drill m := rfl
@[simp] theorem State.queue_setDie (s : State) (n m : Nat) (v : Die) : (s.setDie n v).queue m = s.queue m := rfl
@[simp] theorem State.ctx_setDie (s : State) (n m : Nat) (v : Die) : (s.setDie n v).ctx m = s.ctx m := rfl
@[simp] theorem State.sextant_setDie (s : State) (n m : Nat) (v : Die) : (s.setDie n v).sextant m = s.sextant m := rfl
@[simp] theorem State.link_setDie (s : State) (n m : Nat) (v : Die) : (s.setDie n v).link m = s.link m := rfl
@[simp] theorem State.vf_setDie (s : State) (n m : Nat) (v : Die) : (s.setDie n v).vf m = s.vf m := rfl
@[simp] theorem State.svc_setDie (s : State) (n m : Nat) (v : Die) : (s.setDie n v).svc m = s.svc m := rfl
@[simp] theorem State.pkg_setDie (s : State) (n : Nat) (v : Die) : (s.setDie n v).pkg = s.pkg := rfl
@[simp] theorem State.chron_setDie (s : State) (n : Nat) (v : Die) : (s.setDie n v).chron = s.chron := rfl
@[simp] theorem State.adjust_setDie (s : State) (n : Nat) (v : Die) : (s.setDie n v).adjust = s.adjust := rfl
@[simp] theorem State.nextKernel_setDie (s : State) (n : Nat) (v : Die) : (s.setDie n v).nextKernel = s.nextKernel := rfl
@[simp] theorem State.spcfg_setDie (s : State) (n : Nat) (v : Die) : (s.setDie n v).spcfg = s.spcfg := rfl
@[simp] theorem State.rr_setDie (s : State) (n : Nat) (v : Die) : (s.setDie n v).rr = s.rr := rfl
@[simp] theorem State.passDue_setDie (s : State) (n : Nat) (v : Die) : (s.setDie n v).passDue = s.passDue := rfl
@[simp] theorem State.walks_setDie (s : State) (n : Nat) (v : Die) : (s.setDie n v).walks = s.walks := rfl
@[simp] theorem State.nextWalk_setDie (s : State) (n : Nat) (v : Die) : (s.setDie n v).nextWalk = s.nextWalk := rfl
@[simp] theorem State.remotes_setDie (s : State) (n : Nat) (v : Die) : (s.setDie n v).remotes = s.remotes := rfl
@[simp] theorem State.nextTag_setDie (s : State) (n : Nat) (v : Die) : (s.setDie n v).nextTag = s.nextTag := rfl
@[simp] theorem State.parked_setDie (s : State) (n : Nat) (v : Die) : (s.setDie n v).parked = s.parked := rfl
@[simp] theorem State.heard_setDie (s : State) (n : Nat) (v : Die) : (s.setDie n v).heard = s.heard := rfl
@[simp] theorem State.scalls_setDie (s : State) (n : Nat) (v : Die) : (s.setDie n v).scalls = s.scalls := rfl
@[simp] theorem State.nextScall_setDie (s : State) (n : Nat) (v : Die) : (s.setDie n v).nextScall = s.nextScall := rfl
@[simp] theorem State.extents_setDie (s : State) (n : Nat) (v : Die) : (s.setDie n v).extents = s.extents := rfl
@[simp] theorem State.helm_setDie (s : State) (n : Nat) (v : Die) : (s.setDie n v).helm = s.helm := rfl
@[simp] theorem State.mem_setDie (s : State) (n : Nat) (v : Die) : (s.setDie n v).mem = s.mem := rfl
@[simp] theorem State.fitted_setDie (s : State) (n : Nat) (v : Die) : (s.setDie n v).fitted = s.fitted := rfl
@[simp] theorem State.host_setDie (s : State) (n : Nat) (v : Die) : (s.setDie n v).host = s.host := rfl
@[simp] theorem State.qctl_setDie (s : State) (n : Nat) (v : Die) : (s.setDie n v).qctl = s.qctl := rfl
@[simp] theorem State.qctlK_setDie (s : State) (n : Nat) (v : Die) : (s.setDie n v).qctlK = s.qctlK := rfl
@[simp] theorem State.cxcmd_setDie (s : State) (n : Nat) (v : Die) : (s.setDie n v).cxcmd = s.cxcmd := rfl
@[simp] theorem State.cxWait_setDie (s : State) (n : Nat) (v : Die) : (s.setDie n v).cxWait = s.cxWait := rfl
@[simp] theorem State.recs_setDie (s : State) (n : Nat) (v : Die) : (s.setDie n v).recs = s.recs := rfl
@[simp] theorem State.ctxtab_setDie (s : State) (n : Nat) (v : Die) : (s.setDie n v).ctxtab = s.ctxtab := rfl
@[simp] theorem State.qimg_setDie (s : State) (n : Nat) (v : Die) : (s.setDie n v).qimg = s.qimg := rfl
@[simp] theorem State.shoots_setDie (s : State) (n : Nat) (v : Die) : (s.setDie n v).shoots = s.shoots := rfl
@[simp] theorem State.intr_setDie (s : State) (n : Nat) (v : Die) : (s.setDie n v).intr = s.intr := rfl
@[simp] theorem State.cur_setDie (s : State) (n : Nat) (v : Die) : (s.setDie n v).cur = s.cur := rfl
@[simp] theorem State.port_setDie (s : State) (n : Nat) (v : Die) : (s.setDie n v).port = s.port := rfl
@[simp] theorem State.agenda_setDie (s : State) (n : Nat) (v : Die) : (s.setDie n v).agenda = s.agenda := rfl
@[simp] theorem State.freeCtr_setDie (s : State) (n : Nat) (v : Die) : (s.setDie n v).freeCtr = s.freeCtr := rfl

/-! ### `setSextant` -/

theorem State.sextant_setSextant (s : State) (n m : Nat) (v : Sextant) :
    (s.setSextant n v).sextant m = if m = n then v else s.sextant m := Tbl.get_set ..

@[simp] theorem State.sextant_setSextant_self (s : State) (n : Nat) (v : Sextant) : (s.setSextant n v).sextant n = v := by
  simp [State.sextant_setSextant]

@[simp] theorem State.core_setSextant (s : State) (n m : Nat) (v : Sextant) : (s.setSextant n v).core m = s.core m := rfl
@[simp] theorem State.kernel_setSextant (s : State) (n m : Nat) (v : Sextant) : (s.setSextant n v).kernel m = s.kernel m := rfl
@[simp] theorem State.tract_setSextant (s : State) (n m : Nat) (v : Sextant) : (s.setSextant n v).tract m = s.tract m := rfl
@[simp] theorem State.pace_setSextant (s : State) (n m : Nat) (v : Sextant) : (s.setSextant n v).pace m = s.pace m := rfl
@[simp] theorem State.sink_setSextant (s : State) (n m : Nat) (v : Sextant) : (s.setSextant n v).sink m = s.sink m := rfl
@[simp] theorem State.stile_setSextant (s : State) (n m : Nat) (v : Sextant) : (s.setSextant n v).stile m = s.stile m := rfl
@[simp] theorem State.drill_setSextant (s : State) (n m : Nat) (v : Sextant) : (s.setSextant n v).drill m = s.drill m := rfl
@[simp] theorem State.queue_setSextant (s : State) (n m : Nat) (v : Sextant) : (s.setSextant n v).queue m = s.queue m := rfl
@[simp] theorem State.ctx_setSextant (s : State) (n m : Nat) (v : Sextant) : (s.setSextant n v).ctx m = s.ctx m := rfl
@[simp] theorem State.die_setSextant (s : State) (n m : Nat) (v : Sextant) : (s.setSextant n v).die m = s.die m := rfl
@[simp] theorem State.link_setSextant (s : State) (n m : Nat) (v : Sextant) : (s.setSextant n v).link m = s.link m := rfl
@[simp] theorem State.vf_setSextant (s : State) (n m : Nat) (v : Sextant) : (s.setSextant n v).vf m = s.vf m := rfl
@[simp] theorem State.svc_setSextant (s : State) (n m : Nat) (v : Sextant) : (s.setSextant n v).svc m = s.svc m := rfl
@[simp] theorem State.pkg_setSextant (s : State) (n : Nat) (v : Sextant) : (s.setSextant n v).pkg = s.pkg := rfl
@[simp] theorem State.chron_setSextant (s : State) (n : Nat) (v : Sextant) : (s.setSextant n v).chron = s.chron := rfl
@[simp] theorem State.adjust_setSextant (s : State) (n : Nat) (v : Sextant) : (s.setSextant n v).adjust = s.adjust := rfl
@[simp] theorem State.nextKernel_setSextant (s : State) (n : Nat) (v : Sextant) : (s.setSextant n v).nextKernel = s.nextKernel := rfl
@[simp] theorem State.spcfg_setSextant (s : State) (n : Nat) (v : Sextant) : (s.setSextant n v).spcfg = s.spcfg := rfl
@[simp] theorem State.rr_setSextant (s : State) (n : Nat) (v : Sextant) : (s.setSextant n v).rr = s.rr := rfl
@[simp] theorem State.passDue_setSextant (s : State) (n : Nat) (v : Sextant) : (s.setSextant n v).passDue = s.passDue := rfl
@[simp] theorem State.walks_setSextant (s : State) (n : Nat) (v : Sextant) : (s.setSextant n v).walks = s.walks := rfl
@[simp] theorem State.nextWalk_setSextant (s : State) (n : Nat) (v : Sextant) : (s.setSextant n v).nextWalk = s.nextWalk := rfl
@[simp] theorem State.remotes_setSextant (s : State) (n : Nat) (v : Sextant) : (s.setSextant n v).remotes = s.remotes := rfl
@[simp] theorem State.nextTag_setSextant (s : State) (n : Nat) (v : Sextant) : (s.setSextant n v).nextTag = s.nextTag := rfl
@[simp] theorem State.parked_setSextant (s : State) (n : Nat) (v : Sextant) : (s.setSextant n v).parked = s.parked := rfl
@[simp] theorem State.heard_setSextant (s : State) (n : Nat) (v : Sextant) : (s.setSextant n v).heard = s.heard := rfl
@[simp] theorem State.scalls_setSextant (s : State) (n : Nat) (v : Sextant) : (s.setSextant n v).scalls = s.scalls := rfl
@[simp] theorem State.nextScall_setSextant (s : State) (n : Nat) (v : Sextant) : (s.setSextant n v).nextScall = s.nextScall := rfl
@[simp] theorem State.extents_setSextant (s : State) (n : Nat) (v : Sextant) : (s.setSextant n v).extents = s.extents := rfl
@[simp] theorem State.helm_setSextant (s : State) (n : Nat) (v : Sextant) : (s.setSextant n v).helm = s.helm := rfl
@[simp] theorem State.mem_setSextant (s : State) (n : Nat) (v : Sextant) : (s.setSextant n v).mem = s.mem := rfl
@[simp] theorem State.fitted_setSextant (s : State) (n : Nat) (v : Sextant) : (s.setSextant n v).fitted = s.fitted := rfl
@[simp] theorem State.host_setSextant (s : State) (n : Nat) (v : Sextant) : (s.setSextant n v).host = s.host := rfl
@[simp] theorem State.qctl_setSextant (s : State) (n : Nat) (v : Sextant) : (s.setSextant n v).qctl = s.qctl := rfl
@[simp] theorem State.qctlK_setSextant (s : State) (n : Nat) (v : Sextant) : (s.setSextant n v).qctlK = s.qctlK := rfl
@[simp] theorem State.cxcmd_setSextant (s : State) (n : Nat) (v : Sextant) : (s.setSextant n v).cxcmd = s.cxcmd := rfl
@[simp] theorem State.cxWait_setSextant (s : State) (n : Nat) (v : Sextant) : (s.setSextant n v).cxWait = s.cxWait := rfl
@[simp] theorem State.recs_setSextant (s : State) (n : Nat) (v : Sextant) : (s.setSextant n v).recs = s.recs := rfl
@[simp] theorem State.ctxtab_setSextant (s : State) (n : Nat) (v : Sextant) : (s.setSextant n v).ctxtab = s.ctxtab := rfl
@[simp] theorem State.qimg_setSextant (s : State) (n : Nat) (v : Sextant) : (s.setSextant n v).qimg = s.qimg := rfl
@[simp] theorem State.shoots_setSextant (s : State) (n : Nat) (v : Sextant) : (s.setSextant n v).shoots = s.shoots := rfl
@[simp] theorem State.intr_setSextant (s : State) (n : Nat) (v : Sextant) : (s.setSextant n v).intr = s.intr := rfl
@[simp] theorem State.cur_setSextant (s : State) (n : Nat) (v : Sextant) : (s.setSextant n v).cur = s.cur := rfl
@[simp] theorem State.port_setSextant (s : State) (n : Nat) (v : Sextant) : (s.setSextant n v).port = s.port := rfl
@[simp] theorem State.agenda_setSextant (s : State) (n : Nat) (v : Sextant) : (s.setSextant n v).agenda = s.agenda := rfl
@[simp] theorem State.freeCtr_setSextant (s : State) (n : Nat) (v : Sextant) : (s.setSextant n v).freeCtr = s.freeCtr := rfl

/-! ### `setLink` -/

theorem State.link_setLink (s : State) (n m : Nat) (v : Link) :
    (s.setLink n v).link m = if m = n then v else s.link m := Tbl.get_set ..

@[simp] theorem State.link_setLink_self (s : State) (n : Nat) (v : Link) : (s.setLink n v).link n = v := by
  simp [State.link_setLink]

@[simp] theorem State.core_setLink (s : State) (n m : Nat) (v : Link) : (s.setLink n v).core m = s.core m := rfl
@[simp] theorem State.kernel_setLink (s : State) (n m : Nat) (v : Link) : (s.setLink n v).kernel m = s.kernel m := rfl
@[simp] theorem State.tract_setLink (s : State) (n m : Nat) (v : Link) : (s.setLink n v).tract m = s.tract m := rfl
@[simp] theorem State.pace_setLink (s : State) (n m : Nat) (v : Link) : (s.setLink n v).pace m = s.pace m := rfl
@[simp] theorem State.sink_setLink (s : State) (n m : Nat) (v : Link) : (s.setLink n v).sink m = s.sink m := rfl
@[simp] theorem State.stile_setLink (s : State) (n m : Nat) (v : Link) : (s.setLink n v).stile m = s.stile m := rfl
@[simp] theorem State.drill_setLink (s : State) (n m : Nat) (v : Link) : (s.setLink n v).drill m = s.drill m := rfl
@[simp] theorem State.queue_setLink (s : State) (n m : Nat) (v : Link) : (s.setLink n v).queue m = s.queue m := rfl
@[simp] theorem State.ctx_setLink (s : State) (n m : Nat) (v : Link) : (s.setLink n v).ctx m = s.ctx m := rfl
@[simp] theorem State.die_setLink (s : State) (n m : Nat) (v : Link) : (s.setLink n v).die m = s.die m := rfl
@[simp] theorem State.sextant_setLink (s : State) (n m : Nat) (v : Link) : (s.setLink n v).sextant m = s.sextant m := rfl
@[simp] theorem State.vf_setLink (s : State) (n m : Nat) (v : Link) : (s.setLink n v).vf m = s.vf m := rfl
@[simp] theorem State.svc_setLink (s : State) (n m : Nat) (v : Link) : (s.setLink n v).svc m = s.svc m := rfl
@[simp] theorem State.pkg_setLink (s : State) (n : Nat) (v : Link) : (s.setLink n v).pkg = s.pkg := rfl
@[simp] theorem State.chron_setLink (s : State) (n : Nat) (v : Link) : (s.setLink n v).chron = s.chron := rfl
@[simp] theorem State.adjust_setLink (s : State) (n : Nat) (v : Link) : (s.setLink n v).adjust = s.adjust := rfl
@[simp] theorem State.nextKernel_setLink (s : State) (n : Nat) (v : Link) : (s.setLink n v).nextKernel = s.nextKernel := rfl
@[simp] theorem State.spcfg_setLink (s : State) (n : Nat) (v : Link) : (s.setLink n v).spcfg = s.spcfg := rfl
@[simp] theorem State.rr_setLink (s : State) (n : Nat) (v : Link) : (s.setLink n v).rr = s.rr := rfl
@[simp] theorem State.passDue_setLink (s : State) (n : Nat) (v : Link) : (s.setLink n v).passDue = s.passDue := rfl
@[simp] theorem State.walks_setLink (s : State) (n : Nat) (v : Link) : (s.setLink n v).walks = s.walks := rfl
@[simp] theorem State.nextWalk_setLink (s : State) (n : Nat) (v : Link) : (s.setLink n v).nextWalk = s.nextWalk := rfl
@[simp] theorem State.remotes_setLink (s : State) (n : Nat) (v : Link) : (s.setLink n v).remotes = s.remotes := rfl
@[simp] theorem State.nextTag_setLink (s : State) (n : Nat) (v : Link) : (s.setLink n v).nextTag = s.nextTag := rfl
@[simp] theorem State.parked_setLink (s : State) (n : Nat) (v : Link) : (s.setLink n v).parked = s.parked := rfl
@[simp] theorem State.heard_setLink (s : State) (n : Nat) (v : Link) : (s.setLink n v).heard = s.heard := rfl
@[simp] theorem State.scalls_setLink (s : State) (n : Nat) (v : Link) : (s.setLink n v).scalls = s.scalls := rfl
@[simp] theorem State.nextScall_setLink (s : State) (n : Nat) (v : Link) : (s.setLink n v).nextScall = s.nextScall := rfl
@[simp] theorem State.extents_setLink (s : State) (n : Nat) (v : Link) : (s.setLink n v).extents = s.extents := rfl
@[simp] theorem State.helm_setLink (s : State) (n : Nat) (v : Link) : (s.setLink n v).helm = s.helm := rfl
@[simp] theorem State.mem_setLink (s : State) (n : Nat) (v : Link) : (s.setLink n v).mem = s.mem := rfl
@[simp] theorem State.fitted_setLink (s : State) (n : Nat) (v : Link) : (s.setLink n v).fitted = s.fitted := rfl
@[simp] theorem State.host_setLink (s : State) (n : Nat) (v : Link) : (s.setLink n v).host = s.host := rfl
@[simp] theorem State.qctl_setLink (s : State) (n : Nat) (v : Link) : (s.setLink n v).qctl = s.qctl := rfl
@[simp] theorem State.qctlK_setLink (s : State) (n : Nat) (v : Link) : (s.setLink n v).qctlK = s.qctlK := rfl
@[simp] theorem State.cxcmd_setLink (s : State) (n : Nat) (v : Link) : (s.setLink n v).cxcmd = s.cxcmd := rfl
@[simp] theorem State.cxWait_setLink (s : State) (n : Nat) (v : Link) : (s.setLink n v).cxWait = s.cxWait := rfl
@[simp] theorem State.recs_setLink (s : State) (n : Nat) (v : Link) : (s.setLink n v).recs = s.recs := rfl
@[simp] theorem State.ctxtab_setLink (s : State) (n : Nat) (v : Link) : (s.setLink n v).ctxtab = s.ctxtab := rfl
@[simp] theorem State.qimg_setLink (s : State) (n : Nat) (v : Link) : (s.setLink n v).qimg = s.qimg := rfl
@[simp] theorem State.shoots_setLink (s : State) (n : Nat) (v : Link) : (s.setLink n v).shoots = s.shoots := rfl
@[simp] theorem State.intr_setLink (s : State) (n : Nat) (v : Link) : (s.setLink n v).intr = s.intr := rfl
@[simp] theorem State.cur_setLink (s : State) (n : Nat) (v : Link) : (s.setLink n v).cur = s.cur := rfl
@[simp] theorem State.port_setLink (s : State) (n : Nat) (v : Link) : (s.setLink n v).port = s.port := rfl
@[simp] theorem State.agenda_setLink (s : State) (n : Nat) (v : Link) : (s.setLink n v).agenda = s.agenda := rfl
@[simp] theorem State.freeCtr_setLink (s : State) (n : Nat) (v : Link) : (s.setLink n v).freeCtr = s.freeCtr := rfl

/-! ### `setVf` -/

theorem State.vf_setVf (s : State) (n m : Nat) (v : Vf) :
    (s.setVf n v).vf m = if m = n then v else s.vf m := Tbl.get_set ..

@[simp] theorem State.vf_setVf_self (s : State) (n : Nat) (v : Vf) : (s.setVf n v).vf n = v := by
  simp [State.vf_setVf]

@[simp] theorem State.core_setVf (s : State) (n m : Nat) (v : Vf) : (s.setVf n v).core m = s.core m := rfl
@[simp] theorem State.kernel_setVf (s : State) (n m : Nat) (v : Vf) : (s.setVf n v).kernel m = s.kernel m := rfl
@[simp] theorem State.tract_setVf (s : State) (n m : Nat) (v : Vf) : (s.setVf n v).tract m = s.tract m := rfl
@[simp] theorem State.pace_setVf (s : State) (n m : Nat) (v : Vf) : (s.setVf n v).pace m = s.pace m := rfl
@[simp] theorem State.sink_setVf (s : State) (n m : Nat) (v : Vf) : (s.setVf n v).sink m = s.sink m := rfl
@[simp] theorem State.stile_setVf (s : State) (n m : Nat) (v : Vf) : (s.setVf n v).stile m = s.stile m := rfl
@[simp] theorem State.drill_setVf (s : State) (n m : Nat) (v : Vf) : (s.setVf n v).drill m = s.drill m := rfl
@[simp] theorem State.queue_setVf (s : State) (n m : Nat) (v : Vf) : (s.setVf n v).queue m = s.queue m := rfl
@[simp] theorem State.ctx_setVf (s : State) (n m : Nat) (v : Vf) : (s.setVf n v).ctx m = s.ctx m := rfl
@[simp] theorem State.die_setVf (s : State) (n m : Nat) (v : Vf) : (s.setVf n v).die m = s.die m := rfl
@[simp] theorem State.sextant_setVf (s : State) (n m : Nat) (v : Vf) : (s.setVf n v).sextant m = s.sextant m := rfl
@[simp] theorem State.link_setVf (s : State) (n m : Nat) (v : Vf) : (s.setVf n v).link m = s.link m := rfl
@[simp] theorem State.svc_setVf (s : State) (n m : Nat) (v : Vf) : (s.setVf n v).svc m = s.svc m := rfl
@[simp] theorem State.pkg_setVf (s : State) (n : Nat) (v : Vf) : (s.setVf n v).pkg = s.pkg := rfl
@[simp] theorem State.chron_setVf (s : State) (n : Nat) (v : Vf) : (s.setVf n v).chron = s.chron := rfl
@[simp] theorem State.adjust_setVf (s : State) (n : Nat) (v : Vf) : (s.setVf n v).adjust = s.adjust := rfl
@[simp] theorem State.nextKernel_setVf (s : State) (n : Nat) (v : Vf) : (s.setVf n v).nextKernel = s.nextKernel := rfl
@[simp] theorem State.spcfg_setVf (s : State) (n : Nat) (v : Vf) : (s.setVf n v).spcfg = s.spcfg := rfl
@[simp] theorem State.rr_setVf (s : State) (n : Nat) (v : Vf) : (s.setVf n v).rr = s.rr := rfl
@[simp] theorem State.passDue_setVf (s : State) (n : Nat) (v : Vf) : (s.setVf n v).passDue = s.passDue := rfl
@[simp] theorem State.walks_setVf (s : State) (n : Nat) (v : Vf) : (s.setVf n v).walks = s.walks := rfl
@[simp] theorem State.nextWalk_setVf (s : State) (n : Nat) (v : Vf) : (s.setVf n v).nextWalk = s.nextWalk := rfl
@[simp] theorem State.remotes_setVf (s : State) (n : Nat) (v : Vf) : (s.setVf n v).remotes = s.remotes := rfl
@[simp] theorem State.nextTag_setVf (s : State) (n : Nat) (v : Vf) : (s.setVf n v).nextTag = s.nextTag := rfl
@[simp] theorem State.parked_setVf (s : State) (n : Nat) (v : Vf) : (s.setVf n v).parked = s.parked := rfl
@[simp] theorem State.heard_setVf (s : State) (n : Nat) (v : Vf) : (s.setVf n v).heard = s.heard := rfl
@[simp] theorem State.scalls_setVf (s : State) (n : Nat) (v : Vf) : (s.setVf n v).scalls = s.scalls := rfl
@[simp] theorem State.nextScall_setVf (s : State) (n : Nat) (v : Vf) : (s.setVf n v).nextScall = s.nextScall := rfl
@[simp] theorem State.extents_setVf (s : State) (n : Nat) (v : Vf) : (s.setVf n v).extents = s.extents := rfl
@[simp] theorem State.helm_setVf (s : State) (n : Nat) (v : Vf) : (s.setVf n v).helm = s.helm := rfl
@[simp] theorem State.mem_setVf (s : State) (n : Nat) (v : Vf) : (s.setVf n v).mem = s.mem := rfl
@[simp] theorem State.fitted_setVf (s : State) (n : Nat) (v : Vf) : (s.setVf n v).fitted = s.fitted := rfl
@[simp] theorem State.host_setVf (s : State) (n : Nat) (v : Vf) : (s.setVf n v).host = s.host := rfl
@[simp] theorem State.qctl_setVf (s : State) (n : Nat) (v : Vf) : (s.setVf n v).qctl = s.qctl := rfl
@[simp] theorem State.qctlK_setVf (s : State) (n : Nat) (v : Vf) : (s.setVf n v).qctlK = s.qctlK := rfl
@[simp] theorem State.cxcmd_setVf (s : State) (n : Nat) (v : Vf) : (s.setVf n v).cxcmd = s.cxcmd := rfl
@[simp] theorem State.cxWait_setVf (s : State) (n : Nat) (v : Vf) : (s.setVf n v).cxWait = s.cxWait := rfl
@[simp] theorem State.recs_setVf (s : State) (n : Nat) (v : Vf) : (s.setVf n v).recs = s.recs := rfl
@[simp] theorem State.ctxtab_setVf (s : State) (n : Nat) (v : Vf) : (s.setVf n v).ctxtab = s.ctxtab := rfl
@[simp] theorem State.qimg_setVf (s : State) (n : Nat) (v : Vf) : (s.setVf n v).qimg = s.qimg := rfl
@[simp] theorem State.shoots_setVf (s : State) (n : Nat) (v : Vf) : (s.setVf n v).shoots = s.shoots := rfl
@[simp] theorem State.intr_setVf (s : State) (n : Nat) (v : Vf) : (s.setVf n v).intr = s.intr := rfl
@[simp] theorem State.cur_setVf (s : State) (n : Nat) (v : Vf) : (s.setVf n v).cur = s.cur := rfl
@[simp] theorem State.port_setVf (s : State) (n : Nat) (v : Vf) : (s.setVf n v).port = s.port := rfl
@[simp] theorem State.agenda_setVf (s : State) (n : Nat) (v : Vf) : (s.setVf n v).agenda = s.agenda := rfl
@[simp] theorem State.freeCtr_setVf (s : State) (n : Nat) (v : Vf) : (s.setVf n v).freeCtr = s.freeCtr := rfl

/-! ### `setSvc` -/

theorem State.svc_setSvc (s : State) (n m : Nat) (v : Port) :
    (s.setSvc n v).svc m = if m = n then v else s.svc m := Tbl.get_set ..

@[simp] theorem State.svc_setSvc_self (s : State) (n : Nat) (v : Port) : (s.setSvc n v).svc n = v := by
  simp [State.svc_setSvc]

@[simp] theorem State.core_setSvc (s : State) (n m : Nat) (v : Port) : (s.setSvc n v).core m = s.core m := rfl
@[simp] theorem State.kernel_setSvc (s : State) (n m : Nat) (v : Port) : (s.setSvc n v).kernel m = s.kernel m := rfl
@[simp] theorem State.tract_setSvc (s : State) (n m : Nat) (v : Port) : (s.setSvc n v).tract m = s.tract m := rfl
@[simp] theorem State.pace_setSvc (s : State) (n m : Nat) (v : Port) : (s.setSvc n v).pace m = s.pace m := rfl
@[simp] theorem State.sink_setSvc (s : State) (n m : Nat) (v : Port) : (s.setSvc n v).sink m = s.sink m := rfl
@[simp] theorem State.stile_setSvc (s : State) (n m : Nat) (v : Port) : (s.setSvc n v).stile m = s.stile m := rfl
@[simp] theorem State.drill_setSvc (s : State) (n m : Nat) (v : Port) : (s.setSvc n v).drill m = s.drill m := rfl
@[simp] theorem State.queue_setSvc (s : State) (n m : Nat) (v : Port) : (s.setSvc n v).queue m = s.queue m := rfl
@[simp] theorem State.ctx_setSvc (s : State) (n m : Nat) (v : Port) : (s.setSvc n v).ctx m = s.ctx m := rfl
@[simp] theorem State.die_setSvc (s : State) (n m : Nat) (v : Port) : (s.setSvc n v).die m = s.die m := rfl
@[simp] theorem State.sextant_setSvc (s : State) (n m : Nat) (v : Port) : (s.setSvc n v).sextant m = s.sextant m := rfl
@[simp] theorem State.link_setSvc (s : State) (n m : Nat) (v : Port) : (s.setSvc n v).link m = s.link m := rfl
@[simp] theorem State.vf_setSvc (s : State) (n m : Nat) (v : Port) : (s.setSvc n v).vf m = s.vf m := rfl
@[simp] theorem State.pkg_setSvc (s : State) (n : Nat) (v : Port) : (s.setSvc n v).pkg = s.pkg := rfl
@[simp] theorem State.chron_setSvc (s : State) (n : Nat) (v : Port) : (s.setSvc n v).chron = s.chron := rfl
@[simp] theorem State.adjust_setSvc (s : State) (n : Nat) (v : Port) : (s.setSvc n v).adjust = s.adjust := rfl
@[simp] theorem State.nextKernel_setSvc (s : State) (n : Nat) (v : Port) : (s.setSvc n v).nextKernel = s.nextKernel := rfl
@[simp] theorem State.spcfg_setSvc (s : State) (n : Nat) (v : Port) : (s.setSvc n v).spcfg = s.spcfg := rfl
@[simp] theorem State.rr_setSvc (s : State) (n : Nat) (v : Port) : (s.setSvc n v).rr = s.rr := rfl
@[simp] theorem State.passDue_setSvc (s : State) (n : Nat) (v : Port) : (s.setSvc n v).passDue = s.passDue := rfl
@[simp] theorem State.walks_setSvc (s : State) (n : Nat) (v : Port) : (s.setSvc n v).walks = s.walks := rfl
@[simp] theorem State.nextWalk_setSvc (s : State) (n : Nat) (v : Port) : (s.setSvc n v).nextWalk = s.nextWalk := rfl
@[simp] theorem State.remotes_setSvc (s : State) (n : Nat) (v : Port) : (s.setSvc n v).remotes = s.remotes := rfl
@[simp] theorem State.nextTag_setSvc (s : State) (n : Nat) (v : Port) : (s.setSvc n v).nextTag = s.nextTag := rfl
@[simp] theorem State.parked_setSvc (s : State) (n : Nat) (v : Port) : (s.setSvc n v).parked = s.parked := rfl
@[simp] theorem State.heard_setSvc (s : State) (n : Nat) (v : Port) : (s.setSvc n v).heard = s.heard := rfl
@[simp] theorem State.scalls_setSvc (s : State) (n : Nat) (v : Port) : (s.setSvc n v).scalls = s.scalls := rfl
@[simp] theorem State.nextScall_setSvc (s : State) (n : Nat) (v : Port) : (s.setSvc n v).nextScall = s.nextScall := rfl
@[simp] theorem State.extents_setSvc (s : State) (n : Nat) (v : Port) : (s.setSvc n v).extents = s.extents := rfl
@[simp] theorem State.helm_setSvc (s : State) (n : Nat) (v : Port) : (s.setSvc n v).helm = s.helm := rfl
@[simp] theorem State.mem_setSvc (s : State) (n : Nat) (v : Port) : (s.setSvc n v).mem = s.mem := rfl
@[simp] theorem State.fitted_setSvc (s : State) (n : Nat) (v : Port) : (s.setSvc n v).fitted = s.fitted := rfl
@[simp] theorem State.host_setSvc (s : State) (n : Nat) (v : Port) : (s.setSvc n v).host = s.host := rfl
@[simp] theorem State.qctl_setSvc (s : State) (n : Nat) (v : Port) : (s.setSvc n v).qctl = s.qctl := rfl
@[simp] theorem State.qctlK_setSvc (s : State) (n : Nat) (v : Port) : (s.setSvc n v).qctlK = s.qctlK := rfl
@[simp] theorem State.cxcmd_setSvc (s : State) (n : Nat) (v : Port) : (s.setSvc n v).cxcmd = s.cxcmd := rfl
@[simp] theorem State.cxWait_setSvc (s : State) (n : Nat) (v : Port) : (s.setSvc n v).cxWait = s.cxWait := rfl
@[simp] theorem State.recs_setSvc (s : State) (n : Nat) (v : Port) : (s.setSvc n v).recs = s.recs := rfl
@[simp] theorem State.ctxtab_setSvc (s : State) (n : Nat) (v : Port) : (s.setSvc n v).ctxtab = s.ctxtab := rfl
@[simp] theorem State.qimg_setSvc (s : State) (n : Nat) (v : Port) : (s.setSvc n v).qimg = s.qimg := rfl
@[simp] theorem State.shoots_setSvc (s : State) (n : Nat) (v : Port) : (s.setSvc n v).shoots = s.shoots := rfl
@[simp] theorem State.intr_setSvc (s : State) (n : Nat) (v : Port) : (s.setSvc n v).intr = s.intr := rfl
@[simp] theorem State.cur_setSvc (s : State) (n : Nat) (v : Port) : (s.setSvc n v).cur = s.cur := rfl
@[simp] theorem State.port_setSvc (s : State) (n : Nat) (v : Port) : (s.setSvc n v).port = s.port := rfl
@[simp] theorem State.agenda_setSvc (s : State) (n : Nat) (v : Port) : (s.setSvc n v).agenda = s.agenda := rfl
@[simp] theorem State.freeCtr_setSvc (s : State) (n : Nat) (v : Port) : (s.setSvc n v).freeCtr = s.freeCtr := rfl

/-! ### Registers of a stream -/

theorem Stream.ra_wa (m : Stream) (d r : BitVec 4) (v : Word) : (m.wa d v).ra r = if r = d then v else m.ra r := by
  simp only [Stream.wa, Stream.ra, Vector.get_eq_getElem, BitVec.val_toFin, Vector.getElem_set, BitVec.toNat_inj,
    eq_comm (a := d)]

@[simp] theorem Stream.phase_wa (m : Stream) (d : BitVec 4) (v : Word) : (m.wa d v).phase = m.phase := rfl
@[simp] theorem Stream.xk_wa (m : Stream) (d : BitVec 4) (v : Word) : (m.wa d v).xk = m.xk := rfl
@[simp] theorem Stream.vm_wa (m : Stream) (d : BitVec 4) (v : Word) : (m.wa d v).vm = m.vm := rfl
@[simp] theorem Stream.x_wa (m : Stream) (d : BitVec 4) (v : Word) : (m.wa d v).x = m.x := rfl
@[simp] theorem Stream.h_wa (m : Stream) (d : BitVec 4) (v : Word) : (m.wa d v).h = m.h := rfl
@[simp] theorem Stream.v_wa (m : Stream) (d : BitVec 4) (v : Word) : (m.wa d v).v = m.v := rfl
@[simp] theorem Stream.p_wa (m : Stream) (d : BitVec 4) (v : Word) : (m.wa d v).p = m.p := rfl
@[simp] theorem Stream.c_wa (m : Stream) (d : BitVec 4) (v : Word) : (m.wa d v).c = m.c := rfl
@[simp] theorem Stream.t_wa (m : Stream) (d : BitVec 4) (v : Word) : (m.wa d v).t = m.t := rfl
@[simp] theorem Stream.spw_wa (m : Stream) (d : BitVec 4) (v : Word) : (m.wa d v).spw = m.spw := rfl
@[simp] theorem Stream.repc_wa (m : Stream) (d : BitVec 4) (v : Word) : (m.wa d v).repc = m.repc := rfl
@[simp] theorem Stream.pc_wa (m : Stream) (d : BitVec 4) (v : Word) : (m.wa d v).pc = m.pc := rfl
@[simp] theorem Stream.npc_wa (m : Stream) (d : BitVec 4) (v : Word) : (m.wa d v).npc = m.npc := rfl
@[simp] theorem Stream.repOn_wa (m : Stream) (d : BitVec 4) (v : Word) : (m.wa d v).repOn = m.repOn := rfl
@[simp] theorem Stream.repOld_wa (m : Stream) (d : BitVec 4) (v : Word) : (m.wa d v).repOld = m.repOld := rfl
@[simp] theorem Stream.dpc_wa (m : Stream) (d : BitVec 4) (v : Word) : (m.wa d v).dpc = m.dpc := rfl
@[simp] theorem Stream.blocks_wa (m : Stream) (d : BitVec 4) (v : Word) : (m.wa d v).blocks = m.blocks := rfl
@[simp] theorem Stream.window_wa (m : Stream) (d : BitVec 4) (v : Word) : (m.wa d v).window = m.window := rfl
@[simp] theorem Stream.spill_wa (m : Stream) (d : BitVec 4) (v : Word) : (m.wa d v).spill = m.spill := rfl
@[simp] theorem Stream.vspill_wa (m : Stream) (d : BitVec 4) (v : Word) : (m.wa d v).vspill = m.vspill := rfl
@[simp] theorem Stream.wait_wa (m : Stream) (d : BitVec 4) (v : Word) : (m.wa d v).wait = m.wait := rfl
@[simp] theorem Stream.saved_wa (m : Stream) (d : BitVec 4) (v : Word) : (m.wa d v).saved = m.saved := rfl
@[simp] theorem Stream.busy_wa (m : Stream) (d : BitVec 4) (v : Word) : (m.wa d v).busy = m.busy := rfl
@[simp] theorem Stream.late_wa (m : Stream) (d : BitVec 4) (v : Word) : (m.wa d v).late = m.late := rfl
@[simp] theorem Stream.pend_wa (m : Stream) (d : BitVec 4) (v : Word) : (m.wa d v).pend = m.pend := rfl
@[simp] theorem Stream.seq_wa (m : Stream) (d : BitVec 4) (v : Word) : (m.wa d v).seq = m.seq := rfl
@[simp] theorem Stream.fence_wa (m : Stream) (d : BitVec 4) (v : Word) : (m.wa d v).fence = m.fence := rfl
@[simp] theorem Stream.hpend_wa (m : Stream) (d : BitVec 4) (v : Word) : (m.wa d v).hpend = m.hpend := rfl
@[simp] theorem Stream.lbuf_wa (m : Stream) (d : BitVec 4) (v : Word) : (m.wa d v).lbuf = m.lbuf := rfl
@[simp] theorem Stream.fetching_wa (m : Stream) (d : BitVec 4) (v : Word) : (m.wa d v).fetching = m.fetching := rfl
@[simp] theorem Stream.spent_wa (m : Stream) (d : BitVec 4) (v : Word) : (m.wa d v).spent = m.spent := rfl
@[simp] theorem Stream.passed_wa (m : Stream) (d : BitVec 4) (v : Word) : (m.wa d v).passed = m.passed := rfl
@[simp] theorem Stream.owed_wa (m : Stream) (d : BitVec 4) (v : Word) : (m.wa d v).owed = m.owed := rfl
theorem Stream.rh_wh (m : Stream) (d r : BitVec 4) (v : Handle) : (m.wh d v).rh r = if r = d then v else m.rh r := by
  simp only [Stream.wh, Stream.rh, Vector.get_eq_getElem, BitVec.val_toFin, Vector.getElem_set, BitVec.toNat_inj,
    eq_comm (a := d)]

@[simp] theorem Stream.phase_wh (m : Stream) (d : BitVec 4) (v : Handle) : (m.wh d v).phase = m.phase := rfl
@[simp] theorem Stream.xk_wh (m : Stream) (d : BitVec 4) (v : Handle) : (m.wh d v).xk = m.xk := rfl
@[simp] theorem Stream.vm_wh (m : Stream) (d : BitVec 4) (v : Handle) : (m.wh d v).vm = m.vm := rfl
@[simp] theorem Stream.x_wh (m : Stream) (d : BitVec 4) (v : Handle) : (m.wh d v).x = m.x := rfl
@[simp] theorem Stream.a_wh (m : Stream) (d : BitVec 4) (v : Handle) : (m.wh d v).a = m.a := rfl
@[simp] theorem Stream.v_wh (m : Stream) (d : BitVec 4) (v : Handle) : (m.wh d v).v = m.v := rfl
@[simp] theorem Stream.p_wh (m : Stream) (d : BitVec 4) (v : Handle) : (m.wh d v).p = m.p := rfl
@[simp] theorem Stream.c_wh (m : Stream) (d : BitVec 4) (v : Handle) : (m.wh d v).c = m.c := rfl
@[simp] theorem Stream.t_wh (m : Stream) (d : BitVec 4) (v : Handle) : (m.wh d v).t = m.t := rfl
@[simp] theorem Stream.spw_wh (m : Stream) (d : BitVec 4) (v : Handle) : (m.wh d v).spw = m.spw := rfl
@[simp] theorem Stream.repc_wh (m : Stream) (d : BitVec 4) (v : Handle) : (m.wh d v).repc = m.repc := rfl
@[simp] theorem Stream.pc_wh (m : Stream) (d : BitVec 4) (v : Handle) : (m.wh d v).pc = m.pc := rfl
@[simp] theorem Stream.npc_wh (m : Stream) (d : BitVec 4) (v : Handle) : (m.wh d v).npc = m.npc := rfl
@[simp] theorem Stream.repOn_wh (m : Stream) (d : BitVec 4) (v : Handle) : (m.wh d v).repOn = m.repOn := rfl
@[simp] theorem Stream.repOld_wh (m : Stream) (d : BitVec 4) (v : Handle) : (m.wh d v).repOld = m.repOld := rfl
@[simp] theorem Stream.dpc_wh (m : Stream) (d : BitVec 4) (v : Handle) : (m.wh d v).dpc = m.dpc := rfl
@[simp] theorem Stream.blocks_wh (m : Stream) (d : BitVec 4) (v : Handle) : (m.wh d v).blocks = m.blocks := rfl
@[simp] theorem Stream.window_wh (m : Stream) (d : BitVec 4) (v : Handle) : (m.wh d v).window = m.window := rfl
@[simp] theorem Stream.spill_wh (m : Stream) (d : BitVec 4) (v : Handle) : (m.wh d v).spill = m.spill := rfl
@[simp] theorem Stream.vspill_wh (m : Stream) (d : BitVec 4) (v : Handle) : (m.wh d v).vspill = m.vspill := rfl
@[simp] theorem Stream.wait_wh (m : Stream) (d : BitVec 4) (v : Handle) : (m.wh d v).wait = m.wait := rfl
@[simp] theorem Stream.saved_wh (m : Stream) (d : BitVec 4) (v : Handle) : (m.wh d v).saved = m.saved := rfl
@[simp] theorem Stream.busy_wh (m : Stream) (d : BitVec 4) (v : Handle) : (m.wh d v).busy = m.busy := rfl
@[simp] theorem Stream.late_wh (m : Stream) (d : BitVec 4) (v : Handle) : (m.wh d v).late = m.late := rfl
@[simp] theorem Stream.pend_wh (m : Stream) (d : BitVec 4) (v : Handle) : (m.wh d v).pend = m.pend := rfl
@[simp] theorem Stream.seq_wh (m : Stream) (d : BitVec 4) (v : Handle) : (m.wh d v).seq = m.seq := rfl
@[simp] theorem Stream.fence_wh (m : Stream) (d : BitVec 4) (v : Handle) : (m.wh d v).fence = m.fence := rfl
@[simp] theorem Stream.hpend_wh (m : Stream) (d : BitVec 4) (v : Handle) : (m.wh d v).hpend = m.hpend := rfl
@[simp] theorem Stream.lbuf_wh (m : Stream) (d : BitVec 4) (v : Handle) : (m.wh d v).lbuf = m.lbuf := rfl
@[simp] theorem Stream.fetching_wh (m : Stream) (d : BitVec 4) (v : Handle) : (m.wh d v).fetching = m.fetching := rfl
@[simp] theorem Stream.spent_wh (m : Stream) (d : BitVec 4) (v : Handle) : (m.wh d v).spent = m.spent := rfl
@[simp] theorem Stream.passed_wh (m : Stream) (d : BitVec 4) (v : Handle) : (m.wh d v).passed = m.passed := rfl
@[simp] theorem Stream.owed_wh (m : Stream) (d : BitVec 4) (v : Handle) : (m.wh d v).owed = m.owed := rfl
theorem Stream.rv_wv (m : Stream) (d r : BitVec 5) (v : Row) : (m.wv d v).rv r = if r = d then v else m.rv r := by
  simp only [Stream.wv, Stream.rv, Vector.get_eq_getElem, BitVec.val_toFin, Vector.getElem_set, BitVec.toNat_inj,
    eq_comm (a := d)]

@[simp] theorem Stream.phase_wv (m : Stream) (d : BitVec 5) (v : Row) : (m.wv d v).phase = m.phase := rfl
@[simp] theorem Stream.xk_wv (m : Stream) (d : BitVec 5) (v : Row) : (m.wv d v).xk = m.xk := rfl
@[simp] theorem Stream.vm_wv (m : Stream) (d : BitVec 5) (v : Row) : (m.wv d v).vm = m.vm := rfl
@[simp] theorem Stream.x_wv (m : Stream) (d : BitVec 5) (v : Row) : (m.wv d v).x = m.x := rfl
@[simp] theorem Stream.a_wv (m : Stream) (d : BitVec 5) (v : Row) : (m.wv d v).a = m.a := rfl
@[simp] theorem Stream.h_wv (m : Stream) (d : BitVec 5) (v : Row) : (m.wv d v).h = m.h := rfl
@[simp] theorem Stream.p_wv (m : Stream) (d : BitVec 5) (v : Row) : (m.wv d v).p = m.p := rfl
@[simp] theorem Stream.c_wv (m : Stream) (d : BitVec 5) (v : Row) : (m.wv d v).c = m.c := rfl
@[simp] theorem Stream.t_wv (m : Stream) (d : BitVec 5) (v : Row) : (m.wv d v).t = m.t := rfl
@[simp] theorem Stream.spw_wv (m : Stream) (d : BitVec 5) (v : Row) : (m.wv d v).spw = m.spw := rfl
@[simp] theorem Stream.repc_wv (m : Stream) (d : BitVec 5) (v : Row) : (m.wv d v).repc = m.repc := rfl
@[simp] theorem Stream.pc_wv (m : Stream) (d : BitVec 5) (v : Row) : (m.wv d v).pc = m.pc := rfl
@[simp] theorem Stream.npc_wv (m : Stream) (d : BitVec 5) (v : Row) : (m.wv d v).npc = m.npc := rfl
@[simp] theorem Stream.repOn_wv (m : Stream) (d : BitVec 5) (v : Row) : (m.wv d v).repOn = m.repOn := rfl
@[simp] theorem Stream.repOld_wv (m : Stream) (d : BitVec 5) (v : Row) : (m.wv d v).repOld = m.repOld := rfl
@[simp] theorem Stream.dpc_wv (m : Stream) (d : BitVec 5) (v : Row) : (m.wv d v).dpc = m.dpc := rfl
@[simp] theorem Stream.blocks_wv (m : Stream) (d : BitVec 5) (v : Row) : (m.wv d v).blocks = m.blocks := rfl
@[simp] theorem Stream.window_wv (m : Stream) (d : BitVec 5) (v : Row) : (m.wv d v).window = m.window := rfl
@[simp] theorem Stream.spill_wv (m : Stream) (d : BitVec 5) (v : Row) : (m.wv d v).spill = m.spill := rfl
@[simp] theorem Stream.vspill_wv (m : Stream) (d : BitVec 5) (v : Row) : (m.wv d v).vspill = m.vspill := rfl
@[simp] theorem Stream.wait_wv (m : Stream) (d : BitVec 5) (v : Row) : (m.wv d v).wait = m.wait := rfl
@[simp] theorem Stream.saved_wv (m : Stream) (d : BitVec 5) (v : Row) : (m.wv d v).saved = m.saved := rfl
@[simp] theorem Stream.busy_wv (m : Stream) (d : BitVec 5) (v : Row) : (m.wv d v).busy = m.busy := rfl
@[simp] theorem Stream.late_wv (m : Stream) (d : BitVec 5) (v : Row) : (m.wv d v).late = m.late := rfl
@[simp] theorem Stream.pend_wv (m : Stream) (d : BitVec 5) (v : Row) : (m.wv d v).pend = m.pend := rfl
@[simp] theorem Stream.seq_wv (m : Stream) (d : BitVec 5) (v : Row) : (m.wv d v).seq = m.seq := rfl
@[simp] theorem Stream.fence_wv (m : Stream) (d : BitVec 5) (v : Row) : (m.wv d v).fence = m.fence := rfl
@[simp] theorem Stream.hpend_wv (m : Stream) (d : BitVec 5) (v : Row) : (m.wv d v).hpend = m.hpend := rfl
@[simp] theorem Stream.lbuf_wv (m : Stream) (d : BitVec 5) (v : Row) : (m.wv d v).lbuf = m.lbuf := rfl
@[simp] theorem Stream.fetching_wv (m : Stream) (d : BitVec 5) (v : Row) : (m.wv d v).fetching = m.fetching := rfl
@[simp] theorem Stream.spent_wv (m : Stream) (d : BitVec 5) (v : Row) : (m.wv d v).spent = m.spent := rfl
@[simp] theorem Stream.passed_wv (m : Stream) (d : BitVec 5) (v : Row) : (m.wv d v).passed = m.passed := rfl
@[simp] theorem Stream.owed_wv (m : Stream) (d : BitVec 5) (v : Row) : (m.wv d v).owed = m.owed := rfl
theorem Stream.rp_wp (m : Stream) (d r : BitVec 3) (v : Pred) : (m.wp d v).rp r = if r = d then v else m.rp r := by
  simp only [Stream.wp, Stream.rp, Vector.get_eq_getElem, BitVec.val_toFin, Vector.getElem_set, BitVec.toNat_inj,
    eq_comm (a := d)]

@[simp] theorem Stream.phase_wp (m : Stream) (d : BitVec 3) (v : Pred) : (m.wp d v).phase = m.phase := rfl
@[simp] theorem Stream.xk_wp (m : Stream) (d : BitVec 3) (v : Pred) : (m.wp d v).xk = m.xk := rfl
@[simp] theorem Stream.vm_wp (m : Stream) (d : BitVec 3) (v : Pred) : (m.wp d v).vm = m.vm := rfl
@[simp] theorem Stream.x_wp (m : Stream) (d : BitVec 3) (v : Pred) : (m.wp d v).x = m.x := rfl
@[simp] theorem Stream.a_wp (m : Stream) (d : BitVec 3) (v : Pred) : (m.wp d v).a = m.a := rfl
@[simp] theorem Stream.h_wp (m : Stream) (d : BitVec 3) (v : Pred) : (m.wp d v).h = m.h := rfl
@[simp] theorem Stream.v_wp (m : Stream) (d : BitVec 3) (v : Pred) : (m.wp d v).v = m.v := rfl
@[simp] theorem Stream.c_wp (m : Stream) (d : BitVec 3) (v : Pred) : (m.wp d v).c = m.c := rfl
@[simp] theorem Stream.t_wp (m : Stream) (d : BitVec 3) (v : Pred) : (m.wp d v).t = m.t := rfl
@[simp] theorem Stream.spw_wp (m : Stream) (d : BitVec 3) (v : Pred) : (m.wp d v).spw = m.spw := rfl
@[simp] theorem Stream.repc_wp (m : Stream) (d : BitVec 3) (v : Pred) : (m.wp d v).repc = m.repc := rfl
@[simp] theorem Stream.pc_wp (m : Stream) (d : BitVec 3) (v : Pred) : (m.wp d v).pc = m.pc := rfl
@[simp] theorem Stream.npc_wp (m : Stream) (d : BitVec 3) (v : Pred) : (m.wp d v).npc = m.npc := rfl
@[simp] theorem Stream.repOn_wp (m : Stream) (d : BitVec 3) (v : Pred) : (m.wp d v).repOn = m.repOn := rfl
@[simp] theorem Stream.repOld_wp (m : Stream) (d : BitVec 3) (v : Pred) : (m.wp d v).repOld = m.repOld := rfl
@[simp] theorem Stream.dpc_wp (m : Stream) (d : BitVec 3) (v : Pred) : (m.wp d v).dpc = m.dpc := rfl
@[simp] theorem Stream.blocks_wp (m : Stream) (d : BitVec 3) (v : Pred) : (m.wp d v).blocks = m.blocks := rfl
@[simp] theorem Stream.window_wp (m : Stream) (d : BitVec 3) (v : Pred) : (m.wp d v).window = m.window := rfl
@[simp] theorem Stream.spill_wp (m : Stream) (d : BitVec 3) (v : Pred) : (m.wp d v).spill = m.spill := rfl
@[simp] theorem Stream.vspill_wp (m : Stream) (d : BitVec 3) (v : Pred) : (m.wp d v).vspill = m.vspill := rfl
@[simp] theorem Stream.wait_wp (m : Stream) (d : BitVec 3) (v : Pred) : (m.wp d v).wait = m.wait := rfl
@[simp] theorem Stream.saved_wp (m : Stream) (d : BitVec 3) (v : Pred) : (m.wp d v).saved = m.saved := rfl
@[simp] theorem Stream.busy_wp (m : Stream) (d : BitVec 3) (v : Pred) : (m.wp d v).busy = m.busy := rfl
@[simp] theorem Stream.late_wp (m : Stream) (d : BitVec 3) (v : Pred) : (m.wp d v).late = m.late := rfl
@[simp] theorem Stream.pend_wp (m : Stream) (d : BitVec 3) (v : Pred) : (m.wp d v).pend = m.pend := rfl
@[simp] theorem Stream.seq_wp (m : Stream) (d : BitVec 3) (v : Pred) : (m.wp d v).seq = m.seq := rfl
@[simp] theorem Stream.fence_wp (m : Stream) (d : BitVec 3) (v : Pred) : (m.wp d v).fence = m.fence := rfl
@[simp] theorem Stream.hpend_wp (m : Stream) (d : BitVec 3) (v : Pred) : (m.wp d v).hpend = m.hpend := rfl
@[simp] theorem Stream.lbuf_wp (m : Stream) (d : BitVec 3) (v : Pred) : (m.wp d v).lbuf = m.lbuf := rfl
@[simp] theorem Stream.fetching_wp (m : Stream) (d : BitVec 3) (v : Pred) : (m.wp d v).fetching = m.fetching := rfl
@[simp] theorem Stream.spent_wp (m : Stream) (d : BitVec 3) (v : Pred) : (m.wp d v).spent = m.spent := rfl
@[simp] theorem Stream.passed_wp (m : Stream) (d : BitVec 3) (v : Pred) : (m.wp d v).passed = m.passed := rfl
@[simp] theorem Stream.owed_wp (m : Stream) (d : BitVec 3) (v : Pred) : (m.wp d v).owed = m.owed := rfl
theorem Stream.rt_wt (m : Stream) (d r : BitVec 2) (v : Word) : (m.wt d v).rt r = if r = d then v else m.rt r := by
  simp only [Stream.wt, Stream.rt, Vector.get_eq_getElem, BitVec.val_toFin, Vector.getElem_set, BitVec.toNat_inj,
    eq_comm (a := d)]

@[simp] theorem Stream.phase_wt (m : Stream) (d : BitVec 2) (v : Word) : (m.wt d v).phase = m.phase := rfl
@[simp] theorem Stream.xk_wt (m : Stream) (d : BitVec 2) (v : Word) : (m.wt d v).xk = m.xk := rfl
@[simp] theorem Stream.vm_wt (m : Stream) (d : BitVec 2) (v : Word) : (m.wt d v).vm = m.vm := rfl
@[simp] theorem Stream.x_wt (m : Stream) (d : BitVec 2) (v : Word) : (m.wt d v).x = m.x := rfl
@[simp] theorem Stream.a_wt (m : Stream) (d : BitVec 2) (v : Word) : (m.wt d v).a = m.a := rfl
@[simp] theorem Stream.h_wt (m : Stream) (d : BitVec 2) (v : Word) : (m.wt d v).h = m.h := rfl
@[simp] theorem Stream.v_wt (m : Stream) (d : BitVec 2) (v : Word) : (m.wt d v).v = m.v := rfl
@[simp] theorem Stream.p_wt (m : Stream) (d : BitVec 2) (v : Word) : (m.wt d v).p = m.p := rfl
@[simp] theorem Stream.c_wt (m : Stream) (d : BitVec 2) (v : Word) : (m.wt d v).c = m.c := rfl
@[simp] theorem Stream.spw_wt (m : Stream) (d : BitVec 2) (v : Word) : (m.wt d v).spw = m.spw := rfl
@[simp] theorem Stream.repc_wt (m : Stream) (d : BitVec 2) (v : Word) : (m.wt d v).repc = m.repc := rfl
@[simp] theorem Stream.pc_wt (m : Stream) (d : BitVec 2) (v : Word) : (m.wt d v).pc = m.pc := rfl
@[simp] theorem Stream.npc_wt (m : Stream) (d : BitVec 2) (v : Word) : (m.wt d v).npc = m.npc := rfl
@[simp] theorem Stream.repOn_wt (m : Stream) (d : BitVec 2) (v : Word) : (m.wt d v).repOn = m.repOn := rfl
@[simp] theorem Stream.repOld_wt (m : Stream) (d : BitVec 2) (v : Word) : (m.wt d v).repOld = m.repOld := rfl
@[simp] theorem Stream.dpc_wt (m : Stream) (d : BitVec 2) (v : Word) : (m.wt d v).dpc = m.dpc := rfl
@[simp] theorem Stream.blocks_wt (m : Stream) (d : BitVec 2) (v : Word) : (m.wt d v).blocks = m.blocks := rfl
@[simp] theorem Stream.window_wt (m : Stream) (d : BitVec 2) (v : Word) : (m.wt d v).window = m.window := rfl
@[simp] theorem Stream.spill_wt (m : Stream) (d : BitVec 2) (v : Word) : (m.wt d v).spill = m.spill := rfl
@[simp] theorem Stream.vspill_wt (m : Stream) (d : BitVec 2) (v : Word) : (m.wt d v).vspill = m.vspill := rfl
@[simp] theorem Stream.wait_wt (m : Stream) (d : BitVec 2) (v : Word) : (m.wt d v).wait = m.wait := rfl
@[simp] theorem Stream.saved_wt (m : Stream) (d : BitVec 2) (v : Word) : (m.wt d v).saved = m.saved := rfl
@[simp] theorem Stream.busy_wt (m : Stream) (d : BitVec 2) (v : Word) : (m.wt d v).busy = m.busy := rfl
@[simp] theorem Stream.late_wt (m : Stream) (d : BitVec 2) (v : Word) : (m.wt d v).late = m.late := rfl
@[simp] theorem Stream.pend_wt (m : Stream) (d : BitVec 2) (v : Word) : (m.wt d v).pend = m.pend := rfl
@[simp] theorem Stream.seq_wt (m : Stream) (d : BitVec 2) (v : Word) : (m.wt d v).seq = m.seq := rfl
@[simp] theorem Stream.fence_wt (m : Stream) (d : BitVec 2) (v : Word) : (m.wt d v).fence = m.fence := rfl
@[simp] theorem Stream.hpend_wt (m : Stream) (d : BitVec 2) (v : Word) : (m.wt d v).hpend = m.hpend := rfl
@[simp] theorem Stream.lbuf_wt (m : Stream) (d : BitVec 2) (v : Word) : (m.wt d v).lbuf = m.lbuf := rfl
@[simp] theorem Stream.fetching_wt (m : Stream) (d : BitVec 2) (v : Word) : (m.wt d v).fetching = m.fetching := rfl
@[simp] theorem Stream.spent_wt (m : Stream) (d : BitVec 2) (v : Word) : (m.wt d v).spent = m.spent := rfl
@[simp] theorem Stream.passed_wt (m : Stream) (d : BitVec 2) (v : Word) : (m.wt d v).passed = m.passed := rfl
@[simp] theorem Stream.owed_wt (m : Stream) (d : BitVec 2) (v : Word) : (m.wt d v).owed = m.owed := rfl
theorem Stream.rx_wx (m : Stream) (d r : BitVec 5) (v : Word) :
    (m.wx d v).rx r = if r = 0 then 0 else if r = d then v else m.rx r := by
  unfold Stream.wx Stream.rx
  by_cases hr : r = 0
  · simp [hr]
  · by_cases hd : d = 0
    · subst hd; rw [if_pos rfl, if_neg hr, if_neg hr, if_neg hr]
    · simp only [hr, hd, if_false, Vector.get_eq_getElem, BitVec.val_toFin, Vector.getElem_set, BitVec.toNat_inj,
        eq_comm (a := d)]

@[simp] theorem Stream.rx_zero (m : Stream) : m.rx 0 = 0 := rfl

@[simp] theorem Stream.phase_wx (m : Stream) (d : BitVec 5) (v : Word) : (m.wx d v).phase = m.phase := by unfold Stream.wx; split <;> rfl
@[simp] theorem Stream.xk_wx (m : Stream) (d : BitVec 5) (v : Word) : (m.wx d v).xk = m.xk := by unfold Stream.wx; split <;> rfl
@[simp] theorem Stream.vm_wx (m : Stream) (d : BitVec 5) (v : Word) : (m.wx d v).vm = m.vm := by unfold Stream.wx; split <;> rfl
@[simp] theorem Stream.a_wx (m : Stream) (d : BitVec 5) (v : Word) : (m.wx d v).a = m.a := by unfold Stream.wx; split <;> rfl
@[simp] theorem Stream.h_wx (m : Stream) (d : BitVec 5) (v : Word) : (m.wx d v).h = m.h := by unfold Stream.wx; split <;> rfl
@[simp] theorem Stream.v_wx (m : Stream) (d : BitVec 5) (v : Word) : (m.wx d v).v = m.v := by unfold Stream.wx; split <;> rfl
@[simp] theorem Stream.p_wx (m : Stream) (d : BitVec 5) (v : Word) : (m.wx d v).p = m.p := by unfold Stream.wx; split <;> rfl
@[simp] theorem Stream.c_wx (m : Stream) (d : BitVec 5) (v : Word) : (m.wx d v).c = m.c := by unfold Stream.wx; split <;> rfl
@[simp] theorem Stream.t_wx (m : Stream) (d : BitVec 5) (v : Word) : (m.wx d v).t = m.t := by unfold Stream.wx; split <;> rfl
@[simp] theorem Stream.spw_wx (m : Stream) (d : BitVec 5) (v : Word) : (m.wx d v).spw = m.spw := by unfold Stream.wx; split <;> rfl
@[simp] theorem Stream.repc_wx (m : Stream) (d : BitVec 5) (v : Word) : (m.wx d v).repc = m.repc := by unfold Stream.wx; split <;> rfl
@[simp] theorem Stream.pc_wx (m : Stream) (d : BitVec 5) (v : Word) : (m.wx d v).pc = m.pc := by unfold Stream.wx; split <;> rfl
@[simp] theorem Stream.npc_wx (m : Stream) (d : BitVec 5) (v : Word) : (m.wx d v).npc = m.npc := by unfold Stream.wx; split <;> rfl
@[simp] theorem Stream.repOn_wx (m : Stream) (d : BitVec 5) (v : Word) : (m.wx d v).repOn = m.repOn := by unfold Stream.wx; split <;> rfl
@[simp] theorem Stream.repOld_wx (m : Stream) (d : BitVec 5) (v : Word) : (m.wx d v).repOld = m.repOld := by unfold Stream.wx; split <;> rfl
@[simp] theorem Stream.dpc_wx (m : Stream) (d : BitVec 5) (v : Word) : (m.wx d v).dpc = m.dpc := by unfold Stream.wx; split <;> rfl
@[simp] theorem Stream.blocks_wx (m : Stream) (d : BitVec 5) (v : Word) : (m.wx d v).blocks = m.blocks := by unfold Stream.wx; split <;> rfl
@[simp] theorem Stream.window_wx (m : Stream) (d : BitVec 5) (v : Word) : (m.wx d v).window = m.window := by unfold Stream.wx; split <;> rfl
@[simp] theorem Stream.spill_wx (m : Stream) (d : BitVec 5) (v : Word) : (m.wx d v).spill = m.spill := by unfold Stream.wx; split <;> rfl
@[simp] theorem Stream.vspill_wx (m : Stream) (d : BitVec 5) (v : Word) : (m.wx d v).vspill = m.vspill := by unfold Stream.wx; split <;> rfl
@[simp] theorem Stream.wait_wx (m : Stream) (d : BitVec 5) (v : Word) : (m.wx d v).wait = m.wait := by unfold Stream.wx; split <;> rfl
@[simp] theorem Stream.saved_wx (m : Stream) (d : BitVec 5) (v : Word) : (m.wx d v).saved = m.saved := by unfold Stream.wx; split <;> rfl
@[simp] theorem Stream.busy_wx (m : Stream) (d : BitVec 5) (v : Word) : (m.wx d v).busy = m.busy := by unfold Stream.wx; split <;> rfl
@[simp] theorem Stream.late_wx (m : Stream) (d : BitVec 5) (v : Word) : (m.wx d v).late = m.late := by unfold Stream.wx; split <;> rfl
@[simp] theorem Stream.pend_wx (m : Stream) (d : BitVec 5) (v : Word) : (m.wx d v).pend = m.pend := by unfold Stream.wx; split <;> rfl
@[simp] theorem Stream.seq_wx (m : Stream) (d : BitVec 5) (v : Word) : (m.wx d v).seq = m.seq := by unfold Stream.wx; split <;> rfl
@[simp] theorem Stream.fence_wx (m : Stream) (d : BitVec 5) (v : Word) : (m.wx d v).fence = m.fence := by unfold Stream.wx; split <;> rfl
@[simp] theorem Stream.hpend_wx (m : Stream) (d : BitVec 5) (v : Word) : (m.wx d v).hpend = m.hpend := by unfold Stream.wx; split <;> rfl
@[simp] theorem Stream.lbuf_wx (m : Stream) (d : BitVec 5) (v : Word) : (m.wx d v).lbuf = m.lbuf := by unfold Stream.wx; split <;> rfl
@[simp] theorem Stream.fetching_wx (m : Stream) (d : BitVec 5) (v : Word) : (m.wx d v).fetching = m.fetching := by unfold Stream.wx; split <;> rfl
@[simp] theorem Stream.spent_wx (m : Stream) (d : BitVec 5) (v : Word) : (m.wx d v).spent = m.spent := by unfold Stream.wx; split <;> rfl
@[simp] theorem Stream.passed_wx (m : Stream) (d : BitVec 5) (v : Word) : (m.wx d v).passed = m.passed := by unfold Stream.wx; split <;> rfl
@[simp] theorem Stream.owed_wx (m : Stream) (d : BitVec 5) (v : Word) : (m.wx d v).owed = m.owed := by unfold Stream.wx; split <;> rfl

theorem Stream.wx_eq (m : Stream) (d : BitVec 5) (v : Word) : m.wx d v = { m with x := (m.wx d v).x } := by
  unfold Stream.wx; split <;> rfl

theorem Stream.rc_wc (m : Stream) (d r : Nat) (v : Bool) (h : d < 4) :
    (m.wc d v).rc r = if r = d then v else m.rc r := by
  unfold Stream.wc Stream.rc
  by_cases hr : r < 4
  · interval_cases d <;> interval_cases r <;> cases v <;> simp
  · have h1 : r ≠ d := by omega
    simp only [h1, if_false]
    rw [BitVec.getLsbD_of_ge _ _ (by omega), BitVec.getLsbD_of_ge _ _ (by omega)]

@[simp] theorem Stream.phase_wc (m : Stream) (d : Nat) (v : Bool) : (m.wc d v).phase = m.phase := rfl
@[simp] theorem Stream.xk_wc (m : Stream) (d : Nat) (v : Bool) : (m.wc d v).xk = m.xk := rfl
@[simp] theorem Stream.vm_wc (m : Stream) (d : Nat) (v : Bool) : (m.wc d v).vm = m.vm := rfl
@[simp] theorem Stream.x_wc (m : Stream) (d : Nat) (v : Bool) : (m.wc d v).x = m.x := rfl
@[simp] theorem Stream.a_wc (m : Stream) (d : Nat) (v : Bool) : (m.wc d v).a = m.a := rfl
@[simp] theorem Stream.h_wc (m : Stream) (d : Nat) (v : Bool) : (m.wc d v).h = m.h := rfl
@[simp] theorem Stream.v_wc (m : Stream) (d : Nat) (v : Bool) : (m.wc d v).v = m.v := rfl
@[simp] theorem Stream.p_wc (m : Stream) (d : Nat) (v : Bool) : (m.wc d v).p = m.p := rfl
@[simp] theorem Stream.t_wc (m : Stream) (d : Nat) (v : Bool) : (m.wc d v).t = m.t := rfl
@[simp] theorem Stream.spw_wc (m : Stream) (d : Nat) (v : Bool) : (m.wc d v).spw = m.spw := rfl
@[simp] theorem Stream.repc_wc (m : Stream) (d : Nat) (v : Bool) : (m.wc d v).repc = m.repc := rfl
@[simp] theorem Stream.pc_wc (m : Stream) (d : Nat) (v : Bool) : (m.wc d v).pc = m.pc := rfl
@[simp] theorem Stream.npc_wc (m : Stream) (d : Nat) (v : Bool) : (m.wc d v).npc = m.npc := rfl
@[simp] theorem Stream.repOn_wc (m : Stream) (d : Nat) (v : Bool) : (m.wc d v).repOn = m.repOn := rfl
@[simp] theorem Stream.repOld_wc (m : Stream) (d : Nat) (v : Bool) : (m.wc d v).repOld = m.repOld := rfl
@[simp] theorem Stream.dpc_wc (m : Stream) (d : Nat) (v : Bool) : (m.wc d v).dpc = m.dpc := rfl
@[simp] theorem Stream.blocks_wc (m : Stream) (d : Nat) (v : Bool) : (m.wc d v).blocks = m.blocks := rfl
@[simp] theorem Stream.window_wc (m : Stream) (d : Nat) (v : Bool) : (m.wc d v).window = m.window := rfl
@[simp] theorem Stream.spill_wc (m : Stream) (d : Nat) (v : Bool) : (m.wc d v).spill = m.spill := rfl
@[simp] theorem Stream.vspill_wc (m : Stream) (d : Nat) (v : Bool) : (m.wc d v).vspill = m.vspill := rfl
@[simp] theorem Stream.wait_wc (m : Stream) (d : Nat) (v : Bool) : (m.wc d v).wait = m.wait := rfl
@[simp] theorem Stream.saved_wc (m : Stream) (d : Nat) (v : Bool) : (m.wc d v).saved = m.saved := rfl
@[simp] theorem Stream.busy_wc (m : Stream) (d : Nat) (v : Bool) : (m.wc d v).busy = m.busy := rfl
@[simp] theorem Stream.late_wc (m : Stream) (d : Nat) (v : Bool) : (m.wc d v).late = m.late := rfl
@[simp] theorem Stream.pend_wc (m : Stream) (d : Nat) (v : Bool) : (m.wc d v).pend = m.pend := rfl
@[simp] theorem Stream.seq_wc (m : Stream) (d : Nat) (v : Bool) : (m.wc d v).seq = m.seq := rfl
@[simp] theorem Stream.fence_wc (m : Stream) (d : Nat) (v : Bool) : (m.wc d v).fence = m.fence := rfl
@[simp] theorem Stream.hpend_wc (m : Stream) (d : Nat) (v : Bool) : (m.wc d v).hpend = m.hpend := rfl
@[simp] theorem Stream.lbuf_wc (m : Stream) (d : Nat) (v : Bool) : (m.wc d v).lbuf = m.lbuf := rfl
@[simp] theorem Stream.fetching_wc (m : Stream) (d : Nat) (v : Bool) : (m.wc d v).fetching = m.fetching := rfl
@[simp] theorem Stream.spent_wc (m : Stream) (d : Nat) (v : Bool) : (m.wc d v).spent = m.spent := rfl
@[simp] theorem Stream.passed_wc (m : Stream) (d : Nat) (v : Bool) : (m.wc d v).passed = m.passed := rfl
@[simp] theorem Stream.owed_wc (m : Stream) (d : Nat) (v : Bool) : (m.wc d v).owed = m.owed := rfl

/-! ### Streams of a core -/

theorem Core.stream_setStream (c : Core) (e e' : Eng) (m : Stream) :
    (c.setStream e m).stream e' = if e' = e then m else c.stream e' := by
  cases e <;> cases e' <;> rfl

@[simp] theorem Core.stream_setStream_self (c : Core) (e : Eng) (m : Stream) : (c.setStream e m).stream e = m := by
  cases e <;> rfl

@[simp] theorem Core.kernel_setStream (c : Core) (e : Eng) (m : Stream) : (c.setStream e m).kernel = c.kernel := by cases e <;> rfl
@[simp] theorem Core.gdie_setStream (c : Core) (e : Eng) (m : Stream) : (c.setStream e m).gdie = c.gdie := by cases e <;> rfl
@[simp] theorem Core.gclu_setStream (c : Core) (e : Eng) (m : Stream) : (c.setStream e m).gclu = c.gclu := by cases e <;> rfl
@[simp] theorem Core.gcor_setStream (c : Core) (e : Eng) (m : Stream) : (c.setStream e m).gcor = c.gcor := by cases e <;> rfl
@[simp] theorem Core.stg_setStream (c : Core) (e : Eng) (m : Stream) : (c.setStream e m).stg = c.stg := by cases e <;> rfl
@[simp] theorem Core.sp_setStream (c : Core) (e : Eng) (m : Stream) : (c.setStream e m).sp = c.sp := by cases e <;> rfl
@[simp] theorem Core.q_setStream (c : Core) (e : Eng) (m : Stream) : (c.setStream e m).q = c.q := by cases e <;> rfl
@[simp] theorem Core.popped_setStream (c : Core) (e : Eng) (m : Stream) : (c.setStream e m).popped = c.popped := by cases e <;> rfl
@[simp] theorem Core.otap_setStream (c : Core) (e : Eng) (m : Stream) : (c.setStream e m).otap = c.otap := by cases e <;> rfl
@[simp] theorem Core.otapBy_setStream (c : Core) (e : Eng) (m : Stream) : (c.setStream e m).otapBy = c.otapBy := by cases e <;> rfl
@[simp] theorem Core.bfmt_setStream (c : Core) (e : Eng) (m : Stream) : (c.setStream e m).bfmt = c.bfmt := by cases e <;> rfl
@[simp] theorem Core.bars_setStream (c : Core) (e : Eng) (m : Stream) : (c.setStream e m).bars = c.bars := by cases e <;> rfl
@[simp] theorem Core.abs_setStream (c : Core) (e : Eng) (m : Stream) : (c.setStream e m).abs = c.abs := by cases e <;> rfl
@[simp] theorem Core.tags_setStream (c : Core) (e : Eng) (m : Stream) : (c.setStream e m).tags = c.tags := by cases e <;> rfl
@[simp] theorem Core.tokens_setStream (c : Core) (e : Eng) (m : Stream) : (c.setStream e m).tokens = c.tokens := by cases e <;> rfl
@[simp] theorem Core.ldq_setStream (c : Core) (e : Eng) (m : Stream) : (c.setStream e m).ldq = c.ldq := by cases e <;> rfl
@[simp] theorem Core.stq_setStream (c : Core) (e : Eng) (m : Stream) : (c.setStream e m).stq = c.stq := by cases e <;> rfl
@[simp] theorem Core.cmq_setStream (c : Core) (e : Eng) (m : Stream) : (c.setStream e m).cmq = c.cmq := by cases e <;> rfl
@[simp] theorem Core.ldFly_setStream (c : Core) (e : Eng) (m : Stream) : (c.setStream e m).ldFly = c.ldFly := by cases e <;> rfl
@[simp] theorem Core.stFly_setStream (c : Core) (e : Eng) (m : Stream) : (c.setStream e m).stFly = c.stFly := by cases e <;> rfl
@[simp] theorem Core.cmFly_setStream (c : Core) (e : Eng) (m : Stream) : (c.setStream e m).cmFly = c.cmFly := by cases e <;> rfl
@[simp] theorem Core.nextOp_setStream (c : Core) (e : Eng) (m : Stream) : (c.setStream e m).nextOp = c.nextOp := by cases e <;> rfl
@[simp] theorem Core.drillRows_setStream (c : Core) (e : Eng) (m : Stream) : (c.setStream e m).drillRows = c.drillRows := by cases e <;> rfl
@[simp] theorem Core.monitors_setStream (c : Core) (e : Eng) (m : Stream) : (c.setStream e m).monitors = c.monitors := by cases e <;> rfl
@[simp] theorem Core.interp_setStream (c : Core) (e : Eng) (m : Stream) : (c.setStream e m).interp = c.interp := by cases e <;> rfl
@[simp] theorem Core.harrow_setStream (c : Core) (e : Eng) (m : Stream) : (c.setStream e m).harrow = c.harrow := by cases e <;> rfl
@[simp] theorem Core.last_setStream (c : Core) (e : Eng) (m : Stream) : (c.setStream e m).last = c.last := by cases e <;> rfl

/-! ### The issuing stream -/

@[simp] theorem State.cur_modMe (s : State) (f : Stream → Stream) : (s.modMe f).cur = s.cur := rfl

@[simp] theorem State.me_modMe (s : State) (f : Stream → Stream) : (s.modMe f).me = f s.me := by
  simp [State.me, State.modMe, State.modStream, State.setStream, State.stream]

@[simp] theorem State.rx_wx (s : State) (d r : BitVec 5) (v : Word) :
    (s.wx d v).rx r = if r = 0 then 0 else if r = d then v else s.rx r := by
  simp only [State.wx, State.rx, State.me_modMe, Stream.rx_wx]

theorem State.myCore_modMe (s : State) (f : Stream → Stream) :
    (s.modMe f).myCore = s.myCore.setStream s.cur.eng (f s.me) := by
  simp [State.myCore, State.modMe, State.modStream, State.setStream, State.me]

theorem State.core_modMe_ne (s : State) (f : Stream → Stream) {c : Nat} (h : c ≠ s.cur.core) :
    (s.modMe f).core c = s.core c := by
  simp [State.modMe, State.modStream, State.setStream, State.core_setCore, h]

theorem State.modMe_eq (s : State) (f : Stream → Stream) : s.modMe f = { s with cores := (s.modMe f).cores } := rfl

/-- Two changes of the issuing stream are one. -/
theorem State.modMe_modMe (s : State) (f g : Stream → Stream) : (s.modMe f).modMe g = s.modMe (fun m => g (f m)) := by
  have hs : ∀ (t : Tbl Core) (n : Nat) (x y : Core), (t.set n x).set n y = t.set n y := by
    intro t n x y
    induction t with
    | nil => simp [Tbl.set]
    | cons p r ih =>
      obtain ⟨k, v⟩ := p
      simp only [Tbl.set]
      split
      · simp [Tbl.set]
      · split
        · simp [Tbl.set]
        · rename_i h1 h2; simp [Tbl.set, h1, h2, ih]
  have h1 : (s.modMe f).me = f s.me := s.me_modMe f
  have h2 : (s.modMe f).myCore = s.myCore.setStream s.cur.eng (f s.me) := s.myCore_modMe f
  have h3 : ∀ (c : Core) (e : Eng) (a b : Stream), (c.setStream e a).setStream e b = c.setStream e b := by
    intro c e a b; cases e <;> rfl
  show (s.modMe f).setStream s.cur (g (s.modMe f).me) = s.setStream s.cur (g (f s.me))
  rw [h1]
  unfold State.setStream
  rw [show (s.modMe f).core s.cur.core = (s.modMe f).myCore from rfl, h2, h3]
  show State.setCore (State.setCore _ _ _) _ _ = _
  simp only [State.setCore, hs]
  rfl

end Sys2Proof.Machine
end

