-- ==== Sys2Proof/Laws/Frames.lean ====
section
/-! SUPPORT. Laws/Frames.lean: what the shared operations on the issuing stream can do, in the terms of Safety.lean. -/

namespace Sys2Proof.Machine

theorem State.SameBytes.refl (s : State) : s.SameBytes s := ⟨fun _ => rfl, fun _ _ => rfl, fun _ _ => rfl⟩

/-- A change of the issuing stream changes nothing else. -/
theorem State.onlyMe_modMe (s : State) (f : Stream → Stream) : s.OnlyMe (s.modMe f) := by
  have hsp : ∀ c, ((s.modMe f).core c).sp = (s.core c).sp := by
    intro c
    by_cases h : c = s.cur.core
    · subst h; show (s.modMe f).myCore.sp = _; rw [s.myCore_modMe]; simp [State.myCore]
    · rw [s.core_modMe_ne f h]
  refine ⟨rfl, fun c h => s.core_modMe_ne f h, ?_, fun _ => rfl, fun _ _ => rfl, fun c a => by rw [hsp]⟩
  rw [s.myCore_modMe, s.me_modMe]

theorem State.onlyMe_wx (s : State) (d : BitVec 5) (v : Word) : s.OnlyMe (s.wx d v) := s.onlyMe_modMe _

/-- What a write of x[d] can do. -/
theorem GivesX.of_wx {i : Instr} {s : State} {d : BitVec 5} {v : Word} (h : exec i s = .next (s.wx d v)) :
    GivesX i s d v := by
  refine ⟨_, h, s.onlyMe_wx d v, ?_, ?_, ?_⟩
  · simp only [State.wx, State.me_modMe]; exact Stream.wx_eq _ _ _
  · intro r hr; rw [State.rx_wx, if_neg hr]; split
    · subst_vars; rfl
    · rfl
  · rw [State.rx_wx]; simp

theorem GivesA.of_wa {i : Instr} {s : State} {d : BitVec 4} {v : Word}
    (h : exec i s = .next (s.modMe (fun m => m.wa d v))) : GivesA i s d v := by
  refine ⟨_, h, s.onlyMe_modMe _, ?_, ?_, ?_⟩
  · simp only [State.me_modMe]; rfl
  · intro r hr; rw [State.me_modMe, Stream.ra_wa, if_neg hr]
  · rw [State.me_modMe, Stream.ra_wa, if_pos rfl]

theorem GivesV.of_wv {i : Instr} {s : State} {d : BitVec 5} {v : Row} (h : exec i s = .next (s.wv d v)) :
    GivesV i s d v := by
  refine ⟨_, h, s.onlyMe_modMe _, ?_, ?_, ?_⟩
  · simp only [State.wv, State.me_modMe]; rfl
  · intro r hr; simp only [State.rv, State.wv]; rw [State.me_modMe, Stream.rv_wv, if_neg hr]
  · simp only [State.rv, State.wv]; rw [State.me_modMe, Stream.rv_wv, if_pos rfl]

theorem GivesP.of_wp {i : Instr} {s : State} {d : BitVec 3} {v : Pred}
    (h : exec i s = .next (s.modMe (fun m => m.wp d v))) : GivesP i s d v := by
  refine ⟨_, h, s.onlyMe_modMe _, ?_, ?_, ?_⟩
  · simp only [State.me_modMe]; rfl
  · intro r hr; rw [State.me_modMe, Stream.rp_wp, if_neg hr]
  · rw [State.me_modMe, Stream.rp_wp, if_pos rfl]

theorem GivesC.of_wc {i : Instr} {s : State} {d : Nat} {v : Bool} (hd : d < 4) (h : exec i s = .next (s.wc d v)) :
    GivesC i s d v := by
  refine ⟨_, h, s.onlyMe_modMe _, ?_, ?_, ?_⟩
  · simp only [State.wc, State.me_modMe]; rfl
  · intro r hr; simp only [State.wc]; rw [State.me_modMe, Stream.rc_wc _ _ _ _ hd, if_neg hr]
  · simp only [State.wc]; rw [State.me_modMe, Stream.rc_wc _ _ _ _ hd, if_pos rfl]

theorem GivesMe.of_modMe {i : Instr} {s : State} {f : Stream → Stream} (h : exec i s = .next (s.modMe f)) :
    GivesMe i s (f s.me) := ⟨_, h, s.onlyMe_modMe _, s.me_modMe f⟩

end Sys2Proof.Machine
end

