-- ==== Sys2Proof/Laws/Faults.lean ====
section
/-! SUPPORT. Laws/Faults.lean: what the logbook, the notification block and the taking of a fault can do: none of them
touches a core, a kernel but the one that faults, or a tract. -/

namespace Sys2Proof.Machine

/-- What the command complex's reports leave as it was. -/
def State.SameCompute (s t : State) : Prop :=
  t.cores = s.cores ∧ t.kernels = s.kernels ∧ t.tracts = s.tracts ∧ t.cur = s.cur

theorem State.SameCompute.refl (s : State) : s.SameCompute s := ⟨rfl, rfl, rfl, rfl⟩

theorem State.SameCompute.trans {s t u : State} (h : s.SameCompute t) (h' : t.SameCompute u) : s.SameCompute u :=
  ⟨h'.1.trans h.1, h'.2.1.trans h.2.1, h'.2.2.1.trans h.2.2.1, h'.2.2.2.trans h.2.2.2⟩

theorem State.sameCompute_log (s : State) (die cls index : Nat) (detail : Word) (p q : BitVec 16) :
    s.SameCompute (s.log die cls index detail p q) := .refl s

theorem State.sameCompute_modQueue (s : State) (q : Nat) (f : Queue → Queue) : s.SameCompute (s.modQueue q f) := .refl s

theorem State.sameCompute_setSvc (s : State) (n : Nat) (p : Port) : s.SameCompute (s.setSvc n p) := .refl s

theorem State.sameCompute_store (s : State) (pa n v : Nat) : s.SameCompute ((s.store pa n v).getD s) := by
  unfold State.store
  cases s.place pa <;> exact .refl s

theorem State.sameCompute_enterFaulted (s : State) (q : Nat) (f : QFault) (lvl off : Nat) :
    s.SameCompute (s.enterFaulted q f lvl off) := s.sameCompute_modQueue ..

theorem State.sameCompute_portFault (s : State) (p : Nat) (f : QFault) : s.SameCompute (s.portFault p f) :=
  s.sameCompute_setSvc ..

theorem State.sameCompute_sendTo (s : State) (f : BitVec 256) (data : Row) : s.SameCompute (s.sendTo f data) := by
  unfold State.sendTo
  split <;> exact .refl s

theorem State.sameCompute_request (s : State) (who : Issuer) (kind addr : Nat) (pay : Word) (data : Row) :
    s.SameCompute (s.request who kind addr pay data) := by
  unfold State.request
  dsimp only
  split
  · exact .refl s
  · exact State.SameCompute.trans ⟨rfl, rfl, rfl, rfl⟩ (State.sameCompute_sendTo ..)

/-- A write of memory, here or in another package, is no change of the compute side. -/
theorem State.sameCompute_put (s : State) (who : Issuer) (pa n v : Nat) : s.SameCompute (s.put who pa n v) := by
  unfold State.put
  split
  · split
    · exact s.sameCompute_store _ _ _
    · exact s.sameCompute_request ..
  · exact s.sameCompute_request ..

theorem State.sameCompute_sendIrq (s : State) (q : Nat) : s.SameCompute (s.sendIrq q) := by
  unfold State.sendIrq
  dsimp only
  split <;> exact .refl s

theorem State.sameCompute_noteIrq (s : State) (q : Nat) (u : Bool) : s.SameCompute (s.noteIrq q u) := by
  unfold State.noteIrq
  dsimp only
  split
  · exact s.sameCompute_sendIrq q
  · split <;> exact .refl s

theorem State.sameCompute_forget (s : State) (who : Issuer) : s.SameCompute (s.forget who) := ⟨rfl, rfl, rfl, rfl⟩

theorem State.sameCompute_awaitLoad (s : State) (who : Issuer) (pa : Nat) : s.SameCompute (s.awaitLoad who pa) := by
  unfold State.awaitLoad
  split
  · exact .refl s
  · exact s.sameCompute_request ..

theorem State.sameCompute_noteLost (s : State) (q : Nat) (d : NoteDue) : s.SameCompute (s.noteLost q d) := by
  unfold State.noteLost
  dsimp only
  refine (s.sameCompute_log (q / 1024) 2 QFault.linkRoute.code (word d.off) 0xFFFF (BitVec.ofNat 16 q)).trans ?_
  split
  · exact ((State.sameCompute_enterFaulted ..).trans (State.sameCompute_modQueue ..)).trans (State.sameCompute_sendIrq _ q)
  · split
    · exact State.sameCompute_sendIrq _ q
    · exact .refl _

theorem State.sameCompute_noteWrite (s : State) (q : Nat) (d : NoteDue) (pa : Nat) : s.SameCompute (s.noteWrite q d pa) := by
  unfold State.noteWrite
  dsimp only
  refine (s.sameCompute_put (.note q) pa 64 (s.queue q).block).trans ?_
  split
  · exact State.sameCompute_modQueue ..
  · exact State.sameCompute_noteIrq ..

/-- What the next turn of an update that is due can do. -/
theorem State.sameCompute_noteStep (s : State) (q : Nat) : s.SameCompute (s.noteStep q) := by
  unfold State.noteStep
  split
  · exact .refl s
  · dsimp only
    have left : s.SameCompute ((s.modQueue q (fun Q => { Q with noteDue := none })).forget (.note q)) :=
      (s.sameCompute_modQueue ..).trans (State.sameCompute_forget ..)
    split
    · exact .refl s
    · split
      · split
        · exact left.trans (State.sameCompute_noteIrq ..)
        · split
          · exact left.trans (State.sameCompute_noteLost ..)
          · split
            · exact .refl s
            · exact left.trans (State.sameCompute_noteWrite ..)
      · exact s.sameCompute_awaitLoad ..
      · split
        · exact left.trans (State.sameCompute_noteIrq ..)
        · exact (s.sameCompute_modQueue ..).trans (State.sameCompute_forget ..)
      · exact left.trans (State.sameCompute_noteIrq ..)

/-- What a notification event can do: it touches no core, no kernel and no tract. -/
theorem State.sameCompute_notify (s : State) (q : Nat) (u : Bool) (lvl off : Nat) : s.SameCompute (s.notify q u lvl off) :=
  (s.sameCompute_modQueue ..).trans (State.sameCompute_noteStep ..)

theorem State.sameCompute_completed (s : State) (q : Nat) (n : Option Nat) (lvl off : Nat) :
    s.SameCompute (s.completed q n lvl off) := by
  unfold State.completed
  split
  · exact .refl s
  · exact (s.sameCompute_modQueue ..).trans (State.sameCompute_notify ..)

theorem State.sameCompute_queueFault (s : State) (q : Nat) (f : QFault) (lvl off : Nat) :
    s.SameCompute (s.queueFault q f lvl off) := by
  unfold State.queueFault
  dsimp only
  split
  · exact ((s.sameCompute_log ..).trans (State.sameCompute_enterFaulted ..)).trans (State.sameCompute_notify _ q true ..)
  · exact s.sameCompute_log ..

theorem State.sameCompute_reportLaunch (s : State) (q : Nat) (f : QFault) (lvl off : Nat) :
    s.SameCompute (s.reportLaunch q f lvl off) := by
  unfold State.reportLaunch
  have h : s.SameCompute (s.launchFaulted q) := ⟨rfl, rfl, rfl, rfl⟩
  dsimp only
  split
  · exact (h.trans ((State.sameCompute_portFault ..).trans (State.sameCompute_modQueue ..))).trans
      (State.sameCompute_completed ..)
  · split
    · exact h.trans (State.sameCompute_queueFault ..)
    · exact (h.trans (State.sameCompute_queueFault ..)).trans (State.sameCompute_completed ..)

theorem State.sameCompute_foldl {α : Type} (f : State → α → State) (h : ∀ (s : State) (a : α), s.SameCompute (f s a)) (l : List α)
    (s : State) : s.SameCompute (l.foldl f s) := by
  induction l generalizing s with
  | nil => exact .refl s
  | cons a l ih => exact (h s a).trans (ih (f s a))

theorem State.sameCompute_dismissAps (s : State) (k : Nat) : s.SameCompute (s.dismissAps k) := by
  unfold State.dismissAps
  exact (State.sameCompute_foldl (fun s (t : Seat) => s.dismiss (.ap t.pcn)) (fun s _ => .refl s) _ s).trans
    ⟨rfl, rfl, rfl, rfl⟩

theorem State.sameCompute_dropRefresh (s : State) (k : Nat) : s.SameCompute (s.dropRefresh k) := by
  unfold State.dropRefresh
  apply State.sameCompute_foldl
  intro s d
  exact .refl s

/-- What a kernel fault can do to the compute side: the kernel is FAULTED with its record, and that is all. -/
theorem State.kernelFault_spec (s : State) (k : Nat) (r : FaultRec) (h : (s.kernel k).Faultable) :
    let t := s.kernelFault k r
    t.cores = s.cores ∧ t.tracts = s.tracts ∧ t.cur = s.cur ∧ (∀ j, j ≠ k → t.kernel j = s.kernel j)
      ∧ t.kernel k = { s.kernel k with state := .faulted, fault := some r, preempt := false } := by
  intro t
  have key : (s.setKernel k { s.kernel k with state := .faulted, fault := some r, preempt := false }).SameCompute t := by
    show State.SameCompute _ (s.kernelFault k r)
    have h' : (s.kernel k).state = .starting ∨ (s.kernel k).state = .running ∨ (s.kernel k).state = .draining := h
    unfold State.kernelFault
    dsimp only
    rcases h' with h' | h' | h' <;> simp only [h'] <;>
    · refine (((State.sameCompute_dismissAps _ k).trans (State.sameCompute_dropRefresh _ k)).trans
        (State.sameCompute_log _ (r.pcn / 128) r.cls r.code.code r.whr (BitVec.ofNat 16 r.pcn)
          (BitVec.ofNat 16 (s.kernel k).queue))).trans (State.SameCompute.trans ?_ (State.sameCompute_reportLaunch ..))
      split
      · exact .refl _
      · exact State.sameCompute_modQueue ..
  obtain ⟨h1, h2, h3, h4⟩ := key
  have hk : ∀ j, t.kernel j = (s.setKernel k
      { s.kernel k with state := .faulted, fault := some r, preempt := false }).kernel j := by
    intro j; show t.kernels.get _ j = _; rw [h2]; rfl
  refine ⟨h1, h3, h4, fun j hj => ?_, ?_⟩
  · rw [hk, State.kernel_setKernel, if_neg hj]
  · rw [hk, State.kernel_setKernel_self]

/-- A fault at an issuing word is taken as R142 says. -/
theorem TakesFault.of_streamFault {i : Instr} {s : State} {k : Nat} {c : KFault} {n : Nat}
    (hk : s.myCore.kernel = some k) (hf : (s.kernel k).Faultable)
    (h : exec i s = .next (s.streamFault s.cur c n)) : TakesFault i s k c n := by
  have e : s.streamFault s.cur c n = s.kernelFault k (s.faultRec k c n) := by
    unfold State.streamFault
    rw [show (s.core s.cur.core).kernel = some k from hk]
    rfl
  obtain ⟨h1, -, -, h4, h5⟩ := s.kernelFault_spec k (s.faultRec k c n) hf
  exact ⟨_, h, by rw [e, h5], by rw [e, h1], fun j hj => by rw [e, h4 j hj], by rw [e, h5]⟩

end Sys2Proof.Machine
end

