-- ==== Sys2Proof/Tests/Slice0.lean ====
section
/-! SUPPORT. Tests/Slice0.lean: the author's own tests. The words decoded are the ones that the chapters write out for
their own instructions, and the results expected are the chapters' worked examples or follow from a rule by hand. The
witnesses show, for each statement of Certificates/Slice0/Obligations.lean with hypotheses, states that meet them. -/

set_option Elab.async false

namespace Sys2Proof.Tests
open Sys2Proof Sys2Proof.Machine

/-! ### A small machine -/

/-- A stream of a kernel that runs, inside one plain block that reaches over the whole code. -/
def stream0 : Stream :=
  { phase := .live, xk := 32, vm := 32, pc := 4, npc := 8, blocks := [{ entry := 0, body := 4, stop := 60, count := 1 }] }

/-- A kernel that runs on core 0 with three streams, its code all `nop` words. -/
def kernel0 : Kernel :=
  { state := .running, hdr := { streams := 7, xk := #v[32, 32, 32], vm := 32 }, seats := [{ pcn := 0 }], released := false
    code := List.replicate 32 [0xC0, 0x00] |>.flatten }

/-- Core 0 of that kernel. -/
def core0 : Core := { kernel := some 0, ap := stream0, xp := stream0, mx := stream0 }

/-- A tract of 1000 cycles and 4 samples a frame, inside its first sample. -/
def tract0 : Tract := { state := .locked, tctl := 999#24 ++ 3#16 ++ 0#24, rate := (1000, 1) }

/-- A package that runs kernel 0 on core 0; the AP of core 0 is the issuing stream,
and no function is host-assisted. -/
def tiny : State :=
  { kernels := [(0, kernel0)], nextKernel := 1, cores := [(0, core0)], tracts := [(0, tract0)], helm := { mode := 0 } }

/-- The same package with its issuing stream changed. -/
def me (f : Stream → Stream) : State := tiny.modMe f
/-- The same package with core 0 changed. -/
def my (f : Core → Core) : State := tiny.modMyCore f

/-- The state after an instruction; the state itself where it stops. -/
def after (i : Instr) (s : State) : State :=
  match exec i s with
  | .next t => t
  | _ => s

/-- The code of the fault that stopped kernel 0. -/
def faultOf (s : State) : Option KFault := (s.kernel 0).fault.map (·.code)

/-! ### Well-formedness: one ill-formed term for each check -/

theorem test_wf_refuses_scalar_words :
    ([.iaSxt 0 1 2 0, .iaZxt 0 1 2 3, .iaAmov 0 16 1, .iaXmov 0 1 16, .iaAadd 0 1 16 2, .iaArow 0 16 1 2, .compactAdd 0 0,
      .cmpEq 0 4 1 2, .cmpNtst 0 4 1 2, .cmpAnd 0 1 4 2, .cmpStg 0 1 8, .brPrepx 0 4 1, .brGo 0 4 0, .brGoNot 0 0 4,
      .brGoAlways 0 4, .brTget 0 1 4, .sysId 0 1 12, .sysRd 0 1 0x25, .sysWr 0 1 0x21, .sysFence 0 1 6] : List Instr).all
      (fun i => !i.wf) = true := by decide +kernel

theorem test_wf_refuses_memory_and_queue_words :
    ([.atAdd 0 1 2 0 4, .atSwap 0 1 2 0 4, .atCas 0 5 3 0 2, .atFadd 0 1 2 0 3, .monWaiteq 0 1 2 0 4, .spVspill 0 1 64,
      .spVfill 0 1 64, .qPop 0 1 8, .qCnt 0 1 8, .qPush 0 8 1, .qPopc 0 1 5, .qPushc 0 5 1, .barRd 0 1 2 2, .xlTr 0 16 1,
      .xlTrw 0 16 1, .xlInv 0 16] : List Instr).all (fun i => !i.wf) = true := by decide +kernel


theorem test_wf_refuses_handle_copy_and_tract_words :
    ([.xlRd 0 1 16 0, .xlRd 0 1 0 2, .cpLd 0 16 1, .cpSt 0 16 1, .cpTok 0 4 0, .cpTok 0 0 9, .cpTcnt 0 1 4, .abInit 0 16 1,
      .abAwait 0 16 1, .abAret 0 16 1, .abRd 0 1 16 0, .abRd 0 1 0 4, .trRd 0 1 8, .rgEcount 0 1 0, .rgEscan 0 1 0,
      .rgEscan 0 0 1, .rgEscat 0 1 0 0, .rgEscat 0 2 0 1, .rgEscat 0 2 0 2] : List Instr).all (fun i => !i.wf) = true := by
  decide +kernel

theorem test_wf_refuses_vector_words :
    ([.viAdd 0 0 0 0 7, .viSub 0 0 0 0 7, .viMul 0 0 0 0 7, .viMin 0 0 0 0 7, .viMax 0 0 0 0 7, .viAdds 0 0 0 0 7,
      .vfAdd 0 0 0 0 0 3, .vfSub 0 0 0 0 0 3, .vfMul 0 0 0 0 0 3, .vfFma 0 0 0 0 0 3, .vfMin 0 0 0 0 3, .vfMax 0 0 0 0 3,
      .vfCfma 0 1 0 0 0 3, .vfCfma 0 0 1 0 0 3, .vfCfma 0 0 0 1 0 3, .vfNeg 0 0 0 3, .vfAbs 0 0 0 3, .vfSqrt 0 0 0 0 3,
      .vfRcp 0 0 0 0 3, .vcCvt 0 0 0 0 0 5 5, .vcCvt 0 0 0 0 0 7 2, .vcCvt 0 0 0 0 0 0 7, .vcCvt 0 0 0 1 0 7 3,
      .vcCvt 0 0 0 0 2 5 6, .vpFimm 0 0 0 5, .vrSum 0 0 0 7, .vrMin 0 0 0 7, .vrMax 0 0 0 7, .vrFsum 0 0 0 3,
      .vrFmin 0 0 0 3, .vrFmax 0 0 0 3, .vrAny 0 4 0, .vrAny 0 0 8, .vrAll 0 4 0 0, .vrAll 0 0 8 0, .vrPcnt 0 0 8]
      : List Instr).all (fun i => !i.wf) = true := by decide +kernel

theorem test_wf_refuses_predicate_and_harrow_words :
    ([.vqEq 0 8 0 0 0, .vqEq 0 0 0 0 7, .vqNe 0 0 0 0 7, .vqLt 0 8 0 0 0, .vqLe 0 0 0 0 7, .vqFeq 0 8 0 0 0, .vqFeq 0 0 0 0 3,
      .vqFlt 0 0 0 0 3, .vqFle 0 8 0 0 0, .vqFun 0 0 0 0 3, .vqAnd 0 8 0 0, .vqOr 0 0 8 0, .vqXor 0 0 0 8, .vqAndn 0 8 0 0,
      .vqNot 0 8 0, .vqNot 0 0 8, .vqOnes 0 8, .vqZero 0 8, .vqLim 0 8 0, .vqTox 0 0 8 0, .vqFrx 0 8 0 0, .mcSet 0 12 0,
      .mcGet 0 0 12, .mcGeta 0 0 12, .mbClr 0 2 0, .mbCount 0 2 0, .mbMerge 0 2 0, .mbMerge 0 0 2, .mbMerge 0 1 1,
      .mbDrain 0 2 0 0, .mbDrain 0 0 2 0, .mbDepth 0 0 2, .mbRdc 0 0 2 0, .mwWb 0 2 0 0, .mwTopk 0 2 0 0 0, .mwZero 0 2,
      .mwRd 0 0 2 0, .mxRd 0 0 4] : List Instr).all (fun i => !i.wf) = true := by decide +kernel

/-! ### Decoding: the words that the chapters write out -/

/-- Every word of a list decodes to its instruction. -/
def reads (nbits : Nat) (l : List (Nat × Instr)) : Prop := l.Forall (fun p => decodeTableWord nbits p.1 = some p.2)

theorem test_decode_scalar_words : reads 32
    [(0xE08B5814, .iaAddc 0 11 11 0), (0xE08A5353, .iaAddco 0 10 10 13), (0xE0852851, .iaMinu 0 5 5 1),
     (0xE08C601A, .iaSxt 0 12 12 2), (0xE0864940, .iaAdd 0 6 9 5), (0xE0883882, .iaAnd 0 8 7 2),
     (0xE08F7B4C, .iaDivu 0 15 15 13), (0xE0811020, .iaAmov 0 1 2), (0xE1052801, .iiAdd 0 5 5 1),
     (0xE10C5804, .iiAdd 0 12 11 4), (0xE1832145, .bfBfx 0 3 4 5), (0xE1821A21, .bfSlli 0 2 3 8 1),
     (0xE18C60E4, .bfSrai 0 12 12 3 0), (0xE18E7009, .bfPop 0 14 14), (0xE2072F4B, .iwIns 0 7 0x2F4B)] := by
  unfold reads; decide +kernel

theorem test_decode_control_words : reads 32
    [(0xE2803200, .cmpEq 0 0 6 8), (0xE2812142, .cmpLt 0 1 4 5), (0xE2805B05, .cmpGeu 0 0 11 12),
     (0xE2817001, .cmpNe 0 1 14 0), (0xE3000400, .brPrep 0 0 16), (0xE3024801, .brPrepx 0 2 9),
     (0xE3011002, .brGo 0 1 2), (0xE3011042, .brGoNot 0 1 2), (0xE3010082, .brGoAlways 0 1),
     (0xE3830080, .sysId 0 3 2), (0xE3820801, .sysRd 0 2 0x20), (0xE38000CA, .sysFence 0 3 2),
     (0xE39FFFC9, .sysFence 0 0x7FFF 1), (0xE607020C, .spFill 0 7 12), (0xE0005002, .blockPlain 10 1),
     (0xE0001019, .blockPlainReg 2 12)] := by
  unfold reads; decide +kernel

theorem test_decode_compact_words : reads 16
    [(0x00C5, .compactAdd 6 5), (0x14C5, .compactMov 6 5), (0x2503, .compactLoadImmediate 5 3),
     (0x7060, .compactPush 0 6), (0x78C0, .compactPush 4 12), (0x6850, .compactPop 4 5), (0x6A10, .compactPop 5 1),
     (0x8C00, .shortTransfer 1 2), (0x8C80, .shortTransferNot 1 2), (0x8900, .shortTransferAlways 1),
     (0xA228, .rep 4 1 1 0), (0xC000, .nop), (0xC828, .compactTrAt 40), (0xD140, .compactTrTap 5)] := by
  unfold reads; decide +kernel

theorem test_decode_memory_words : reads 32
    [(0xE4040800, .ld 0 4 1 0 0), (0xE4840901, .st 0 4 1 2 1), (0xE5041002, .atAdd 0 4 2 0 2),
     (0xE5061FCB, .atCas 0 6 3 15 3), (0xE5070940, .atSwap 0 7 1 2 0), (0xE5853002, .monWaiteq 0 5 6 0 2),
     (0xE7002140, .barInit 0 4 5), (0xE7002001, .barSync 0 4), (0xE7032002, .barArrive 0 3 4),
     (0xE70020C3, .barWait 0 4 3), (0xE7062044, .barRd 0 6 4 1), (0xE7821800, .tagWany 0 2 3),
     (0xE7801801, .tagWall 0 3), (0xE7841802, .tagFfr 0 4 3), (0xE8022000, .xlTr 0 2 4), (0xE8032801, .xlTrw 0 3 5),
     (0xE8020002, .xlInv 0 2), (0xE8071043, .xlRd 0 7 2 1)] := by
  unfold reads; decide +kernel

theorem test_decode_copy_words : reads 32
    [(0xE8801140, .cpLd 0 2 5), (0xE8801181, .cpSt 0 2 6), (0xE8801942, .cpMv 0 3 5), (0xE8804A83, .cpMx 0 9 10),
     (0xE8802004, .cpDrill 0 4), (0xE8822005, .cpDstop 0 2 4), (0xE8810086, .cpTok 0 1 2),
     (0xE8831007, .cpTcnt 0 3 2), (0xE9001980, .abInit 0 3 6), (0xE90019C1, .abAwait 0 3 7),
     (0xE90019C2, .abAret 0 3 7), (0xE9800A02, .trAt 0 40), (0xE9830044, .trRd 0 3 1), (0xE9806001, .trOtap 0 12),
     (0xEA0029C0, .stiPut 0 5 7), (0xEA092801, .stiGet 0 9 5), (0xEA800000, .knEnd 0), (0xEA800001, .knRdv 0),
     (0xEA800002, .knYield 0), (0xEA840003, .knPend 0 4)] := by
  unfold reads; decide +kernel

theorem test_decode_vector_words : reads 32
    [(0xEB0A1800, .rgEcount 0 10 3), (0xEB0E6001, .rgEscan 0 14 12), (0xEB101B82, .rgEscat 0 16 3 14),
     (0xEB0531C3, .rgClaim 0 5 6 7), (0xEC030881, .viAdd 0 3 1 2 1), (0xEC042183, .viAdd 0 4 4 6 3),
     (0xEC020812, .viMul 0 2 1 0 2), (0xEC830898, .vfFma 0 3 1 2 0 0), (0xEC83289A, .vfFma 0 3 5 2 0 2),
     (0xEC81500A, .vfSub 0 1 10 0 0 2), (0xEC8318F8, .vfRcp 0 3 3 0 0), (0xEC8800B3, .vfCfma 0 8 0 2 0 3),
     (0xED06106E, .vcCvt 0 6 2 0 1 5 6), (0xED031835, .vcCvt 0 3 3 0 0 6 5), (0xED82A800, .vmRmg 0 2 5 0 0),
     (0xED812000, .vmLd 0 1 4 0 0), (0xED845800, .vmSt 0 4 3 0 0)] := by
  unfold reads; decide +kernel

theorem test_decode_lane_words : reads 32
    [(0xEE02080E, .vpPut 0 2 1 0 2), (0xEE010918, .vpRot 0 1 1 4), (0xEE045007, .vpBcst 0 4 10 3),
     (0xEE058409, .vpGet 0 5 16 16 1), (0xEE042938, .vpSel 0 4 5 4 3 0), (0xEE063812, .vpFimm 0 6 7 2),
     (0xEE020A42, .vpPerm 0 2 1 9 2), (0xEE8B1002, .vrSum 0 11 2 2), (0xEE86401A, .vrFsum 0 6 8 2),
     (0xEE800830, .vrAny 0 0 1), (0xEF012152, .vqLt 0 1 4 5 2), (0xEF001839, .vqFrx 0 0 3 0),
     (0xEF842982, .vtRmix 0 4 5 6)] := by
  unfold reads; decide +kernel

theorem test_decode_harrow_words : reads 32
    [(0xF0022000, .mcSet 0 2 4), (0xF0030001, .mcGet 0 3 0), (0xF0033002, .mcGeta 0 3 6), (0xF0000003, .mcClr 0),
     (0xF0800000, .mgGo 0), (0xF0804801, .mgGoInd 0 9), (0xF0820003, .mgStat 0 2), (0xF0800004, .mgWait 0),
     (0xF1000840, .mbClr 0 1 1), (0xF10009C1, .mbCount 0 1 7), (0xF1000802, .mbMerge 0 0 1),
     (0xF1010043, .mbDrain 0 1 0 1), (0xF1050804, .mbDepth 0 5 1), (0xF1050185, .mbRdc 0 5 0 6),
     (0xF1810A00, .mwWb 0 1 1 8), (0xF1803941, .mwTopk 0 0 0 7 5), (0xF1810002, .mwZero 0 1),
     (0xF1840183, .mwRd 0 4 0 6), (0xF2040000, .mxRd 0 4 0), (0xF2003801, .mxRep 0 7)] := by
  unfold reads; decide +kernel

theorem test_decode_service_core_words : reads 32
    [(0x00B5000B, .zqPush 11 10), (0x00B5100B, .zqPushw 11 10), (0x0000250B, .zqFence 10),
     (0x0006B60B, .zqStat 13 12)] := by
  unfold reads; decide +kernel

theorem test_decode_header_words : reads 64
    [(0xE0402006 + 0xE4000000 * 2 ^ 32, .blockPipelined 4 (.imm 3) 1),
     (0xE020481F + 0xE4040000 * 2 ^ 32, .blockStrided 9 (.reg 15) 2 8 0 0),
     (0xE060780C + 0xE0000008 * 2 ^ 32, .blockTimed 15 (.imm 6) 8)] := by
  unfold reads; decide +kernel

/-- R71: an FN that no table assigns, a reserved field that is not 0, and an ill-formed operand are refused. -/
theorem test_decode_refuses_unassigned_words :
    ([0xE0800029, 0xE2840000, 0xE302083F, 0xEA800004, 0xF0000804, 0xFFFFFFFF, 0x00B5400B] : List Nat).Forall
      (fun w => decodeTableWord 32 w = none) := by decide +kernel

/-- R68: no header, word or half-word of zeros but the compact add with both registers x0, which is refused. -/
theorem test_decode_zero_half_word : decodeTableWord 16 0 = none := by decide +kernel

/-! ### One step: worked examples of the chapters -/

/-- R174's example: the sum carries into c3, and the second add takes the carry. -/
theorem test_carry_chain :
    let s := me (fun m => (((m.wx 10 0xFFFFFFFFFFFFFF00).wx 11 5).wx 13 0x265))
    let t := after (.iaAddco 0 10 10 13) s
    let u := after (.iaAddc 0 11 11 0) t
    t.rx 10 = 0x165 ∧ t.me.rc 3 = true ∧ u.rx 11 = 6 ∧ u.me.rc 3 = false := by decide +kernel

/-- The iw example: two inserts build a 32-bit constant. -/
theorem test_two_inserts : (after (.iwIns 0 7 0xC5A9) (after (.iwIns 0 7 0x2F4B) tiny)).rx 7 = 0x2F4BC5A9 := by
  decide +kernel

/-- The bf example: 0xC04 takes bits [15:4]. -/
theorem test_field_extract :
    (after (.bfBfx 0 3 4 5) (me (fun m => (m.wx 4 0x123456789ABCDEF0).wx 5 0xC04))).rx 3 = 0xDEF := by decide +kernel

/-- R173: a zero divisor gives −1 and the dividend, and −2^63 by −1 gives −2^63 and 0. -/
theorem test_division_corners :
    let s := me (fun m => ((m.wx 1 (BitVec.intMin 64)).wx 2 (-1)).wx 3 7)
    (after (.iaDiv 0 4 3 0) s).rx 4 = -1 ∧ (after (.iaRem 0 4 3 0) s).rx 4 = 7
      ∧ (after (.iaDiv 0 4 1 2) s).rx 4 = BitVec.intMin 64 ∧ (after (.iaRem 0 4 1 2) s).rx 4 = 0 := by decide +kernel

/-- R69: x0 discards a write. -/
theorem test_x0_discards : (after (.iiAdd 0 0 1 1) (me (fun m => m.wx 1 9))).rx 0 = 0 := by decide +kernel

/-- The rep example: repetition 1 of `ia.add x10, x20, x5` under `rep 4, 1, 1, 0` is `ia.add x11, x21, x5`; a field that
passes 31 gives none. -/
theorem test_repetition_advances_fields :
    repetition [0xA2, 0x28, 0xE0, 0x8A, 0xA1, 0x40] 0 3 = some (.iaAdd 0 11 21 5)
      ∧ repetition [0xA2, 0x28, 0xE0, 0x9F, 0xA1, 0x40] 0 3 = none := by decide +kernel

/-- R58's example: with count 3 and two stages, s0 reads 1, 1, 1, 0 and s1 reads 0, 1, 1, 1. -/
theorem test_stage_predicates :
    let m : Stream := { stream0 with
      npc := 60, spw := 1
      blocks := [{ kind := .pipelined 2, entry := 0, body := 8, stop := 60, count := 3 }] }
    let next (m : Stream) : Stream := { (m.complete .ap) with npc := 60 }
    ([m, next m, next (next m), next (next (next m))].map (fun m => (m.spw.getLsbD 0, m.spw.getLsbD 1)))
      = [(true, false), (true, true), (true, true), (false, true)]
      ∧ (next (next (next (next m)))).blocks = [] := by decide +kernel

/-- The `vp.fimm` example: 0x3F00 fills 16 lanes with 0x3F000000. -/
theorem test_fimm_fp32 :
    let s : State := { me (fun m => m) with cur := { core := 0, eng := .xp } }
    let t := after (.vpFimm 0 1 5 2) (s.wx 5 0x3F00)
    (List.range 16).all (fun k => (t.rv 1).toNat / 2 ^ (32 * k) % 2 ^ 32 = 0x3F000000) = true := by decide +kernel

/-- R38's example: BF16 0x3DCD widens to FP16 0x2E68. -/
theorem test_convert_bf16_fp16 : cvtElem false 4 5 0x3DCD = 0x2E68 := by decide +kernel

/-- R9's example: core 5 of cluster 11 on die 2 is package core 349, in package cluster 43. -/
theorem test_core_numbers : 2 * 128 + 11 * 8 + 5 = 349 ∧ cluster 349 = 43 := by decide

/-- The example of R105: 48 kHz with N = 12,500 is 600 MHz, which P0 allows and P2 does not. -/
theorem test_clock_ceiling :
    let rail (n : Nat) : State := { tiny with helm := { mode := 0, rails := #v[{ now := n }, {}, {}, {}] } }
    600000000 ≤ (rail 0).ceiling ∧ (rail 2).ceiling < 600000000 := by decide +kernel

/-- The mw.topk example: 7.0 at 3 and 40, 5.0 at 9, NaN at 0. -/
theorem test_topk_order :
    let f (j : Nat) : BitVec 32 :=
      if j = 0 then 0x7FC00000 else if j = 3 ∨ j = 40 then 0x40E00000 else if j = 9 then 0x40A00000 else 0x3F800000
    ranksBefore false f 3 40 = true ∧ ranksBefore false f 40 9 = true ∧ ranksBefore false f 9 0 = true
      ∧ ranksBefore true f 1 0 = true ∧ ranksBefore true f 9 3 = true := by decide +kernel

/-- The `vm.rmg` example: with ea[5:0] = 60 the result is bytes 60 to 63 of the first row, then bytes 0 to 59 of the
second. -/
theorem test_row_merge :
    let bytes (b : Nat) : List Host.Cell := (List.range 64).map (fun i => (64 * b + i, BitVec.ofNat 8 (64 * b + i)))
    let s := my (fun c => { c with
      sp := (bytes 0 ++ bytes 1).filter (fun p => p.2 != 0)
      xp := { c.xp with pend := [{ off := 60, kind := .rmgLow 2 }, { seq := 1, home := .bank 0 1, off := 60, kind := .rmgHigh 2 }] } })
    let t := after (.bankAccess 0 (.stream .xp) 0) (after (.bankAccess 0 (.stream .xp) 0) s)
    (List.range 64).all (fun j => ((t.stream ⟨0, .xp⟩).rv 2).toNat / 2 ^ (8 * j) % 256 = 60 + j) = true := by
  decide +kernel

/-- R142: a trap makes its kernel FAULTED with the code in the record, and names the word. -/
theorem test_trap_record :
    let t := after (.sysTrap 0 0x3FF) tiny
    (t.kernel 0).state = .faulted ∧ faultOf t = some .trap
      ∧ (t.kernel 0).fault.map (fun r => (r.detail, r.whr)) = some (0x3FF, 4) := by decide +kernel

/-- R72: an unassigned encoding in an AP stream faults ILLEGAL, a word of another engine ILLEGAL_FOR_ENGINE. -/
theorem test_check_order :
    tiny.wordFault ⟨0, .ap⟩ (.viAdd 0 1 2 3 0) 4 4 false = some .illegalForEngine
      ∧ tiny.wordFault ⟨0, .ap⟩ (.iaAdd 0 1 2 3) 4 4 false = none
      ∧ (me (fun m => { m with xk := 3 })).wordFault ⟨0, .ap⟩ (.iaAdd 0 1 2 3) 4 4 false = some .regAllot
      ∧ (me (fun m => { m with blocks := [] })).wordFault ⟨0, .ap⟩ (.iaAdd 0 1 2 3) 4 4 false = some .blockForm := by
  decide +kernel

/-- An instruction placed before the step is the one that the step runs. -/
theorem test_step_runs_a_placed_word :
    (match step (State.reset.withFetchWord 32 0xE1052801) with
      | .next t => decide (((t.stream ⟨0, .ap⟩).rx 5 = 1) ∧ (t.stream ⟨0, .ap⟩).pc = 8)
      | _ => false) = true := by decide +kernel

theorem test_step_runs_a_placed_long_word :
    (match step (State.reset.withFetchWord 32 0xE08110CB) with
      | .next t => decide ((t.stream ⟨0, .ap⟩).pc = 8)
      | _ => false) = true := by decide +kernel

theorem test_step_runs_a_placed_port_word :
    (match step (State.reset.withFetchWord 32 0x00B5000B) with
      | .next t => decide ((t.svc 0).fifo = [(0, 0)] ∧ (t.svc 0).pc = 4)
      | _ => false) = true := by decide +kernel

/-! ### Witnesses: scalar words and control -/

theorem witness_DivisionsAndCarryChain : ∀ n : Fin 4, n.val < 4 := by decide

theorem witness_CompareWords : (3#5).toNat < 4 ∧ (0#5).toNat < 4 := by decide

theorem witness_FillReturnsTheLatestSpill : tiny.me.spill = [] ∧ tiny.me.vspill = [] := by decide +kernel

/-- A count register that holds v. -/
def counted (v : Word) : State := me (fun m => m.wx 31 v)

theorem witness_BlockHeaders_plain :
    tiny.BodyFits 26 ∧ stageOk tiny.me.spw tiny.me.pc tiny.me.blocks = true ∧ (1023#10) ≠ 0
      ∧ (counted 1).BodyFits 26 ∧ stageOk (counted 1).me.spw (counted 1).me.pc (counted 1).me.blocks = true
      ∧ (31#5).toNat < (counted 1).me.xk ∧ 0 < ((counted 1).rx 31).toNat
      ∧ ((counted 0xFFFFFFFF).rx 31).toNat < 2 ^ 32 := by decide +kernel

theorem witness_BlockHeaders_strided :
    let s : State := { counted 0xFFFFFFFF with cur := { core := 0, eng := .xp } }
    s.BodyFits 26 ∧ stageOk s.me.spw s.me.pc s.me.blocks = true ∧ s.countAllotted (.imm 1023) ∧ 0 < s.countOf (.imm 1023)
      ∧ s.countOf (.imm 1023) < 2 ^ 32 ∧ ((1#10) ≠ 0 ∨ (15#4) = 0) ∧ ((0#10) ≠ 0 ∨ (0#4) = 0)
      ∧ (s.cur.eng = .ap ∨ (((1#10) = 0 ∨ 16 + (15#4).toNat < s.me.xk) ∧ ((0#10) = 0 ∨ 16 + (0#4).toNat < s.me.xk))) :=
  ⟨by decide +kernel, by decide +kernel, trivial, by decide +kernel, by decide +kernel, by decide +kernel, by decide +kernel,
    by decide +kernel⟩

theorem witness_BlockHeaders_timed :
    tiny.BodyFits 26 ∧ (1000#25).toNat = (tiny.tractOf tiny.cur.core).n ∧ tiny.me.npc + 2 * (26#10).toNat ≤ tiny.me.pc + 512
      ∧ tiny.countAllotted (.imm 1) ∧ ∀ b ∈ tiny.me.blocks, ∀ n, b.kind ≠ .timed n := by
  refine ⟨by decide +kernel, by decide +kernel, by decide +kernel, trivial, ?_⟩
  intro b hb n
  have : b = { entry := 0, body := 4, stop := 60, count := 1 } := by
    have h : tiny.me.blocks = [{ entry := 0, body := 4, stop := 60, count := 1 }] := by decide +kernel
    rw [h] at hb; exact List.mem_singleton.mp hb
  subst this; intro h; cases h

theorem witness_ACountOfZeroSkipsTheBlock :
    let off : State := me (fun m => { m with spw := 0, blocks := [{ kind := .pipelined 2, entry := 0, body := 4, stop := 60 }] })
    tiny.BodyFits 26 ∧ (tiny.kernel 0).Faultable ∧ tiny.myCore.kernel = some 0 ∧ 0 < tiny.me.xk ∧ (tiny.rx 0).toNat = 0
      ∧ stageOk off.me.spw off.me.pc off.me.blocks = false ∧ off.BodyFits 26 ∧ (1023#10).toNat < 2 ^ 32
      ∧ PairsFit 15 1 0 0 ∧ (∀ e : Fin 2, ({ tiny with cur := ⟨0, if e = 0 then .ap else .xp⟩ } : State).PairsAllotted 15 1 0 0)
      ∧ ¬tiny.BodyFits 0 ∧ ¬PairsFit 15 0 0 0 ∧ tiny.me.xk ≤ 32
      ∧ ¬({ (my (fun c => { c with mx := { c.mx with xk := 16 } })) with cur := ⟨0, .mx⟩ } : State).PairsAllotted 15 1 0 0
      ∧ ((0xE0000001#32).extractLsb' 23 9 = 0x1C0 ∧ (0xE0000041#32).getLsbD 0 = true ∧ (0xE0000041#32).extractLsb' 6 5 ≠ 0)
      ∧ ((0xE0600000#32).extractLsb' 21 2).toNat = 3 ∧ (0xE2000000#32).extractLsb' 25 4 ≠ 0 := by decide +kernel

/-- The count of a timed header that R54 skips, and one that R55 and R53 refuse. -/
theorem witness_ACountOfZeroSkipsTheBlock_timed :
    tiny.countAllotted (.imm 0) ∧ tiny.countOf (.imm 0) = 0 ∧ tiny.countOf (.reg 0) = 0 ∧ ¬tiny.TimedFits 26 999
      ∧ ¬(me (fun m => { m with xk := 31 })).countAllotted (.reg 31) :=
  ⟨trivial, by decide +kernel, by decide +kernel, fun h => absurd h.1 (by decide +kernel),
    fun h => absurd (show 31 < 31 from h) (by decide)⟩

theorem witness_ABodyRepeats :
    let b (k : BlockKind) (n : Nat) : Block := { kind := k, body := 8, stop := 60, count := 3, iter := n }
    let m (k : BlockKind) (n : Nat) : Stream := { stream0 with
      npc := 60, blocks := [b k n, { entry := 0, body := 4, stop := 62 }], pend := [{ kind := .loadX 31 }] }
    let rests (k : BlockKind) (n : Nat) : Prop :=
      (m k n).blocks = b k n :: [{ entry := 0, body := 4, stop := 62 }] ∧ (m k n).npc = (b k n).stop ∧ (m k n).window = none
        ∧ (m k n).repOn = false ∧ (b k n).stop ≠ 62
    rests .plain 1 ∧ (b .plain 1).iter + 1 < 3 ∧ rests .plain 2 ∧ 3 ≤ (b .plain 2).iter + 1
      ∧ rests (.pipelined 8) 8 ∧ (b (.pipelined 8) 8).iter + 1 < 3 + 8 - 1
      ∧ rests (.pipelined 1) 2 ∧ 3 + 1 - 1 ≤ (b (.pipelined 1) 2).iter + 1 ∧ rests (.timed 1000) 0
      ∧ rests (.strided 15 1 15 1023) 2 ∧ (31#5).toNat = 16 + (15#4).toNat
      ∧ (∃ y ∈ (m (.strided 15 1 15 1023) 2).pend, y.kind.dest = some (.x 31))
      ∧ ¬∃ y ∈ (m (.strided 15 1 15 1023) 2).pend, y.kind.dest = some (.x 30) := by decide +kernel

theorem witness_BranchWords :
    tiny.myCore.kernel = some 0 ∧ (tiny.kernel 0).Faultable ∧ (tiny.kernel 0).code.length = 64
      ∧ (tiny.me.pc : Int) + 2 * (29#13).toInt = 62 ∧ (tiny.me.pc : Int) + 2 * (30#13).toInt = 64
      ∧ ((me (fun m => m.wx 1 62)).rx 1).toNat < 64 ∧ ((me (fun m => m.wx 1 63)).rx 1).toNat % 2 ≠ 0
      ∧ tiny.slotsFit = true ∧ (me (fun m => { m with npc := 56 })).slotsFit = true
      ∧ (me (fun m => { m with npc := 58 })).slotsFit = false := by decide +kernel

theorem witness_ATransferFollowsItsTwoSlots :
    let m (n : Nat) (k : Bool) : Stream := { stream0 with window := some { slots := n, take := k, dest := 8 } }
    let at_ (k : Bool) : Stream := { m 1 k with npc := 60 }
    (m 2 true).window = some { slots := 2, take := true, dest := 8 } ∧ (m 2 true).repOn = false
      ∧ (∀ b ∈ (m 2 true).blocks.head?, (m 2 true).npc ≠ b.stop) ∧ (at_ true).window = some { slots := 1, take := true, dest := 8 }
      ∧ (at_ false).window = some { slots := 1, take := false, dest := 8 } ∧ (at_ true).repOn = false
      ∧ (m 1 false).window.isSome = true ∧ (∀ b ∈ (m 1 false).blocks.head?, (m 1 false).npc ≠ b.stop) := by decide

/-- A code whose word at 8 is `ia.add x10, x20, x5`. -/
def repeatable : State :=
  { tiny with kernels := [(0, { kernel0 with
      code := [0xE0, 0x00, 0xF8, 0x02, 0xC0, 0x00, 0xA2, 0x28, 0xE0, 0x8A, 0xA1, 0x40] ++ List.replicate 52 0 })] }

theorem witness_RepWords :
    repWordOk (repeatable.code repeatable.cur.core) repeatable.me.npc 3 = true
      ∧ (∀ o ∈ repeatable.me.blocks, repeatable.me.npc + 4 ≤ o.stop) ∧ (1#6) ≠ 0
      ∧ ((me (fun m => { m with fetching := true })).stream ⟨0, .ap⟩).fetching = true := by decide +kernel

theorem witness_Repetitions :
    let m (n : Nat) : Stream := { stream0 with repOn := true, repc := n }
    (m 2).repOn = true ∧ (m 2).npc ≠ (m 2).pc ∧ (m 2).window = none ∧ (∀ b ∈ (m 2).blocks.head?, (m 2).npc ≠ b.stop)
      ∧ 1 < (m 2).repc ∧ (m 1).repc = 1 ∧ (m 1).npc ≠ (m 1).pc := by decide

/-! ### Witnesses: sys, queues, barriers, kn and tags -/

theorem witness_SystemWords :
    let s := me (fun m => { (m.wx 1 0x14000003) with wait := .scall 5 0 })
    let c : State := { s with scalls := [{ id := 0, who := ⟨0, .ap⟩, answer := some 7 }] }
    s.myCore.kernel = some 0 ∧ bfmtOk ((s.rx 1).setWidth 32) = true ∧ (7#3) ≠ 0 ∧ s.me.fence = 0
      ∧ bits (s.rx 2) 63 24 = 0 ∧ (s.locked s.cur.core && s.assisted 7) = false
      ∧ c.awake 0 = true ∧ c.owing (.svc 0 0) = false ∧ (c.stream ⟨0, .ap⟩).wait = .scall 5 0
      ∧ c.scalls.find? (fun q => q.id = 0) = some { id := 0, who := ⟨0, .ap⟩, answer := some 7 } := by decide +kernel

theorem witness_FaultingWords :
    let s := me (fun m => (m.wx 1 0xE0000000).wx 2 (2 ^ 24))
    s.myCore.kernel = some 0 ∧ (s.kernel 0).Faultable ∧ (31#10).toNat < 32 ∧ bfmtOk ((s.rx 1).setWidth 32) = false
      ∧ bits (s.rx 2) 63 24 ≠ 0 := by decide +kernel

theorem witness_PushWords :
    let put (n : Nat) (p : Phase) := my (fun c => { c with
      q := (c.q.set 0 (List.replicate n {})).set 7 (List.replicate (2 * n) {}), xp := { c.xp with phase := p } })
    let gone := put 32 .ended
    tiny.me.inStub = false ∧ (7#5).toNat < 8 ∧ (put 31 .live).myCore.occupancy 7 < queueDepth 7
      ∧ ((put 31 .live).myCore.queueOf 7).length < queueDepth 7 ∧ queueDepth 7 ≤ (put 32 .live).myCore.occupancy 7
      ∧ ((put 32 .live).myCore.stream (queuePopper 7)).phase ≠ .ended ∧ (put 32 .live).me.inStub = false
      ∧ queueDepth 0 ≤ (gone.myCore.queueOf 0).length ∧ (gone.myCore.stream (queuePopper 0)).phase = .ended
      ∧ gone.myCore.kernel = some 0 ∧ (gone.kernel 0).Faultable := by decide +kernel

theorem witness_PopWords :
    let s (e : QElem) := my (fun c => { c with q := c.q.set 0 [e, { v := 6 }], xp := { c.xp with pend := [{ seq := 1 }] } })
    let p := my (fun c => { c with xp := { c.xp with phase := .ended } })
    (s { v := 5 }).me.inStub = false ∧ (s { v := 5, eng := .xp, seq := 1 }).myCore.queueOf 0 = { v := 5, eng := .xp, seq := 1 } :: [{ v := 6 }]
      ∧ (∀ p ∈ ((s {}).myCore.stream .xp).pend, 1 ≤ p.seq) ∧ (∃ p ∈ ((s {}).myCore.stream .xp).pend, p.seq < 2) ∧ (3#5).toNat < 4
      ∧ (s {}).myCore.queueOf 7 = [] ∧ ((s {}).myCore.stream (queuePusher 7)).phase ≠ .ended
      ∧ p.myCore.queueOf 7 = [] ∧ (p.myCore.stream (queuePusher 7)).phase = .ended ∧ (p.kernel 0).Faultable
      ∧ (me (fun m => { m with saved := some {} })).me.inStub = true := by decide +kernel

theorem witness_BlockedQueueWordsGoOn :
    let s (w : Wait) : State := my (fun c => { c with
      q := c.q.set 0 [{ v := 5 }], xp := { c.xp with wait := w }, ap := { c.ap with phase := .ended } })
    let p (n : Nat) := my (fun c => { c with
      q := c.q.set 3 (List.replicate n {}), ap := { c.ap with wait := .push 3 9 }, xp := { c.xp with phase := .ended } })
    (s (.popX 4 0)).awake 0 = true ∧ ((s (.popX 4 0)).core 0).queueOf 0 = { v := 5 } :: []
      ∧ ((s (.popX 4 0)).stream ⟨0, .xp⟩).wait = .popX 4 0 ∧ ((s (.popC 3 0)).stream ⟨0, .xp⟩).wait = .popC 3 0
      ∧ ((p 31).stream ⟨0, .ap⟩).wait = .push 3 9 ∧ ((p 31).core 0).occupancy 3 < queueDepth 3
      ∧ (((p 31).core 0).queueOf 3).length < queueDepth 3 ∧ queueDepth 3 ≤ ((p 32).core 0).occupancy 3
      ∧ (((p 32).core 0).stream (queuePopper 3)).phase = .ended ∧ (p 32).awake 0 = true
      ∧ ((s (.popX 4 1)).core 0).queueOf 1 = [] ∧ (((s (.popX 4 1)).core 0).stream (queuePusher 1)).phase = .ended
      ∧ ((s (.popX 4 1)).stream ⟨0, .xp⟩).wait = .popX 4 1 := by decide +kernel

/-- Barrier 31 of core 0 set up as b, and x1 to x3 as the words use them. -/
def barred (b : Barrier) : State :=
  my (fun c => { c with bars := c.bars.set 31 b, ap := ((c.ap.wx 1 0xAF).wx 2 0x100).wx 3 1 })

theorem witness_BarrierConfigurationWords :
    let s := barred {}
    let busy := barred { en := true, emask := 7, scope := 1, arr := 1 }
    s.myCore.kernel = some 0 ∧ (s.kernel 0).Faultable ∧ bits (s.rx 1) 63 8 = 0
      ∧ (bit (s.rx 1) 7 = true → 1 ≤ bits (s.rx 1) 5 3 ∧ bits (s.rx 1) 5 3 ≤ 5 ∧ bits (s.rx 1) 2 0 ≠ 0)
      ∧ (s.bar 0 31).arr = 0 ∧ s.barLoc s.cur.core 31 = false ∧ (busy.bar 0 31).arr ≠ 0 ∧ bits (s.rx 2) 63 8 ≠ 0
      ∧ (s.bar 0 31).en = false ∧ (busy.bar 0 31).en = true ∧ (busy.bar 0 31).ph ≠ bit (busy.rx 3) 0
      ∧ (busy.bar 0 31).ph = bit (busy.rx 0) 0 := by decide +kernel

/-- A kernel of two cores, 0 and 1, that share barrier 31, set up as b on each. -/
def paired (b b' : Barrier) : State :=
  { tiny with
    kernels := [(0, { kernel0 with seats := [{ pcn := 0 }, { pcn := 1, cor := 1 }] })]
    cores := [(0, { core0 with bars := core0.bars.set 31 b }),
      (1, { core0 with gcor := 1, bars := core0.bars.set 31 b', ap := { stream0 with wait := .barSync 31 false } })] }

theorem witness_BarrierArrivalWords :
    let off := barred {}
    let other := barred { en := true, emask := 6, scope := 1 }
    let twice := barred { en := true, emask := 7, scope := 1, arr := 1 }
    let first (k : BitVec 3) := barred { en := true, emask := 1, scope := k }
    let system : State := (barred { en := true, emask := 1, scope := 5 }).modMyCore (fun c => { c with ldq := [{}] })
    let p := paired { en := true, emask := 7, scope := 2 } { en := true, emask := 7, scope := 2, loc := true }
    let skew := paired { en := true, emask := 1, scope := 2 } { en := true, emask := 7, scope := 3, loc := true }
    (∀ k : Fin 6, ((first k).kernel 0).Faultable ∧ (first k).me.passed = false ∧ ((first k).bar 0 31).en = true
        ∧ ((first k).bar 0 31).emask.getLsbD (first k).cur.eng.num = true ∧ (first k).endReady (first k).cur = true
        ∧ ((first k).bar 0 31).arr.getLsbD (first k).cur.eng.num = false)
      ∧ (off.bar 0 31).en = false ∧ (other.bar 0 31).emask.getLsbD 0 = false ∧ (twice.bar 0 31).arr.getLsbD 0 = true
      ∧ (system.bar 0 31).scope = 5 ∧ system.endReady system.cur = false
      ∧ p.barMembers 0 31 = [0, 1] ∧ (p.bar 0 31).arr.getLsbD 0 = false ∧ (p.bar 0 31).loc = false
      ∧ ¬((p.bar 0 31).arr ||| (1 <<< p.cur.eng.num)) &&& (7#3 &&& (p.kernel 0).hdr.streams &&& ~~~p.myCore.endedMask) = 7
      ∧ ((skew.bar 0 31).arr ||| (1 <<< skew.cur.eng.num)) &&& ((skew.bar 0 31).emask &&& (skew.kernel 0).hdr.streams &&& ~~~skew.myCore.endedMask) = 1
      ∧ 1 ∈ skew.barMembers 0 31 ∧ (skew.bar 1 31).en = true ∧ (skew.bar 1 31).loc = true ∧ (skew.bar 1 31).done = false
      ∧ (skew.bar 1 31).scope ≠ (skew.bar 0 31).scope := by decide +kernel

theorem witness_BarrierRelease :
    let done := barred { en := true, emask := 7, scope := 5, done := true }
    let m (k : BitVec 3) : Barrier := { en := true, emask := 1, scope := k, arr := 1, loc := true }
    let s (k : BitVec 3) := paired (m k) (m k)
    let part := paired (m 2) { m 2 with loc := false }
    done.awake 0 = true ∧ (done.bar 0 31).done = true
      ∧ (∀ k : Fin 6, 2 ≤ k.val → (s k).awake 0 = true ∧ ((s k).bar 0 31).en = true ∧ ((s k).bar 0 31).done = false
        ∧ (s k).barMembers 0 31 = [0, 1] ∧ ((s k).barMembers 0 31).Nodup
        ∧ ∀ p ∈ (s k).barMembers 0 31, ((s k).bar p 31).en = true ∧ ((s k).bar p 31).loc = true
          ∧ ((s k).bar p 31).ph = ((s k).bar 0 31).ph ∧ ((s k).bar p 31).scope = ((s k).bar 0 31).scope
          ∧ ((s k).bar p 31).own = ((s k).bar 0 31).own ∧ (s k).barPerformed p 31 = true ∧ (s k).live p = true)
      ∧ (part.bar 0 31).done = false ∧ 1 ∈ part.barMembers 0 31 ∧ (part.bar 1 31).loc = false ∧ part.barLive 1 31 ≠ 0 := by
  decide +kernel

theorem witness_KernelControlWords :
    let stub := me (fun m => { m with saved := some {} })
    let full := my (fun c => { c with ldq := [{}], ap := { c.ap with saved := some {} } })
    let busy := my (fun c => { c with ldq := [{}] })
    let owed : State := { (my (fun c => { c with interp := [{}], xp := { c.xp with saved := some {} } })) with cur := ⟨0, .xp⟩ }
    let alone := my (fun c => { c with xp := { c.xp with phase := .ended }, mx := { c.mx with phase := .ended } })
    (tiny.kernel 0).Faultable ∧ stub.me.inStub = true ∧ tiny.me.inStub = false ∧ busy.endReady busy.cur = false
      ∧ full.me.inStub = true ∧ full.endReady full.cur = false ∧ tiny.endReady tiny.cur = true
      ∧ owed.me.inStub = true ∧ owed.cur.eng = .xp ∧ owed.myCore.interp ≠ [] ∧ stub.cur.eng ≠ .xp
      ∧ tiny.coreYielded 0 = false ∧ (∀ n < 32, (tiny.bar tiny.cur.core n).emask = 0) ∧ stub.me.pend = []
      ∧ stub.endReady stub.cur = true ∧ stub.assisted 9 = false
      ∧ (Eng.xp ≠ stub.cur.eng ∧ (stub.declared 0).getLsbD Eng.xp.num = true ∧ (stub.myCore.stream .xp).phase = .live)
      ∧ (alone.myCore.stream .xp).phase = .ended ∧ (alone.myCore.stream .mx).phase = .ended
      ∧ (tiny.declared 0).getLsbD Eng.mx.num = true ∧ (tiny.myCore.stream .mx).phase ≠ .ended := by decide +kernel

theorem witness_EndsYieldsAndRendezvous :
    let s (w : Wait) : State := me (fun m => { m with wait := w })
    let all := my (fun c => { c with
      ap := { c.ap with wait := .rdv }, xp := { c.xp with wait := .rdv }, mx := { c.mx with wait := .rdv } })
    (s .ending).awake 0 = true ∧ ((s .ending).stream ⟨0, .ap⟩).wait = .ending ∧ (s .ending).endReady ⟨0, .ap⟩ = true
      ∧ (s .ending).coreYielded 0 = false ∧ ((s .yielding).stream ⟨0, .ap⟩).wait = .yielding
      ∧ ((s .yielding).stream ⟨0, .ap⟩).pend = [] ∧ ((s .yielding).core 0).interp = []
      ∧ (s .yielding).assisted 9 = false ∧ ((s .yielding).stream ⟨0, .mx⟩).phase = .live
      ∧ all.declared 0 = 7 ∧ (all.stream ⟨0, .mx⟩).phase = .live ∧ (all.stream ⟨0, .mx⟩).wait = .rdv
      ∧ (all.stream ⟨0, .mx⟩).pend = [] := by decide +kernel

theorem witness_TagWords :
    let s (w : Wait) : State := my (fun c => { c with
      tags := c.tags.set 63 1, ap := { ((c.ap.wx 1 (2 ^ 63)).wx 2 (2 ^ 63 + 1)) with wait := w } })
    let r (t : Nat) : Bool := decide ((s .none).myCore.tags.toList.getD t 0 = 0) && ((s .none).rx 2).getLsbD t
    r 0 = true ∧ r 63 = false ∧ (s .none).rx 0 = 0 ∧ (s .none).rx 1 ≠ 0
      ∧ ((s .none).myCore.tags.toList.getD 63 0 = 1 ∧ ((s .none).rx 1).getLsbD 63 = true)
      ∧ (s (.tagAny 5 (2 ^ 63 + 1))).awake 0 = true ∧ (s (.tagAny 5 (2 ^ 63 + 1))).me.wait = .tagAny 5 ((s .none).rx 2)
      ∧ (s (.tagAll 0)).me.wait = .tagAll ((s .none).rx 0)
      ∧ (s (.tagFfr 5 (2 ^ 63 + 1))).me.wait = .tagFfr 5 ((s .none).rx 2) := by decide +kernel

/-! ### Witnesses: translation -/

/-- A leaf of 2 GiB at address 0, writable. -/
def leaf0 : TlbEntry := { asid := 0, vpb := 0, sz := 3, pa := 0, wr := true }

/-- Context 0 with a page table of two nodes that maps [0, 2^31) by that leaf; the next 2 GiB have an
absent leaf. -/
def paged : State :=
  { tiny with ctxs := [(0, { state := .live, root := 0x10000 })], mem := [(0x10000, 1), (0x10002, 3), (0x30000, 7), (0x30008, 2)] }

/-- The page table of `paged` gives that leaf. -/
theorem test_walk_finds_leaf : paged.walk (.walk 0) 0 0x7FFFFFFF = .leaf leaf0 := by decide +kernel

/-- An absent leaf and an absent node are told apart (R309). -/
theorem test_walk_absent : paged.walk (.walk 0) 0 0x80000000 = .fail .absent
    ∧ paged.walk (.walk 0) 0 (2 ^ 32) = .fail .nodeAbsent := by decide +kernel

theorem witness_HandleWords :
    let s : State := { (my (fun c => { c with ap := { ((c.ap.wx 1 (2 ^ 56)).wx 2 0x7FFFFFFF) with hpend := [(3, {}, 0)] } })) with
      dies := [(0, { tlb := [leaf0] })] }
    s.myCore.kernel = some 0 ∧ (s.kernel 0).Faultable ∧ 2 ^ 56 ≤ (s.rx 1).toNat ∧ (s.rx 2).toNat < 2 ^ 56
      ∧ s.tlbHit (s.cur.core / 128) (s.kernel 0).asid (s.rx 2).toNat = some leaf0 ∧ leaf0.wr = true
      ∧ (s.stream ⟨0, .ap⟩).hpend = (3, {}, 0) :: [] := by decide +kernel

theorem witness_AWalkServesAMissedTranslation :
    let w : Walk := { who := .ap 0, asid := 0, va := 0x7FFFFFFF, write := true }
    let s (f : Option Word) (c : Word) : State := { paged with
      walks := [(0, { w with first := f })], chron := c
      cores := [(0, { core0 with ap := { stream0 with wait := .walk 2 true 0x7FFFFFFF } })] }
    paged.myCore.kernel = some 0 ∧ ((me (fun m => m.wx 1 (2 ^ 56 - 1))).rx 1).toNat < 2 ^ 56
      ∧ paged.tlbHit 0 (paged.kernel 0).asid (paged.rx 0).toNat = none ∧ paged.assisted 0 = false
      ∧ (∀ p ∈ paged.walks, p.2.who ≠ .ap paged.cur.core)
      ∧ (s none 0).walks.find? 0 = some w ∧ w.ha = false ∧ w.who = .ap 0 ∧ leaf0.wr = true ∧ (s none 0).asidOf 0 = w.asid
      ∧ ((s none 0).stream ⟨0, .ap⟩).wait = .walk 2 true 0x7FFFFFFF ∧ (s none 0).walkOn 0 w = .leaf leaf0
      ∧ ((s none 0).die 0).tlb.length < 2048 ∧ w.first = none
      ∧ ((s (some 0) 63999).walks.find? 0).bind (·.first) = some 0 ∧ 1000 ≤ ((s (some 0) 63999).chron - 0).toNat
      ∧ ((s (some 0) 63999).chron - 0).toNat < 64000 ∧ 64000 ≤ ((s (some 0) 64000).chron - 0).toNat := by decide +kernel

theorem witness_TranslationFaults :
    let w (va : Word) (f : Option Word) (n : Option (Nat × Nat)) : Walk := { who := .ap 0, va := va, first := f, node := n }
    let on (a : Word) (m : State) : State := { m with
      cores := [(0, { core0 with ap := { stream0 with wait := .walk 2 false a } })] }
    let gone : State := { paged with walks := [(0, w 0x80000000 none none)] }
    let s : State := on 0x80000000 gone
    let t (c : Word) : State := on 0 { paged with
      mem := [(0x10000, 1), (0x10002, 3), (0x30000, 0x17)], walks := [(0, w 0 (some 0) (some (3, 0x30000)))], chron := c }
    let h (c : WalkCause) : State := { (me (fun m => { m with wait := .halted c 0x80000000 })) with
      helm := { mode := 0, pilot := some 0 } }
    s.live 0 = true ∧ (s.core 0).kernel = some 0 ∧ s.locked 0 = false ∧ s.assisted 1 = false
      ∧ s.walks.find? 0 = some (w 0x80000000 none none) ∧ s.walkOn 0 (w 0x80000000 none none) = .fail .absent
      ∧ gone.walks.find? 0 = some (w 0x80000000 none none) ∧ gone.walkOn 0 (w 0x80000000 none none) = .fail .absent
      ∧ gone.walkWanted (w 0x80000000 none none) = false ∧ s.walkWanted (w 0x80000000 none none) = true
      ∧ (t 0).walkWanted (w 0 (some 0) (some (3, 0x30000))) = true
      ∧ WalkCause.absent ≠ .format ∧ (t 0).walks.find? 0 = some (w 0 (some 0) (some (3, 0x30000)))
      ∧ 64000 ≤ ((t 64000).chron - 0).toNat ∧ ((t 63999).chron - 0).toNat < 64000 ∧ 1000 ≤ ((t 1000).chron - 0).toNat
      ∧ (t 0).walkOn 0 (w 0 (some 0) (some (3, 0x30000))) = .mig 3 0x30000
      ∧ (h .absent).pilotServes = true ∧ (∀ r ∈ (h .absent).helm.requests, r.func ≠ 1)
      ∧ ((h .absent).stream ⟨0, .ap⟩).wait = .halted .absent 0x80000000 := by decide +kernel

theorem witness_AnInvalidHandleIsTranslatedAgain :
    let m : Stream := { (stream0.wh 15 { vpb := 0x7FFF, kw := true, sz := 3, made := true }) with wait := .retrans 15 }
    let s : State := { tiny with cores := [(0, { core0 with ap := m })], dies := [(0, { tlb := [leaf0] })] }
    s.live 0 = true ∧ (s.core 0).kernel = some 0 ∧ (s.stream ⟨0, .ap⟩).wait = .retrans 15
      ∧ s.tlbHit 0 (s.kernel 0).asid (((s.stream ⟨0, .ap⟩).rh 15).vpb.toNat * 2 ^ 16) = some leaf0 ∧ leaf0.wr = true := by
  decide +kernel

theorem witness_ShootdownCutsItsRange :
    let pinned : State := { tiny with
      cores := [(0, { core0 with ap := stream0.wh 0 { vpb := 0, pin := true, made := true, hv := true } })] }
    let t : Shoot := { die := some 3, asid := 0, lo := 0, hi := 2 ^ 16 }
    let q : Shoot := { asid := 65535 }
    let u (c : Bool) : State := { tiny with shoots := [{ t with cut := c }, q], dies := [(3, { sdctl := 1 <<< 61 ||| 1 <<< 63 })] }
    let go : Word := 2 ^ 63
    tiny.shoots = [] ∧ bits (tiny.die 3).sdctl 62 61 ≠ 1 ∧ go.getLsbD 63 = true ∧ go.toNat / 2 ^ 16 % 2 ^ 16 = 0
      ∧ (tiny.die 3).sdva.toNat + (go.toNat / 2 ^ 32 % 2 ^ 16 + 1) * pageBytes (go.toNat / 4 % 4) = 2 ^ 16
      ∧ tiny.pinnedIn 0 0 (2 ^ 16) = false ∧ pinned.shoots = [] ∧ pinned.pinnedIn 0 0 (2 ^ 16) = true
      ∧ bits ((u false).die 3).sdctl 62 61 = 1 ∧ bits ((u false).die 0).sdctl 62 61 ≠ 1 ∧ (u false).shoots = t :: [q]
      ∧ (∀ p ∈ (u false).walks, p.2.asid ≠ t.asid) ∧ (u true).shoots = { t with cut := true } :: [q]
      ∧ (u true).usersIn 0 0 (2 ^ 16) = false ∧ q.die = none := by decide +kernel

/-! ### Witnesses: copies and arrival barriers -/

/-- Handle 0 of the AP made for writing, one page of 64 KiB. -/
def handled : Stream := stream0.wh 0 { vpb := 1, kw := true, made := true, hv := true, pa := 0x10000 }

theorem witness_CopyWords :
    let s (x : Word) : State := { tiny with cores := [(0, { core0 with ap := handled.wx 1 x })] }
    let q (n : Nat) : State := { tiny with cores := [(0, { core0 with ap := handled, ldq := List.replicate n {} })] }
    let x : Word := 1023 * 2 ^ 39
    (tiny.kernel 0).Faultable ∧ ((s x).rx 1).getLsbD 2 = false ∧ ((s x).me.rh 0).made = true ∧ ((s x).me.rh 0).hv = true
      ∧ 64 * (((s x).rx 1).toNat / 2 ^ 39) < pageBytes ((s x).me.rh 0).sz.toNat
      ∧ ((s x).rx 1).toNat / 2 ^ 23 % 2 ^ 16 + (((s x).rx 1).toNat / 2 ^ 13 % 2 ^ 10 + 1) ≤ 65536
      ∧ mainRows false 0 ((s x).myCore.bfOf 0) 1 = some 1 ∧ 64 * 1023 + 64 * 1 ≤ pageBytes ((s x).me.rh 0).sz.toNat
      ∧ (q 15).myCore.ldq.length < 16 ∧ 16 ≤ (q 16).myCore.ldq.length
      ∧ mainRows true 0 ((s x).myCore.bfOf 0) 1 = some 1 ∧ ((s x).me.rh 0).kw = true ∧ (s x).myCore.stq.length < 16
      ∧ ((s x).me.rh 15).made = false ∧ ((s x).me.rh 15).kw = false := by decide +kernel

theorem witness_CopyWords_permission :
    let s : State := { tiny with cores := [(0, { core0 with ap := stream0.wh 0 { made := true, hv := true } })] }
    (s.kernel 0).Faultable ∧ (s.rx 0).getLsbD 2 = false ∧ (s.me.rh 0).made = true ∧ (s.me.rh 0).kw = false := by
  decide +kernel

theorem witness_CopyWords_move_and_harrow :
    let s : State := me (fun m => (m.wx 1 0x3FFFC0).wx 2 0x1F8F)
    (s.rx 0).getLsbD 2 = false ∧ (s.rx 0).toNat / 2 ^ 39 = 0 ∧ (s.rx 0).toNat / 2 ^ 3 % 2 ^ 4 = 0
      ∧ reachRow s.cur.core (s.rx 1) = some (0, 65535, false)
      ∧ srcRows (copyWay (bankSide ((s.core 0).bfOf 65535)) (bankSide (s.myCore.bfOf 0)))
          (bankSide ((s.core 0).bfOf 65535)) (bankSide (s.myCore.bfOf 0)) 1 = some 1
      ∧ sourceRows s.cur.core (s.rx 1) 1 = some [(0, 65535)] ∧ s.myCore.ldq.length < 16
      ∧ s.rx 2 &&& 0xFFFFFFFFFFFFE070 = 0 ∧ s.myCore.cmq.length < 8 := by decide +kernel

theorem witness_TokenWords :
    let s := my (fun c => { c with tokens := c.tokens.set 3 7 })
    (3#5).toNat < 4 ∧ (s.kernel 0).Faultable ∧ s.myCore.tokens[3] + (1#5).toNat ≤ 8
      ∧ 8 < s.myCore.tokens[3] + (2#5).toNat := by decide +kernel

theorem witness_CopiesPopMoveAndComplete :
    let o : CopyOp := { kind := .move 0x40, srow := 65535, rows := 1, tag := 63, tw := true, ts := true }
    let w : CopyOp := { kind := .store 0x7FFFFFC0 64 0, srow := 65535, rows := 1, got := [1] }
    let waiting := my (fun c => { c with ldq := [o], ldFly := [{ o with got := [1] }], tokens := c.tokens.set 1 1 })
    let flying (o : CopyOp) := my (fun c => { c with ldFly := [o], stFly := [w] })
    let done := my (fun c => { c with ldFly := [{ o with done := 1 }], tags := c.tags.set 63 1 })
    let s := flying o
    let g : CopyOp := { o with got := [5] }
    waiting.live 0 = true ∧ (waiting.core 0).waiting false = o :: [] ∧ ((waiting.core 0).fly false).length < 4
      ∧ (∀ r ∈ (waiting.core 0).fly false, r.takes.getD 0 ≤ r.got.length) ∧ (waiting.core 0).released o = true
      ∧ 0 < (waiting.core 0).token 1 ∧ waiting.popBad 0 (waiting.readFormats 0 o) = none
      ∧ ((s.core 0).fly false)[0]? = some o ∧ o.got.length < o.takes.getD 0 ∧ (s.sourceRow 0 o 0).toOption = some 0
      ∧ (((flying g).core 0).fly false)[0]? = some g ∧ g.way = .bytes ∧ g.done < g.total ∧ g.got[g.done]? = some 5
      ∧ ((flying g).core 0).monitors = [] ∧ (∀ a : Fin 1, g.kind ≠ .store 0 0 a) ∧ ((s.core 0).fly true)[0]? = some w
      ∧ w.way = .bytes ∧ w.done < w.total ∧ w.got[w.done]? = some 1 ∧ paPkg (w.rowPa w.done) = s.pkg
      ∧ s.agentFull (w.rowPa w.done) = false ∧ (∀ x ∈ s.ctxs, x.2.state ≠ .stopcopy ∧ x.2.state ≠ .precopy)
      ∧ ((done.core 0).flyOf .ldq)[0]? = some { o with done := 1 } ∧ done.copyDone 0 .ldq { o with done := 1 } = true
      ∧ (∀ r ∈ (done.core 0).flyOf .ldq, r.held = false) ∧ o.tag < 64 ∧ (∀ g < 4, (done.core 0).token g < 8) := by
  decide +kernel

theorem witness_ArrivalBarrierWords :
    let b : ArrBar := { cfg := 12, i := 5, l := 1 }
    let s := my (fun c => { (c.setAb 15 b) with ap := ((((c.ap.wx 1 0xF000000C).wx 2 0xF001000C).wx 3 5).wx 4 6).wx 5 4098 })
    let x := (s.rx 1).toNat
    (15#5).toNat < 16 ∧ (s.kernel 0).Faultable ∧ x / 2 ^ 5 % 2 ^ 11 = 0 ∧ x % 16 ≤ 12
      ∧ x / 2 ^ 16 % 2 ^ 16 + 2 ^ (x % 16) ≤ 65536 ∧ (s.myCore.ab 15).i = s.myCore.abA 15
      ∧ 65536 < (s.rx 2).toNat / 2 ^ 16 % 2 ^ 16 + 2 ^ ((s.rx 2).toNat % 16)
      ∧ (s.myCore.ab 15).w < ((s.rx 5).setWidth 32 - (s.myCore.ab 15).l).toNat
      ∧ ((s.rx 3).setWidth 32 - (s.myCore.ab 15).l).toNat ≤ (s.myCore.abA 15 - (s.myCore.ab 15).l).toNat
      ∧ ((s.rx 3).setWidth 32 - (s.myCore.ab 15).l).toNat ≤ (s.myCore.ab 15).w
      ∧ (s.myCore.abA 15 - (s.myCore.ab 15).l).toNat < ((s.rx 4).setWidth 32 - (s.myCore.ab 15).l).toNat
      ∧ ((s.rx 4).setWidth 32 - (s.myCore.ab 15).l).toNat ≤ (s.myCore.ab 15).w := by decide +kernel

theorem witness_ArrivalBarrierWords_busy_and_wait :
    let b : ArrBar := { cfg := 0, i := 5, l := 1 }
    let busy := my (fun c => { (c.setAb 15 b) with drillRows := [{ ab := 15, idx := 3 }] })
    let s := my (fun c => { (c.setAb 15 b) with ap := { (c.ap.wx 1 5) with wait := .await 15 5 1 } })
    (busy.myCore.ab 15).i ≠ busy.myCore.abA 15 ∧ s.awake s.cur.core = true
      ∧ s.me.wait = .await 15 ((s.rx 1).setWidth 32) 1
      ∧ (((s.rx 1).setWidth 32 : BitVec 32) - 1).toNat ≤ (s.myCore.abA 15 - 1).toNat := by decide +kernel

/-! ### Witnesses: tracts and stiles -/

/-- `tiny` with tract 0 changed. -/
def tract (f : Tract → Tract) : State := tiny.modTract 0 f

theorem witness_TractWords :
    let s := me (fun m => { ((m.wx 1 250).wx 2 0x1D1) with wait := .trAt 249 })
    let at_ := s.modTract 0 (fun t => { t with fcyc := 249 })
    let past := at_.modMe (fun m => { m with wait := .trAtPast 249 })
    let o (n : Nat) := my (fun c => { c with otapBy := n })
    let slip (n : Nat) (c : Bool) : State := tract (fun t => { t with state := .slipped, slipped := n, changed := c })
    s.myCore.kernel = some 0 ∧ (s.kernel 0).Faultable ∧ ((s.tractOf 0).n + (s.tractOf 0).m - 1) / (s.tractOf 0).m = 250
      ∧ (249#15).toNat < 250 ∧ ¬(250#15).toNat < 250 ∧ (249#11).toNat < 250 ∧ ¬((s.rx 1).toNat < 250) ∧ (s.rx 0).toNat < 250
      ∧ (o 1).myCore.otapBy ≤ (o 1).cur.eng.num + 1 ∧ (o 2).cur.eng.num + 1 < (o 2).myCore.otapBy
      ∧ at_.live at_.cur.core = true ∧ at_.me.wait = .trAt 249 ∧ at_.me.busy = 0 ∧ (at_.tractOf 0).issuing = true
      ∧ (at_.me.complete .ap).idling = false ∧ past.me.wait = .trAtPast 249
      ∧ (at_.tractOf 0).fcyc - (at_.tractOf 0).sidx * (at_.tractOf 0).n / (at_.tractOf 0).m = 249
      ∧ (s.tractOf 0).state ≠ .slipped ∧ (s.rx 2).getLsbD 6 = true
      ∧ ((slip 0 false).tractOf 0).state = .slipped ∧ ((slip 0 false).tractOf 0).changed = false
      ∧ ((slip 0 false).tractOf 0).slipped = 0 ∧ ((slip 1 true).tractOf 0).slipped ≠ 0
      ∧ ((slip 1 true).tractOf 0).changed = true := by decide +kernel

/-- Stile 31 of die 0 as t; the AP holds a word and waits at it. -/
def stiled (t : Stile) (w : Wait) : State :=
  { (me (fun m => { (m.wx 1 0x00071003) with wait := w })) with stiles := [(31, t)] }

theorem witness_StileWords :
    let n (s : State) : Nat := s.cur.core / 128 * 32 + (31#5).toNat
    let cfg (mode : Nat) (src dst : Nat) : BitVec 32 := BitVec.ofNat 32 (mode * 2 ^ 30 + src * 2 ^ 24 + dst * 2 ^ 20)
    let free := stiled {} .none
    let hold := stiled { state := 1, cfg := cfg 2 0 1 } .none
    let box := stiled { state := 1, cfg := cfg 3 0 1 } .none
    let other := stiled { state := 1, cfg := cfg 2 1 0 } .none
    let full := stiled { state := 1, cfg := cfg 3 1 0, box := [(7, true, ⟨0, .xp⟩, 0)] } .none
    let empty := stiled { state := 1, cfg := cfg 3 1 0 } .none
    let waits := stiled { state := 1, cfg := cfg 3 1 0, box := [(7, true, ⟨0, .xp⟩, 0)] } (.stile 5 31)
    (free.kernel 0).Faultable ∧ n free = 31 ∧ (free.stile 31).state = 0
      ∧ (other.stile 31).state ≠ 0 ∧ (other.stile 31).sclu ≠ other.cur.core / 8 % 16
      ∧ (hold.stile 31).state ≠ 0 ∧ (hold.stile 31).sclu = hold.cur.core / 8 % 16 ∧ (hold.stile 31).mode = 2
      ∧ (box.stile 31).sclu = box.cur.core / 8 % 16 ∧ (box.stile 31).mode = 3
      ∧ (other.stile 31).dclu = other.cur.core / 8 % 16 ∧ (other.stile 31).out = false ∧ (other.stile 31).mode ≠ 3
      ∧ (empty.stile 31).dclu = 0 ∧ (empty.stile 31).out = false ∧ (empty.stile 31).mode = 3 ∧ (empty.stile 31).box = []
      ∧ (full.stile 31).box = (7, true, ⟨0, .xp⟩, 0) :: [] ∧ (∀ p ∈ (full.stream ⟨0, .xp⟩).pend, 0 ≤ p.seq)
      ∧ waits.awake waits.cur.core = true ∧ waits.me.wait = .stile 5 31 ∧ (waits.stile 31).state ≠ 0
      ∧ (stiled {} (.stile 5 31)).me.wait = .stile 5 31 ∧ ((stiled {} (.stile 5 31)).stile 31).state = 0 := by
  decide +kernel

/-- A put that enters its stile as the tract cycle ends, in each mode, beside one of the same source sample; BOX has room
for it or is full. -/
theorem witness_StileWords_entry :
    let s (mode : Nat) (box : List (Word × Bool × StreamId × Nat)) : State := { (tract (fun t => { t with fcyc := 249 })) with
      stiles := [(31, { state := 1, cfg := BitVec.ofNat 32 (mode * 2 ^ 30), put := true, dropc := 255, box := box
                        puts := [(⟨7, .mx⟩, 9, 5, 0)] })] }
    let full := s 3 (List.replicate 16 (0, true, ⟨0, .ap⟩, 0))
    ((s 2 []).tract 0).issuing = true
      ∧ ((s 2 []).tract 0).fcyc + 1 = (((s 2 []).tract 0).sidx + 1) * ((s 2 []).tract 0).n / ((s 2 []).tract 0).m
      ∧ ((s 2 []).stile 31).sclu = 0 ∧ ((s 2 []).stile 31).puts = [(⟨7, .mx⟩, 9, 5, 0)] ∧ ((s 2 []).stile 31).mode = 2
      ∧ ((s 1 []).stile 31).mode = 1 ∧ ((s 3 []).stile 31).mode = 3 ∧ ((s 3 []).stile 31).box.length < 16
      ∧ (full.stile 31).mode = 3 ∧ ¬(full.stile 31).box.length < 16 ∧ 31 / 32 = 0 / 16 := by decide +kernel

theorem witness_SamplesReachTheirTracts :
    let bound (kind src : Nat) : State := tract (fun t => { t with tctl := word (999 * 2 ^ 40 + 3 * 2 ^ 24 + kind * 2 ^ 6 + src) })
    let port : State := { bound 1 31 with spcfg := [(31, 0x8000003F)] }
    let link : State := { bound 3 11 with links := [(11, { state := .degraded })] }
    let pace : State := { bound 2 15 with paces := [(15, { on := true, num := 1, j := 1 })], chron := 10 ^ 9 }
    tctlKind (port.tract 0).tctl = 1 ∧ tctlSrc (port.tract 0).tctl = 31 ∧ (port.tract 0).state = .locked
      ∧ (port.tract 0).held = false ∧ (port.spcfg.get 0 31).getLsbD 31 = true
      ∧ tctlKind (link.tract 0).tctl = 3 ∧ tctlSrc (link.tract 0).tctl = 11 ∧ (link.link 11).carries = true
      ∧ tctlKind (pace.tract 0).tctl = 2 ∧ tctlSrc (pace.tract 0).tctl = 15 ∧ (pace.pace 15).on = true
      ∧ (pace.pace 15).num ≠ 0 ∧ (pace.pace 15).stamp.toNat ≤ pace.chron.toNat := by decide +kernel

theorem witness_SinksSamplesAndFrames :
    let last := tract (fun t => { t with fcyc := 249 })
    let next (off : Bool) (l : List (Word × Word)) := tract (fun t => { t with
      fcyc := 749, sidx := 2, edge := .taken, off := off, fresh := l })
    let slow : State := { (next false []) with chron := 1500000 }
    let frame (b : Bool) := tiny.modTract 63 (fun _ => { tract0 with
      fcyc := 999, sidx := 3, edge := .taken, back := b, state := if b then .coast else .locked })
    let held := (frame false).modTract 63 (fun t => { t with alternate := true, tctl := t.tctl ||| 0x80 })
    (last.tract 0).issuing = true ∧ (last.tract 0).fcyc + 1 = ((last.tract 0).sidx + 1) * (last.tract 0).n / (last.tract 0).m
      ∧ ((next false []).tract 0).state = .locked ∧ ((next false []).tract 0).held = false
      ∧ ((next false []).tract 0).restart = false ∧ ((next false []).tract 0).edge = .taken
      ∧ ((next false []).tract 0).sidx + 1 < ((next false []).tract 0).m ∧ ((next false [(9, 5)]).tract 0).fresh = (9, 5) :: []
      ∧ ((next true [(8, 4), (9, 5)]).tract 0).off = true ∧ ((next true [(8, 4), (9, 5)]).tract 0).fresh = [(8, 4)] ++ [(9, 5)]
      ∧ (slow.tract 0).slow slow.chron = true ∧ (slow.tract 0).stopped slow.chron = false ∧ (slow.tract 0).fresh = []
      ∧ (∀ m < 32, (slow.stile (32 * (0 / 16) + m)).state = 0)
      ∧ ((frame false).tract 63).state.runs = true ∧ ((frame false).tract 63).edge = .taken
      ∧ ((frame false).tract 63).sidx + 1 = ((frame false).tract 63).m ∧ ((frame false).tract 63).relock = none
      ∧ ((frame false).tract 63).back = false ∧ ((frame false).tract 63).alternate = false
      ∧ ((frame true).tract 63).back = true ∧ (held.tract 63).back = false ∧ (held.tract 63).state = .locked
      ∧ (held.tract 63).alternate = true ∧ tctlKind (held.tract 63).tctl = 2 := by decide +kernel

/-- Tract 0 before frame cycle 0, the AP of core 0 as m. -/
def framed (m : Stream) : State :=
  { (tract (fun t => { t with edge := .framed, fresh := [(9, 5)] })) with cores := [(0, { core0 with ap := m })] }

/-- The stream in a timed block that idles, waits at a `tr.at` behind its last word, or has words still to issue. -/
def timed0 (idle : Bool) (stop : Nat) (w : Wait) : Stream :=
  { stream0 with wait := w, npc := stop, blocks := [{ kind := .timed 1000, body := 8, stop := 60, count := 3, idle := idle }] }

theorem witness_FramesBeginAndCoast :
    let s (idle : Bool) (stop : Nat) (w : Wait) := framed (timed0 idle stop w)
    let late (s : State) (id : StreamId) : Bool := (s.stream id).phase = .live && s.live id.core
      && (s.stream id).wait != .frame && ((s.stream id).atTest id.eng).overruns
    let coast (e : Edge) := tract (fun t => { t with state := .coast, edge := e, sidx := 2, fcyc := 749, holdLeft := 5 })
    ((s true 20 .none).tract 0).state = .locked ∧ ((s true 20 .none).tract 0).held = false
      ∧ ((s true 20 .none).tract 0).edge = .framed ∧ ((s true 20 .none).tract 0).off = false
      ∧ ((s true 20 .none).tract 0).fresh = (9, 5) :: []
      ∧ (∀ e ∈ [Eng.ap, .xp, .mx], late (s true 20 .none) ⟨0, e⟩ = false ∧ late (s false 60 (.trAt 249)) ⟨0, e⟩ = false
        ∧ late (framed { stream0 with wait := .frame }) ⟨0, e⟩ = false)
      ∧ ((s true 20 .none).stream ⟨0, .ap⟩).idling = true ∧ ((s false 60 (.trAt 249)).me.atTest .ap).idling = true
      ∧ late (s false 20 .none) ⟨0, .ap⟩ = true ∧ late (s false 20 .none) ⟨0, .xp⟩ = false
      ∧ late (s false 20 .none) ⟨0, .mx⟩ = false ∧ ((s false 20 .none).core 0).kernel = some 0
      ∧ ((coast .framed).tract 0).state = .coast ∧ ((coast .framed).tract 0).held = false
      ∧ ((coast .framed).tract 0).edge = .framed ∧ ((coast .framed).tract 0).holdLeft ≠ 0
      ∧ ((coast .taken).tract 0).edge = .taken ∧ ((coast .taken).tract 0).sidx + 1 < ((coast .taken).tract 0).m := by
  decide +kernel

theorem witness_StileOutputs :
    let cfg (mode out : Nat) : BitVec 32 := BitVec.ofNat 32 (mode * 2 ^ 30 + out * 2 ^ 29)
    let s (t : Stile) : State := { (tract (fun t => { t with edge := .taken, fcyc := 749, sidx := 2, fresh := [(1000000, 5)] })) with
      stiles := [(31, { t with state := 2 })] }
    let hold := s { cfg := cfg 2 1, slot := some 7 }
    let again := s { cfg := cfg 2 0, rptc := 255 }
    let interp := s { cfg := cfg 1 0, hist := [(1000001, 9), (500000, 7)], coef := [(512, 0x4000)] }
    let box := s { cfg := cfg 3 0, box := [(7, false, ⟨0, .ap⟩, 3)] }
    31 / 32 = 0 / 16 ∧ (hold.stile 31).dclu = 0 ∧ (hold.stile 31).state = 2 ∧ (hold.tract 0).state = .locked
      ∧ (hold.tract 0).held = false ∧ (hold.tract 0).off = false ∧ (hold.tract 0).fresh = (1000000, 5) :: []
      ∧ (hold.tract 0).edge = .taken ∧ (hold.tract 0).sidx + 1 < (hold.tract 0).m
      ∧ (hold.stile 31).mode = 2 ∧ (hold.stile 31).slot = some 7 ∧ (hold.stile 31).out = true
      ∧ (∀ m < 32, 32 * (0 / 16) + m ≠ 31 → (hold.stile (32 * (0 / 16) + m)).state = 0)
      ∧ (again.stile 31).mode = 2 ∧ (again.stile 31).slot = none ∧ (again.stile 31).out = false
      ∧ (interp.stile 31).mode = 1 ∧ (interp.stile 31).hist = [(1000001, 9)] ++ (500000, 7) :: []
      ∧ (1000000 : Word).toNat < (1000001 : Word).toNat + (interp.stile 31).dly
      ∧ (500000 : Word).toNat + (interp.stile 31).dly ≤ (1000000 : Word).toNat
      ∧ (2 * |(7 : Int) * 2 ^ 14 - 7 * 2 ^ 14| < 2 ^ 14) ∧ (box.stile 31).mode = 3 := by decide +kernel

/-- The links of a package, all UP. -/
def meshed : Tbl Link := (List.range 12).map (fun n => (n, { state := .up }))

theorem witness_TractStatesChange :
    let ask (num : Nat) (chron : Word) (o : Binding) (by_ : Option LockBy) : State := { (tract (fun t => { t with
        state := .locking, acq := [0], asker := by_, old := some o, tctl := word (999 * 2 ^ 40 + 3 * 2 ^ 24 + 2 * 2 ^ 6) })) with
      paces := [(0, { on := true, num := num })], helm := { mode := 0, rails := #v[{ now := 0 }, {}, {}, {}] }
      queues := [(9, { state := .running, lock := some (0, 0x41) })], links := meshed, chron := chron }
    let q := some (LockBy.packet 9)
    let pace := ask 200000 16000000 {} q
    let free := ask 200000 16000000 {} (some (.kernel 0))
    let fast := ask 20000000000 16000000 {} q
    let low := ask 2000 16000000 { state := .coast } q
    let slow := ask 200000 16000001 { state := .coast } none
    let stopped := { (tract (fun t => { t with lastEdge := 0, edge := .framed })) with chron := 2000000 }
    let coast := tract (fun t => { t with state := .coast, edge := .framed })
    let back (st : TState) (e : Edge) := tract (fun t => { t with state := st, edge := e, acq := List.replicate 16 0 })
    (pace.tract 0).state = .locking ∧ (pace.tract 0).haSeq = none ∧ pace.measured 0 = some (200000, 1)
      ∧ pace.assisted 8 = false ∧ (pace.tract 0).asker = q ∧ (pace.queue 9).lock = some (0, 0x41) ∧ (pace.queue 9).hand = none
      ∧ ({ hdr := 0x41 } : Packet).notify = true ∧ (pace.queue 9).notes = [] ∧ (pace.queue 9).takesFault = true
      ∧ (∀ l < 12, (pace.link l).state = .up) ∧ (pace.chron - (pace.tract 0).since).toNat ≤ 16000000
      ∧ 200000 * (pace.tract 0).n ≤ pace.ceiling * 1 * (pace.tract 0).m ∧ 50000000 * 1 * (pace.tract 0).m ≤ 200000 * (pace.tract 0).n
      ∧ (free.tract 0).asker ≠ q ∧ free.measured 0 = some (200000, 1)
      ∧ fast.measured 0 = some (20000000000, 1) ∧ fast.ceiling * 1 * (fast.tract 0).m < 20000000000 * (fast.tract 0).n
      ∧ low.measured 0 = some (2000, 1) ∧ 2000 * (low.tract 0).n < 50000000 * 1 * (low.tract 0).m
      ∧ (fast.tract 0).old = some {} ∧ (low.tract 0).old = some { state := .coast }
      ∧ (slow.tract 0).state = .locking ∧ (slow.tract 0).asker = none
      ∧ 16000000 < (slow.chron - (slow.tract 0).since).toNat ∧ (slow.tract 0).old = some { state := .coast }
      ∧ (stopped.tract 0).state = .locked ∧ (stopped.tract 0).held = false ∧ (stopped.tract 0).edge ≠ .inside
      ∧ (stopped.tract 0).fresh = [] ∧ 2 * 10 ^ 9 * (stopped.tract 0).rate.2
          ≤ (stopped.chron - (stopped.tract 0).lastEdge).toNat * (stopped.tract 0).rate.1
      ∧ (coast.tract 0).state = .coast ∧ (coast.tract 0).edge = .framed ∧ (coast.tract 0).holdLeft = 0
      ∧ (coast.tract 0).back = false ∧ ((back .becalmed .framed).tract 0).state = .becalmed
      ∧ 16 ≤ ((back .becalmed .framed).tract 0).acq.length ∧ ((back .coast .taken).tract 0).edge ≠ .framed
      ∧ ((back .coast .framed).tract 0).edge = .framed := by decide +kernel

/-! ### Witnesses: scratchpad accesses and vector words -/

theorem witness_RowWords :
    let s := me (fun m => ((m.wa 1 0x3FFFC0).wa 2 0x400000).wx 4 0x3FFF80)
    let ea (a : BitVec 4) (o : BitVec 7) : Word := s.me.ra a + 64 * o.signExtend 64
    let vea (o : BitVec 7) : Word := s.rx 4 + 64 * o.signExtend 64
    (s.kernel 0).Faultable ∧ s.cur.eng = .ap ∧ reach s.cur.core (ea 1 0) = some (.bank 0 65535, false)
      ∧ reach s.cur.core (ea 1 1) = none ∧ reach s.cur.core (ea 2 0) = none ∧ reach s.cur.core (ea 2 127) = some (.bank 0 65535, false)
      ∧ reachRow s.cur.core (ea 1 64) = some (0, 65471, false) ∧ reach s.cur.core (vea 0) = some (.bank 0 65534, false)
      ∧ reach s.cur.core (vea 0 + 64) = some (.bank 0 65535, false)
      ∧ reach s.cur.core 0x7000000 = none ∧ reach s.cur.core 0x4000180 = some (.status 0 6, true)
      ∧ reachRow s.cur.core 0x3FFFFC0 = some (7, 65535, true) := by decide +kernel

/-- Stream XP of core 0 with one access to perform at row 65535. -/
def accessing (off : Nat) (k : AccKind) : State :=
  my (fun c => { c with xp := { c.xp with pend := [{ home := .bank 0 65535, off := off, kind := k }] } })

theorem witness_BanksPerformAccesses :
    let s (k : AccKind) := accessing 63 k
    let z (k : AccKind) := (s k).modStream ⟨0, .xp⟩ (fun m => { m with saved := some { seq := 1 }, owed := [(31, 9)] })
    ((s (.loadX 31)).tractOf 0).ticking = true
      ∧ ((s (.loadX 31)).stream ⟨0, .xp⟩).pend = [{ home := .bank 0 65535, off := 63, kind := .loadX 31 }]
      ∧ ((s (.storeX 7)).stream ⟨0, .xp⟩).pend = [{ home := .bank 0 65535, off := 63, kind := .storeX 7 }]
      ∧ ((s (.loadV 31)).stream ⟨0, .xp⟩).pend = [{ home := .bank 0 65535, off := 63, kind := .loadV 31 }]
      ∧ ((s (.storeV 7)).stream ⟨0, .xp⟩).pend = [{ home := .bank 0 65535, off := 63, kind := .storeV 7 }]
      ∧ ((s (.loadX 31)).core 0).monitors = [] ∧ ((s (.loadX 31)).stream ⟨0, .xp⟩).saved = none
      ∧ ((z (.loadX 31)).stream ⟨0, .xp⟩).saved = some { seq := 1 } ∧ (31#5) ≠ 0 := by decide +kernel

theorem witness_BanksPerformAtomics :
    let s (k : AccKind) (w : Wait) : State := my (fun c => { c with
      sp := [(64 * 65535, 5)], xp := { c.xp with pend := [{ home := .bank 0 65535, kind := k }], wait := w } })
    let late (n : Nat) : State := my (fun c => { c with xp := { c.xp with wait := .claimed 1 5, late := [(.x 1, n)] } })
    let last : State := { (my (fun c => { c with xp := { c.xp with wait := .answered 1 5, blocks := [] } })) with
      tracts := [(0, { tract0 with fcyc := 249 })] }
    let lane (t : State) : Nat := Row.bytesAt ((t.core 0).row 65535) 0 8
    lane (s (.atomic .add 3 1 2 3) .none) = 5 ∧ (s (.claim 1 6) .none).awake 0 = true ∧ (2 : Word).toNat < 2 ^ (8 * laneBytes 3)
      ∧ ((s (.claim 1 6) (.claim 1)).stream ⟨0, .xp⟩).pend = [{ home := .bank 0 65535, kind := .claim 1 6 }]
      ∧ ((s (.atomic .fadd 4 1 2 3) .none).stream ⟨0, .xp⟩).owed = []
      ∧ lane (s (.claim 1 6) .none) < (6 : Word).toNat ∧ (5 : Word).toNat ≤ lane (s (.claim 1 5) .none)
      ∧ ((s (.monitor .ne 3 1 5) (.monitor 1)).stream ⟨0, .xp⟩).wait = .monitor 1 ∧ lane (s (.monitor .ne 3 1 5) .none) = 5
      ∧ ¬(lane (s (.monitor .geu 3 1 6) .none) ≥ 6)
      ∧ ((late 3).stream ⟨0, .xp⟩).wait = .claimed 1 5 ∧ (∃ k ∈ [3], k ≠ 0 ∧ (.x 1, k) ∈ ((late 3).stream ⟨0, .xp⟩).late)
      ∧ ((late 0).stream ⟨0, .xp⟩).late = [(.x 1, 0)] ∧ ((late 0).stream ⟨0, .xp⟩).saved = none
      ∧ (last.stream ⟨0, .xp⟩).wait = .answered 1 5 ∧ last.live 0 = true ∧ (last.tractOf 0).issuing = true
      ∧ (last.tractOf 0).lastCycle = true ∧ (last.stream ⟨0, .xp⟩).late = [] ∧ (last.stream ⟨0, .xp⟩).blocks = []
      ∧ (last.stream ⟨0, .xp⟩).window = none ∧ (last.stream ⟨0, .xp⟩).repOn = false := by decide +kernel

theorem witness_AccessesKeepTheirOrder :
    let x : Access := { cls := 3, home := .bank 0 1 }
    let y (c : BitVec 4) (r : Nat) : Access := { cls := c, home := .bank 0 r, seq := 1 }
    let s (a b : Access) : State := my (fun c => { c with xp := { c.xp with pend := [a, b] } })
    ((s x (y 3 2)).stream ⟨0, .xp⟩).pend = [] ++ [x] ++ [] ++ [y 3 2] ∧ x.cls = (y 3 2).cls ∧ (y 15 2).cls = 15
      ∧ x.home = (y 4 1).home := by decide +kernel

theorem witness_PredicateWords : (7#5).toNat < 8 ∧ (3#2) ≠ 2 ∧ (3#5).toNat < 4 := by decide

theorem witness_TableMixAndExpertWords :
    let s (n : Nat) : State := { (my (fun c => { c with
      xp := c.xp.wx 1 1, interp := List.replicate n {} })) with cur := { core := 0, eng := .xp } }
    let q : InterpCmd := { got := [(0, 0)] }
    let one : InterpCmd := { desc := 2 ^ 27 }
    (s 3).myCore.kernel = some 0 ∧ ((s 3).kernel 0).Faultable ∧ tableOk ((s 3).rx 0) = true ∧ (s 3).myCore.interp.length < 4
      ∧ 4 ≤ (s 4).myCore.interp.length ∧ tableOk ((s 3).rx 1) = false ∧ ((s 1).core 0).interp = {} :: []
      ∧ ((s 1).tractOf 0).ticking = true ∧ ((s 1).stream ⟨0, .xp⟩).saved = none
      ∧ missing ({} : InterpCmd).got ({} : InterpCmd).rows = [0] ∧ missing q.got q.rows = [] ∧ one.rows.length = 17
      ∧ (∀ p ∈ ((s 1).core 0).xp.pend, 0 ≤ p.seq) ∧ (4#5) ≠ 2 ∧ (4#5) + 1 ≠ 2 ∧ (4#5) ≠ 2 + 1 := by decide +kernel

/-- R24 to R27: a number of each format, the largest and the smallest. -/
theorem witness_RoundingKeepsRepresentableValues :
    (0xFF7F < 2 ^ FFmt.bf16.width ∧ 0x8000 < 2 ^ FFmt.fp16.width ∧ 1 < 2 ^ FFmt.fp32.width ∧ 0x7E < 2 ^ FFmt.fp8.width)
      ∧ (match FFmt.bf16.decode 0xFF7F with | .fin _ _ _ => true | _ => false) = true
      ∧ (match FFmt.fp16.decode 0x8000 with | .fin _ _ _ => true | _ => false) = true
      ∧ (match FFmt.fp32.decode 1 with | .fin _ _ _ => true | _ => false) = true
      ∧ (match FFmt.fp8.decode 0x7E with | .fin _ _ _ => true | _ => false) = true
      ∧ FFmt.bf16.arith false (FFmt.bf16.decode 0xFF7F).exact = 0xFF7F
      ∧ FFmt.fp16.arith true (FFmt.fp16.decode 0x8000).exact = 0x8000
      ∧ FFmt.fp32.arith false (FFmt.fp32.decode 1).exact = 1 ∧ FFmt.fp8.conv true (FFmt.fp8.decode 0x7E).exact = 0x7E
      ∧ roundUnits false 5 2 0 0 = 2 ∧ roundUnits true 7 2 0 0 = 3 := by decide +kernel

/-- Patterns of each width of a conversion, and codes of q4 (R29, R39): 0.5 is 0x8 of 1/16 units, halves away. -/
theorem witness_ConvertPermuteAndReduceWords :
    0xFFFFFFFF < 2 ^ cvtWidth 2 ∧ 0xFF < 2 ^ cvtWidth 3 ∧ (6 : BitVec 3) ≠ 7 ∧ 15 < 2 ^ cvtWidth 7
      ∧ cvtElem false 0 2 0xFFFFFF7F = 0x80 ∧ cvtElem true 0 6 0xC2FF0000 = 0x81 ∧ cvtElem false 2 6 0x7FC00000 = 0
      ∧ (3#5).toNat < 4 := by decide +kernel

/-! ### Witnesses: the harrow -/

/-- `tiny` with core 0's harrow changed, the MX issuing. -/
def harrowed (f : Harrow → Harrow) (g : Core → Core := id) : State :=
  { (my (fun c => g { c with harrow := f c.harrow })) with cur := { core := 0, eng := .mx } }

theorem witness_HarrowControlWords :
    let armed := harrowed (fun h => { h with armed := true })
    let idle := harrowed id
    let sx (role : Nat) : State := { idle with kernels := [(0, { kernel0 with sx := some (0, role) })] }
    let waits := harrowed id (fun c => { c with mx := { c.mx with wait := .harrow .idle } })
    let rows (l : List Access) := harrowed id (fun c => { c with mx := { c.mx with wait := .harrow .stored, pend := l } })
    let bad := harrowed id (fun c => { c with mx := { c.mx with wait := .harrow .storedBad } })
    armed.myCore.harrow.armed = true ∧ idle.myCore.harrow.armed = false ∧ idle.myCore.harrow.state = .idle
      ∧ reachRow idle.cur.core (idle.rx 1) = some (0, 0, false)
      ∧ (sx 1).myCore.kernel = some 0 ∧ ((sx 1).kernel 0).sx = some (0, 1)
      ∧ ((sx 1).sextant 0).repBy ≤ 4 * (sx 1).cur.core + (sx 1).cur.eng.num + 1
      ∧ ((sx 0).kernel 0).sx = some (0, 0) ∧ ((sx 0).kernel 0).Faultable ∧ (idle.kernel 0).sx = none
      ∧ (waits.stream ⟨0, .mx⟩).wait = .harrow .idle ∧ waits.awake 0 = true ∧ HWait.idle ≠ .stored
      ∧ ((rows []).stream ⟨0, .mx⟩).wait = .harrow .stored ∧ ((rows []).stream ⟨0, .mx⟩).pend = []
      ∧ ((rows [{}]).stream ⟨0, .mx⟩).pend ≠ []
      ∧ (bad.stream ⟨0, .mx⟩).wait = .harrow .storedBad ∧ (bad.stream ⟨0, .mx⟩).pend = [] ∧ bad.awake 0 = true
      ∧ HWait.idle ≠ .storedBad ∧ (bad.core 0).kernel = some 0 ∧ (bad.kernel 0).Faultable
      ∧ (waits.core 0).harrow.waitOver .idle = true := by decide +kernel

/-- Those rows as a unit has read them, all zero. -/
def seenOf (l : List Nat) : Tbl Row := l.foldl (fun t r => t.set r 0) []

/-- A shape word of one K-block, drained after each block. -/
def shape1 : Word := 2 ^ 48 + 2 ^ 39

/-- A counting operator: sides A and B of bank 0 and bank 1, of a block-scaled format. -/
def counting (f : Harrow → Harrow) (g : Core → Core := id) : State :=
  harrowed (fun h => f { h with active := ((h.active.set 0 shape1).set 1 (32 : Word)).set 2 (0x08000020 : Word) })
    (fun c => g { c with bfmt := ((c.bfmt.set 0 0xC0200000).set 1 0xC0200000) })

theorem witness_HarrowBinWords :
    let busy := harrowed (fun h => { h with state := .running })
    let bin (d : Nat) : Bin := { depth := d, tag := some 0 }
    let s := counting id
    let o := s.mbHop
    let fullBin := counting (fun h => { h with bin0 := bin 32704 })
    let count := o.countRows 0 0 0
    let drain (h : Harrow) : List Nat := (h.setBin 1 (bin 1)).drainRows o 1 0 0
    ¬(busy.myCore.harrow.state = .idle ∧ busy.myCore.harrow.armed = false)
      ∧ s.myCore.harrow.state = .idle ∧ s.myCore.harrow.armed = false ∧ bits (s.rx 1) 19 18 = 0
      ∧ o.badBlock (some 0) true = none ∧ (s.myCore.harrow.bin 1).depth + 64 ≤ 32767 ∧ s.myCore.harrow.edep + 64 ≤ 65535
      ∧ (1#5).toNat < 2 ∧ o.badBlock (some 1) true = some .shape ∧ (s.kernel 0).Faultable
      ∧ (bin 1).depth ≠ 0 ∧ o.badBlock (bin 1).tag false = none ∧ (bin 0).depth = 0
      ∧ (bin 32767).depth + (bin 0).depth ≤ 32767 ∧ 32767 < (bin 32767).depth + (bin 1).depth
      ∧ missing s.myCore.harrow.mbSeen count = count ∧ count ≠ [] ∧ missing (seenOf count) count = []
      ∧ missing s.myCore.harrow.mbSeen (drain s.myCore.harrow) = drain s.myCore.harrow ∧ drain s.myCore.harrow ≠ []
      ∧ missing (seenOf (drain s.myCore.harrow)) (drain s.myCore.harrow) = []
      ∧ fullBin.mbHop.badBlock (some 0) true = none ∧ 32767 < (fullBin.myCore.harrow.bin 0).depth + 64
      ∧ (counting (fun h => { h with edep := 65472 })).myCore.harrow.edep + 64 = 65536 := by decide +kernel

/-- The cells of a bin at reset all hold 64 counters. -/
theorem witness_HarrowBinWords_cells : ∀ n < 4096, (({ depth := 1, tag := some 0 } : Bin).cell n).length = 64 :=
  fun _ _ => rfl

theorem witness_HarrowTileWords :
    let busy := harrowed (fun h => { h with armed := true, shadow := h.shadow.set 0 (2 ^ 28 : Word) })
    let s := harrowed id (fun c => { c with mx := c.mx.wx 1 (1981 + 2 ^ 16 * 0 + 0 : Word) })
    let t := harrowed id (fun c => { c with mx := (c.mx.wx 1 (31 * 2 ^ 5 : Word)).wx 2 0x3FF000 })
    let u := harrowed id (fun c => { c with mx := (c.mx.wx 1 0x3FFFC0).wx 2 0x400000 })
    let bf := t.myCore.bfmt.toList.getD 0 0
    busy.myCore.harrow.armed = true ∧ s.myCore.harrow.waitOver (.tile 1) = true ∧ (1#5).toNat < 2
      ∧ wbFormatOk bf = true ∧ bits (t.rx 1) 26 16 + 63 * bits (t.rx 1) 15 5 + wbBytes (bfEfmt bf) ≤ 2048
      ∧ (∀ n < 64, (reachRow t.cur.core (t.rx 2 + word (64 * n))).isSome = true)
      ∧ (∀ n < 1, (reachRow u.cur.core (u.rx 1 + word (64 * n))).isSome = true)
      ∧ reachRow u.cur.core (u.rx 1 + word (64 * 1)) = none ∧ reachRow u.cur.core (u.rx 2) = none
      ∧ u.myCore.harrow.waitOver (.tile 0) = true ∧ (u.kernel 0).Faultable := by decide +kernel

theorem witness_AnOperatorRunsItsNest :
    let armed := counting (fun h => { h with shadow := h.active, armed := true })
    let bad := counting (fun h => { h with armed := true, armBy := .word 4 })
    let run (r : HRun) : State := counting (fun h => { h with
      state := .running, fmtA := 0xC0200000, fmtB := 0xC0200000, run := r })
    let mul : State := harrowed (fun h => { h with
      state := .running, fmtA := 0x14000000, fmtB := 0x14000000, active := h.active.set 0 (2 ^ 48 + 2 ^ 39 : Word) })
    let fl (e : Nat) : State := harrowed (fun h => { h with
      state := .running, fmtA := BitVec.ofNat 32 (e * 2 ^ 28), fmtB := BitVec.ofNat 32 (e * 2 ^ 28)
      active := h.active.set 0 (2 ^ 48 + 2 ^ 39 : Word) })
    let H (s : State) : Harrow := (s.core 0).harrow
    let x : CopyOp := { kind := .harrow 0x3FFFC0 }
    let cmq := harrowed id (fun c => { c with cmq := [x] })
    armed.harrowOn 0 = true ∧ (H armed).armed = true ∧ (H armed).state = .idle
      ∧ ((armed.core 0).readHop (H armed).shadow).bad = none
      ∧ ((bad.core 0).readHop (H bad).shadow).bad = some .shape ∧ (H bad).armBy = .word 4
      ∧ (bad.core 0).kernel = some 0 ∧ (bad.kernel 0).Faultable
      ∧ (H (run {})).blockReady = true ∧ (H (run {})).op.counting = true
      ∧ (H (run { due := true })).state = .running ∧ (H (run { due := true, bin := 1 })).run.bin < 2
      ∧ (H mul).blockReady = true ∧ (H mul).op.counting = false ∧ (H mul).op.efmt ≤ 2
      ∧ (H (run { kb := 1 })).tileFull = true ∧ (H (run { kb := 1 })).op.wbOn = false
      ∧ (H (run { wb := some 255 })).run.wb = some 255 ∧ 255 < 64 * wbBytes (bfEfmt (H (run {})).fmtW)
      ∧ (H (run { ended := true })).run.ended = true ∧ (H (run { ended := true })).run.wb = none
      ∧ (H (fl 11)).blockReady = true ∧ (H (fl 11)).op.counting = false ∧ (H (fl 11)).op.efmt = 11 ∧ (H (fl 9)).op.efmt = 9
      ∧ (cmq.core 0).cmq = x :: [] ∧ cmq.goFirst 0 = false ∧ cmq.live 0 = true ∧ (H cmq).armed = false ∧ (cmq.core 0).released x = true
      ∧ x.tw = false ∧ x.tw2 = false ∧ reachRow 0 0x3FFFC0 = some (0, 65535, false) := by decide +kernel

theorem witness_AnOperatorReadsItsRows :
    let run (r : HRun) : State := counting (fun h => { h with
      state := .running, fmtA := 0xC0200000, fmtB := 0xC0200000, run := r })
    let mul : State := harrowed (fun h => { h with
      state := .running, fmtA := 0x14000000, fmtB := 0x14000000, active := h.active.set 0 (2 ^ 48 + 2 ^ 39 : Word) })
    let plain := counting (fun h => { h with shadow := h.active, armed := true })
    let H (s : State) : Harrow := (s.core 0).harrow
    let deep : State := counting (fun h => { h with
      state := .running, fmtA := 0xC0200000, fmtB := 0xC0200000, runBy := .word 4, bin0 := { depth := 32704, tag := some 0 } })
    let full : State := counting (fun h => { h with
      state := .running, fmtA := 0xC0200000, fmtB := 0xC0200000, run := { due := true }
      bin0 := { depth := 1, tag := some 0 } })
    let perm := counting (fun h => { h with armed := true, shadow := h.active.set 1 35 })
    let count := (H (run {})).op.countRows ((H (run {})).off 0) ((H (run {})).off 1) 0
    let product := (H mul).op.multiplyRows ((H mul).off 0) ((H mul).off 1) 0
    let drain (s : State) : List Nat := (H s).drainRows (H s).op (H s).run.bin ((H s).off 0) ((H s).off 1)
    ((H (run {})).bin 0).depth + 64 ≤ 32767 ∧ (H (run {})).edep + 64 ≤ 65535
      ∧ missing (H (run {})).seen count = count ∧ count ≠ [] ∧ missing (seenOf count) count = []
      ∧ (H deep).blockReady = true ∧ (H deep).op.counting = true ∧ 32767 < ((H deep).bin 0).depth + 64 ∧ (H deep).runBy = .word 4
      ∧ (deep.core 0).kernel = some 0 ∧ (deep.kernel 0).Faultable
      ∧ missing (H perm).seen ((perm.core 0).readHop (H perm).shadow).permRows ≠ []
      ∧ ((perm.core 0).readHop (H perm).shadow).bad = none ∧ ((plain.core 0).readHop (H plain).shadow).permRows = []
      ∧ missing (H full).seen (drain full) = drain full ∧ drain full ≠ [] ∧ missing (seenOf (drain full)) (drain full) = []
      ∧ (H full).state = .running ∧ (H full).run.due = true
      ∧ missing (H mul).seen product = product ∧ product ≠ [] ∧ missing (seenOf product) product = [] := by decide +kernel

/-! ### Witnesses: drills -/

/-- The memory that holds a list of words from 0x1000. -/
def listMem (ws : List Word) : Mem := ws.zipIdx.foldl (fun m p => Mem.setWord m (0x1000 + 8 * p.2) p.1) []

/-- Drill n runs the operation of the four words given; kernel 0 owns it, on a context that maps [0, 2^31). -/
def drilling (n : Nat) (ws : List Word) (f : Drill → Drill := id) : State :=
  let d : Drill := f { state := .running, cmd := { list := 0x1000, owner := .kernel 0 0 } }
  { tiny with drills := [(n, d)], dies := [(0, { tlb := [leaf0] })], mem := listMem ws }

/-- The drill of a state runs, pushes nothing, and reads the operation of those words. -/
def readsOp (s : State) (n : Nat) (ws : List Word) : Prop :=
  s.drillOn n = true ∧ (s.drill n).state = .running ∧ (s.drill n).push = none ∧ (s.drillOp n).toOption = some ws

theorem witness_DrillOperations_plain :
    readsOp (drilling 0 [12 * 2 ^ 56, 0, 0, 0]) 0 [12 * 2 ^ 56, 0, 0, 0]
      ∧ readsOp (drilling 23 [11 * 2 ^ 56, 0, 0, 0]) 23 [11 * 2 ^ 56, 0, 0, 0]
      ∧ readsOp (drilling 0 [0, 0, 0, 0]) 0 [0, 0, 0, 0] ∧ readsOp (drilling 0 [255 * 2 ^ 56, 0, 0, 0]) 0 [255 * 2 ^ 56, 0, 0, 0]
      ∧ readsOp (drilling 0 [6 * 2 ^ 56, 0, 0, 0]) 0 [6 * 2 ^ 56, 0, 0, 0]
      ∧ readsOp (drilling 0 [6 * 2 ^ 56 + 13 * 2 ^ 52 + 65535, 0x3F800000, 0, 0]) 0 [6 * 2 ^ 56 + 13 * 2 ^ 52 + 65535, 0x3F800000, 0, 0]
      ∧ (match FFmt.fp32.decode 0x3F800000 with | .fin _ m _ => m != 0 | _ => false) = true := by
  unfold readsOp; decide +kernel

theorem witness_DrillOperations_patterns :
    let c : Word := 1 + 2 ^ 16 + 2 ^ 32 + 2 ^ 48
    let dram := drilling 0 [2 ^ 56 + 13 * 2 ^ 50 + 3 * 2 ^ 48 + 3 * 2 ^ 46, 64, c, 0]
    let ws := drilling 23 [2 ^ 56 + 2 ^ 55 + 3 * 2 ^ 48, 2 ^ 32 - 64, c, 0]
    let win := drilling 0 [3 * 2 ^ 56, 64, 0, 0] (fun d => { d with pat := some {} })
    readsOp dram 0 [2 ^ 56 + 0 * 2 ^ 55 + 13 * 2 ^ 50 + 3 * 2 ^ 48 + 3 * 2 ^ 46, 64, c, 0]
      ∧ readsOp ws 23 [2 ^ 56 + 1 * 2 ^ 55 + 0 * 2 ^ 50 + 3 * 2 ^ 48 + 0 * 2 ^ 46, 2 ^ 32 - 64, c, 0]
      ∧ (Pattern.below { ws := true, ndm1 := 3, base := 2 ^ 32 - 64 }) = true
      ∧ readsOp win 0 [3 * 2 ^ 56, 64, 0, 0] ∧ (win.drill 0).pat = some {} := by unfold readsOp; decide +kernel

theorem witness_DrillOperations_loops :
    let loop (x : Word) : State := drilling 0 [4 * 2 ^ 56 + x, 1, 0, 0, 5 * 2 ^ 56, 0, 0, 0]
    let endl (n : Nat) : State := drilling 0 [5 * 2 ^ 56, 0, 0, 0] (fun d => { d with loops := [(32, n)] })
    readsOp (loop 0xFFFFFFFF) 0 [4 * 2 ^ 56 + 0xFFFFFFFF, 1, 0, 0] ∧ readsOp (loop 0) 0 [4 * 2 ^ 56, 1, 0, 0]
      ∧ ((loop 0).drill 0).loops.length < 4 ∧ ((loop 0).drillRead 0 (0x1000 + 0 + 32) 8).toOption = some (5 * 2 ^ 56)
      ∧ readsOp (endl 2) 0 [5 * 2 ^ 56, 0, 0, 0] ∧ ((endl 2).drill 0).loops = (32, 2) :: []
      ∧ ((endl 1).drill 0).loops = (32, 1) :: [] := by unfold readsOp; decide +kernel

theorem witness_DrillOperations_memory :
    let wait (v : Word) : State := drilling 0 [7 * 2 ^ 56, 0x2000, v, 0]
    let sig := drilling 0 [8 * 2 ^ 56 + 3 * 2 ^ 46, 0x7FFFFFF8, 5, 0]
    readsOp (wait 0) 0 [7 * 2 ^ 56, 0x2000, 0, 0] ∧ ((wait 0).drillRead 0 0x2000 8).toOption = some 0
      ∧ readsOp (wait 1) 0 [7 * 2 ^ 56, 0x2000, 1, 0] ∧ readsOp sig 0 [8 * 2 ^ 56 + 3 * 2 ^ 46, 0x7FFFFFF8, 5, 0]
      ∧ sig.rowsLanded 0 = true ∧ (sig.drillXl 0 0x7FFFFFF8 true).toOption = some 0x7FFFFFF8 ∧ sig.load 0x7FFFFFF8 8 = some 0
      ∧ sig.place 0x7FFFFFF8 = some 0x7FFFFFF8 ∧ paPkg 0x7FFFFFF8 = sig.pkg ∧ sig.agentFull 0x7FFFFFF8 = false
      ∧ (∀ c ∈ sig.ctxs, c.2.state ≠ .precopy) := by unfold readsOp; decide +kernel

theorem witness_DrillOperations_rows :
    let fill := drilling 0 [10 * 2 ^ 56 + 15 * 2 ^ 51, 0xFFFFFFFF, 0, 0]
    let push := drilling 0 [2 * 2 ^ 56 + 15 * 2 ^ 51, 1, 0, 0] (fun d => { d with pat := some { pos := 0 } })
    readsOp fill 0 [10 * 2 ^ 56 + 15 * 2 ^ 51, 0xFFFFFFFF, 0, 0] ∧ fill.targetAllowed 0 0 = true
      ∧ readsOp push 0 [2 * 2 ^ 56 + 15 * 2 ^ 51, 1, 0, 0] ∧ push.targetAllowed 0 0 = true
      ∧ (push.drill 0).pat = some { pos := 0 } ∧ 512 * 1 ≤ 512 * Pattern.rows {} - 0 := by unfold readsOp; decide +kernel

theorem witness_DrillWords :
    let row (w0 w1 : Word) : Mem := Mem.setWord (Mem.setWord [] 0 w0) 8 w1
    let s (w0 w1 : Word) (l : List StartCmd) : State := { (my (fun c => { c with
      sp := row w0 w1, ap := c.ap.wx 1 0x400000 })) with drills := [(23, { fifo := l })] }
    let stop (d : Drill) : State := { (me (fun m => { (m.wx 2 23) with wait := .dstop 5 23 (some 9) })) with
      kernels := [(0, { kernel0 with drills := [(23, 9)] })], drills := [(23, d)] }
    let cmd : StartCmd := { owner := .kernel 0 0 }
    reachRow 0 ((s 32 23 []).rx 0) = some (0, 0, false) ∧ (s 32 23 []).me.pend = []
      ∧ (me (fun m => { m with pend := [{}] })).me.pend ≠ []
      ∧ (Row.lane 64 (((s 32 23 []).core 0).row 0) 0).toNat % 32 = 0 ∧ (Row.lane 64 (((s 32 23 []).core 0).row 0) 1).toNat < 24
      ∧ Row.lane 64 (((s 32 23 []).core 0).row 0) 6 = 0 ∧ Row.lane 64 (((s 32 23 []).core 0).row 0) 7 = 0
      ∧ ¬(Row.lane 64 (((s 32 24 []).core 0).row 0) 1).toNat < 24 ∧ ((s 0 0 []).kernel 0).Faultable
      ∧ 4 ≤ ((s 32 23 (List.replicate 4 cmd)).commands 23).length ∧ ((s 32 23 (List.replicate 3 cmd)).commands 23).length < 4
      ∧ reachRow 0 ((s 0 0 []).rx 1) = none
      ∧ ((stop {}).rx 2).toNat < 24 ∧ ((stop {}).kernel 0).drills.find? 23 = some 9 ∧ ((stop {}).drill 23).state = .idle
      ∧ ((stop { state := .paused, cmd := cmd }).drill 23).kernelOwner = some 0
      ∧ (tiny.kernel 0).drills.find? 0 = none ∧ (tiny.rx 2).toNat < 24
      ∧ ((stop {}).stream ⟨0, .ap⟩).wait = .dstop 5 23 (some 9) ∧ (stop {}).awake 0 = true := by decide +kernel

theorem witness_DrillStartsStopsAndWaits :
    let idle := drilling 0 [] (fun d => { d with state := .idle, fifo := [d.cmd] })
    let stop := drilling 0 [] (fun d => { d with stop := true })
    let left : State := { (drilling 0 []) with kernels := [(0, { kernel0 with state := .saved })] }
    let wait := drilling 0 [7 * 2 ^ 56, 0x2000, 0, 0] (fun d => { d with state := .waiting })
    let bad := drilling 0 [] (fun d => { d with state := .faulted })
    let dead : State := { bad with kernels := [(0, { kernel0 with state := .faulted })] }
    let queue : State := { (drilling 0 [] (fun d => { d with state := .faulted, cmd := { d.cmd with owner := .queue 9 } })) with
      queues := [(9, { state := .resetting })] }
    (idle.drill 0).state = .idle ∧ (idle.commands 0) = (idle.drill 0).cmd :: [] ∧ (stop.drill 0).state = .running
      ∧ (stop.drill 0).stop = true ∧ left.ownerOn (left.drill 0).cmd.owner = false
      ∧ (bad.drill 0).state = .faulted ∧ (bad.drill 0).cmd.owner = .kernel 0 0 ∧ (bad.kernel 0).state ≠ .faulted
      ∧ (dead.drill 0).state = .faulted ∧ (dead.drill 0).cmd.owner = .kernel 0 0 ∧ (dead.kernel 0).state = .faulted
      ∧ (queue.drill 0).state = .faulted ∧ (queue.drill 0).cmd.owner = .queue 9 ∧ (queue.queue 9).state = .resetting
      ∧ (wait.drill 0).state = .waiting ∧ wait.drillOn 0 = true ∧ (wait.waitHolds 0).toOption = some true := by decide +kernel

theorem witness_RowsEnterTheirRings :
    let m (k : MoveKind) : Moving := { kind := k, ab := 15, left := some 1 }
    let s (k : MoveKind) (cfg : BitVec 32) : State :=
      { (drilling 0 [] (fun d => { d with push := some (m k), pat := some {}, seen := [(0, 0)] })) with
        cores := [(0, core0.setAb 15 { cfg := cfg })] }
    let f := s .fill 0x10
    let w : State := { (drilling 16 [] (fun d => { d with push := some (m .push), pat := some { ws := true } })) with
      chron := 5000000, cores := [(0, core0.setAb 15 { cfg := 0x10 })] }
    (f.drill 0).push = some (m .fill) ∧ f.drillOn 0 = true ∧ f.targetAllowed 0 0 = true ∧ (m .fill).mc = false
      ∧ (m .fill).mrow = (m .fill).mtot ∧ (f.core 0).admits 15 = true ∧ (m .fill).left ≠ none
      ∧ ((s .push 0x10).drill 0).pat = some {} ∧ 512 ≤ ((s .push 0x10).drill 0).leftBits
      ∧ ((s .push 0x10).patternBits 0 {} 0 512).toBool = true ∧ (w.drill 16).push = some (m .push)
      ∧ (w.drill 16).pat = some { ws := true } ∧ w.drillOn 16 = true ∧ w.targetAllowed 16 0 = true ∧ (w.core 0).admits 15 = true
      ∧ 512 ≤ (w.drill 16).leftBits ∧ (w.patternBits 16 { ws := true } 0 512).toBool = false
      ∧ missing (w.drill 16).seen [0] = [0] ∧ (Pattern.addr { ws := true } 0).toNat < 2 ^ 32 ∧ w.refreshing 0 0 = false
      ∧ ((s .push 0).core 0).admits 15 = false ∧ MoveKind.push ≠ .wswrite := by decide +kernel

theorem witness_TheWeightStore :
    let q (ws : List Word) (f : Drill → Drill) : State :=
      { (drilling 15 ws (fun d => f { d with cmd := { list := 0x1000, owner := .queue 0 } })) with kernels := [], cores := [] }
    let first := q [9 * 2 ^ 56 + 3 * 2 ^ 46, 2 ^ 32 - 64, 1, 0] (fun d => { d with pat := some {} })
    let m : Moving := { kind := .wswrite, left := some 1, off := 2 ^ 32 - 64 }
    let next := q [] (fun d => { d with pat := some {}, push := some m, seen := [(0, 0)] })
    let unread := q [] (fun d => { d with pat := some {}, push := some m })
    let at_ (t : Word) (w : List Nat) : State := { tiny with chron := t, dies := [(3, { window := w })] }
    let late (t : Word) : State := { tiny with chron := t, dies := [(3, { inForce := [(31, 15999999)] })] }
    first.drillOn 15 = true ∧ (first.drill 15).push = none ∧ 15 % 24 < 16 ∧ (first.drill 15).kernelOwner = none
      ∧ (first.drillOp 15).toOption = some [9 * 2 ^ 56 + 3 * 2 ^ 46, 2 ^ 32 - 64, 1, 0] ∧ 512 * 1 ≤ (first.drill 15).leftBits
      ∧ first.wsFree (15 / 24) = true
      ∧ (next.drill 15).push = some m ∧ m.left = some (0 + 1) ∧ next.drillOn 15 = true ∧ (next.drill 15).pat = some {}
      ∧ (next.patternBits 15 {} 0 512).toBool = true ∧ (unread.patternBits 15 {} 0 512).toBool = false
      ∧ (unread.drill 15).push = some m ∧ unread.drillOn 15 = true
      ∧ ((at_ 15500000 []).phaseNow 3 31 ≤ 15500000 ∧ 15500000 < (at_ 15500000 []).phaseNow 3 31 + 512)
      ∧ 31 ∉ ((at_ 15500000 []).die 3).window
      ∧ ¬((at_ 15499999 [31]).phaseNow 3 31 ≤ 15499999) ∧ (0 < 16000510 / 16000000 ∧ 16000510 < (late 16000510).phaseBefore 3 31 + 512)
      ∧ ¬(16000511 < (late 16000511).phaseBefore 3 31 + 512)
      ∧ ((at_ 16000000 []).die 3).period < (at_ 16000000 []).chron.toNat / Config.refreshPeriod := by decide +kernel

/-! ### Witnesses: kernels -/

/-- Bytes in memory from an address on, each field a place, a length and a value. -/
def bytesAt (m : Mem) (base : Nat) (l : List (Nat × Nat × Nat)) : Mem :=
  l.foldl (fun m f => Mem.setNum m (base + f.1) f.2.2 f.2.1) m

/-- An image at 0x20000: one kernel, a code section that holds a plain header, and a row image of one byte. -/
def image0 : Mem :=
  bytesAt [] 0x20000 [(0, 4, 0x01464F5A), (4, 2, 1), (6, 2, 1), (8, 8, 64), (16, 8, 256), (24, 4, 2), (28, 4, 1),
    (64, 1, 1), (70, 2, 0xFFFF), (72, 8, 512), (80, 8, 4), (112, 1, 3), (120, 8, 516), (128, 8, 1),
    (260, 1, 1), (261, 1, 32), (512, 4, 0x025000E0), (516, 1, 0x5A)]

/-- A package whose context 0 maps [0, 2^31), with that memory; queue 0 may send every packet of a ring at 0x1000. -/
def fronted (m : Mem) (f : Queue → Queue := id) : State :=
  { ctxs := [(0, { state := .live, save := 0x1000000, savelen := 0x2000 })], dies := [(0, { tlb := [leaf0] })], mem := m
    helm := { mode := 0 }
    queues := [(0, f { state := .fetching, eprio := 0
                       line := #v[2 ^ 36, 0x1000, 2 ^ 36, 0x3000, 2 ^ 36, 0x4000, 2 ^ 32 + 0x1FFF, 0] })] }

/-- Kernel 0 alone in a fronted package, with a LAUNCH that it is the work of. -/
def launched (K : Kernel) (f : Queue → Queue := id) (cs : Tbl Core := []) : State :=
  { (fronted image0 (fun Q => f { Q with launch := some { kernel := some 0 } })) with
    kernels := [(0, K)], nextKernel := 1, cores := cs }

theorem witness_KernelsArePlaced :
    let K : Kernel := { granted := true, gshp := 0, hdr := { streams := 1, tkind := 1, tn := 1000 } }
    let s : State := { launched K with passDue := true }
    let none_ : State := { tiny with passDue := true }
    none_.passDue = true ∧ ({ none_ with passDue := false } : State).nextPlacement = none
      ∧ s.passDue = true ∧ s.waitingKernels = [0] ∧ (s.kernel 0).hdr.refresh = []
      ∧ ({ s with passDue := false } : State).nextPlacement = some (0, [{}]) := by decide +kernel

/-- A core that kernel 0 has reserved. -/
def taken0 : Core := { kernel := some 0 }

/-- The code and row images of `image0`. -/
theorem test_image_read :
    (match (fronted image0).rdStart { image := 0x20000 } 0 with
      | .got (code, rows) => decide (code = [0xE0, 0, 0x50, 2] ∧ rows = [(0, [0x5A])])
      | _ => false) = true := by decide +kernel

theorem witness_KernelsStartAndRun :
    let P : Kernel := { state := .placed, image := 0x20000, seats := [{}], hdr := { streams := 7, xk := #v[32, 32, 32] } }
    let S : Kernel := { P with state := .starting }
    let C : Kernel := { S with copies := [{ rows := 1 }] }
    let run : State := { (launched S id [(0, core0)]) with tracts := [(0, tract0)] }
    (launched P).mayStart 0 = true ∧ ((launched P).kernel 0).hdr.tkind = 0 ∧ ((launched P).kernel 0).resume = false
      ∧ (match (launched P).rdStart P ((launched P).unitIdx 0) with | .got _ => true | _ => false) = true
      ∧ ((launched { S with mxop := some [1] }).kernel 0).mxop = some [1] ∧ S.mxLoaded = false ∧ S.resume = false
      ∧ ((launched C).kernel 0).state = .starting ∧ ((launched C).kernel 0).named < ((launched C).kernel 0).copies.length
      ∧ run.ready 0 = true := by decide +kernel

/-- A kernel to start, of the declaration given, in a package whose tracts are FREE. -/
def starting (h : Header) (f : State → State := id) : State :=
  f { (launched { state := .placed, image := 0x20000, seats := [{}], hdr := { h with streams := 7, tn := 1000 } }) with
    helm := { mode := 0, rails := #v[{ now := 0 }, {}, {}, {}] } }

theorem witness_KernelsBindTheirTracts :
    let port := starting { tkind := 1, tsrc := 31 }
    let pace (n : Nat) (f : State → State) := starting { tkind := 2, tsrc := 15, pnum := n, pden := 1 } f
    let stopped := pace 200000 id
    let slow := pace 2000 id
    let other := pace 200000 (fun s => s.setPace 15 { on := true, num := 1, den := 1, dnum := 1, dden := 1 })
    let none_ := starting { tkind := 1, tsrc := 32 }
    let moving := starting { tkind := 1 } (fun s => { s with ctxs := [(0, { (s.ctx 0) with state := .precopy })] })
    let K (s : State) : Kernel := s.kernel 0
    let v (s : State) : State := (s.startPace (K s)).getD s
    (∀ s ∈ [port, stopped, slow, other, none_, moving], s.mayStart 0 = true ∧ s.sameShape (K s) = none ∧ (K s).clusters = [0]
        ∧ (s.tract 0).state = .free ∧ (match s.rdStart (K s) (s.unitIdx 0) with | .got _ => true | _ => false) = true
        ∧ ((s.queue 0).launch.bind (·.port)) = none ∧ (s.queue 0).launch.isSome = true ∧ (s.queue 0).takesFault = true)
      ∧ (K port).hdr.sourced = true ∧ port.lockDenied 0 (K port).hdr.decl = false ∧ (v port).lockBad (K port).hdr.decl = none
      ∧ (stopped.pace 15).on = false ∧ (v stopped).lockBad (K stopped).hdr.decl = none ∧ (K stopped).hdr.sourced = true
      ∧ stopped.lockDenied 0 (K stopped).hdr.decl = false
      ∧ (v slow).lockBad (K slow).hdr.decl = some .lockFloor ∧ slow.lockDenied 0 (K slow).hdr.decl = false
      ∧ (other.pace 15).on = true ∧ ¬((other.pace 15).dnum * (K other).hdr.pden = (K other).hdr.pnum * (other.pace 15).dden)
      ∧ (K none_).hdr.sourced = false ∧ (K none_).hdr.tkind ≠ 0
      ∧ (K moving).hdr.sourced = true ∧ moving.lockDenied 0 (K moving).hdr.decl = true := by decide +kernel

/-- A kernel that resumes from a save of one core at 0x1000000. -/
def resuming : State :=
  { (launched { state := .placed, image := 0x20000, seats := [{}], hdr := { streams := 3, xk := #v[32, 32, 32], vm := 32 }
                resume := true, saveAt := some 0x1000000 }) with
    mem := bytesAt image0 0x1000000 [(12, 4, 1), (0x11008, 8, 7), (0x122A2, 1, 8)] }

theorem witness_KernelsResume :
    let K := resuming.kernel 0
    resuming.mayStart 0 = true ∧ K.hdr.tkind = 0 ∧ resuming.sameShape K = some 0x1000000
      ∧ (match resuming.rdStart K (resuming.unitIdx 0) with | .got _ => true | _ => false) = true
      ∧ resuming.recordOf 0x1000000 {} = some 0x1010000
      ∧ (Mem.num resuming.mem (0x1010000 + streamBlock .ap + 0x2A0) 8).testBit 19 = false
      ∧ (Mem.num resuming.mem (0x1010000 + streamBlock .xp + 0x2A0) 8).testBit 19 = true := by decide +kernel

theorem witness_RecordCopies :
    let r : CopyRec := { va := 0x7FFFFFC0, rows := 1, srow := 65535 }
    let S (a : CopyAt) : Kernel :=
      { state := .starting, seats := [{}], copies := [r], named := 1, hdr := { streams := 1 }, copying := [(0, a)] }
    let i (a : CopyAt) : State := launched (S a) id [(0, taken0)]
    let e : Stream := { phase := .ended }
    let O (a : CopyAt) : Kernel := { S a with state := .draining, copies := [{ r with out := true }] }
    let o (a : CopyAt) : State := launched (O a) id [(0, { taken0 with ap := e })]
    let B : Side := bankSide (taken0.bfOf 65535)
    let has (x y : Side) (a : CopyAt) : Bool := (copyNeeds (copyWay x y) x y 1 a.done).all (fun j => decide (j < a.got.length))
    let one : CopyAt := { got := [5] }
    ((i {}).kernel 0).copies[0]? = some r ∧ ((i {}).kernel 0).groupIndex 0 = some 0 ∧ ((i {}).kernel 0).named = 1
      ∧ ((i {}).kernel 0).copied = [] ∧ ((i {}).core 0).oneFormat 65535 1 = true ∧ (S {}).mxop = none
      ∧ copyWay (mainSide 0) B ≠ .bad ∧ srcRows (copyWay (mainSide 0) B) (mainSide 0) B 1 = some 1
      ∧ (copyNeeds (copyWay B (mainSide 0)) B (mainSide 0) 2 1).all (fun j => decide (j < one.got.length)) = false
      ∧ has (mainSide 0) B {} = false ∧ has (mainSide 0) B one = true ∧ ((i one).kernel 0).copyAt 0 0 = one
      ∧ ((i {}).feRead 0 (.record 0) 0x7FFFFFC0 64).toOption = some 0 ∧ (i {}).unitIdx 0 + r.pos = 0
      ∧ (o {}).ending 0 = true ∧ ((o {}).kernel 0).copies[0]? = some { r with out := true } ∧ (o {}).unitIdx 0 + r.pos = 0
      ∧ copyWay B (mainSide 0) ≠ .bad ∧ dstRows (copyWay B (mainSide 0)) B (mainSide 0) 1 = some 1
      ∧ has B (mainSide 0) one = true ∧ ((o one).kernel 0).copyAt 0 0 = one ∧ (∀ c ∈ (o {}).ctxs, c.2.state ≠ .precopy)
      ∧ ((o {}).feWritable 0 (.record 0) (r.rowsAt 0 1)).toOption = some [0x7FFFFFC0]
      ∧ ((o one).feWritable 0 (.record 0) [0x7FFFFFC0]).toOption = some [0x7FFFFFC0]
      ∧ (o one).place 0x7FFFFFC0 = some 0x7FFFFFC0 ∧ paPkg 0x7FFFFFC0 = (o one).pkg := by decide +kernel

theorem witness_KernelsDivertSaveAndRetire :
    let e : Core := { taken0 with ap := { phase := .ended } }
    let R : Kernel := { state := .running, seats := [{}], hdr := { streams := 1 } }
    let r : State := launched R id [(0, e)]
    let m : Stream := { phase := .live, xk := 32, pc := 4, npc := 8, blocks := [{ entry := 0, body := 4, stop := 60, count := 1 }] }
    let D : Kernel := { R with state := .draining, preempt := true
                               hdr := { streams := 1, stubs := [{ start := 0, stop := 64, stub := 48, eng := 1 }] } }
    let d : State := { (launched D id [(0, { taken0 with ap := m })]) with tracts := [(0, tract0)] }
    let y : State := launched D (fun Q => Q) [(0, { taken0 with ap := { m with phase := .yielded } })]
    let last (o : Outcome3) : State := fronted image0 (fun Q => { Q with launch := some { ended := some o } })
    r.ending 0 = true ∧ (r.kernel 0).copiesDone true = true ∧ r.owing (.queue 0) = false
      ∧ ((r.queue 0).launch.bind (·.kernel)) = some 0 ∧ (r.kernel 0).sx = none
      ∧ (d.divertsTo ⟨0, .ap⟩).isSome = true
      ∧ (∀ r ∈ y.helm.requests, r.func = 9 → r.key ≠ 0) ∧ (∀ p ∈ framesOf 0x1000000 64, paPkg p = y.pkg)
      ∧ y.drained 0 = true ∧ (y.kernel 0).saveAt = none ∧ y.assisted 9 = false ∧ y.savePlace 0 = some 0x1000000
      ∧ (∀ c ∈ y.ctxs, c.2.state ≠ .precopy ∧ c.2.state ≠ .stopcopy)
      ∧ (((last .saved).queue 0).launch.bind (·.outcome)) = some .saved ∧ (last .saved).owing (.queue 0) = false
      ∧ ((last .saved).queue 0).launch.bind (·.notify) = none ∧ ((last .saved).queue 0).launch.bind (·.port) = none := by
  decide +kernel

/-! ### Witnesses: packets -/

/-- Queue 0 has a packet of those words at the head of its ring. -/
def sent (ws : List Nat) (f : Queue → Queue := id) (m : Mem := []) : State :=
  fronted (ws.zipIdx.foldl (fun m p => Mem.setNum m (0x1000 + 4 * p.2) p.1 4) m) (fun Q => f { Q with wptr := 4 * ws.length })

/-- Queue 0 may send the packet at its head, which is of a TYPE with a COUNT and no flags but NOTIFY, and holds what `P`
says. -/
def heads (s : State) (ty n flags : Nat) (P : Packet → Bool := fun _ => true) : Bool :=
  s.feReady 0 && (s.queue 0).tmask ty && (s.queue 0).hand.isNone
    && (match s.fetchPacket 0 with
      | .ok p => decide (p.type = ty) && decide (p.flags = flags) && !p.past && decide (p.count = n) && P p
      | .error _ => false)

theorem witness_PacketsRunInOrder :
    let l : Queue → Queue := fun Q => { Q with launch := some {} }
    let deep : Queue → Queue := fun Q => { Q with
      stack := [(0, 12), (0, 12), (0, 12), (0, 12)], line := Q.line.set 3 0x1000 }
    let wait (v : Nat) : List Nat := [0x04004000, 0x7FFFFFF8, 0, v, 0]
    let held : State := sent (wait 1) (fun Q => { Q with state := .waiting, wait := some (0x7FFFFFF8, 1), recheck := true })
    heads (sent [0]) 0 0 0 ∧ heads (sent [0x00000001]) 0 0 1 ∧ ((sent [1]).queue 0).notes = []
      ∧ heads (sent [0x06000000]) 6 0 0 ∧ heads (sent [0x06000000] l) 6 0 0
      ∧ heads (sent [0x02002000, 0, 4096]) 2 2 0 (fun p => p.w 1 % 4 = 0 && p.w 2 % 4 = 0 && p.w 1 + p.w 2 ≤ 4096)
      ∧ ((sent [0]).queue 0).capLen 1 = 4096
      ∧ heads (sent [0x02002000, 4, 4096]) 2 2 0 (fun p => 4096 < p.w 1 + p.w 2)
      ∧ heads (sent [0x02002000, 0, 4096] deep) 2 2 0 ∧ ((sent [0x02002000, 0, 4096] deep).queue 0).stack.length = 4
      ∧ heads (sent (wait 0)) 4 4 0 (fun p => p.w2 1 = 0x7FFFFFF8) ∧ heads (sent (wait 1)) 4 4 0 (fun p => p.w2 3 = 1)
      ∧ ((sent (wait 1)).feRead 0 .packet 0x7FFFFFF8 8).toOption = some 0
      ∧ (held.queue 0).wait = some (0x7FFFFFF8, 1) ∧ held.ctxOpen 0 = true ∧ held.assisted 2 = false
      ∧ (held.fetchPacket 0).toBool = true
      ∧ heads (sent [0x01002000, 0x2000, 0]) 1 2 0 (fun p => p.w2 1 = 0x2000) ∧ heads (sent [0x01002000, 0x2000, 0] l) 1 2 0
      ∧ (sent [0x0D000000]).feReady 0 = true
      ∧ (match (sent [0x0D000000]).fetchPacket 0 with | .ok p => decide (p.type = 13) | _ => false) = true
      ∧ (4092 : Word).toNat < ((sent []).queue 0).capLen 0 ∧ ((sent []).queue 0).capLen 0 ≤ (2 ^ 32 : Word).toNat
      ∧ (sent []).rings 0 0 = true ∧ (sent []).rings 1 0 = true ∧ (sent []).rings 128 0 = false
      ∧ ((sent [] (fun Q => { Q with state := .resetting })).queue 0).state = .resetting
      ∧ (held.queue 0).waitHa = false ∧ (held.queue 0).fault? = none ∧ (held.queue 0).held = false
      ∧ ((sent [] (fun Q => { Q with timer := some 0 })).queue 0).timer = some 0 := by decide +kernel

theorem witness_ResetPacket :
    let s : State := sent [0x0C001000, 4095] (fun Q => { Q with line := Q.line.set 6 (2 ^ 33 - 1 - (2 ^ 32 - 2 ^ 13)) })
    let t : State := { s with queues := s.queues.set 4095 { state := .running } }
    heads t 12 1 0 (fun p => p.w 1 = 4095) ∧ (t.queue 0).priv = true ∧ (t.queue 4095).part = (t.queue 0).part
      ∧ (t.queue 4095).state = .running := by decide +kernel

theorem witness_PacketsReachMemoryAndUnits :
    let l : Queue → Queue := fun Q => { Q with launch := some {} }
    let sig := sent [0x03004000, 0x7FFFFFF8, 0, 5, 0]
    let wr := sent [0x05004000, 0x7FFFFFF8, 0, 5, 6]
    let va : List Nat := (List.range 2).map (fun i => 0x7FFFFFF8 + 4 * i)
    let turn := sent [0x05004000, 0x7FFFFFBC, 0, 5, 6] (fun Q => { Q with performed := true, writes := [(0x7FFFFFC0, 6)] })
    let far : State := { sig with
      dies := [(0, { tlb := [{ leaf0 with pa := 2 ^ 45 }] })], links := [(0, { state := .up, peer := 1 })] }
    let dr := sent [0x08002000, 0x2000, 0] id (bytesAt [] 0x2000 [(0, 8, 32), (8, 8, 23)])
    let ws := fronted [] (fun Q => { Q with wsl := [{ off := 2 ^ 32 - 64, rows := 1, die := 3 }] })
    let on := fronted [] (fun Q => { Q with wsl := [{ rows := 3, die := 3, on := true, done := 1 }] })
    let held : State := { ws with dies := ws.dies ++ [(3, { wsBusy := true })] }
    (∀ c ∈ sig.ctxs, c.2.state ≠ .precopy) ∧ sig.owing (.queue 0) = false ∧ (sig.queue 0).quiet = true
      ∧ (sig.queue 0).performed = false ∧ (sig.queue 0).writes = [] ∧ heads sig 3 4 0 (fun p => p.w2 1 = 0x7FFFFFF8 && p.w2 3 = 5)
      ∧ (sig.feXl 0 .packet 0x7FFFFFF8 true).toOption = some 0x7FFFFFF8
      ∧ (sig.place 0x7FFFFFF8 = some 0x7FFFFFF8 ∧ paPkg 0x7FFFFFF8 = sig.pkg ∧ sig.agentFull 0x7FFFFFF8 = false)
      ∧ paPkg (2 ^ 45 + 0x7FFFFFF8) ≠ far.pkg ∧ (far.feXl 0 .packet 0x7FFFFFF8 true).toOption = some (2 ^ 45 + 0x7FFFFFF8)
      ∧ far.place (2 ^ 45 + 0x7FFFFFF8) = some (2 ^ 45 + 0x7FFFFFF8)
      ∧ heads (sent [0x07002000, 0x7FFFFFF8, 0]) 7 2 0
      ∧ heads wr 5 4 0 ∧ (wr.feWritable 0 .packet va).toOption = some va ∧ 0x7FFFFFF8 % 64 + 4 * 2 ≤ 64
      ∧ rowAt 0x7FFFFFC0 ≠ rowAt 0x7FFFFFBC ∧ heads turn 5 4 0 ∧ (turn.queue 0).performed = true
      ∧ (turn.queue 0).writes = [(0x7FFFFFC0, 6)] ∧ heads (sent [0x03004000, 8, 0, 5, 0] l) 3 4 0
      ∧ ((sent [0x03004000, 8, 0, 5, 0] l).queue 0).quiet = false
      ∧ heads dr 8 2 0 (fun p => p.w2 1 = 0x2000) ∧ (dr.commands 23).length < 4
      ∧ (dr.feReads 0 .packet 8 ((List.range 8).map (fun i => 0x2000 + 8 * i))).toOption = some [32, 23, 0, 0, 0, 0, 0, 0]
      ∧ heads (sent [0x09003000, 0x2000, 0, 63]) 9 3 0 (fun p => p.w 3 = 63)
      ∧ ((sent []).sextant 63).state = 0 ∧ ((sent []).sextant 63).claim = none ∧ ((sent []).sextant 63).waits = []
      ∧ heads (sent [0x0B005000, 0x2000, 0, 3, 2 ^ 32 - 64, 1]) 11 5 0 (fun p => p.w 4 + 64 * p.w 5 ≤ 2 ^ 32)
      ∧ (ws.queue 0).wsl.length = 1 ∧ ws.wsFree 3 = true ∧ ws.ctxOpen (ws.queue 0).asid = true
      ∧ (ws.feRead 0 .wsload 0 64).toOption = some 0
      ∧ ((on.queue 0).wsl.map (fun l => (l.on, l.done, l.rows)) = [(true, 1, 3)] ∧ (on.feRead 0 .wsload 64 64).toOption = some 0)
      ∧ held.wsFree 3 = false ∧ (held.queue 0).wsl.map (·.on) = [false] := by decide +kernel

/-- R225, R334: a WRITE stores its words from its address on, the two of one row in one turn. -/
theorem test_write_packet :
    let t := after (.write 0) (sent [0x05004000, 0x7FFFFFF8, 0, 5, 6])
    Mem.num t.mem 0x7FFFFFF8 4 = 5 ∧ Mem.num t.mem 0x7FFFFFFC 4 = 6 ∧ (t.queue 0).state = .idle ∧ (t.queue 0).rptr = 20 := by
  decide +kernel

/-- R225: a WRITE that crosses a row performs the first row's words, and stands at the rest. -/
theorem test_write_packet_turns :
    let t := after (.write 0) (sent [0x05004000, 0x7FFFFFBC, 0, 5, 6])
    Mem.num t.mem 0x7FFFFFBC 4 = 5 ∧ Mem.num t.mem 0x7FFFFFC0 4 = 0 ∧ (t.queue 0).writes = [(0x7FFFFFC0, 6)]
      ∧ Mem.num (after (.write 0) t).mem 0x7FFFFFC0 4 = 6 := by decide +kernel

theorem witness_TractPackets :
    let bind (op w : Nat) : State := sent [0x0A003000, op + 63 * 256, w % 2 ^ 32, w / 2 ^ 32]
    let t (op w : Nat) : State := { bind op w with tracts := [(63, { tract0 with edge := .framed, asid := 0 })] }
    let dec : Nat := 999 * 2 ^ 40 + 3 * 2 ^ 24 + 64
    let asked : State := { bind 1 dec with tracts := [(63, { tract0 with asker := some (.packet 7), relock := some 0 })]
                                           queues := (7, { state := .fetching }) :: (bind 1 dec).queues }
    let pv (ws : List Nat) : State := sent ws (fun Q => { Q with line := Q.line.set 6 (Q.roWord 6 ||| 2 ^ 32) })
    heads (bind 0 (dec + 32)) 10 3 0 (fun p => p.w 1 % 16 = 0 && p.w 1 / 256 % 64 = 63 && word (p.w2 2) &&& ~~~0x20#64 = word dec)
      ∧ (bind 0 dec).tractTaken 63 0 = false ∧ ((bind 0 dec).tract 63).state = .free ∧ (bind 0 dec).lockDenied 0 (word dec) = false
      ∧ (bind 0 dec).requestBad 63 (word dec) = none ∧ (bind 0 (2 * 2 ^ 24)).requestBad 63 (word (2 * 2 ^ 24)) = some .lockRatio
      ∧ heads (t 1 dec) 10 3 0 ∧ (t 1 dec).tractTaken 63 0 = false ∧ ((t 1 dec).tract 63).state ≠ .free
      ∧ ((t 1 dec).tract 63).asker = none ∧ (t 1 dec).requestBad 63 (word dec) = none ∧ ((t 1 dec).tract 63).edge = .framed
      ∧ ((asked.tract 63).asker = some (.packet 7) ∧ (asked.tract 63).edge ≠ .framed ∧ (asked.tract 63).ticking = true)
      ∧ (asked.queue 7).hand = none ∧ (asked.queue 7).takesFault = true
      ∧ heads (sent [0x0A001000, 2 + 63 * 256]) 10 1 0 ∧ (sent [0x0A001000, 2 + 63 * 256]).placedIn 63 = []
      ∧ heads (sent [0x0A002000, 3 + 63 * 256, 0xFFFFFFFF]) 10 2 0
      ∧ (let X : Stile := { cfg := BitVec.ofNat 32 (2 ^ 30 + 2 ^ 20) }; X.mode = 1 ∧ X.sclu ≠ X.dclu) ∧ ({} : Stile).mode = 0
      ∧ heads (sent [0x0A002000, 4 + 3 * 2 ^ 16 + 31 * 2 ^ 18, 0]) 10 2 0 ∧ (sent []).stileTaken 127 0 0 = false
      ∧ heads (sent [0x0A005000, 5 + 15 * 2 ^ 16, 1, 0, 1, 0]) 10 5 0 (fun p => p.w2 2 = 1 && p.w2 4 = 1)
      ∧ heads (pv [0x0A002000, 6 + 31 * 2 ^ 16, 0x8000003F]) 10 2 0 ∧ ((pv []).queue 0).priv = true
      ∧ heads (pv [0x0A002000, 7 + 11 * 2 ^ 16, 0x8000003F]) 10 2 0 := by decide +kernel

/-! ### Witnesses: units and Sextants -/

/-- The image of a kernel of one AP stream on a pace tract, at 0x20000, with a KERNEL record for it at 0x2000 and a
SEXTANT record at 0x2040 whose command block, at 0x2080, names that unit for its factor and its correction kernel. -/
def chain0 : Mem :=
  bytesAt image0 0 [(0x20104, 1, 1), (0x20105, 1, 32), (0x20106, 1, 0), (0x20107, 1, 0), (0x2010C, 4, 1),
    (0x2000, 8, 2 ^ 60), (0x2008, 8, 0x20000), (0x2040, 8, 4 * 2 ^ 60), (0x2048, 8, 0x2080), (0x2050, 8, 63),
    (0x2080, 8, 0x2000), (0x2088, 8, 0x2000), (0x2098, 8, 0x358637BD3F000000), (0x20A0, 8, 0x4000000000000014)]

/-- Queue 0 has a LAUNCH whose next record is at that address. -/
def chained (va : Word) (f : Launch → Launch := id) : State :=
  fronted chain0 (fun Q => { Q with state := .idle, launch := some (f { head := va, next := va }) })

/-- A unit that reads well, and one that does not. -/
theorem witness_Units :
    let s := chained 0x2000
    let bad : State := fronted (Mem.setNum chain0 0x2017 0x80 1) (fun Q => { Q with launch := some { head := 0x2000, next := 0x2000 } })
    (s.unitDue 0 = (s.queue 0).launch ∧ (s.unitDue 0).isSome = true)
      ∧ s.assisted 3 = false
      ∧ (match s.rdRecord 0 0 0x2000 with | .got w => decide (recKind w = 1) | _ => false) = true
      ∧ (match s.rdUnit 0 id 0x2000 with
          | .got u => (match s.rdKernel 0 id u false with | .got K => K.sx.isNone | _ => false)
          | _ => false) = true
      ∧ (match bad.rdUnit 0 id 0x2000 with
          | .got u => (match bad.rdKernel 0 id u false with | .bad f n => decide (f = .groupShape ∧ n = 0) | _ => false)
          | _ => false) = true := by decide +kernel

theorem witness_SextantRecord :
    let s := chained 0x2040
    let busy : State := { s with sextants := [(63, { state := 3 })] }
    (s.unitDue 0).isSome = true
      ∧ (match s.rdSextantRecord 0 { head := 0x2040, next := 0x2040 } with
          | .got w => decide (recKind w = 4 ∧ sextantRecOk w = true ∧ w.getD 1 0 = 0x2080 ∧ w.getD 2 0 = 63)
          | _ => false) = true
      ∧ (s.claimSextant 63 0).1.isSome = true ∧ (busy.claimSextant 63 0).1 = none
      ∧ (match (s.claimSextant 63 0).1 with
          | some v => (match v.rdBlock 0 63 0 0x2080 with | .got x => decide (x.state = 1) | _ => false)
          | none => false) = true := by decide +kernel

theorem witness_SextantsProceed :
    let s (st : BitVec 3) (k : KState) (f : Sextant → Sextant := id) : State :=
      { (chained 0x2040 (fun l => { l with sx := some 63, kernel := some 0 })) with
        kernels := [(0, { state := k })], sextants := [(63, f { state := st, block := 0x2080, words := [0, 0, 0, 0, 1, 0, 0, 0] })] }
    let gone : State := { (fronted chain0) with sextants := [(63, { state := 3 })] }
    let fin := s 3 .retired (fun x => { x with fin := true })
    let late : State := { fin with remotes := [{ itag := 9, who := .queue 0, kind := 1, queue := some 0 }] }
    ((s 1 .retired).sxRetired 63 1).isSome = true ∧ ((s 2 .retired).sxRetired 63 2).isSome = true
      ∧ ((s 4 .retired).sxRetired 63 4).isSome = true ∧ ((s 4 .retired).feXl 0 (.record 0) (0x2080 + 56) true).toOption = some 0x20B8
      ∧ (s 4 .retired).place 0x20B8 = some 0x20B8 ∧ (∀ c ∈ (s 4 .retired).ctxs, c.2.state ≠ .precopy)
      ∧ gone.sxLost 63 = true ∧ (gone.sextant 63).state ≠ 0
      ∧ ((s 3 .retired (fun x => { x with repd := true })).sxUnit 63).isSome = true
      ∧ ((s 3 .retired).sextant 63).repd = false ∧ ((s 3 .retired).sextant 63).fin = false
      ∧ ((s 3 .retired).feRead 0 (.record 0) (((s 3 .retired).sextant 63).w 2).toNat 8).toBool = true
      ∧ (fin.sextant 63).fin = true ∧ (fin.sextant 63).state = 3 ∧ (fin.sxUnit 63).isSome = true ∧ fin.owing (.queue 0) = false
      ∧ (late.sextant 63).fin = true ∧ (late.sxUnit 63).isSome = true ∧ late.owing (.queue 0) = true := by decide +kernel

/-! ### Witnesses: commands of queues and contexts -/

theorem witness_QueueCommands :
    let w (op : Nat) : Word := word (2 ^ 63 + op * 2 ^ 52 + 4095 * 2 ^ 32)
    let q (f : Queue → Queue) : State := { (fronted []) with queues := [(4095, f (((fronted []).queue 0)))] }
    let ok : Queue → Queue := fun Q => { Q with
      state := .disabled, tagged := Vector.replicate 3 true
      line := (((Q.line.set 0 (2 ^ 30 + 0x10001)).set 2 (0x10002 : Word)).set 4 (2 ^ 30 + 0x20003)) }
    bits (q id).qctl 62 61 ≠ 1 ∧ bits (w 0) 55 52 = 0 ∧ bit (w 0) 63 = true ∧ bits (w 0) 43 32 = 4095
      ∧ ((q ok).queue 4095).state = .disabled ∧ ((q ok).queue 4095).capsOk = true ∧ (q ok).ctxFits 4095 = true
      ∧ ((q (fun Q => { ok Q with tagged := Vector.replicate 3 false })).queue 4095).capsOk = false
      ∧ ({ q ok with ctxs := [] } : State).ctxFits 4095 = false
      ∧ ((q (fun Q => { Q with state := .idle })).queue 4095).quiet = true
      ∧ (q (fun Q => { Q with state := .idle })).hasSaved 4095 = false
      ∧ ((q (fun Q => { Q with state := .idle, launch := some {} })).queue 4095).quiet = false
      ∧ ((q (fun Q => { Q with launch := some { sx := some 0 } })).queue 4095).launch.bind (·.sx) = some 0
      ∧ ((q (fun Q => { Q with launch := some { packet := some [] } })).queue 4095).launch.map (·.idx) = some 0
      ∧ (∃ x ∈ ({ q id with sextants := [(63, { claim := some 4095 })] } : State).sextants, x.2.claim = some 4095)
      ∧ (∀ x ∈ (q id).sextants, x.2.claim ≠ some 4095)
      ∧ ({ q id with kernels := [(0, { state := .saved })] } : State).preemptOver 0 = true
      ∧ (({ q (fun Q => { Q with launch := some { kernel := some 0 } }) with kernels := [(0, { state := .running })] } : State).kernel
          0).state = .running
      ∧ bits (({ q ok with qimg := (q ok).qimg.set 1 4 } : State).qimg.toList.getD 1 0) 2 0 = 4
      ∧ ((q (fun Q => { Q with state := .resetting, acks := some [1279, 1291] })).queue 4095).acks = some [1279, 1291]
      ∧ (q id).linkQuiet 4095 11 = true ∧ (q id).lineFrozen 4095 = []
      ∧ Config.ackTicks ≤ ((100000000 : Word) - 0).toNat := by decide +kernel

theorem witness_ContextCommands :
    let w (op : Nat) : Word := word (2 ^ 63 + op * 2 ^ 52 + 65535 * 2 ^ 16)
    let c (st : CState) (f : Context → Context := id) : State :=
      { (fronted []) with ctxs := [(65535, f { state := st, frames := [(0, 0x10000, 0)] })] }
    let busy (op : Nat) (f : Context → Context) : State := { c .stopcopy f with
      cxcmd := word (2 ^ 61 + 2 ^ 63 + op * 2 ^ 52 + 65535 * 2 ^ 16) }
    let full : State := { c .live with kernels := [(0, { asid := 65535, state := .running, seats := [{}] })] }
    let port : State := { c .live with
      tracts := [(0, { tract0 with asid := 65535, tctl := 999#24 ++ 3#16 ++ (64 : BitVec 24) })] }
    let bad : State := { c .free with mem := [(64 * 65535, 1)] }
    let held : State := { c .free with
      ctxs := [(65535, {}), (7, { state := .stopcopy, frames := [(0x3F0000, 2 ^ 31, 0)] })] }
    bits (c .free).cxcmd 62 61 ≠ 1 ∧ bits (w 0) 55 52 = 0 ∧ bit (w 0) 63 = true ∧ bits (w 0) 31 16 = 65535
      ∧ (c .free).recordOk 65535 = true ∧ bad.recordOk 65535 = false
      ∧ (c .live).spaceOk 65535 ((c .live).snapshotOf 65535 ((c .live).ctx 65535)) = true
      ∧ full.spaceOk 65535 (full.snapshotOf 65535 (full.ctx 65535)) = false
      ∧ (c .live).mayMove 65535 = true ∧ port.mayMove 65535 = false ∧ (c .precopy).sextantBusy 65535 = false
      ∧ ((c .stopcopy).ctx 65535).held = [] ∧ (c .live).ctxEmpty 65535 = true ∧ full.ctxEmpty 65535 = false
      ∧ ((c .stopcopy (fun C => { C with commit := true })).ctx 65535).commit = true
      ∧ bits (busy 2 id).cxcmd 62 61 = 1 ∧ bits (busy 2 id).cxcmd 31 16 = 65535 ∧ bits (busy 2 id).cxcmd 55 52 = 2
      ∧ (busy 2 (fun C => { C with pending := true })).stillOf 65535 = true
      ∧ ((busy 2 (fun C => { C with pending := true })).ctx 65535).pending = true
      ∧ ((busy 7 (fun C => { C with freeing := true })).ctx 65535).freeing = true
      ∧ (busy 7 (fun C => { C with freeing := true })).shooting 65535 = false
      ∧ (busy 5 (fun C => { C with commit := true })).backlog 65535 = false
      ∧ frameHit 0xFFFF ((c .stopcopy).ctx 65535).frames ≠ none ∧ frameHit 0x10000 ((c .stopcopy).ctx 65535).frames = none
      ∧ (c .stopcopy).holds (memLink 0xFFFF) < Config.holdSlots ∧ bits held.cxcmd 62 61 ≠ 1 ∧ held.cxHeld 0 65535 = true
      ∧ (∀ op < 10, (c .free).cxHeld op 65535 = false ∧ (c .live).cxHeld op 65535 = false ∧ (c .stopcopy).cxHeld op 65535 = false)
      ∧ (c .free).recs = [] ∧ (∀ x ∈ [48, 56], (c .free).holder ((c .free).recordAt 65535 + x) = none)
      ∧ (busy 2 id).cxWait = false := by decide +kernel

/-! ### Witnesses: links, hosts, service cores and the helm -/

theorem witness_LinksCarryAndRecover :
    let f (kind seq addr : Nat) : BitVec 256 :=
      BitVec.ofNat 256 (addr * 2 ^ 192 + 2 ^ 173 + seq * 2 ^ 122 + 9 * 2 ^ 106 + kind * 2 ^ 102 + 5)
    let l (f : Link → Link) : State := { tiny with
      links := [(11, f { state := .up, lanes := 0xFFFF, expect := 65535 })]
      tracts := [(63, { tract0 with tctl := 999#24 ++ 3#16 ++ (0xCB : BitVec 24) })] }
    let un := l (fun L => { L with unacked := [(0, 0, 16)] })
    let inb := l (fun L => { L with inbox := [(7, 5)] })
    let tr := l (fun L => { L with state := .training })
    let heard : State := { l id with heard := [withSeq (f 1 0 0x7FFFFFC0) 0] }
    let near : State := { l id with links := [(11, { state := .up, expect := 65535 }), (0, { state := .up })] }
    let asks (k : Nat) : State := { l id with remotes := [{ itag := 9, who := .queue 0, kind := k, queue := some 0 }] }
    let en : Word := word (2 ^ 63 + 7 * 2 ^ 48 + 11 * 2 ^ 32)
    ((l id).link 11).inPeriod 0 = (l id).link 11 ∧ ((l id).link 11).state = .up ∧ flitKind (f 8 0 0) = 8
      ∧ flitSeq (f 5 65534 0) ≠ ((l id).link 11).expect ∧ (((l id).link 11).expect - flitSeq (f 5 65534 0)).toNat < 2 ^ 15
      ∧ 2 ^ 15 ≤ (((l id).link 11).expect - flitSeq (f 5 0 0)).toNat
      ∧ flitSeq (f 5 65535 0) = ((l id).link 11).expect ∧ (∀ k < 8, flitKind (f k 65535 0) = k)
      ∧ flitDst (f 1 65535 0) = (l id).pkg ∧ flitSrc (f 1 65535 0) ≠ (l id).pkg ∧ flitAddr (f 1 65535 0x7FFFFFC0) = 0x7FFFFFC0
      ∧ (l id).holder 0x7FFFFFC0 = none ∧ (l id).place 0x7FFFFFC0 = some 0x7FFFFFC0 ∧ (l id).agentFull 0x7FFFFFC0 = false
      ∧ paPkg 0x7FFFFFC0 = (l id).pkg ∧ (asks 0).remotes.find? (fun r => r.itag = flitTag (f 4 65535 0)) =
        some { itag := 9, who := .queue 0, queue := some 0 }
      ∧ (asks 3).remotes.find? (fun r => r.itag = 9) = some { itag := 9, who := .queue 0, kind := 3, queue := some 0 }
      ∧ (un.link 11).unacked ≠ [] ∧ (∃ u ∈ (un.link 11).unacked, 16 ≤ u.2.2) ∧ (inb.link 11).inbox = (7, 5) :: []
      ∧ tctlKind (inb.tract 63).tctl = 3 ∧ tctlSrc (inb.tract 63).tctl = 11 ∧ (inb.tract 63).state = .locked
      ∧ (inb.tract 63).held = false
      ∧ (tr.link 11).state = .training ∧ 12 ≤ (linkLanes 0x0FFF).length ∧ ((0 : Word) - 0).toNat ≤ Config.trainTicks
      ∧ Config.trainTicks < ((2 ^ 32 : Word) - 0).toNat ∧ ((l id).link 11).lanes.getLsbD 15 = true
      ∧ bits tiny.helm.mbcmd 62 61 ≠ 1 ∧ bit en 63 = true ∧ bits en 55 48 = 7 ∧ bits en 31 0 = 0 ∧ bits en 47 32 = 11
      ∧ withSeq (f 1 65535 0x7FFFFFC0) 0 ∈ heard.heard ∧ withSeq (f 1 65535 0x7FFFFFC0) 0 ∉ (l id).heard
      ∧ near.route (flitSrc (f 0 65535 0x7FFFFFC0)) (paOdd (flitAddr (f 0 65535 0x7FFFFFC0))) false = .via 0
      ∧ ¬(Issuer.queue 0 = .agent) ∧ unelide (f 1 0 0 ||| BitVec.ofNat 256 (2 ^ 64)) (2 ^ 256 + 5) = 2 ^ 256
      ∧ ((l id).link 11).exchanges 999999 = false ∧ 1000000 ≤ ((1000000 : Word) - ((l id).link 11).exchAt).toNat
      ∧ 4000 < roundTrip 0 0 0 4001 ∧ roundTrip 0 0 0 4000 ≤ 4000 ∧ tiny.assisted 5 = false := by decide +kernel

/-- R351, R357: a row write of package 1 is performed, and its KIND 7 acknowledgement leaves by the link that routes to it. -/
theorem test_row_write_is_acknowledged :
    let s : State := { tiny with links := [(0, { state := .up })], helm := { mode := 0 } }
    let t := after (.flitReceive 0 (headFlit 0x40 1 0 0 9 1 0) 7 true) s
    Mem.num t.mem 0x40 64 = 7 ∧ (t.link 0).acks = [0] ∧ (t.link 0).expect = 1
      ∧ (t.link 0).unacked = [(headFlit 0x40 0 1 0 9 7 0, 0, 0)] := by decide +kernel

theorem witness_HostsAndServiceCores :
    let v (st : VState) : State := { tiny with vfs := [(127, { state := st, nonce := 5 })] }
    let late : State := { tiny with chron := 3000000, helm := { tiny.helm with pilot := some 0 } }
    let p (f : Port → Port) : State := { tiny with ports := [(3, f {})], port := 3 }
    let reg (n : Word) : State := p (fun p => { p with x := p.x.set 1 n })
    let pk : State := p (fun p => { p with fifo := [(4095, 0)] })
    let pk' : State := { pk with queues := [(4095, { state := .idle })] }
    let call (svc : BitVec 16) : State := { tiny with scalls := [{ id := 1, svc := svc }] }
    let c (svc : BitVec 16) : Scall := { id := 1, svc := svc }
    let arg : Mem := bytesAt [] 0x2000 [(0, 8, 9), (8, 8, 3), (16, 8, 5), (24, 8, 0x3000)]
    let file (svc : BitVec 16) (x : Extent) : State := { (fronted arg) with
      extents := [(9, x)], scalls := [{ id := 1, svc := svc, arg := 0x2000 }] }
    let f (svc : BitVec 16) : Scall := { id := 1, svc := svc, arg := 0x2000 }
    let short := file 2 { length := some 7 }
    ((v .locked).vf 127).state = .locked ∧ ((v .locked).vf 127).nonce = 5 ∧ ((v .locked).vf 127).report = none
      ∧ ((v .error).vf 127).state = .error ∧ (tiny.vf 127).state = .unlocked ∧ (tiny.die 3).pairOk = true
      ∧ (tiny.die 3).inReset = false ∧ Config.beatTicks ≤ (late.chron - (late.die 3).beat).toNat
      ∧ pilotTicks ≤ (late.chron - (late.die 0).beat).toNat ∧ (late.die 1).healthy = true ∧ (∀ k < 1, k ≠ 0 → (late.die k).healthy = false)
      ∧ (p id).mySvc.fifo.length < 64 ∧ 64 ≤ (p (fun p => { p with fifo := List.replicate 64 (0, 0) })).mySvc.fifo.length
      ∧ (p id).mySvc.inFlight = 0
      ∧ ((reg 2).mySvc.rx 1).toNat % 2 ^ 16 = 2 ∧ ((reg 0xFFFF).mySvc.rx 1).toNat % 2 ^ 16 = 0xFFFF
      ∧ ((reg 0x10005).mySvc.rx 1).toNat % 2 ^ 16 = 5
      ∧ ((pk'.svc 3).fifo.map (·.1)).find? (fun q => (fifoPacket (pk'.svc 3).fifo q).isSome && pk'.atBoundary q) = some 4095
      ∧ fifoPacket (pk'.svc 3).fifo 4095 = some [0]
      ∧ (call 0x7FFF).scalls.find? (fun c => c.id = 1) = some (c 0x7FFF) ∧ (call 0x7FFF).callReady (c 0x7FFF) = true
      ∧ (call 0x8000).scalls.find? (fun c => c.id = 1) = some (c 0x8000) ∧ (call 0).callReady (c 0) = true
      ∧ (call 0).callAwaits (c 0) = none ∧ tiny.assisted 7 = false ∧ tiny.agentServes 0 = true
      ∧ (∀ k : Fin 4, short.callArg (f 2) k = some (#v[9, 3, 5, 0x3000][k])) ∧ short.callAwaits (f 2) = none
      ∧ (short.extent 9).revoked = false ∧ min 5 (7 - 3) < 5 ∧ ((file 2 {}).extent 9).length = none
      ∧ ((file 1 { revoked := true }).extent 9).revoked = true ∧ (file 1 {}).callReady (f 1) = true ∧ tiny.scalls = []
      ∧ 2 ^ 64 ≤ 2 ^ 64 := by decide +kernel

theorem witness_StoresAndFileReads :
    let arg : Mem := bytesAt [] 0x2000 [(0, 8, 9), (8, 8, 3), (16, 8, 5), (24, 8, 0x3000)]
    let cut : State := { (fronted arg) with
      extents := [(9, { length := some 4, was := [(2, some 6)] })], scalls := [{ id := 1, svc := 1, arg := 0x2000 }] }
    let c : Scall := { id := 1, svc := 1, arg := 0x2000 }
    let st : State := { tiny with ports := [(3, { stores := [(0x7FFFFFF8, 8, 5)] })], port := 3 }
    tiny.mySvc.stores = [] ∧ (st.mySvc.stores = [(0x7FFFFFF8, 8, 5)] ∧ st.agentFull 0x7FFFFFF8 = false)
      ∧ st.place 0x7FFFFFF8 = some 0x7FFFFFF8 ∧ paPkg 0x7FFFFFF8 = st.pkg ∧ (∀ x ∈ st.ctxs, x.2.state ≠ .precopy)
      ∧ 0x7FFFFFF8 % 64 + 8 ≤ 64 ∧ st.mySvc.fifo.length < 64 ∧ (st.mySvc.rx 1).toNat % 2 ^ 16 ≤ 4
      ∧ (∀ k : Fin 4, cut.callArg c k = some (#v[9, 3, 5, 0x3000][k])) ∧ cut.callAwaits c = none
      ∧ (cut.extent 9).revoked = false ∧ (cut.extent 9).endAt 1 = some 6 ∧ (cut.extent 9).endAt 2 = some 4
      ∧ cut.assisted 7 = false ∧ cut.agentServes 0 = true := by decide +kernel

theorem witness_TheHelm :
    let w (op a b : Nat) : Word := word (2 ^ 63 + op * 2 ^ 48 + a * 2 ^ 32 + b)
    let held : State := { tiny with
      chron := Config.voteHold, helm := { mode := 0, rails := tiny.helm.rails.set 3 { now := 0, hold := some (7, 0) } }
      tracts := [], kernels := [] }
    let up : State := { tiny with helm := { mode := 0, rails := tiny.helm.rails.set 0 { raise := some 7 } } }
    let log : State := { tiny with dies := [(3, { logs := [(2047, (2047, {}))] })] }
    let asked (n : Nat) : State := { tiny with
      helm := { mode := 0, mbdata := 1, requests := [{ seq := 5, func := n, posted := true }] } }
    let m : PowerMeter := { rails := [2400000000], service := 0, elided := 0, saved := 0, temps := [] }
    let cool : State := { tiny with chron := 10000000, helm := { mode := 0, calm := 99, steps := [(1, 3)] } }
    let hot : State := { tiny with
      chron := 500000000, helm := { mode := 0, meter := { m with temps := [1521] } }
      kernels := [(0, { kernel0 with hdr := { kernel0.hdr with stubs := [{}] } })]
      tracts := [(0, { tract0 with tctl := 999#24 ++ 3#16 ++ (0x80 : BitVec 24) }),
                 (1, { tract0 with tctl := 999#24 ++ 3#16 ++ (0x80 : BitVec 24) })] }
    let quick : State := { tiny with chron := 1000000, paces := [(15, { on := true, num := 10 ^ 9, den := 1, dnum := 10 ^ 9, dden := 1 })] }
    bits tiny.helm.mbcmd 62 61 ≠ 1 ∧ bit (w 1 63 7) 63 = true ∧ bits (w 1 831 7) 55 48 = 1 ∧ bits (w 1 831 7) 47 32 = 63 + 256 * 3
      ∧ bits (w 1 831 7) 31 0 = 7 ∧ (held.rail 3).hold = some (7, 0) ∧ Config.voteHold ≤ (held.chron - 0).toNat
      ∧ held.mayFall 7 = true ∧ (up.rail 0).raise = some 7 ∧ (up.rail 1).now ≤ 7
      ∧ Tbl.find? (log.die 3).logs 2047 = some (2047, {}) ∧ bits (w 3 3 8191) 31 0 = 2047 + 2048 * 3
      ∧ (∀ n ∈ [3, 5], (asked n).helm.requests = [{ seq := 5, func := n, posted := true }]) ∧ (asked 3).helm.mbdata = 1
      ∧ tiny.helm.requests = [] ∧ tiny.helm.mbdata.toNat % 2 ^ 17 = 0 ∧ bits (w 6 69 0) 47 32 < 70
      ∧ ({ tiny.helm with meter := m, spared := tiny.helm.elided } : Helm).above 95 = true
      ∧ Config.powerTicks ≤ (quick.chron - quick.helm.periodAt).toNat ∧ (tiny.chron - tiny.helm.periodAt).toNat < Config.powerTicks
      ∧ ({ cool.helm with meter := { m with rails := [] }, spared := 0 } : Helm).above 95 = false
      ∧ ({ cool.helm with meter := { m with rails := [] }, spared := 0 } : Helm).below 90 = true
      ∧ 99 ≤ cool.helm.calm ∧ 10000000 ≤ (cool.chron - cool.helm.calmAt).toNat ∧ cool.helm.steps = (1, 3) :: []
      ∧ quick.lowers 15 = true ∧ hot.assisted 4 = false ∧ hot.mayHeatMove 0 = true
      ∧ (hot.fit ((hot.kernel 0).leaving hot.chron)).isSome = true ∧ (hot.core 0).kernel = some 0 ∧ (hot.kernel 0).Faultable := by
  decide +kernel

/-! ### Witnesses: the machine as a whole -/

theorem witness_EncodingRoundTrip :
    (Instr.iaAadd 0 15 15 31).wf = true ∧ (encode (.iaAadd 0 15 15 31)).isSome = true
      ∧ (Instr.compactTrAt 63).wf = true ∧ (encode (.zqPushw 31 31)).isSome = true := by decide +kernel

theorem witness_DecodingHasOneSpelling :
    decode (Encoded.word 0xE08B5814).bytes = .ok (.iaAddc 0 11 11 0) 4 ∧ (Encoded.word 0xE08B5814).bytes.length = 4
      ∧ decodePort 0x00B5100B = some (.zqPushw 11 10) := by decide +kernel

/-- The machine whose next step runs a word. -/
theorem witness_StepRunsDecoded :
    let s := State.reset.withFetchWord 32 0xE1052801
    let id : StreamId := { core := 0, eng := .ap }
    let v : State := { s with agenda := [.service 0 0x00B5100B] }
    let d := (State.reset.withFetchWord 32 0xE08110CB).modStream id (fun m => { m with spent := false })
    s.agenda = [.stream 0 .ap] ∧ s.mayIssue id = true ∧ s.divertsTo id = none ∧ (s.stream id).wait = .none
      ∧ (s.stream id).idling = false ∧ (s.stream id).fenced = false ∧ (s.stream id).fetched = true ∧ (s.stream id).repOn = false
      ∧ decode (codeAt (s.code 0) (s.stream id).pc) = .ok (.iiAdd 0 5 5 1) 4
      ∧ s.wordFault id (.iiAdd 0 5 5 1) (s.stream id).pc 4 false = none ∧ s.permits id (.iiAdd 0 5 5 1) (s.stream id).pc = true
      ∧ s.stalls id (.iiAdd 0 5 5 1) = false ∧ countReg (.iiAdd 0 5 5 1) = none ∧ s.barLate id (.iiAdd 0 5 5 1) = false
      ∧ (s.stream id).spent = true ∧ (d.stream id).spent = false
      ∧ decode (codeAt (d.code 0) (d.stream id).pc) = .ok (.iaDiv 0 1 2 3) 4
      ∧ (match exec (.iaDiv 0 1 2 3) (({ d with agenda := [] } : State).issuing id ((d.stream id).pc + 4)) with
          | .next u => decide ((u.stream id).wait = .none ∧ (u.stream id).busy = 33)
          | _ => false) = true
      ∧ (v.die 0).healthy = true ∧ decodePort 0x00B5100B = some (.zqPushw 11 10)
      ∧ encode .placementPass = none := by decide +kernel

/-- Reset keeps the memory's form, and a step of it answers a next state. -/
theorem witness_EveryStepKeepsMemoryCanonical :
    State.reset.MemWf ∧ ∃ t, step { State.reset with agenda := [.tick] } = .next t :=
  ⟨by unfold State.MemWf; decide +kernel, _, rfl⟩

end Sys2Proof.Tests
end

section
/-! PROOFS. The machine right after reset (R4). One lemma says what each kind of unit reads as there, one
what each file of an untouched stream reads as; O55 is assembled from them. -/

namespace Sys2Proof.Machine

/-! ### Units right after reset: no table lists one, so each reads as an untouched unit -/

@[simp] theorem Tbl.get_nil {α : Type} (d : α) (n : Nat) : Tbl.get ([] : Tbl α) d n = d := rfl

@[simp] theorem State.core_reset (n : Nat) : State.reset.core n = {} := Tbl.get_nil ..
@[simp] theorem State.tract_reset (n : Nat) : State.reset.tract n = {} := Tbl.get_nil ..
@[simp] theorem State.queue_reset (n : Nat) : State.reset.queue n = {} := Tbl.get_nil ..
@[simp] theorem State.ctx_reset (n : Nat) : State.reset.ctx n = {} := Tbl.get_nil ..
@[simp] theorem State.die_reset (n : Nat) : State.reset.die n = {} := Tbl.get_nil ..
@[simp] theorem State.link_reset (n : Nat) : State.reset.link n = {} := Tbl.get_nil ..
@[simp] theorem State.vf_reset (n : Nat) : State.reset.vf n = {} := Tbl.get_nil ..

@[simp] theorem State.stream_reset (id : StreamId) : State.reset.stream id = {} := by
  unfold State.stream
  rw [State.core_reset]
  cases id.eng <;> rfl

@[simp] theorem State.rails_reset (r : Fin 4) : State.reset.helm.rails.get r = {} := Vector.get_replicate ..

/-! ### Registers of an untouched stream -/

theorem Stream.x_get_default (r : Fin 32) : ({} : Stream).x.get r = 0 := Vector.get_replicate ..
theorem Stream.rv_default (r : BitVec 5) : ({} : Stream).rv r = 0 := Vector.get_replicate ..
theorem Stream.rp_default (r : BitVec 3) : ({} : Stream).rp r = 0 := Vector.get_replicate ..
theorem Stream.rc_default (r : Nat) : ({} : Stream).rc r = false := BitVec.getLsbD_zero

/-! ### Memory -/

/-- Main memory lists nothing, and no die or core is listed that could hold a byte. -/
theorem State.memWf_reset : State.reset.MemWf :=
  ⟨rfl, List.forall_mem_nil _, List.forall_mem_nil _⟩

/-! ### The statement -/

/-- Every core is free, and each of its streams is off with its registers, flags and blocks at zero (R4). -/
theorem State.reset_coreFree (c : Nat) (e : Eng) :
    let m := State.reset.stream { core := c, eng := e }
    (State.reset.core c).kernel = none ∧ m.phase = .off ∧ m.blocks = [] ∧ m.pc = 0 ∧ m.wait = .none ∧ m.spw = 0
      ∧ (∀ r, m.x.get r = 0) ∧ (∀ r, m.rv r = 0) ∧ (∀ r, m.rp r = 0) ∧ (∀ r, r < 4 → m.rc r = false) := by
  rw [State.core_reset, State.stream_reset]
  exact ⟨rfl, rfl, rfl, rfl, rfl, rfl, Stream.x_get_default, Stream.rv_default, Stream.rp_default,
    fun r _ => Stream.rc_default r⟩

/-- Settles O55: every unit reads as untouched right after reset, and the lists of the package are empty. -/
theorem resetState : Obligations.ResetState := by
  unfold Obligations.ResetState
  refine ⟨State.memWf_reset, rfl, rfl, rfl, rfl, rfl, rfl, ?bytes, State.reset_coreFree, ?queues, ?tracts, ?links, ?ctxs,
    ?rails, rfl, ?dies, ?vfs, rfl, rfl, rfl, rfl, rfl, rfl, rfl, rfl, rfl⟩
  case bytes => exact Mem.byte_nil
  case queues => intro q; rw [State.queue_reset]
  case tracts => intro p; rw [State.tract_reset]
  case links => intro l; rw [State.link_reset]
  case ctxs => intro c; rw [State.ctx_reset]
  case rails => intro r; rw [State.rails_reset]
  case dies => intro d; rw [State.die_reset]; exact ⟨rfl, rfl, rfl⟩
  case vfs => intro n; rw [State.vf_reset]

end Sys2Proof.Machine
end

section
/-! PROOFS. Rounding (02_numbers.md, R24 to R28). A pattern that is a number decodes to a form m × 2^e that names it alone
(`FFmt.Canon`); rounding that form finds the format's unit equal to 2^e, so that nothing is rounded away, and it does not
pass the largest finite. Rounding to an integer is rounding a quotient of naturals, whose floor and remainder say which
neighbour is near. O35 is assembled from the two. -/

namespace Sys2Proof.Machine

/-! ### The canonical form of a number -/

/-- m × 2^e is the form in which a pattern of f with magnitude mag decodes (R25): a subnormal stands at the least exponent,
a normal carries its leading one. -/
structure FFmt.Canon (f : FFmt) (mag m : Nat) (e : Int) : Prop where
  qmin_le : f.qmin ≤ e
  lt : m < 2 ^ (f.frac + 1)
  normal : f.qmin < e → 2 ^ f.frac ≤ m
  mag_eq : mag = (e - f.qmin).toNat * 2 ^ f.frac + m

/-- E = 0: the value of a subnormal is its fraction. -/
theorem FFmt.Canon.subnormal {f : FFmt} {mag : Nat} (h : mag / 2 ^ f.frac = 0) :
    f.Canon mag (mag % 2 ^ f.frac) f.qmin where
  qmin_le := le_rfl
  lt := (Nat.mod_lt _ (by positivity)).trans (Nat.pow_lt_pow_right one_lt_two (Nat.lt_succ_self _))
  normal := fun hq => absurd hq (lt_irrefl _)
  mag_eq := by
    have hdm := Nat.div_add_mod mag (2 ^ f.frac)
    rw [h, mul_zero, zero_add] at hdm
    simp [hdm]

/-- E ≠ 0: the value of a normal is its fraction under a leading one. -/
theorem FFmt.Canon.of_normal {f : FFmt} {mag : Nat} (h : mag / 2 ^ f.frac ≠ 0) :
    f.Canon mag (2 ^ f.frac + mag % 2 ^ f.frac) (f.qmin + ((mag / 2 ^ f.frac : Nat) : Int) - 1) where
  qmin_le := by
    have : 0 < mag / 2 ^ f.frac := Nat.pos_of_ne_zero h
    omega
  lt := by
    have hr := Nat.mod_lt mag (Nat.two_pow_pos f.frac)
    rw [pow_succ]
    omega
  normal := fun _ => Nat.le_add_right _ _
  mag_eq := by
    obtain ⟨k, hk⟩ := Nat.exists_eq_succ_of_ne_zero h
    have hdm := Nat.div_add_mod' mag (2 ^ f.frac)
    rw [hk, Nat.succ_mul] at hdm
    have hE : (f.qmin + ((mag / 2 ^ f.frac : Nat) : Int) - 1 - f.qmin).toNat = k := by omega
    rw [hE]
    omega

/-- The patterns past the largest finite magnitude are the infinity and the NaNs, or FP8's one NaN (R24). -/
theorem FFmt.first_nonfinite (f : FFmt) :
    f.inf? = some (f.maxFin + 1) ∨ f.inf? = none ∧ f.nan = f.maxFin + 1 ∧ 2 ^ (f.width - 1) = f.maxFin + 2 := by
  cases f
  case fp8 => exact .inr ⟨rfl, rfl, rfl⟩
  case fp16 => exact .inl rfl
  case bf16 => exact .inl rfl
  case fp32 => exact .inl rfl

/-- The two readings of a finite pattern (R25), by its biased exponent, are each the canonical form of its magnitude. -/
theorem FFmt.Canon.of_reading {f : FFmt} {mag m : Nat} {s n : Bool} {e : Int}
    (h : (if mag / 2 ^ f.frac = 0 then FVal.fin s (mag % 2 ^ f.frac) f.qmin
      else .fin s (2 ^ f.frac + mag % 2 ^ f.frac) (f.qmin + ((mag / 2 ^ f.frac : Nat) : Int) - 1)) = .fin n m e) :
    n = s ∧ f.Canon mag m e := by
  split at h <;> cases h
  case isTrue hE => exact ⟨rfl, .subnormal hE⟩
  case isFalse hE => exact ⟨rfl, .of_normal hE⟩

/-- What a pattern that is a number decodes to: its sign, and the canonical form of a magnitude up to the largest finite. -/
theorem FFmt.decode_eq_fin {f : FFmt} {x m : Nat} {n : Bool} {e : Int} (h : f.decode x = .fin n m e) :
    n = decide (x / 2 ^ (f.width - 1) % 2 = 1) ∧ x % 2 ^ (f.width - 1) ≤ f.maxFin
      ∧ f.Canon (x % 2 ^ (f.width - 1)) m e := by
  obtain hinf | ⟨hinf, hnan, hw⟩ := f.first_nonfinite
  · simp only [FFmt.decode, hinf] at h
    split at h
    · cases h
    split at h
    · cases h
    obtain ⟨hn, hcanon⟩ := FFmt.Canon.of_reading h
    exact ⟨hn, by omega, hcanon⟩
  · have hlt := Nat.mod_lt x (Nat.two_pow_pos (f.width - 1))
    simp only [FFmt.decode, hinf] at h
    split at h
    · cases h
    obtain ⟨hn, hcanon⟩ := FFmt.Canon.of_reading h
    exact ⟨hn, by omega, hcanon⟩

/-- A smaller magnitude pattern is a smaller number: its units of 2^e are no more than the other number's. -/
theorem FFmt.Canon.mono {f : FFmt} {mag mag' m m' : Nat} {e e' : Int} (h : f.Canon mag m e) (h' : f.Canon mag' m' e')
    (hle : mag ≤ mag') : e ≤ e' ∧ m ≤ m' * 2 ^ (e' - e).toNat := by
  obtain ⟨hq, hlt, hn, rfl⟩ := h
  obtain ⟨hq', hlt', hn', rfl⟩ := h'
  rw [pow_succ] at hlt hlt'
  rcases lt_trichotomy e e' with he | rfl | he
  · have h2 : m' * 2 ^ 1 ≤ m' * 2 ^ (e' - e).toNat :=
      Nat.mul_le_mul_left _ (Nat.pow_le_pow_right two_pos (by omega))
    have := hn' (by omega)
    exact ⟨he.le, by omega⟩
  · exact ⟨le_rfl, by simpa using hle⟩
  · have hstep := Nat.mul_le_mul_right (2 ^ f.frac) (show (e' - f.qmin).toNat + 1 ≤ (e - f.qmin).toNat by omega)
    rw [Nat.succ_mul] at hstep
    have := hn (by omega)
    omega

/-! ### Rounding a number of the format -/

theorem roundQuot_one (rz : Bool) (n : Nat) : roundQuot rz n 1 = n := by
  simp [roundQuot, Nat.mod_one]

/-- A natural number of units is a whole number of them. -/
theorem roundUnits_self (rz : Bool) (m : Nat) (e : Int) : roundUnits rz m 1 e e = m := by
  simp [roundUnits, roundQuot_one]

theorem ratLog_one {m : Nat} (hm : m ≠ 0) : ratLog m 1 = Nat.log2 m := by
  have hle : ¬ m < 2 ^ Nat.log2 m := not_lt.mpr (Nat.log2_self_le hm)
  have hone : Nat.log2 1 = 0 := by decide
  simp [ratLog, hone, hle]

/-- The unit in which a canonical form is rounded is its own 2^e. -/
theorem FFmt.Canon.unit_eq {f : FFmt} {mag m : Nat} {e : Int} (h : f.Canon mag m e) (hm : m ≠ 0) :
    max (e + ratLog m 1 - f.frac) f.qmin = e := by
  rw [ratLog_one hm]
  have hlog : Nat.log2 m < f.frac + 1 := (Nat.log2_lt hm).mpr h.lt
  rcases h.qmin_le.eq_or_lt with he | he
  · omega
  · have hlog' : f.frac ≤ Nat.log2 m := (Nat.le_log2 hm).mpr (h.normal he)
    omega

/-- R28: a representable magnitude rounds to itself. -/
theorem FFmt.Canon.roundMag_eq {f : FFmt} {mag m : Nat} {e : Int} (h : f.Canon mag m e) (rz : Bool) :
    f.roundMag rz m 1 e = mag := by
  by_cases hm : m = 0
  · have he : e = f.qmin := by
      by_contra hne
      have := h.normal (lt_of_le_of_ne h.qmin_le (Ne.symm hne))
      have := Nat.two_pow_pos f.frac
      omega
    rw [h.mag_eq, FFmt.roundMag, if_pos hm, he, hm, sub_self]
    simp
  · simp only [FFmt.roundMag, if_neg hm, h.unit_eq hm, roundUnits_self, h.mag_eq]

/-- The largest finite pattern is a number. -/
theorem FFmt.decode_maxFin (f : FFmt) : ∃ m e, f.decode f.maxFin = .fin false m e ∧ f.Canon f.maxFin m e := by
  have hfin : ∃ m e, f.decode f.maxFin = .fin false m e := by
    cases f <;> exact ⟨_, _, rfl⟩
  obtain ⟨m, e, h⟩ := hfin
  have hmod : f.maxFin % 2 ^ (f.width - 1) = f.maxFin := by cases f <;> rfl
  exact ⟨m, e, h, hmod ▸ (FFmt.decode_eq_fin h).2.2⟩

/-- No number of the format is above its largest finite. -/
theorem FFmt.Canon.not_above {f : FFmt} {mag m : Nat} {e : Int} (h : f.Canon mag m e) (hle : mag ≤ f.maxFin) :
    f.above m 1 e = false := by
  obtain ⟨M, E, hmax, hcanon⟩ := f.decode_maxFin
  obtain ⟨hE, hM⟩ := h.mono hcanon hle
  simp only [FFmt.above, hmax, if_pos hE, mul_one, decide_eq_false_iff_not, not_lt]
  exact hM

/-- As a result of arithmetic, a number of the format is kept with its sign. -/
theorem FFmt.Canon.arith_eq {f : FFmt} {mag m : Nat} {e : Int} (h : f.Canon mag m e) (hle : mag ≤ f.maxFin)
    (rz n : Bool) : f.arith rz (.val n m 1 e) = f.signed n mag := by
  simp only [FFmt.arith, h.roundMag_eq, if_neg (not_lt.mpr hle)]

/-- As a conversion, a number of the format is kept with its sign. -/
theorem FFmt.Canon.conv_eq {f : FFmt} {mag m : Nat} {e : Int} (h : f.Canon mag m e) (hle : mag ≤ f.maxFin)
    (rz n : Bool) : f.conv rz (.val n m 1 e) = f.signed n mag := by
  simp only [FFmt.conv, h.not_above hle, h.roundMag_eq, min_eq_left hle, Bool.false_eq_true, if_false]

/-- A pattern is its magnitude with its sign, a zero's sign included. -/
theorem FFmt.signed_mod (f : FFmt) {x : Nat} (hx : x < 2 ^ f.width) :
    f.signed (decide (x / 2 ^ (f.width - 1) % 2 = 1)) (x % 2 ^ (f.width - 1)) = x := by
  have hw : 2 ^ f.width = 2 ^ (f.width - 1) * 2 := by cases f <;> rfl
  have hs : x / 2 ^ (f.width - 1) < 2 := Nat.div_lt_of_lt_mul (hw ▸ hx)
  have hdm := Nat.div_add_mod x (2 ^ (f.width - 1))
  unfold FFmt.signed
  obtain h | h := Nat.le_one_iff_eq_zero_or_eq_one.mp (Nat.le_of_lt_succ hs)
  · rw [h] at hdm ⊢
    simpa using hdm
  · rw [h] at hdm ⊢
    simpa [add_comm] using hdm

/-- R28: reading a pattern that is a number and rounding its value gives the pattern back. -/
theorem FFmt.round_decode (f : FFmt) (rz : Bool) {x m : Nat} {n : Bool} {e : Int} (hx : x < 2 ^ f.width)
    (h : f.decode x = .fin n m e) :
    f.arith rz (f.decode x).exact = x ∧ f.conv rz (f.decode x).exact = x := by
  obtain ⟨rfl, hle, hcanon⟩ := FFmt.decode_eq_fin h
  rw [h]
  exact ⟨(hcanon.arith_eq hle rz _).trans (f.signed_mod hx), (hcanon.conv_eq hle rz _).trans (f.signed_mod hx)⟩

/-! ### Rounding to an integer -/

/-- RZ: the quotient's integer below. -/
theorem roundQuot_rz (n d : Nat) : (roundQuot true n d : ℚ) ≤ n / d ∧ (n / d : ℚ) < roundQuot true n d + 1 := by
  have hq : roundQuot true n d = ⌊(n / d : ℚ)⌋₊ := (Nat.floor_div_eq_div n d).symm
  rw [hq]
  exact ⟨Nat.floor_le (by positivity), Nat.lt_floor_add_one _⟩

/-- Comparing a quotient of naturals with a half is comparing twice the numerator with the denominator. -/
theorem div_le_half_iff {r d : Nat} (hd : 0 < d) : (r / d : ℚ) ≤ 1 / 2 ↔ 2 * r ≤ d := by
  rw [div_le_div_iff₀ (Nat.cast_pos.mpr hd) two_pos, one_mul, mul_comm]
  norm_cast

theorem half_le_div_iff {r d : Nat} (hd : 0 < d) : (1 / 2 : ℚ) ≤ r / d ↔ d ≤ 2 * r := by
  rw [div_le_div_iff₀ two_pos (Nat.cast_pos.mpr hd), one_mul, mul_comm (r : ℚ)]
  norm_cast

theorem div_eq_half_iff {r d : Nat} (hd : 0 < d) : (r / d : ℚ) = 1 / 2 ↔ 2 * r = d := by
  rw [le_antisymm_iff, div_le_half_iff hd, half_le_div_iff hd, ← le_antisymm_iff]

/-- RNE: an integer at most a half away, and the even one where two are a half away. -/
theorem roundQuot_rne (n : Nat) {d : Nat} (hd : 0 < d) :
    |(n / d : ℚ) - roundQuot false n d| ≤ 1 / 2
      ∧ (|(n / d : ℚ) - roundQuot false n d| = 1 / 2 → roundQuot false n d % 2 = 0) := by
  have hd' : (0 : ℚ) < d := Nat.cast_pos.mpr hd
  have hsplit : (n / d : ℚ) = (n / d : Nat) + (n % d : Nat) / d := by
    rw [div_eq_iff hd'.ne', add_mul, div_mul_cancel₀ _ hd'.ne']
    exact_mod_cast (Nat.div_add_mod' n d).symm
  have hr : ((n % d : Nat) / d : ℚ) < 1 := (div_lt_one hd').mpr (by exact_mod_cast Nat.mod_lt n hd)
  rw [hsplit]
  by_cases hup : 2 * (n % d) > d ∨ (2 * (n % d) = d ∧ n / d % 2 = 1)
  · have hq : roundQuot false n d = n / d + 1 := if_pos hup
    have habs : |((n / d : Nat) : ℚ) + (n % d : Nat) / d - (n / d + 1 : Nat)| = 1 - (n % d : Nat) / d := by
      rw [abs_sub_comm, abs_of_nonneg] <;> push_cast <;> linarith
    rw [hq, habs]
    refine ⟨?_, fun h => ?_⟩
    · linarith [(half_le_div_iff hd).mpr (show d ≤ 2 * (n % d) by omega)]
    · have : 2 * (n % d) = d := (div_eq_half_iff hd).mp (by linarith)
      omega
  · have hq : roundQuot false n d = n / d := if_neg hup
    rw [hq, add_sub_cancel_left, abs_of_nonneg (by positivity)]
    refine ⟨(div_le_half_iff hd).mpr (by omega), fun h => ?_⟩
    have : 2 * (n % d) = d := (div_eq_half_iff hd).mp h
    omega

/-- Rounding in units of 2^q rounds the quotient of two naturals, which is the number of those units. -/
theorem roundUnits_eq_roundQuot (n : Nat) {d : Nat} (e q : Int) (hd : 0 < d) :
    ∃ N D : Nat, 0 < D ∧ (N / D : ℚ) = n / d * 2 ^ (e - q) ∧ ∀ rz, roundUnits rz n d e q = roundQuot rz N D := by
  by_cases hq : q ≤ e
  · refine ⟨n * 2 ^ (e - q).toNat, d, hd, ?_, fun rz => if_pos hq⟩
    have hexp : ((2 : ℚ) ^ (e - q).toNat) = 2 ^ (e - q) := by
      rw [← zpow_natCast, Int.toNat_of_nonneg (by omega)]
    push_cast
    rw [hexp, mul_div_right_comm]
  · refine ⟨n, d * 2 ^ (q - e).toNat, by positivity, ?_, fun rz => if_neg hq⟩
    have hexp : ((2 : ℚ) ^ (q - e).toNat)⁻¹ = 2 ^ (e - q) := by
      rw [← zpow_natCast, Int.toNat_of_nonneg (by omega), ← zpow_neg, neg_sub]
    push_cast
    rw [← hexp, div_mul_eq_div_div, div_eq_mul_inv]

/-! ### The statement -/

/-- Settles O35: a number of a format has a canonical form that rounding keeps, and rounding to an integer takes the
neighbour that the remainder of the quotient says. -/
theorem roundingKeepsRepresentableValues : Obligations.RoundingKeepsRepresentableValues := by
  unfold Obligations.RoundingKeepsRepresentableValues
  refine ⟨?patterns, ?integers⟩
  case patterns =>
    rintro f rz x hx ⟨n, m, e, h⟩
    exact f.round_decode rz hx h
  case integers =>
    intro n d e q hd
    obtain ⟨N, D, hD, hv, hround⟩ := roundUnits_eq_roundQuot n e q hd
    simp only [hround, ← hv]
    exact ⟨roundQuot_rne N hD, roundQuot_rz N D⟩

end Sys2Proof.Machine
end

section
/-! PROOFS. The encoding (03_encoding.md; 25_host.md, R375). A word that the encoder writes is a concatenation of fields, and
the decoder reads slices of it: a slice of a concatenation that lies in one field is a slice of that field, which gives the
round trip (O56). In the other direction every slice that the decoder compares with a constant, and every slice that it
passes on as an operand, fills its place in the word again, so that the word is the encoder's (O57). -/

namespace Sys2Proof
open Machine

/-! ### Slices of a concatenation

The encoder's `++` is typed at the width of the whole word, which the library's lemmas on `++` do not match; these are
stated on `BitVec.append`, to which it unfolds. -/

theorem slice_append_low {v w s l : Nat} (hi : BitVec v) (lo : BitVec w) (h : s + l ≤ w) :
    (hi.append lo).extractLsb' s l = lo.extractLsb' s l := BitVec.extractLsb'_append_eq_of_add_le h

theorem slice_append_high {v w s l : Nat} (hi : BitVec v) (lo : BitVec w) (h : w ≤ s) :
    (hi.append lo).extractLsb' s l = hi.extractLsb' (s - w) l := BitVec.extractLsb'_append_eq_of_le h

/-- A concatenation is a slice of x where each of its two parts is one. -/
theorem append_eq_slice {n v w s : Nat} {x : BitVec n} {hi : BitVec v} {lo : BitVec w}
    (hhi : hi = x.extractLsb' (s + w) v) (hlo : lo = x.extractLsb' s w) : hi ++ lo = x.extractLsb' s (v + w) := by
  subst hhi hlo
  exact BitVec.extractLsb'_append_extractLsb'_eq_extractLsb' rfl

/-- A word is encoded as what its parts are slices of. -/
theorem some_eq_of_slice {n : Nat} (form : BitVec n → Encoded) {x w : BitVec n} (h : x = w.extractLsb' 0 n) :
    some (form x) = some (form w) := by
  rw [h, BitVec.extractLsb'_eq_self]

theorem toNat_slice {n : Nat} (x : BitVec n) (s l : Nat) : (x.extractLsb' s l).toNat = x.toNat / 2 ^ s % 2 ^ l := by
  rw [BitVec.extractLsb'_toNat, Nat.shiftRight_eq_div_pow]

theorem slice_eq_iff {n s l : Nat} {x : BitVec n} {c : BitVec l} :
    x.extractLsb' s l = c ↔ x.toNat / 2 ^ s % 2 ^ l = c.toNat := by
  rw [← BitVec.toNat_inj, toNat_slice]

theorem const_eq_slice {n s l : Nat} {x : BitVec n} {c : BitVec l} (h : x.toNat / 2 ^ s % 2 ^ l = c.toNat) :
    c = x.extractLsb' s l := (slice_eq_iff.mpr h).symm

/-! ### From bytes to words (R46, R47) -/

/-- What a word that is no header decodes to, of n bytes. -/
def Decoded.ofInstr (n : Nat) : Option Instr → Decoded
  | some i => .ok i n
  | none => .illegal

theorem Decoded.ofInstr_eq_ok {n m : Nat} {o : Option Instr} {i : Instr} :
    Decoded.ofInstr n o = .ok i m ↔ o = some i ∧ n = m := by
  cases o <;> simp [Decoded.ofInstr]

theorem bytes_append_half (h : BitVec 16) : (h.extractLsb' 8 8 ++ h.extractLsb' 0 8 : BitVec 16) = h :=
  BitVec.extractLsb'_append_extractLsb' (w := 8) (len := 8)

/-- The half-word at the lower address is the upper one of the word (R46). -/
theorem bytes_append_upper (w : BitVec 32) :
    (w.extractLsb' 24 8 ++ w.extractLsb' 16 8 : BitVec 16) = w.extractLsb' 16 16 :=
  BitVec.extractLsb'_append_extractLsb'_eq_extractLsb' rfl

theorem bytes_append_word (w : BitVec 32) :
    ((w.extractLsb' 24 8 ++ w.extractLsb' 16 8 : BitVec 16) ++ (w.extractLsb' 8 8 ++ w.extractLsb' 0 8 : BitVec 16)
      : BitVec 32) = w :=
  (append_eq_slice (s := 0) (bytes_append_upper w) (append_eq_slice rfl rfl)).trans BitVec.extractLsb'_eq_self

theorem marker_upper (w : BitVec 32) : (w.extractLsb' 16 16).extractLsb' 13 3 = w.extractLsb' 29 3 := by
  ext i hi
  simp only [BitVec.getElem_extractLsb', BitVec.getLsbD_extractLsb', ← Nat.add_assoc]
  simp
  omega

theorem decode_half (h : BitVec 16) : decode (Encoded.half h).bytes =
    if h.extractLsb' 13 3 = 0x7#3 then .illegal else .ofInstr 2 (decodeHalf h) := by
  unfold decode Encoded.bytes
  simp only [bytes_append_half]
  split
  · rfl
  · cases decodeHalf h <;> rfl

/-- The bytes of a word decode as a plain header, a word or, where the marker is none, by their first half-word. -/
theorem decode_word (w : BitVec 32) : decode (Encoded.word w).bytes =
    if w.extractLsb' 29 3 = 0x7#3 then
      if isHeader w then if w.extractLsb' 21 2 = 0#2 then decodePlain w else .illegal
      else .ofInstr 4 (decodeWord w)
    else .ofInstr 2 (decodeHalf (w.extractLsb' 16 16)) := by
  unfold decode Encoded.bytes
  simp only [bytes_append_word]
  simp only [bytes_append_upper, marker_upper]
  split
  · split
    · rfl
    · cases decodeWord w <;> rfl
  · cases decodeHalf (w.extractLsb' 16 16) <;> rfl

theorem decode_header (w e : BitVec 32) : decode (Encoded.header w e).bytes =
    if w.extractLsb' 29 3 = 0x7#3 then
      if isHeader w then if w.extractLsb' 21 2 = 0#2 then decodePlain w else decodeExt w e
      else .ofInstr 4 (decodeWord w)
    else .ofInstr 2 (decodeHalf (w.extractLsb' 16 16)) := by
  unfold decode Encoded.bytes
  simp only [bytes_append_word]
  simp only [bytes_append_upper, marker_upper]
  split
  · split
    · rfl
    · cases decodeWord w <;> rfl
  · cases decodeHalf (w.extractLsb' 16 16) <;> rfl

/-! ### Block headers (R51, R52, R57 to R59) -/

/-- What the decoder reads of a header: the marker, MAJ 0, KIND, LEN and the count. -/
theorem slice_encodeHeader (kind : BitVec 2) (l : BitVec 10) (c : Count) :
    let w := encodeHeader kind l c
    w.extractLsb' 29 3 = 0x7#3 ∧ w.extractLsb' 23 9 = 0x1C0#9 ∧ w.extractLsb' 21 2 = kind ∧ w.extractLsb' 11 10 = l
      ∧ decodeCount w = some c := by
  cases c <;>
  · dsimp only [encodeHeader, decodeCount, HAppend.hAppend]
    simp only [slice_append_low, slice_append_high, BitVec.extractLsb'_eq_self, Nat.reduceLeDiff, Nat.reduceAdd,
      Nat.reduceSub, BitVec.reduceExtractLsb', BitVec.reduceEq, if_true, if_false, and_self]

@[simp] theorem marker_encodeHeader (kind : BitVec 2) (l : BitVec 10) (c : Count) :
    (encodeHeader kind l c).extractLsb' 29 3 = 0x7#3 := (slice_encodeHeader kind l c).1

@[simp] theorem isHeader_encodeHeader (kind : BitVec 2) (l : BitVec 10) (c : Count) :
    isHeader (encodeHeader kind l c) = true := by
  obtain ⟨-, htop, -⟩ := slice_encodeHeader kind l c
  exact decide_eq_true htop

@[simp] theorem kind_encodeHeader (kind : BitVec 2) (l : BitVec 10) (c : Count) :
    (encodeHeader kind l c).extractLsb' 21 2 = kind := by
  obtain ⟨-, -, hkind, -⟩ := slice_encodeHeader kind l c
  exact hkind

@[simp] theorem len_encodeHeader (kind : BitVec 2) (l : BitVec 10) (c : Count) :
    (encodeHeader kind l c).extractLsb' 11 10 = l := by
  obtain ⟨-, -, -, hlen, -⟩ := slice_encodeHeader kind l c
  exact hlen

@[simp] theorem decodeCount_encodeHeader (kind : BitVec 2) (l : BitVec 10) (c : Count) :
    decodeCount (encodeHeader kind l c) = some c := by
  obtain ⟨-, -, -, -, hcount⟩ := slice_encodeHeader kind l c
  exact hcount

/-- The header of a count, of the kind and length that a word shows, is that word. -/
theorem encodeHeader_of_decodeCount {w : BitVec 32} {c : Count} (htop : isHeader w = true)
    (h : decodeCount w = some c) : encodeHeader (w.extractLsb' 21 2) (w.extractLsb' 11 10) c = w := by
  have htop : w.extractLsb' 23 9 = 0x1C0#9 := of_decide_eq_true htop
  unfold decodeCount at h
  split at h
  case isTrue h0 =>
    cases h
    refine Eq.trans ?_ BitVec.extractLsb'_eq_self
    exact append_eq_slice (append_eq_slice (append_eq_slice (append_eq_slice htop.symm rfl) rfl) rfl) h0.symm
  case isFalse h0 =>
    split at h
    case isTrue h6 =>
      cases h
      refine Eq.trans ?_ BitVec.extractLsb'_eq_self
      have h1 : (1 : BitVec 1) = w.extractLsb' 0 1 := by
        revert h0; generalize w.extractLsb' 0 1 = b; revert b; decide
      exact append_eq_slice (append_eq_slice (append_eq_slice (append_eq_slice (append_eq_slice htop.symm rfl) rfl)
        h6.symm) rfl) h1
    case isFalse => cases h

theorem encode_of_decodePlain {w : BitVec 32} {i : Instr} {n : Nat} (htop : isHeader w = true)
    (hkind : w.extractLsb' 21 2 = 0#2) (h : decodePlain w = .ok i n) : encode i = some (.word w) ∧ n = 4 := by
  unfold decodePlain at h
  split at h
  case h_1 r hc | h_2 x hc =>
    have := encodeHeader_of_decodeCount htop hc
    rw [hkind] at this
    cases h
    exact ⟨congrArg (some ∘ Encoded.word) this, rfl⟩
  case h_3 => cases h

theorem encode_of_decodeExt {w e : BitVec 32} {i : Instr} {n : Nat} (htop : isHeader w = true)
    (hkind : w.extractLsb' 21 2 ≠ 0#2) (h : decodeExt w e = .ok i n) : encode i = some (.header w e) ∧ n = 8 := by
  unfold decodeExt at h
  split at h
  case h_1 => cases h
  case h_2 c hc =>
    have hw := encodeHeader_of_decodeCount htop hc
    have key : ∀ (k : BitVec 2) (x : BitVec 32), w.extractLsb' 21 2 = k → x = e.extractLsb' 0 32 →
        some (Encoded.header (encodeHeader k (w.extractLsb' 11 10) c) x) = some (.header w e) := by
      rintro k x rfl rfl
      rw [hw, BitVec.extractLsb'_eq_self]
    split at h
    case isFalse => cases h
    case isTrue hmark =>
      split at h
      case h_1 hk =>
        split at h
        case isFalse => cases h
        case isTrue h0 =>
          cases h
          refine ⟨key _ _ (BitVec.eq_of_toNat_eq hk) ?_, rfl⟩
          exact append_eq_slice (append_eq_slice (append_eq_slice (append_eq_slice (append_eq_slice hmark.symm rfl) rfl)
            rfl) rfl) h0.symm
      case h_2 hk =>
        split at h
        case isFalse => cases h
        case isTrue h0 =>
          cases h
          refine ⟨key _ _ (BitVec.eq_of_toNat_eq hk) ?_, rfl⟩
          exact append_eq_slice (append_eq_slice hmark.symm rfl) h0.symm
      case h_3 hk1 hk2 =>
        split at h
        case isFalse => cases h
        case isTrue h0 =>
          cases h
          refine ⟨key _ _ ?_ ?_, rfl⟩
          · revert hkind hk1 hk2
            generalize w.extractLsb' 21 2 = k
            revert k
            decide
          · exact append_eq_slice (append_eq_slice hmark.symm h0.symm) rfl

theorem decode_encodeHeader {kind : BitVec 2} (hkind : kind ≠ 0#2) (l : BitVec 10) (c : Count) (x : BitVec 32) :
    decode (Encoded.header (encodeHeader kind l c) x).bytes = decodeExt (encodeHeader kind l c) x := by
  rw [decode_header, if_pos (marker_encodeHeader ..), if_pos (isHeader_encodeHeader ..), kind_encodeHeader, if_neg hkind]

/-- A header and its extension word read back as the block that they were written for. -/
theorem decode_encode_header {i : Instr} {w e : BitVec 32} (h : encode i = some (.header w e)) :
    decode (Encoded.header w e).bytes = .ok i 8 := by
  cases i
  all_goals cases h
  case blockStrided | blockPipelined | blockTimed =>
    rw [decode_encodeHeader (by decide)]
    dsimp only [HAppend.hAppend]
    simp only [decodeExt, kind_encodeHeader, len_encodeHeader, decodeCount_encodeHeader, if_true, slice_append_low,
      slice_append_high, BitVec.extractLsb'_eq_self, Nat.reduceLeDiff, Nat.reduceAdd, Nat.reduceSub, BitVec.reduceToNat]

theorem decode_encode_plain {i : Instr} {w : BitVec 32} (hblock : isBlock i = true) (h : encode i = some (.word w)) :
    decode (Encoded.word w).bytes = .ok i 4 := by
  have key (l : BitVec 10) (c : Count) :
      decode (Encoded.word (encodeHeader 0 l c)).bytes = decodePlain (encodeHeader 0 l c) := by
    rw [decode_word, if_pos (marker_encodeHeader ..), if_pos (isHeader_encodeHeader ..),
      if_pos (show _ = 0#2 from kind_encodeHeader 0 l c)]
  cases i
  all_goals cases hblock
  case blockPlain | blockPlainReg =>
    cases h
    rw [key, decodePlain, decodeCount_encodeHeader, len_encodeHeader]
  case blockStrided | blockPipelined | blockTimed => cases h

/-! ### The round trip, class by class

One case for each instruction that has words: its fields are the slices that its decoder reads. The words of 32 bits are
taken by their majors (R70), since the cost of a case grows with the major. -/

theorem decHalf_of_encode {i : Instr} {w : BitVec 16} (h : encode i = some (.half w)) :
    w.extractLsb' 13 3 ≠ 0x7#3 ∧ decHalf w = some i := by
  cases i
  all_goals cases h
  case nop => exact ⟨by decide, rfl⟩
  all_goals dsimp only [HAppend.hAppend]
  all_goals simp only [decHalf, if_true, ne_eq, BitVec.reduceEq, not_false_eq_true, and_self,
    slice_append_low, slice_append_high, BitVec.extractLsb'_eq_self, Nat.reduceLeDiff, Nat.reduceAdd,
    Nat.reduceSub, BitVec.reduceExtractLsb', BitVec.reduceToNat]

theorem decodePort_of_encode {i : Instr} {w : BitVec 32} (h : encode i = some (.riscv w)) : decodePort w = some i := by
  cases i
  all_goals cases h
  all_goals dsimp only [HAppend.hAppend]
  all_goals simp only [decodePort, if_true, and_self,
    slice_append_low, slice_append_high, BitVec.extractLsb'_eq_self, Nat.reduceLeDiff, Nat.reduceAdd,
    Nat.reduceSub, BitVec.reduceExtractLsb', BitVec.reduceToNat]

/-- The words of the majors below 0x18 (R70): scalars, memory and control. The word `ia.sxt` of width 0 is `ia.subs`. -/
theorem decMajor_of_encode_core {i : Instr} {w : BitVec 32} (hwf : i.wf = true) (hblock : isBlock i = false)
    (h : encode i = some (.word w)) (hmaj : (w.extractLsb' 23 6).toNat < 0x18) :
    w.extractLsb' 29 3 = 0x7#3 ∧ decMajor w = some i := by
  cases i
  all_goals cases h
  case blockPlain | blockPlainReg => cases hblock
  all_goals dsimp only [HAppend.hAppend] at hmaj ⊢
  all_goals simp only [slice_append_high, Nat.reduceLeDiff, Nat.reduceAdd, Nat.reduceSub, BitVec.reduceExtractLsb',
    BitVec.reduceToNat, Nat.reduceLT] at hmaj
  case iaSxt.refl w =>
    have hw : w ≠ 0#2 := by simpa [Instr.wf] using hwf
    simp only [decMajor, decIa, if_neg hw, if_true, and_self, slice_append_low, slice_append_high,
      BitVec.extractLsb'_eq_self, Nat.reduceLeDiff, Nat.reduceAdd, Nat.reduceSub, BitVec.reduceExtractLsb',
      BitVec.reduceToNat]
  all_goals simp only [decMajor, decIa, decIi, decBf, decIw, decCmp, decBr, decSys, decLd, decSt, decAt, decMon, decSp, decQ,
    decBar, decTag, decXl, decCp, decAb, decTr, decSti, decKn, decRg, if_true, and_self,
    slice_append_low, slice_append_high, BitVec.extractLsb'_eq_self, Nat.reduceLeDiff, Nat.reduceAdd, Nat.reduceSub,
    BitVec.reduceExtractLsb', BitVec.reduceToNat]

/-- The vector words, of the majors 0x18 to 0x1F (R70). -/
theorem decMajor_of_encode_vector {i : Instr} {w : BitVec 32} (hblock : isBlock i = false)
    (h : encode i = some (.word w)) (hmaj : 0x18 ≤ (w.extractLsb' 23 6).toNat ∧ (w.extractLsb' 23 6).toNat < 0x20) :
    w.extractLsb' 29 3 = 0x7#3 ∧ decMajor w = some i := by
  cases i
  all_goals cases h
  case blockPlain | blockPlainReg => cases hblock
  all_goals dsimp only [HAppend.hAppend] at hmaj ⊢
  all_goals simp only [slice_append_high, Nat.reduceLeDiff, Nat.reduceAdd, Nat.reduceSub, BitVec.reduceExtractLsb',
    BitVec.reduceToNat, Nat.reduceLT, and_true, and_false] at hmaj
  all_goals simp only [decMajor, decVi, decVf, decVc, decVm, decVp, decVr, decVq, decVt, if_true, and_self,
    slice_append_low, slice_append_high, BitVec.extractLsb'_eq_self, Nat.reduceLeDiff, Nat.reduceAdd, Nat.reduceSub,
    BitVec.reduceExtractLsb', BitVec.reduceToNat]

/-- The words of the harrow, of the majors from 0x20 (R70). -/
theorem decMajor_of_encode_harrow {i : Instr} {w : BitVec 32} (hblock : isBlock i = false)
    (h : encode i = some (.word w)) (hmaj : 0x20 ≤ (w.extractLsb' 23 6).toNat) :
    w.extractLsb' 29 3 = 0x7#3 ∧ decMajor w = some i := by
  cases i
  all_goals cases h
  case blockPlain | blockPlainReg => cases hblock
  all_goals dsimp only [HAppend.hAppend] at hmaj ⊢
  all_goals simp only [slice_append_high, Nat.reduceLeDiff, Nat.reduceAdd, Nat.reduceSub, BitVec.reduceExtractLsb',
    BitVec.reduceToNat] at hmaj
  all_goals simp only [decMajor, decMc, decMg, decMb, decMw, decMx, if_true, and_self,
    slice_append_low, slice_append_high, BitVec.extractLsb'_eq_self, Nat.reduceLeDiff, Nat.reduceAdd, Nat.reduceSub,
    BitVec.reduceExtractLsb', BitVec.reduceToNat]

/-- Major 0 is that of the headers, which the major opcode map leaves out (R51). -/
theorem isHeader_of_decMajor {w : BitVec 32} {i : Instr} (h : decMajor w = some i) : isHeader w = false := by
  by_contra hh
  have htop : w.extractLsb' 23 9 = 0x1C0#9 := of_decide_eq_true (Bool.not_eq_false _ ▸ hh)
  have hmaj : (w.extractLsb' 23 6).toNat = 0 := by
    have := slice_eq_iff.mp htop
    rw [toNat_slice]
    simp only [BitVec.reduceToNat, Nat.reducePow] at this ⊢
    omega
  simp only [decMajor, hmaj, reduceCtorEq] at h

theorem decode_encode_word {i : Instr} {w : BitVec 32} (hwf : i.wf = true) (h : encode i = some (.word w)) :
    decode (Encoded.word w).bytes = .ok i 4 := by
  cases hblock : isBlock i
  case true => exact decode_encode_plain hblock h
  case false =>
    obtain ⟨hmark, hdec⟩ : w.extractLsb' 29 3 = 0x7#3 ∧ decMajor w = some i := by
      rcases lt_or_ge (w.extractLsb' 23 6).toNat 0x18 with hcore | hcore
      · exact decMajor_of_encode_core hwf hblock h hcore
      rcases lt_or_ge (w.extractLsb' 23 6).toNat 0x20 with hvec | hharrow
      · exact decMajor_of_encode_vector hblock h ⟨hcore, hvec⟩
      · exact decMajor_of_encode_harrow hblock h hharrow
    rw [decode_word, if_pos hmark, isHeader_of_decMajor hdec, if_neg Bool.false_ne_true, decodeWord, if_pos hmark, hdec,
      Option.filter_some, if_pos hwf]
    rfl

/-- Settles O56: by the form of the words, each instruction's fields read back as they were written. -/
theorem encodingRoundTrip : Obligations.EncodingRoundTrip := by
  unfold Obligations.EncodingRoundTrip
  intro i e hwf h
  cases e
  case half w =>
    obtain ⟨hmark, hdec⟩ := decHalf_of_encode h
    simp only [decodeEncoded, decode_half, if_neg hmark, decodeHalf, hdec, Option.filter_some, if_pos hwf, Decoded.ofInstr]
  case word w => simp only [decodeEncoded, decode_encode_word hwf h]
  case header w x => simp only [decodeEncoded, decode_encode_header h]
  case riscv w => exact decodePort_of_encode h

/-! ### One spelling, class by class

One case for each branch of a decoder: every field of the encoder's word is either an operand, and so the very slice that
the decoder passes on, or a constant, which the comparisons on the way to the branch fix. -/

theorem encode_of_decHalf {w : BitVec 16} {i : Instr} (h : decHalf w = some i) : encode i = some (.half w) := by
  simp only [decHalf, toNat_slice, slice_eq_iff, BitVec.reduceToNat, Nat.reducePow, Nat.div_one] at h
  repeat' split at h
  all_goals cases h
  all_goals apply some_eq_of_slice Encoded.half
  all_goals repeat' apply append_eq_slice
  all_goals try rfl
  all_goals apply const_eq_slice
  all_goals simp only [BitVec.reduceToNat, Nat.reduceAdd, Nat.reducePow, Nat.div_one]
  all_goals omega

theorem encode_of_decodePort {w : BitVec 32} {i : Instr} (h : decodePort w = some i) : encode i = some (.riscv w) := by
  simp only [decodePort, toNat_slice, slice_eq_iff, BitVec.reduceToNat, Nat.reducePow, Nat.div_one] at h
  repeat' split at h
  all_goals cases h
  all_goals apply some_eq_of_slice Encoded.riscv
  all_goals repeat' apply append_eq_slice
  all_goals try rfl
  all_goals apply const_eq_slice
  all_goals simp only [BitVec.reduceToNat, Nat.reduceAdd, Nat.reducePow, Nat.div_one]
  all_goals omega

/-- With the marker, the nine bits at the top of a word are 0x1C0 more than its major. -/
theorem encode_of_decMajor {w : BitVec 32} {i : Instr} (hmark : w.extractLsb' 29 3 = 0x7#3) (h : decMajor w = some i) :
    encode i = some (.word w) := by
  obtain ⟨m, htop, hm⟩ : ∃ m, w.toNat / 8388608 % 512 = 448 + m ∧ (w.extractLsb' 23 6).toNat = m := by
    refine ⟨_, ?_, rfl⟩
    rw [toNat_slice]
    have := slice_eq_iff.mp hmark
    simp only [BitVec.reduceToNat, Nat.reducePow] at this ⊢
    omega
  simp only [decMajor, hm] at h
  clear hmark hm
  split at h
  all_goals simp only [decIa, decIi, decBf, decIw, decCmp, decBr, decSys, decLd, decSt, decAt, decMon, decSp, decQ, decBar,
    decTag, decXl, decCp, decAb, decTr, decSti, decKn, decRg, decVi, decVf, decVc, decVm, decVp, decVr, decVq, decVt, decMc,
    decMg, decMb, decMw, decMx, toNat_slice, slice_eq_iff, BitVec.reduceToNat, reduceCtorEq, Nat.reducePow, Nat.div_one] at h
  all_goals repeat' split at h
  all_goals cases h
  all_goals apply some_eq_of_slice Encoded.word
  all_goals repeat' apply append_eq_slice
  all_goals try rfl
  all_goals apply const_eq_slice
  all_goals simp only [BitVec.reduceToNat, Nat.reduceAdd, Nat.reducePow, Nat.div_one]
  all_goals try assumption
  all_goals omega

theorem encode_of_decodeHalf {w : BitVec 16} {i : Instr} (h : decodeHalf w = some i) : encode i = some (.half w) :=
  encode_of_decHalf (Option.filter_eq_some_iff.mp h).1

theorem encode_of_decodeWord {w : BitVec 32} {i : Instr} (h : decodeWord w = some i) : encode i = some (.word w) := by
  unfold decodeWord at h
  split at h
  case isTrue hmark => exact encode_of_decMajor hmark (Option.filter_eq_some_iff.mp h).1
  case isFalse => cases h

theorem encode_of_decode_half {h : BitVec 16} {i : Instr} {n : Nat} (hd : decode (Encoded.half h).bytes = .ok i n) :
    encode i = some (.half h) := by
  rw [decode_half] at hd
  split at hd
  case isTrue => cases hd
  case isFalse => exact encode_of_decodeHalf (Decoded.ofInstr_eq_ok.mp hd).1

theorem encode_of_decode_word {w : BitVec 32} {i : Instr} (hd : decode (Encoded.word w).bytes = .ok i 4) :
    encode i = some (.word w) := by
  rw [decode_word] at hd
  split at hd
  case isFalse => cases (Decoded.ofInstr_eq_ok.mp hd).2
  case isTrue =>
    split at hd
    case isFalse => exact encode_of_decodeWord (Decoded.ofInstr_eq_ok.mp hd).1
    case isTrue htop =>
      split at hd
      case isTrue hkind => exact (encode_of_decodePlain htop hkind hd).1
      case isFalse => cases hd

theorem encode_of_decode_header {w e : BitVec 32} {i : Instr} (hd : decode (Encoded.header w e).bytes = .ok i 8) :
    encode i = some (.header w e) := by
  rw [decode_header] at hd
  split at hd
  case isFalse => cases (Decoded.ofInstr_eq_ok.mp hd).2
  case isTrue =>
    split at hd
    case isFalse => cases (Decoded.ofInstr_eq_ok.mp hd).2
    case isTrue htop =>
      split at hd
      case isTrue hkind => cases (encode_of_decodePlain htop hkind hd).2
      case isFalse hkind => exact (encode_of_decodeExt htop hkind hd).1

/-- Settles O57: by the form of the words, what decodes is written again as the same bits. -/
theorem decodingHasOneSpelling : Obligations.DecodingHasOneSpelling := by
  unfold Obligations.DecodingHasOneSpelling
  refine ⟨?stream, fun i w h => encode_of_decodePort h⟩
  case stream =>
    intro i e h hport
    cases e
    case half w => exact encode_of_decode_half h
    case word w => exact encode_of_decode_word h
    case header w x => exact encode_of_decode_header h
    case riscv w => exact absurd rfl (hport w)

/-! ### The chapters' own words -/

/-- Settles O58: the decoder evaluates each word. -/
theorem encodingWords : Obligations.EncodingWords := by
  unfold Obligations.EncodingWords
  decide +kernel

end Sys2Proof
end

section
/-! PROOFS. Block headers (03_encoding.md, R51 to R59, R164). One lemma per kind says what the entry checks of `enterBlock` ask
for, one lemma says what a header does that passes them; O8 and O9 are assembled from these. -/

namespace Sys2Proof.Machine

/-! ### The entry checks -/

theorem State.blockFormOk_plain (s : State) (len : BitVec 10) : s.blockFormOk .plain len = true ↔ s.BodyFits len := by
  cases h : s.me.blocks <;> simp [State.blockFormOk, State.BodyFits, h, and_assoc]

theorem State.blockFormOk_pipelined (s : State) (len : BitVec 10) (st : Nat) :
    s.blockFormOk (.pipelined st) len = true ↔ s.BodyFits len := s.blockFormOk_plain len

/-- A strided header makes the checks of a plain one, and its own. -/
theorem State.blockFormOk_strided (s : State) (len : BitVec 10) (ra : BitVec 4) (sa : BitVec 10) (rb : BitVec 4)
    (sb : BitVec 10) :
    s.blockFormOk (.strided ra sa rb sb) len = true ↔ s.BodyFits len ∧ PairsFit ra sa rb sb := by
  rw [← s.blockFormOk_plain]
  simp [State.blockFormOk, PairsFit]

/-- A timed header makes the checks of a plain one, and its own. -/
theorem State.blockFormOk_timed (s : State) (len : BitVec 10) (cyc : BitVec 25) :
    s.blockFormOk (.timed cyc.toNat) len = true ↔ s.BodyFits len ∧ s.TimedFits len cyc := by
  rw [← s.blockFormOk_plain]
  simp [State.blockFormOk, State.TimedFits, Config.loopBuffer, and_assoc, Nat.add_comm]
  intro _ _ _ _ _
  refine forall₂_congr fun b _ => ?_
  cases b.kind <;> simp

theorem State.blockAllotOk_plain (s : State) (c : Count) : s.blockAllotOk .plain c = true ↔ s.countAllotted c := by
  cases c <;> simp [State.blockAllotOk, State.countAllotted]

theorem strideReg_toNat (r : BitVec 4) : (strideReg r).toNat = 16 + r.toNat := by
  revert r
  decide

theorem State.blockAllotOk_strided (s : State) (c : Count) (ra : BitVec 4) (sa : BitVec 10) (rb : BitVec 4)
    (sb : BitVec 10) :
    s.blockAllotOk (.strided ra sa rb sb) c = true ↔ s.countAllotted c ∧ s.PairsAllotted ra sa rb sb := by
  rw [← s.blockAllotOk_plain]
  simp [State.blockAllotOk, State.PairsAllotted, strideReg_toNat]

/-! ### The four outcomes of a header -/

/-- What a block starts in the stages of its stream: only a pipelined one sets SPW (R58). -/
def BlockKind.startSpw (spw : BitVec 8) : BlockKind → BitVec 8
  | .pipelined _ => 1
  | _ => spw

/-- A timed block opens idle (R59). -/
def BlockKind.opensIdle : BlockKind → Bool
  | .timed _ => true
  | _ => false

section
variable {i : Instr} {s : State} {kind : BlockKind} {len : BitVec 10} {c : Count}

/-- A header that passes its checks skips its block or opens it (R54, R164). -/
theorem State.enterBlock_of_checks (hf : s.blockFormOk kind len = true) (ha : s.blockAllotOk kind c = true)
    (h32 : s.countOf c < 2 ^ 32) :
    s.enterBlock kind len c =
      if s.countOf c = 0 ∨ !(stageOk s.me.spw s.me.pc s.me.blocks) then
        .next (s.modMe (fun m => { m with npc := s.me.npc + 2 * len.toNat }))
      else .next (s.modMe (fun m => { m with
        blocks := s.opened kind len (s.countOf c) kind.opensIdle :: m.blocks
        spw := kind.startSpw s.me.spw
        fetching := m.fetching || m.prefetches (s.opened kind len (s.countOf c) kind.opensIdle) })) := by
  change (if _ then _ else if _ then _ else if 2 ^ 32 ≤ s.countOf c then _ else if s.countOf c = 0 ∨ _ then _ else _) = _
  rw [hf, ha, if_neg (by decide), if_neg (by decide), if_neg (by omega)]
  rfl

theorem GivesMe.of_enterBlock (hi : exec i s = s.enterBlock kind len c) (hf : s.blockFormOk kind len = true)
    (ha : s.blockAllotOk kind c = true) (h0 : 0 < s.countOf c) (h32 : s.countOf c < 2 ^ 32)
    (hs : stageOk s.me.spw s.me.pc s.me.blocks = true) :
    GivesMe i s { s.me with
      blocks := s.opened kind len (s.countOf c) kind.opensIdle :: s.me.blocks
      spw := kind.startSpw s.me.spw
      fetching := s.me.fetching || s.me.prefetches (s.opened kind len (s.countOf c) kind.opensIdle) } := by
  rw [State.enterBlock_of_checks hf ha h32, if_neg (by simp [hs]; omega)] at hi
  exact .of_modMe hi

theorem GivesMe.of_enterBlock_skip (hi : exec i s = s.enterBlock kind len c) (hf : s.blockFormOk kind len = true)
    (ha : s.blockAllotOk kind c = true)
    (h : s.countOf c = 0 ∨ (stageOk s.me.spw s.me.pc s.me.blocks = false ∧ s.countOf c < 2 ^ 32)) :
    GivesMe i s { s.me with npc := s.me.npc + 2 * len.toNat } := by
  rw [State.enterBlock_of_checks hf ha (by omega), if_pos (h.imp_right fun hs => by simp [hs.1])] at hi
  exact .of_modMe hi

variable {k : Nat}

theorem TakesFault.of_enterBlock_form (hk : s.myCore.kernel = some k) (hK : (s.kernel k).Faultable)
    (hi : exec i s = s.enterBlock kind len c) (hf : ¬s.blockFormOk kind len = true) : TakesFault i s k .blockForm 0 :=
  .of_streamFault hk hK (hi.trans (if_pos (by simp [hf])))

theorem TakesFault.of_enterBlock_allot (hk : s.myCore.kernel = some k) (hK : (s.kernel k).Faultable)
    (hi : exec i s = s.enterBlock kind len c) (hf : s.blockFormOk kind len = true) (ha : ¬s.blockAllotOk kind c = true) :
    TakesFault i s k .regAllot 0 :=
  .of_streamFault hk hK (hi.trans ((if_neg (by simp [hf])).trans (if_pos (by simp [ha]))))

end

/-! ### Malformed headers -/

theorem decode_header_of_isHeader {w : BitVec 32} (h : w.extractLsb' 23 9 = 0x1C0) (e : BitVec 32) :
    decode (Encoded.header w e).bytes = if w.extractLsb' 21 2 = 0#2 then decodePlain w else decodeExt w e := by
  have hmark : w.extractLsb' 29 3 = 0x7#3 := by
    rw [slice_eq_iff] at h ⊢
    simp only [BitVec.reduceToNat, Nat.reducePow] at h ⊢
    omega
  rw [decode_header, if_pos hmark, if_pos (show isHeader w = true from decide_eq_true h)]

theorem lowBit_eq_zero_iff {n : Nat} (x : BitVec n) : x.extractLsb' 0 1 = 0#1 ↔ x.getLsbD 0 = false := by
  constructor
  · intro h
    simpa using congrArg (BitVec.getLsbD · 0) h
  · intro h
    ext i hi
    obtain rfl : i = 0 := by omega
    simpa using h

theorem decodeCount_eq_none {w : BitVec 32} (h0 : w.getLsbD 0 = true) (h6 : w.extractLsb' 6 5 ≠ 0#5) :
    decodeCount w = none := by
  rw [decodeCount, if_neg (by simp [lowBit_eq_zero_iff, h0]), if_neg h6]

theorem decode_header_of_no_count {w : BitVec 32} (h : w.extractLsb' 23 9 = 0x1C0) (hc : decodeCount w = none)
    (e : BitVec 32) : decode (Encoded.header w e).bytes = .blockForm := by
  rw [decode_header_of_isHeader h, decodePlain, decodeExt, hc]
  exact ite_self _

/-- A header whose extension word has a wrong marker, or a bit set that its kind leaves 0 (R52, R57 to R59). -/
theorem decodeExt_eq_blockForm {w e : BitVec 32} (h : e.extractLsb' 29 3 ≠ 7
      ∨ (w.extractLsb' 21 2).toNat = 1 ∧ e.getLsbD 0 = true ∨ (w.extractLsb' 21 2).toNat = 2 ∧ e.extractLsb' 0 26 ≠ 0#26
      ∨ (w.extractLsb' 21 2).toNat = 3 ∧ e.extractLsb' 25 4 ≠ 0#4) :
    decodeExt w e = .blockForm := by
  unfold decodeExt
  split
  next => rfl
  next c hc =>
    obtain hm | ⟨hk, hb⟩ | ⟨hk, hb⟩ | ⟨hk, hb⟩ := h
    · exact if_neg hm
    · rw [hk]
      simp [lowBit_eq_zero_iff, hb]
    · rw [hk]
      simp [hb]
    · rw [hk]
      simp [hb]

/-! ### The statements -/

/-- Settles O8: the checks of each kind of header pass, so that `enterBlock` opens the block. -/
theorem blockHeadersOpenTheirBlocks : Obligations.BlockHeadersOpenTheirBlocks := by
  intro s len r x c ra rb sa sb sm1 cyc hfit hs
  have plain {i : Instr} {c : Count} (hi : exec i s = s.enterBlock .plain len c) (ha : s.countAllotted c)
      (h0 : 0 < s.countOf c) (h32 : s.countOf c < 2 ^ 32) :
      GivesMe i s { s.me with blocks := s.opened .plain len (s.countOf c) false :: s.me.blocks } := by
    simpa [Stream.prefetches, State.opened, BlockKind.startSpw, BlockKind.opensIdle] using
      GivesMe.of_enterBlock hi ((s.blockFormOk_plain len).2 hfit) ((s.blockAllotOk_plain c).2 ha) h0 h32 hs
  refine ⟨fun hr => plain (c := .imm r) rfl trivial ?_ ?_, fun hx => plain (c := .reg x) rfl hx,
    fun hc h0 h32 => ⟨fun hp hpa => ?_, ?_, fun ht => ?_⟩⟩
  · exact Nat.pos_of_ne_zero fun h => hr (BitVec.eq_of_toNat_eq h)
  · exact r.isLt.trans (by decide)
  · simpa [Stream.prefetches, State.opened, BlockKind.startSpw, BlockKind.opensIdle] using
      GivesMe.of_enterBlock (i := .blockStrided len c ra sa rb sb) rfl ((s.blockFormOk_strided ..).2 ⟨hfit, hp⟩)
        ((s.blockAllotOk_strided ..).2 ⟨hc, hpa⟩) h0 h32 hs
  · simpa [Stream.prefetches, State.opened, BlockKind.startSpw, BlockKind.opensIdle] using
      GivesMe.of_enterBlock (i := .blockPipelined len c sm1) rfl ((s.blockFormOk_pipelined ..).2 hfit)
        ((s.blockAllotOk_plain c).2 hc) h0 h32 hs
  · exact GivesMe.of_enterBlock (i := .blockTimed len c cyc) rfl ((s.blockFormOk_timed ..).2 ⟨hfit, ht⟩)
        ((s.blockAllotOk_plain c).2 hc) h0 h32 hs

/-- Settles O9: the checks of each kind pass and the count is 0, or the first check that fails gives the fault; a header
whose own bits are wrong is refused by the decoder. -/
theorem aCountOfZeroSkipsTheBlock : Obligations.ACountOfZeroSkipsTheBlock := by
  refine ⟨fun s len r x c ra rb sa sb sm1 cyc => ⟨fun hfit => ?skip, fun k hk hK => ?fault⟩, fun w e hw hbad => ?bits⟩
  case skip =>
    have plain {i : Instr} {c : Count} (hi : exec i s = s.enterBlock .plain len c) (ha : s.countAllotted c) :=
      GivesMe.of_enterBlock_skip hi ((s.blockFormOk_plain len).2 hfit) ((s.blockAllotOk_plain c).2 ha)
    refine ⟨plain (c := .imm r) rfl trivial, plain (c := .reg x) rfl, fun hc hs => ⟨?_, fun hp hpa => ?_, fun ht => ?_⟩⟩
    · exact .of_enterBlock_skip (i := .blockPipelined len c sm1) rfl ((s.blockFormOk_pipelined ..).2 hfit)
        ((s.blockAllotOk_plain c).2 hc) hs
    · exact .of_enterBlock_skip (i := .blockStrided len c ra sa rb sb) rfl ((s.blockFormOk_strided ..).2 ⟨hfit, hp⟩)
        ((s.blockAllotOk_strided ..).2 ⟨hc, hpa⟩) hs
    · exact .of_enterBlock_skip (i := .blockTimed len c cyc) rfl ((s.blockFormOk_timed ..).2 ⟨hfit, ht⟩)
        ((s.blockAllotOk_plain c).2 hc) hs
  case fault =>
    have form {i : Instr} {kind : BlockKind} {c : Count} := TakesFault.of_enterBlock_form (i := i) (kind := kind)
      (len := len) (c := c) hk hK
    have allot {i : Instr} {kind : BlockKind} {c : Count} := TakesFault.of_enterBlock_allot (i := i) (kind := kind)
      (len := len) (c := c) hk hK
    have hplain := s.blockFormOk_plain len
    have hpipe := s.blockFormOk_pipelined len (sm1.toNat + 1)
    have hstr := s.blockFormOk_strided len ra sa rb sb
    have htim := s.blockFormOk_timed len cyc
    have hcount := s.blockAllotOk_plain c
    refine ⟨fun h => ⟨form (c := .imm r) rfl (mt hplain.1 h), form (c := .reg x) rfl (mt hplain.1 h),
        form (c := c) rfl (mt hpipe.1 h), form (c := c) rfl (mt hstr.1 fun g => h g.1),
        form (c := c) rfl (mt htim.1 fun g => h g.1)⟩,
      fun h => form (c := c) rfl (mt hstr.1 fun g => h g.2), fun h => form (c := c) rfl (mt htim.1 fun g => h g.2),
      fun hfit hx => allot (c := .reg x) rfl (hplain.2 hfit) (mt (s.blockAllotOk_plain (.reg x)).1 (Nat.not_lt.2 hx)),
      fun hfit hc => ⟨allot (c := c) rfl (hpipe.2 hfit) (mt hcount.1 hc),
        fun ht => allot (c := c) rfl (htim.2 ⟨hfit, ht⟩) (mt hcount.1 hc)⟩,
      fun hfit hp h => allot (c := c) rfl (hstr.2 ⟨hfit, hp⟩) (mt (s.blockAllotOk_strided c ra sa rb sb).1 h)⟩
  case bits =>
    obtain ⟨h0, h6⟩ | h := hbad
    · exact decode_header_of_no_count hw (decodeCount_eq_none h0 h6) e
    · have hkind : (w.extractLsb' 21 2).toNat ≠ 0 := by omega
      rw [decode_header_of_isHeader hw, if_neg fun h => hkind (congrArg BitVec.toNat h)]
      exact decodeExt_eq_blockForm (h.imp_left And.right)

end Sys2Proof.Machine
end

section
/-! PROOFS. The end of a body (03_encoding.md, R52, R57, R58, R117). `Stream.Adds` says what a stride pair adds, and that two
pairs add up; one lemma per outcome says what `seqEnd` does at the end of the innermost body. O10 is assembled from them. -/

namespace Sys2Proof.Machine

/-! ### Strides -/

/-- An issued access has still to write x register n. -/
abbrev Stream.Owes (m : Stream) (n : BitVec 5) : Prop := ∃ y ∈ m.pend, y.kind.dest = some (.x n)

/-- From m to t, f is added to the address registers of an AP stream, or g to the x registers of another stream: to what an
issued access will write where it has still to write the register (R52). Nothing else changes. -/
structure Stream.Adds (e : Eng) (f : BitVec 4 → Word) (g : BitVec 5 → Word) (m t : Stream) : Prop where
  frame : t = { m with x := t.x, a := t.a, owed := t.owed }
  ap : e = .ap → t.x = m.x ∧ t.owed = m.owed ∧ ∀ n, t.ra n = m.ra n + f n
  other : e ≠ .ap → t.a = m.a ∧ ∀ n : BitVec 5,
    if m.Owes n then t.rx n = m.rx n ∧ t.owed.get 0 n.toNat = m.owed.get 0 n.toNat + g n
    else t.rx n = m.rx n + g n ∧ t.owed.get 0 n.toNat = m.owed.get 0 n.toNat

theorem Stream.Adds.pc_eq {e : Eng} {f : BitVec 4 → Word} {g : BitVec 5 → Word} {m t : Stream} (h : m.Adds e f g t) :
    t.pc = m.pc := by rw [h.frame]

theorem Stream.Adds.pend_eq {e : Eng} {f : BitVec 4 → Word} {g : BitVec 5 → Word} {m t : Stream} (h : m.Adds e f g t) :
    t.pend = m.pend := by rw [h.frame]

theorem Stream.Adds.trans {e : Eng} {f f' : BitVec 4 → Word} {g g' : BitVec 5 → Word} {m t u : Stream}
    (h : m.Adds e f g t) (h' : t.Adds e f' g' u) : m.Adds e (fun n => f n + f' n) (fun n => g n + g' n) u where
  frame := by
    rw [h'.frame, h.frame]
  ap he := by
    obtain ⟨hx, ho, hr⟩ := h.ap he
    obtain ⟨hx', ho', hr'⟩ := h'.ap he
    exact ⟨hx'.trans hx, ho'.trans ho, fun n => by rw [hr', hr, add_assoc]⟩
  other he := by
    obtain ⟨ha, hn⟩ := h.other he
    obtain ⟨ha', hn'⟩ := h'.other he
    refine ⟨ha'.trans ha, fun n => ?_⟩
    have hn := hn n
    have hn' := hn' n
    simp only [Stream.Owes, h.pend_eq] at hn hn' ⊢
    split at hn
    next hp =>
      rw [if_pos hp] at hn' ⊢
      exact ⟨hn'.1.trans hn.1, by rw [hn'.2, hn.2, add_assoc]⟩
    next hp =>
      rw [if_neg hp] at hn' ⊢
      exact ⟨by rw [hn'.1, hn.1, add_assoc], hn'.2.trans hn.2⟩

/-- What a stride pair adds to an address register: rows (R57). -/
def strideRows (r : BitVec 4) (sd : BitVec 10) (n : BitVec 4) : Word := if n = r then 64 * sd.signExtend 64 else 0

/-- What a stride pair adds to an x register: ones (R57). -/
def strideOnes (r : BitVec 4) (sd : BitVec 10) (n : BitVec 5) : Word :=
  if n.toNat = 16 + r.toNat then sd.signExtend 64 else 0

theorem Stream.adds_refl (e : Eng) (m : Stream) : m.Adds e (fun _ => 0) (fun _ => 0) m where
  frame := rfl
  ap _ := ⟨rfl, rfl, fun n => (add_zero _).symm⟩
  other _ := ⟨rfl, fun n => by simp⟩

theorem toNat_strideX (r : BitVec 4) : (0x10#5 ||| r.setWidth 5).toNat = 16 + r.toNat := strideReg_toNat r

theorem Stream.rx_wx_of_ne_zero (m : Stream) {d : BitVec 5} (hd : d ≠ 0) (r : BitVec 5) (v : Word) :
    (m.wx d v).rx r = if r = d then v else m.rx r := by
  rw [m.rx_wx]
  split
  next hr => rw [hr, if_neg hd.symm, Stream.rx_zero]
  next => rfl

theorem Stream.adds_strideX {e : Eng} (he : e ≠ .ap) (m : Stream) (f : BitVec 4 → Word) {x : BitVec 5} (hx : x ≠ 0)
    (v : Word) :
    m.Adds e f (fun n => if n = x then v else 0) (m.strideX x v) := by
  have hany : m.pend.any (fun a => a.kind.dest = some (.x x)) = true ↔ m.Owes x := by simp [Stream.Owes]
  unfold Stream.strideX
  split
  next h =>
    rw [hany] at h
    refine ⟨rfl, fun h => absurd h he, fun _ => ⟨rfl, fun n => ?_⟩⟩
    by_cases hn : n = x
    · subst hn
      rw [if_pos h, if_pos rfl]
      exact ⟨rfl, Tbl.get_set_self ..⟩
    · have : n.toNat ≠ x.toNat := fun h => hn (BitVec.eq_of_toNat_eq h)
      simp [hn, this, Tbl.get_set_ne, Stream.rx]
  next h =>
    rw [hany] at h
    have hwx := m.wx_eq x (m.rx x + v)
    refine ⟨by rw [hwx], fun h => absurd h he, fun _ => ⟨by rw [hwx], fun n => ?_⟩⟩
    have ho : (m.wx x (m.rx x + v)).owed = m.owed := by rw [hwx]
    rw [m.rx_wx_of_ne_zero hx, ho]
    by_cases hn : n = x
    · subst hn
      simp [h]
    · simp [hn]

/-- One stride pair adds its stride; a stride of 0 adds nothing. -/
theorem Stream.adds_stride (m : Stream) (e : Eng) (r : BitVec 4) (sd : BitVec 10) :
    m.Adds e (strideRows r sd) (strideOnes r sd) (if sd = 0 then m else m.stride e r sd) := by
  split
  next h =>
    have hrows : strideRows r sd = fun _ => 0 := by
      funext n
      simp [strideRows, h]
    have hones : strideOnes r sd = fun _ => 0 := by
      funext n
      simp [strideOnes, h]
    rw [hrows, hones]
    exact m.adds_refl e
  next h =>
    by_cases he : e = .ap
    · have hrow : (sd.signExtend 64) <<< 6 = 64 * sd.signExtend 64 := by
        rw [BitVec.shiftLeft_eq_mul_twoPow, BitVec.mul_comm]
        rfl
      rw [Stream.stride, if_pos he, hrow]
      refine ⟨rfl, fun _ => ⟨rfl, rfl, fun n => ?_⟩, fun hne => absurd he hne⟩
      rw [m.ra_wa, strideRows]
      split
      next hn => rw [hn]
      next => exact (add_zero _).symm
    · have hones : strideOnes r sd = fun n => if n = 0x10#5 ||| r.setWidth 5 then sd.signExtend 64 else 0 := by
        funext n
        rw [strideOnes, ← toNat_strideX r]
        simp only [BitVec.toNat_inj]
      rw [Stream.stride, if_neg he, hones]
      refine m.adds_strideX he _ (fun h0 => ?_) _
      have := toNat_strideX r
      rw [h0] at this
      have hzero : (0 : BitVec 5).toNat = 0 := rfl
      omega

/-! ### The end of an iteration -/

theorem Stream.iterEnd_plain {b : Block} (hk : b.kind = .plain) (m : Stream) (e : Eng) : m.iterEnd e b = m := by
  rw [Stream.iterEnd, hk]

theorem Stream.iterEnd_timed {b : Block} {n : Nat} (hk : b.kind = .timed n) (m : Stream) (e : Eng) : m.iterEnd e b = m := by
  rw [Stream.iterEnd, hk]

theorem Stream.iterEnd_pipelined {b : Block} {st : Nat} (hk : b.kind = .pipelined st) (m : Stream) (e : Eng) :
    m.iterEnd e b = { m with spw := (m.spw <<< 1) ||| (if b.iter + 1 < b.count then 1 else 0) } := by
  rw [Stream.iterEnd, hk]

theorem Stream.adds_iterEnd {b : Block} {ra rb : BitVec 4} {sa sb : BitVec 10} (hk : b.kind = .strided ra sa rb sb)
    (m : Stream) (e : Eng) :
    m.Adds e (fun n => strideRows ra sa n + strideRows rb sb n) (fun n => strideOnes ra sa n + strideOnes rb sb n)
      (m.iterEnd e b) := by
  rw [Stream.iterEnd, hk]
  exact (m.adds_stride e ra sa).trans (Stream.adds_stride _ e rb sb)

theorem Stream.pc_iterEnd (m : Stream) (e : Eng) (b : Block) : (m.iterEnd e b).pc = m.pc := by
  cases hk : b.kind with
  | plain => rw [m.iterEnd_plain hk]
  | timed n => rw [m.iterEnd_timed hk]
  | pipelined st => rw [m.iterEnd_pipelined hk]
  | strided ra sa rb sb => exact (m.adds_iterEnd hk e).pc_eq

theorem Stream.pc_leave (m : Stream) (b : Block) : (m.leave b).pc = m.pc := by
  unfold Stream.leave
  split <;> rfl

/-- Control that does not stand at the end of the innermost body goes on (R52). -/
theorem Stream.seqEnd_inside (m : Stream) (e : Eng) {l : List Block} (h : ∀ o ∈ l.head?, m.pc ≠ o.stop) :
    m.seqEnd e l = { m with blocks := l } := by
  cases l with
  | nil => rfl
  | cons o l => exact if_pos (h o rfl)

section
variable {m : Stream} {e : Eng} {b : Block} {rest : List Block}

theorem Stream.seqEnd_again (hpc : m.pc = b.stop) (hk : ∀ n, b.kind ≠ .timed n) (h : b.iter + 1 < b.total) :
    m.seqEnd e (b :: rest) = { m.iterEnd e b with blocks := { b with iter := b.iter + 1 } :: rest, pc := b.body } := by
  rw [Stream.seqEnd, if_neg (not_not.2 hpc)]
  split
  next n hn => exact absurd hn (hk n)
  next => exact if_pos h

theorem Stream.seqEnd_last (hpc : m.pc = b.stop) (hk : ∀ n, b.kind ≠ .timed n) (h : b.total ≤ b.iter + 1)
    (hrest : ∀ o ∈ rest.head?, b.stop ≠ o.stop) :
    m.seqEnd e (b :: rest) = { (m.iterEnd e b).leave b with blocks := rest } := by
  rw [Stream.seqEnd, if_neg (not_not.2 hpc)]
  split
  next n hn => exact absurd hn (hk n)
  next =>
    rw [if_neg (Nat.not_lt.2 h), Stream.seqEnd_inside]
    rwa [Stream.pc_leave, Stream.pc_iterEnd, hpc]

/-- Each pass of a strided block adds its strides, the last one too (R52). -/
theorem Stream.seqEnd_strided {ra rb : BitVec 4} {sa sb : BitVec 10} (hpc : m.pc = b.stop)
    (hk : b.kind = .strided ra sa rb sb) (hrest : ∀ o ∈ rest.head?, b.stop ≠ o.stop) :
    m.seqEnd e (b :: rest) = { m.iterEnd e b with
      pc := if b.iter + 1 < b.count then b.body else b.stop
      blocks := if b.iter + 1 < b.count then { b with iter := b.iter + 1 } :: rest else rest } := by
  have htotal : b.total = b.count := by simp [Block.total, hk]
  split
  next h => exact Stream.seqEnd_again hpc (by simp [hk]) (by rwa [htotal])
  next h =>
    rw [Stream.seqEnd_last hpc (by simp [hk]) (by omega) hrest, Stream.leave, hk, ← hpc, ← m.pc_iterEnd e b]

theorem Stream.seqEnd_timed {n : Nat} (hpc : m.pc = b.stop) (hk : b.kind = .timed n) :
    m.seqEnd e (b :: rest) = { m with blocks := { b with iter := b.iter + 1, idle := true } :: rest } := by
  rw [Stream.seqEnd, if_neg (not_not.2 hpc), m.iterEnd_timed hk, hk]

end

/-- A word outside a delay window and a repetition completes by going on in sequence. -/
theorem Stream.complete_of_plain {m : Stream} (e : Eng) (hw : m.window = none) (hr : m.repOn = false)
    {l : List Block} (hl : m.blocks = l) :
    m.complete e = ({ m with busy := m.busy + 1, wait := .none, pc := m.npc } : Stream).seqEnd e l := by
  subst hl
  simp [Stream.complete, hr, hw]

/-- Settles O10: the pc stands at the end of the innermost body alone, so that one iteration of one block ends. -/
theorem aBodyRepeatsUntilItsCountIsSpent : Obligations.ABodyRepeatsUntilItsCountIsSpent := by
  intro m e b rest hb hpc hw hr hrest
  rw [m.complete_of_plain e hw hr hb]
  refine ⟨fun hk h => ?_, fun hk h => ?_, fun st hk h => ?_, fun st hk h => ?_, fun n hk => ?_, fun ra sa rb sb hk => ?_⟩
  · rw [Stream.seqEnd_again hpc (by simp [hk]) (by simpa [Block.total, hk] using h), Stream.iterEnd_plain hk]
  · rw [Stream.seqEnd_last hpc (by simp [hk]) (by simpa [Block.total, hk] using h) hrest, Stream.iterEnd_plain hk,
      Stream.leave, hk, hpc]
  · rw [Stream.seqEnd_again hpc (by simp [hk]) (by simpa [Block.total, hk] using h), Stream.iterEnd_pipelined hk]
  · rw [Stream.seqEnd_last hpc (by simp [hk]) (by simpa [Block.total, hk] using h) hrest, Stream.iterEnd_pipelined hk,
      Stream.leave, hk, hpc]
  · rw [Stream.seqEnd_timed hpc hk, hpc]
  · rw [Stream.seqEnd_strided hpc hk hrest]
    have h := Stream.adds_iterEnd hk { m with busy := m.busy + 1, wait := .none, pc := m.npc } e
    refine ⟨?frame, fun he => ?ap, h.other⟩
    case frame =>
      have hf := h.frame
      rw [hf]
    case ap =>
      obtain ⟨hx, ho, hr⟩ := h.ap he
      exact ⟨hx, ho, fun n => (hr n).trans (add_assoc ..).symm⟩

end Sys2Proof.Machine
end

section
/-! PROOFS. `rep` and its repetitions (07_control.md, R165 to R168), and the fetch that arrives (R61): O12. -/

namespace Sys2Proof.Machine

/-! ### One stream changed -/

theorem State.stream_modStream (s : State) (id id' : StreamId) (f : Stream → Stream) :
    (s.modStream id f).stream id' = if id' = id then f (s.stream id) else s.stream id' := by
  obtain ⟨c, e⟩ := id
  obtain ⟨c', e'⟩ := id'
  unfold State.modStream State.setStream
  simp only [State.stream, State.core_setCore, StreamId.mk.injEq]
  by_cases hc : c' = c
  · rw [if_pos hc, Core.stream_setStream, hc]
    simp only [true_and]
  · simp [hc]

/-- A change of a stream changes no byte. -/
theorem State.sameBytes_modStream (s : State) (id : StreamId) (f : Stream → Stream) : s.SameBytes (s.modStream id f) := by
  obtain ⟨-, -, -, h⟩ := State.onlyMe_modMe { s with cur := id } f
  exact h

/-! ### rep and its repetitions -/

section
variable {s : State} {n : BitVec 6} {d a b : BitVec 2} (hword : repWordOk (s.code s.cur.core) s.me.npc b = true)
  (hstop : ∀ o ∈ s.me.blocks, s.me.npc + 4 ≤ o.stop)
include hword hstop

theorem exec_rep : exec (.rep n d a b) s =
    if n = 0 then .next (s.modMe (fun m => { m with npc := m.npc + 4, repc := 0, repOld := false }))
    else .next (s.modMe (fun m => { m with
      repOn := true, repOld := false, npc := m.pc
      repc := if m.repc = 0 ∨ m.repOld then n.toNat else m.repc })) := by
  have hany : s.me.blocks.any
      (fun b => decide (b.stop < s.me.npc + 4) && decide (s.me.pc < b.stop) && decide (b.body ≤ s.me.pc)) = false := by
    rw [List.any_eq_false]
    intro o ho
    simp [Nat.not_lt.2 (hstop o ho)]
  change execRep n d a b s = _
  rw [execRep, hword, hany]
  rfl

theorem GivesMe.rep (hn : n ≠ 0) : GivesMe (.rep n d a b) s { s.me with
    repOn := true, repOld := false, npc := s.me.pc
    repc := if s.me.repc = 0 ∨ s.me.repOld = true then n.toNat else s.me.repc } :=
  .of_modMe ((exec_rep hword hstop).trans (if_neg hn))

theorem GivesMe.rep_zero (hn : n = 0) :
    GivesMe (.rep n d a b) s { s.me with npc := s.me.npc + 4, repc := 0, repOld := false } :=
  .of_modMe ((exec_rep hword hstop).trans (if_pos hn))

end

section
variable {m : Stream} (e : Eng) (hon : m.repOn = true) (hpc : m.npc ≠ m.pc)
include hon hpc

/-- A repetition that is not the last counts REPC down, and the word issues again (R165, R168). -/
theorem Stream.complete_repetition (h : 1 < m.repc) :
    m.complete e = { m with busy := m.busy + 1, wait := .none, repc := m.repc - 1 } := by
  have h0 : m.repc - 1 ≠ 0 := by omega
  simp [Stream.complete, hon, hpc, h0]

/-- Behind the last repetition control goes on in sequence (R165, R168). -/
theorem Stream.complete_last_repetition (hw : m.window = none) (h : m.repc = 1) :
    m.complete e = ({ m with
      busy := m.busy + 1, wait := .none, repc := 0, repOn := false, pc := m.npc } : Stream).seqEnd e m.blocks := by
  simp [Stream.complete, hon, hpc, hw, h]

end

/-- Settles O12: the checks of `rep` pass, and a repetition is counted where its word completes. -/
theorem repNopAndFetchArrival : Obligations.RepNopAndFetchArrival := by
  refine ⟨fun s n d a b pcn e => ⟨fun hword hstop => ⟨GivesMe.rep hword hstop, GivesMe.rep_zero hword hstop⟩, rfl,
    fun hf => ?arrival⟩, fun m e hon hpc hw hend => ⟨m.complete_repetition e hon hpc, fun h => ?last⟩⟩
  case arrival =>
    refine ⟨_, if_pos hf, ?_, s.sameBytes_modStream _ _, fun id hid => ?_⟩
    · exact (s.stream_modStream ..).trans (if_pos rfl)
    · exact (s.stream_modStream ..).trans (if_neg hid)
  case last =>
    rw [m.complete_last_repetition e hon hpc hw h, Stream.seqEnd_inside _ _ hend]

end Sys2Proof.Machine
end

section
/-! PROOFS. What a step adds around an instruction (03_encoding.md, R49, R50, R72). The turn of a stream that nothing keeps is
the issue of its next word; one lemma per outcome of `issueWith` and of `issued`. O59 is assembled from them. -/

namespace Sys2Proof.Machine

/-! ### The turn of a stream -/

/-- Nothing keeps the stream from its next word (R61, R144, R148, R269). -/
structure State.Ready (s : State) (id : StreamId) : Prop where
  may : s.mayIssue id = true
  stays : (s.stream id).spent = true ∨ s.divertsTo id = none
  waits : (s.stream id).wait = .none ∨ (s.stream id).wait = .again ∨ (s.stream id).wait.isArriving = true
  idling : (s.stream id).idling = false
  fenced : (s.stream id).fenced = false
  fetched : (s.stream id).fetched = true

theorem State.streamTurn_of_ready {s : State} {id : StreamId} (h : s.Ready id) : s.streamTurn id = s.issueWord id := by
  have hstay : (if (s.stream id).spent then none else s.divertsTo id) = none := by
    obtain hs | hd := h.stays
    · exact if_pos hs
    · rw [hd, ite_self]
  have hwait : ¬((s.stream id).wait ≠ .none ∧ (s.stream id).wait ≠ .again ∧ !(s.stream id).wait.isArriving) := by
    rintro ⟨h0, h1, h2⟩
    obtain hw | hw | hw := h.waits
    · exact h0 hw
    · exact h1 hw
    · simp [hw] at h2
  unfold State.streamTurn
  simp only [h.may, hstay, hwait, h.idling, h.fenced, h.fetched]
  rfl

section
variable {s : State} {id : StreamId}

theorem State.issueWord_of_word {i : Instr} {len : Nat} (hrep : (s.stream id).repOn = false)
    (hd : decode (codeAt (s.code id.core) (s.stream id).pc) = .ok i len) :
    s.issueWord id = s.issueWith id i (s.stream id).pc len false := by
  simp [State.issueWord, hrep, hd]

theorem State.issueWord_of_repetition {i : Instr} (hrep : (s.stream id).repOn = true)
    (hd : repetition (s.code id.core) (s.stream id).pc (s.stream id).repc = some i) :
    s.issueWord id = s.issueWith id i ((s.stream id).pc + 2) 4 true := by
  simp [State.issueWord, hrep, hd]

theorem State.issueWord_of_illegal (hrep : (s.stream id).repOn = false)
    (hd : decode (codeAt (s.code id.core) (s.stream id).pc) = .illegal) :
    s.issueWord id = exec .unassignedEncoding (s.issuing id (s.stream id).pc) := by
  simp [State.issueWord, hrep, hd]

theorem State.issueWord_of_blockForm (hrep : (s.stream id).repOn = false)
    (hd : decode (codeAt (s.code id.core) (s.stream id).pc) = .blockForm) :
    s.issueWord id = .next (s.streamFault id .blockForm 0) := by
  simp [State.issueWord, hrep, hd]

end

/-! ### The issue of a decoded word -/

/-- The word waits at its pc: for a register, or for its turn on a barrier (R171, R297). -/
def State.Stalled (s : State) (id : StreamId) (i : Instr) : Prop :=
  s.stalls id i = true ∨ (∃ x, countReg i = some x ∧ s.pending id (.x x) = true) ∨ s.barLate id i = true

theorem State.stalled_iff (s : State) (id : StreamId) (i : Instr) :
    (s.stalls id i || (match countReg i with | some x => s.pending id (.x x) | none => false) || s.barLate id i) = true
    ↔ s.Stalled id i := by
  unfold State.Stalled
  cases countReg i <;> simp [or_assoc]

section
variable {s : State} {id : StreamId} {i : Instr} {at_ len : Nat} {repeated : Bool}

theorem State.issueWith_of_fault {f : KFault} (h : s.wordFault id i at_ len repeated = some f) :
    s.issueWith id i at_ len repeated = .next (s.streamFault id f 0) := by
  rw [State.issueWith, h]

variable (hf : s.wordFault id i at_ len repeated = none)
include hf

theorem State.issueWith_of_suppressed (hp : s.permits id i at_ = false) :
    s.issueWith id i at_ len repeated = .next ((s.issuing id (at_ + len)).complete id) := by
  rw [State.issueWith, hf, hp]
  rfl

variable (hp : s.permits id i at_ = true)
include hp

theorem State.issueWith_of_stalled (hs : s.Stalled id i) : s.issueWith id i at_ len repeated = .next s := by
  rw [State.issueWith, hf, hp]
  exact if_pos ((s.stalled_iff id i).2 hs)

theorem State.issueWith_of_exec {u : State} (hs : ¬s.Stalled id i) (hu : exec i (s.issuing id (at_ + len)) = .next u) :
    s.issueWith id i at_ len repeated = .next (s.issued (s.issuing id (at_ + len)) u id) := by
  rw [State.issueWith, hf, hp]
  refine (if_neg (mt (s.stalled_iff id i).1 hs)).trans ?_
  rw [hu]

end

section
variable {s t u : State} {id : StreamId}

theorem State.issued_at_once (h : t.extraCycles u id = 0) : s.issued t u id = u.afterWord id := if_pos h

theorem State.issued_first_cycle (h : t.extraCycles u id ≠ 0) (hs : (s.stream id).spent = false) :
    s.issued t u id = s.modStream id (fun m => { m with busy := m.busy + t.extraCycles u id, spent := true }) :=
  (if_neg h).trans (if_neg (by simp [hs]))

theorem State.issued_last_cycle (h : t.extraCycles u id ≠ 0) (hs : (s.stream id).spent = true) :
    s.issued t u id = (u.modStream id (fun m => { m with busy := (t.stream id).busy })).afterWord id :=
  (if_neg h).trans (if_pos hs)

end

/-- The outcomes of a word that issues, in the order of its checks. -/
theorem settled_issueWith {s : State} {id : StreamId} {i : Instr} {at_ len : Nat} {repeated : Bool} {o : Out}
    (h : o = settled (s.issueWith id i at_ len repeated)) (f : KFault) (u : State) :
    let t := s.issuing id (at_ + len)
    (s.wordFault id i at_ len repeated = some f → o = .next (s.streamFault id f 0).settle)
    ∧ (s.wordFault id i at_ len repeated = none →
        (s.permits id i at_ = false → o = .next (t.complete id).settle)
        ∧ (s.permits id i at_ = true → s.Stalled id i → o = .next s.settle)
        ∧ (s.permits id i at_ = true → ¬s.Stalled id i → exec i t = .next u →
            (t.extraCycles u id = 0 → o = .next (u.afterWord id).settle)
            ∧ (t.extraCycles u id ≠ 0 → (s.stream id).spent = false → o = .next
                (s.modStream id (fun m => { m with busy := m.busy + t.extraCycles u id, spent := true })).settle)
            ∧ (t.extraCycles u id ≠ 0 → (s.stream id).spent = true → o = .next
                ((u.modStream id (fun m => { m with busy := (t.stream id).busy })).afterWord id).settle))) := by
  subst h
  refine ⟨fun hf => ?_, fun hf => ⟨fun hp => ?_, fun hp hs => ?_, fun hp hs hu => ?_⟩⟩
  · rw [State.issueWith_of_fault hf, settled]
  · rw [State.issueWith_of_suppressed hf hp, settled]
  · rw [State.issueWith_of_stalled hf hp hs, settled]
  · rw [State.issueWith_of_exec hf hp hs hu, settled]
    refine ⟨fun h => ?_, fun h hs => ?_, fun h hs => ?_⟩
    · rw [State.issued_at_once h]
    · rw [State.issued_first_cycle h hs]
    · rw [State.issued_last_cycle h hs]

/-! ### The agenda's first turn -/

section
variable {s : State} {r : List Turn}

/-- What keeps a stream does not read the agenda. -/
theorem State.Ready.of_agenda {id : StreamId} (h : s.Ready id) : ({ s with agenda := r } : State).Ready id :=
  ⟨h.may, h.stays, h.waits, h.idling, h.fenced, h.fetched⟩

theorem step_of_agenda {t : Turn} (h : s.agenda = t :: r) : step s = settled (({ s with agenda := r } : State).take t) := by
  rw [step, State.turn, h]

theorem step_of_ready {pcn : Nat} {eng : Eng} (h : s.agenda = .stream pcn eng :: r) (hp : pcn < 512)
    (hr : s.Ready ⟨pcn, eng⟩) : step s = settled (({ s with agenda := r } : State).issueWord ⟨pcn, eng⟩) := by
  rw [step_of_agenda h, State.take, if_pos hp, State.streamTurn_of_ready hr.of_agenda]

end

theorem opcode_of_decodePort {w : BitVec 32} {i : Instr} (h : decodePort w = some i) : w.extractLsb' 0 7 = 0x0B#7 := by
  unfold decodePort at h
  split at h
  next hw => exact hw.1
  next => cases h

theorem State.serviceTurn_of_port {s : State} {port : Nat} {w : BitVec 32} {i : Instr} (hh : (s.die port).healthy = true)
    (hd : decodePort w = some i) : s.serviceTurn port w = exec i { s with port := port } := by
  simp [State.serviceTurn, hh, hd, opcode_of_decodePort hd]

/-- Settles O59: the turn of a ready stream is the issue of the word that its bytes decode to, whose outcomes are the
lemmas about `issueWith`. -/
theorem stepRunsDecoded : Obligations.StepRunsDecoded := by
  intro s r pcn eng i len f u id m code now
  refine ⟨fun hr hrep hd => ?word, fun hr hrep hd hlen => ?rep, fun hr hrep hd hu => ?illegal, fun hr hrep hd => ?form,
    fun port w ha hp hh hd hu => ?service, fun ha he hne hu => ?event⟩
  case' word | rep | illegal | form =>
    obtain ⟨ha, hp, hmay, hstays, hwaits, hidling, hfenced, hfetched⟩ := hr
    have hstep : step s = settled (now.issueWord id) :=
      step_of_ready ha hp ⟨hmay, hstays, hwaits, hidling, hfenced, hfetched⟩
  case word => exact settled_issueWith (hstep.trans (congrArg settled (State.issueWord_of_word hrep hd))) f u
  case rep =>
    subst hlen
    exact settled_issueWith (hstep.trans (congrArg settled (State.issueWord_of_repetition hrep hd))) f u
  case illegal => exact hstep.trans (congrArg settled ((State.issueWord_of_illegal (s := now) hrep hd).trans hu))
  case form => exact hstep.trans (congrArg settled (State.issueWord_of_blockForm (s := now) hrep hd))
  case service =>
    rw [step_of_agenda ha, State.take, if_pos hp]
    exact congrArg settled ((State.serviceTurn_of_port (s := now) hh hd).trans hu)
  case event =>
    have hev : isEvent i = true := by simp [isEvent, he, hne]
    rw [step_of_agenda ha, State.take, if_pos hev]
    exact congrArg settled hu

end Sys2Proof.Machine
end

section
/-! PROOFS. The tr major (05_tract.md, R110, R111, R115, R122 to R124): O25. A change of the issuing stream's core that keeps
its scratchpad, the events of a tract as changes of that tract alone, and each form of tr from them. -/

namespace Sys2Proof.Machine

/-! ### Bits of a word -/

theorem bit_eq_getLsbD (w : Word) (n : Nat) : bit w n = w.getLsbD n := by
  simp [bit, BitVec.getLsbD, Nat.testBit_eq_decide_div_mod_eq]

/-! ### The issuing stream's core changed -/

theorem State.onlyMyCore_modMyCore (s : State) {f : Core → Core} (h : (f s.myCore).sp = s.myCore.sp) :
    s.OnlyMyCore (s.modMyCore f) := by
  have hcore : ∀ c, (s.modMyCore f).core c = if c = s.cur.core then f s.myCore else s.core c := fun c =>
    s.core_setCore s.cur.core c _
  refine ⟨rfl, fun c hc => by rw [hcore, if_neg hc], fun _ => rfl, fun _ _ => rfl, fun c a => ?_⟩
  rw [hcore]
  split
  next hc => rw [h, hc]; rfl
  next => rfl

theorem GivesCore.of_modMyCore {i : Instr} {s : State} {f : Core → Core} (hsp : (f s.myCore).sp = s.myCore.sp)
    (h : exec i s = .next (s.modMyCore f)) : GivesCore i s (f s.myCore) :=
  ⟨_, h, s.onlyMyCore_modMyCore hsp, s.core_setCore_self ..⟩

/-! ### Events of a tract -/

/-- From s to t the compute side has changed in one tract alone, which has become v. -/
structure State.OnlyTract (s t : State) (pcl : Nat) (v : Tract) : Prop where
  cores : t.cores = s.cores
  kernels : t.kernels = s.kernels
  cur : t.cur = s.cur
  self : t.tract pcl = v
  other : ∀ n, n ≠ pcl → t.tract n = s.tract n

theorem State.onlyTract_setTract (s : State) (pcl : Nat) (v : Tract) : s.OnlyTract (s.setTract pcl v) pcl v :=
  ⟨rfl, rfl, rfl, s.tract_setTract_self .., fun n hn => by rw [s.tract_setTract, if_neg hn]⟩

theorem State.OnlyTract.then_report {s t u : State} {pcl : Nat} {v : Tract} (h : s.OnlyTract t pcl v) (hu : t.SameCompute u) :
    s.OnlyTract u pcl v := by
  obtain ⟨hcores, hkernels, htracts, hcur⟩ := hu
  have htract : ∀ n, u.tract n = t.tract n := fun n => by simp only [State.tract, htracts]
  exact ⟨hcores.trans h.cores, hkernels.trans h.kernels, hcur.trans h.cur, (htract pcl).trans h.self,
    fun n hn => (htract n).trans (h.other n hn)⟩

theorem State.OnlyTract.trans {s t u : State} {pcl : Nat} {v w : Tract} (h : s.OnlyTract t pcl v)
    (hu : t.OnlyTract u pcl w) : s.OnlyTract u pcl w :=
  ⟨hu.cores.trans h.cores, hu.kernels.trans h.kernels, hu.cur.trans h.cur, hu.self,
    fun n hn => (hu.other n hn).trans (h.other n hn)⟩

theorem State.sameCompute_stileFlow (s : State) (pcl : Nat) : s.SameCompute (s.stileFlow pcl) := by
  refine State.sameCompute_foldl _ (fun s n => ?_) _ s
  dsimp only
  split
  · split
    · exact ⟨rfl, rfl, rfl, rfl⟩
    · split <;> exact ⟨rfl, rfl, rfl, rfl⟩
  · exact .refl s

/-- An event of a tract is reported to the queue that bound it (R115). -/
theorem State.onlyTract_tractEvent (s : State) (pcl index : Nat) :
    s.OnlyTract (s.tractEvent pcl index) pcl { s.tract pcl with evt := true } := by
  refine (s.onlyTract_setTract pcl { s.tract pcl with evt := true }).then_report ?_
  have hlog (t : State) : t.SameCompute (t.tractLog pcl index) := t.sameCompute_log ..
  unfold State.tractEvent
  dsimp only
  refine (hlog _).trans ?_
  split
  · exact .refl _
  · split
    · exact .refl _
    · exact (State.sameCompute_modQueue ..).trans (State.sameCompute_notify ..)

/-- What an entry of a state that raises an event does to the compute side (R113, R115). -/
theorem State.onlyTract_enterTract (s : State) (pcl : Nat) (t : Tract) :
    s.OnlyTract (s.enterTract pcl t) pcl { t with changed := t.ticking, evt := true } := by
  have hset := (s.onlyTract_setTract pcl { t with changed := t.ticking }).then_report (State.sameCompute_stileFlow _ pcl)
  have hevent := State.onlyTract_tractEvent ((s.setTract pcl { t with changed := t.ticking }).stileFlow pcl) pcl t.state.num
  rw [hset.self] at hevent
  exact hset.trans hevent

/-! ### The forms of tr -/

section
variable {s : State}

/-- `tr.at` of a cycle that the tract's samples have, and of one that they have not (R123, R124). -/
theorem tractAt_outcome {i : Instr} {k n : Nat} (hk : s.myCore.kernel = some k) (hf : (s.kernel k).Faultable)
    (hi : exec i s = s.trAt n) :
    let t := s.tractOf s.cur.core
    if n < (t.n + t.m - 1) / t.m then GivesMe i s { s.me with busy := s.me.busy + 1, wait := .trAt n }
    else TakesFault i s k .badCycle 0 := by
  intro t
  split
  next h =>
    exact GivesMe.of_modMe (f := fun m => { m with busy := m.busy + 1, wait := .trAt n }) (hi.trans (if_neg (Nat.not_le.2 h)))
  next h => exact TakesFault.of_streamFault hk hf (hi.trans (if_pos (Nat.not_lt.1 h)))

theorem GivesCore.trOtap {i : BitVec 2} {a : BitVec 5} (h : s.myCore.otapBy ≤ s.cur.eng.num + 1) :
    GivesCore (.trOtap i a) s { s.myCore with otap := s.rx a, otapBy := s.cur.eng.num + 1 } :=
  GivesCore.of_modMyCore (f := fun c => { c with otap := s.rx a, otapBy := s.cur.eng.num + 1 }) rfl
    (congrArg Host.Outcome.next (if_neg (Nat.not_lt.2 h)))

/-- The cycle that a `tr.at` waits for has come to the issuing stream (R124). -/
theorem execTrAtRelease_of_due {n : Nat} (hlive : s.live s.cur.core = true) (hbusy : s.me.busy = 0)
    (hissuing : (s.tractOf s.cur.core).issuing = true) (hcycle : (s.tractOf s.cur.core).scyc = n) :
    (s.me.wait = .trAt n → (s.me.complete s.cur.eng).idling = false → execTrAtRelease s.cur.core s.cur.eng s
      = .next ((s.complete s.cur).modMe (fun m => { m with busy := m.busy - 1 })))
    ∧ (s.me.wait = .trAtPast n → execTrAtRelease s.cur.core s.cur.eng s
      = .next (s.modMe (fun m => { m with wait := .none }))) := by
  have hm : s.stream ⟨s.cur.core, s.cur.eng⟩ = s.me := rfl
  refine ⟨fun hw hidle => ?_, fun hw => ?_⟩
  · simp only [execTrAtRelease, hm, hw, hlive, hissuing, hbusy, hcycle, hidle, Bool.and_self, decide_true, Bool.not_false,
      if_true]
    rfl
  · simp only [execTrAtRelease, hm, hw, hlive, hissuing, hbusy, hcycle, Bool.and_self, decide_true, if_true]
    rfl

end

/-! ### tr.ack -/

/-- A tract's sticky bits and SLIPC after `tr.ack` with a mask (R111, R115): a slip or an event of the same cycle stands. -/
def Tract.acked (t : Tract) (k : Word) : Tract :=
  { t with
    evt := t.evt && (!k.getLsbD 4 || t.changed), slip := t.slip && (!k.getLsbD 6 || t.slipped != 0)
    range := t.range && !k.getLsbD 7, ceil := t.ceil && !k.getLsbD 8
    slipc := if k.getLsbD 0 then BitVec.ofNat 32 t.slipped else t.slipc }

section
variable {s : State} {a : BitVec 5}

theorem execTrAck_eq : execTrAck a s =
    let pcl := s.cur.core / 8
    let t := s.tract pcl
    let u := s.enterTract pcl { t.acked (s.rx a) with state := .locked }
    if (s.rx a).getLsbD 6 = true ∧ t.state = .slipped ∧ t.changed = false
    then .next (if t.slipped = 0 then u else u.enterTract pcl { u.tract pcl with state := .slipped })
    else .next (s.setTract pcl (t.acked (s.rx a))) := by
  simp only [execTrAck, bit_eq_getLsbD, cluster, Tract.acked, Bool.not_eq_true']

/-- The acknowledgement returns a tract from SLIPPED to LOCKED, and a slip of the same cycle takes it back (R113, R115). -/
theorem execTrAck_of_slipped {t : Tract} (ht : s.tract (s.cur.core / 8) = t) (hmask : (s.rx a).getLsbD 6 = true)
    (hstate : t.state = .slipped) (hchanged : t.changed = false) : ∃ u v, execTrAck a s = .next u
      ∧ s.OnlyTract u (s.cur.core / 8) v ∧ v.evt = true ∧ v.state = (if t.slipped = 0 then .locked else .slipped)
      ∧ v.slip = (t.slip && t.slipped != 0) := by
  subst ht
  have hexec := execTrAck_eq.trans (if_pos ⟨hmask, hstate, hchanged⟩)
  have hlock := s.onlyTract_enterTract (s.cur.core / 8) { (s.tract (s.cur.core / 8)).acked (s.rx a) with state := .locked }
  have hslip : ((s.tract (s.cur.core / 8)).acked (s.rx a)).slip
      = ((s.tract (s.cur.core / 8)).slip && (s.tract (s.cur.core / 8)).slipped != 0) := by
    simp only [Tract.acked, hmask, Bool.not_true, Bool.false_or]
  by_cases hz : (s.tract (s.cur.core / 8)).slipped = 0
  · exact ⟨_, _, hexec.trans (congrArg _ (if_pos hz)), hlock, rfl, (if_pos hz).symm, hslip⟩
  · refine ⟨_, _, hexec.trans (congrArg _ (if_neg hz)), hlock.trans (State.onlyTract_enterTract ..), rfl, (if_neg hz).symm, ?_⟩
    rw [hlock.self]
    exact hslip

end

end Sys2Proof.Machine

namespace Sys2Proof
open Machine

/-- Settles O25: each form is one change of the issuing stream, of its core or of its tract. -/
theorem tractWords : Obligations.TractWords := by
  intro s i d a k15 k11 k hk hf t pcl at_ cycles
  have rd (sel : BitVec 5) : GivesX (.trRd i d sel) s d (s.tractReg sel.toNat) := GivesX.of_wx rfl
  refine ⟨GivesX.of_wx rfl, GivesX.of_wx rfl, rd 0, rd 1, rd 2, rd 3, rd 4, rd 5, rd 6, rd 7, GivesCore.trOtap,
    fun h => congrArg Host.Outcome.next (if_pos h), tractAt_outcome hk hf rfl, tractAt_outcome hk hf rfl,
    tractAt_outcome hk hf rfl, fun n hlive hbusy hissuing hcycle => ?release, fun h => ?ack, fun hmask hstate hchanged => ?back⟩
  case release =>
    obtain ⟨hat, hpast⟩ := execTrAtRelease_of_due hlive hbusy hissuing hcycle
    refine ⟨fun hw hidle => ⟨_, hat hw hidle, ?_⟩, fun hw => GivesMe.of_modMe (f := fun m => { m with wait := .none }) (hpast hw)⟩
    rw [State.complete, ← State.modMe, State.modMe_modMe]
    exact ⟨s.onlyMe_modMe _, s.me_modMe _⟩
  case ack =>
    have hcond : ¬((s.rx a).getLsbD 6 = true ∧ t.state = .slipped ∧ t.changed = false) := by
      rintro ⟨hmask, hstate, hchanged⟩
      rcases h with h | h | h
      · exact absurd hmask (by rw [h]; decide)
      · exact h hstate
      · exact absurd hchanged (by rw [h]; decide)
    exact ⟨_, execTrAck_eq.trans (if_neg hcond), rfl, .refl s, (s.onlyTract_setTract pcl _).other,
      s.tract_setTract_self ..⟩
  case back =>
    obtain ⟨u, v, hexec, hu, hevt, hv, hslip⟩ := execTrAck_of_slipped (t := t) rfl hmask hstate hchanged
    refine ⟨u, hexec, hu.cores, by rw [hu.self, hevt], fun h => ?_, fun h => ?_⟩
    · rw [hu.self, hv, hslip, h]
      exact ⟨rfl, Bool.and_false _⟩
    · rw [hu.self, hv, hslip, if_neg h, bne_iff_ne.2 h]
      exact ⟨rfl, Bool.and_true _⟩

end Sys2Proof
end

section
/-! PROOFS. The sti major (05_tract.md, R125 to R131): O26. A fold over the units of a list changes one unit where it comes
to it; the puts of a tract cycle enter their stiles as it ends; and each form of sti from the checks of `State.sti`. -/

namespace Sys2Proof.Machine

/-! ### Folds over units

What one reading of a state becomes in a fold whose other steps leave it alone. -/

section
variable {σ κ υ : Type} {step : σ → κ → σ} {get : σ → υ} {n : κ}

theorem foldl_inv {I : σ → Prop} {l : List κ} (hI : ∀ m ∈ l, ∀ s, I s → I (step s m)) {s : σ} (h : I s) :
    I (l.foldl step s) :=
  List.foldlRecOn l step h (fun s hs m hm => hI m hm s hs)

theorem foldl_outside {I : σ → Prop} {l : List κ} (hI : ∀ m ∈ l, ∀ s, I s → I (step s m))
    (hget : ∀ m ∈ l, ∀ s, I s → m ≠ n → get (step s m) = get s) (hn : n ∉ l) {s : σ} (h : I s) :
    get (l.foldl step s) = get s := by
  have hstep : ∀ m ∈ l, ∀ t, I t ∧ get t = get s → I (step t m) ∧ get (step t m) = get s := fun m hm t ⟨ht, hgt⟩ =>
    ⟨hI m hm t ht, (hget m hm t ht (fun hmn => hn (hmn ▸ hm))).trans hgt⟩
  exact (foldl_inv (I := fun t => I t ∧ get t = get s) hstep ⟨h, rfl⟩).2

/-- The fold comes to the unit once, in a state that reads as the first one and keeps what every step keeps. -/
theorem foldl_at {I : σ → Prop} {l : List κ} (hI : ∀ m ∈ l, ∀ s, I s → I (step s m))
    (hget : ∀ m ∈ l, ∀ s, I s → m ≠ n → get (step s m) = get s) (hl : l.Nodup) (hn : n ∈ l) {s : σ} (h : I s) :
    ∃ t, I t ∧ get t = get s ∧ get (l.foldl step s) = get (step t n) := by
  obtain ⟨before, after, rfl⟩ := List.append_of_mem hn
  obtain ⟨-, hafter, hapart⟩ := List.nodup_append.1 hl
  have hbefore : n ∉ before := fun hm => hapart n hm n List.mem_cons_self rfl
  have hIb : ∀ m ∈ before, ∀ s, I s → I (step s m) := fun m hm => hI m (List.mem_append_left _ hm)
  have ht := foldl_inv hIb h
  refine ⟨before.foldl step s, ht, foldl_outside hIb (fun m hm => hget m (List.mem_append_left _ hm)) hbefore h, ?_⟩
  rw [List.foldl_append, List.foldl_cons]
  have hmem : ∀ m ∈ after, m ∈ before ++ n :: after := fun m hm => List.mem_append_right _ (List.mem_cons_of_mem n hm)
  exact foldl_outside (fun m hm => hI m (hmem m hm)) (fun m hm => hget m (hmem m hm)) (List.nodup_cons.1 hafter).1
    (hI n hn _ ht)

end

theorem mem_stilesOf {die n : Nat} : n ∈ stilesOf die ↔ n / 32 = die := by
  simp only [stilesOf, List.mem_map, List.mem_range]
  exact ⟨fun ⟨m, hm, h⟩ => by omega, fun h => ⟨n % 32, by omega, by omega⟩⟩

theorem nodup_stilesOf (die : Nat) : (stilesOf die).Nodup :=
  List.Nodup.map (fun _ _ h => by simpa using h) List.nodup_range

/-! ### Cores and streams changed -/

theorem State.SameBytes.trans {s t u : State} (h : s.SameBytes t) (h' : t.SameBytes u) : s.SameBytes u := by
  obtain ⟨hmem, hws, hsp⟩ := h
  obtain ⟨hmem', hws', hsp'⟩ := h'
  exact ⟨fun a => (hmem' a).trans (hmem a), fun d a => (hws' d a).trans (hws d a), fun c a => (hsp' c a).trans (hsp c a)⟩

/-- From s to t nothing has changed but the cores, and of them no scratchpad, no OTAP and no kernel. -/
structure State.OnlyCores (s t : State) : Prop where
  frame : t = { s with cores := t.cores }
  sp : ∀ c, (t.core c).sp = (s.core c).sp
  otap : ∀ c, (t.core c).otap = (s.core c).otap
  kernel : ∀ c, (t.core c).kernel = (s.core c).kernel

theorem State.OnlyCores.refl (s : State) : s.OnlyCores s := ⟨rfl, fun _ => rfl, fun _ => rfl, fun _ => rfl⟩

theorem State.OnlyCores.trans {s t u : State} (h : s.OnlyCores t) (h' : t.OnlyCores u) : s.OnlyCores u where
  frame := h'.frame.trans (by rw [h.frame])
  sp c := (h'.sp c).trans (h.sp c)
  otap c := (h'.otap c).trans (h.otap c)
  kernel c := (h'.kernel c).trans (h.kernel c)

theorem State.OnlyCores.sameBytes {s t : State} (h : s.OnlyCores t) : s.SameBytes t := by
  refine ⟨fun a => ?_, fun d a => ?_, fun c a => by rw [h.sp]⟩ <;>
    rw [h.frame]
  all_goals rfl

theorem State.OnlyCores.stile {s t : State} (h : s.OnlyCores t) (n : Nat) : t.stile n = s.stile n := by
  rw [h.frame]
  rfl

theorem State.onlyCores_modCore (s : State) (n : Nat) {f : Core → Core} (hsp : ∀ c, (f c).sp = c.sp)
    (hotap : ∀ c, (f c).otap = c.otap) (hkernel : ∀ c, (f c).kernel = c.kernel) : s.OnlyCores (s.modCore n f) := by
  have hcore : ∀ c, (s.modCore n f).core c = if c = n then f (s.core n) else s.core c := fun c => s.core_setCore n c _
  constructor
  case frame => rfl
  all_goals
    intro c
    rw [hcore]
    split
    next h => simp only [h, hsp, hotap, hkernel]
    next => rfl

theorem State.onlyCores_modStream (s : State) (id : StreamId) (f : Stream → Stream) : s.OnlyCores (s.modStream id f) := by
  have h := s.onlyCores_modCore id.core (f := fun c => c.setStream id.eng (f (s.stream id)))
    (fun c => by simp) (fun c => by simp) (fun c => by simp)
  exact h

theorem State.onlyCores_foldl {α : Type} {f : State → α → State} (h : ∀ (s : State) (a : α), s.OnlyCores (f s a)) (l : List α)
    (s : State) : s.OnlyCores (l.foldl f s) :=
  foldl_inv (I := s.OnlyCores) (fun a _ t ht => ht.trans (h t a)) (.refl s)

theorem State.onlyCores_monitorArrival (s : State) (id : StreamId) : s.OnlyCores (s.monitorArrival id) := by
  unfold State.monitorArrival
  split
  · split
    · exact ((s.onlyCores_modStream ..).trans (State.onlyCores_modStream ..)).trans (State.onlyCores_modStream ..)
    · exact .refl s
  · exact .refl s

/-- Every core of a cluster ends the tract cycle (R110, R137). -/
def State.tickCores (s : State) (pcl : Nat) : State :=
  (streamsOf pcl).foldl State.monitorArrival ((List.range 8).foldl (fun s c => s.modCore (8 * pcl + c) Core.tick) s)

theorem State.onlyCores_tick (s : State) (n : Nat) : s.OnlyCores (s.modCore n Core.tick) :=
  s.onlyCores_modCore n (fun _ => rfl) (fun _ => rfl) (fun _ => rfl)

theorem State.onlyCores_tickCores (s : State) (pcl : Nat) : s.OnlyCores (s.tickCores pcl) := by
  have htick := State.onlyCores_foldl (f := fun s c => s.modCore (8 * pcl + c) Core.tick)
    (fun s c => s.onlyCores_tick (8 * pcl + c)) (List.range 8) s
  exact htick.trans (State.onlyCores_foldl State.onlyCores_monitorArrival (streamsOf pcl) _)

/-! ### The end of a tract cycle at a stile -/

/-- The end of a cycle is the puts' entry, then the ticks of the cores, then the end of the reports of a Sextant. -/
theorem State.cycleEnd_eq (s : State) (pcl : Nat) :
    let t := ((s.stilePuts pcl).modTract pcl (fun t => { t with changed := false, slipped := 0 })).tickCores pcl
    s.cycleEnd pcl = if (t.sextant pcl).repBy = 0 then t else t.setSextant pcl { t.sextant pcl with repBy := 0 } := rfl

theorem State.stile_cycleEnd (s : State) (pcl n : Nat) : (s.cycleEnd pcl).stile n = (s.stilePuts pcl).stile n := by
  have h := (State.onlyCores_tickCores
    ((s.stilePuts pcl).modTract pcl (fun t => { t with changed := false, slipped := 0 })) pcl).stile n
  rw [State.modTract, State.stile_setTract] at h
  rw [State.cycleEnd_eq, State.modTract]
  split
  · exact h
  · rw [State.stile_setSextant, h]

/-- The puts of a source cycle enter the stile that they name, once (R128). -/
theorem State.stile_stilePuts {s : State} {pcl n : Nat} (hn : n / 32 = pcl / 16) (hside : (s.stile n).sclu = pcl % 16)
    (hputs : (s.stile n).puts ≠ []) : (s.stilePuts pcl).stile n = (s.stile n).take := by
  obtain ⟨t, -, ht, hfold⟩ := foldl_at (I := fun _ => True) (get := fun s : State => s.stile n)
    (step := fun s n => if (s.stile n).sclu = pcl % 16 ∧ !(s.stile n).puts.isEmpty then s.setStile n (s.stile n).take else s)
    (fun _ _ _ _ => trivial)
    (fun m _ s _ hm => by
      split
      · rw [State.stile_setStile, if_neg (Ne.symm hm)]
      · rfl)
    (nodup_stilesOf (pcl / 16)) (mem_stilesOf.2 hn) (s := s) trivial
  refine hfold.trans ?_
  rw [ht, if_pos ⟨hside, by simpa using hputs⟩, State.stile_setStile_self]

theorem Stile.take_of_single {t : Stile} {id : StreamId} {v stamp : Word} {seq : Nat} (h : t.puts = [(id, v, stamp, seq)]) :
    t.take = ({ t with puts := [] } : Stile).enter id v stamp seq := by
  simp [Stile.take, h, insertPut]

/-- The last cycle of a sample gives OTAP to the sink port bound (R110). -/
def State.giveOtap (s : State) (pcl : Nat) : State :=
  let t := s.tract pcl
  let port := (t.tsnk.extractLsb' 0 5).toNat
  let k := s.sink port
  let v := (s.core (8 * pcl + (t.tsnk.extractLsb' 8 3).toNat)).otap
  if t.tsnk.getLsbD 11 && portOn k.cfg then
    s.setSink port { k with out := word (v.toNat % 2 ^ portWidth k.cfg) :: k.out }
  else s

theorem execSinkTake_of_last {s : State} {pcl : Nat} (hissuing : (s.tract pcl).issuing = true)
    (hlast : (s.tract pcl).fcyc + 1 = ((s.tract pcl).sidx + 1) * (s.tract pcl).n / (s.tract pcl).m) :
    execSinkTake pcl s = .next (((s.giveOtap pcl).cycleEnd pcl).modTract pcl (fun t => { t with edge := .taken })) := by
  have hgo : ((s.tract pcl).issuing && (s.tract pcl).lastCycle) = true := by
    rw [hissuing, Bool.true_and]
    exact decide_eq_true hlast
  exact if_pos hgo

theorem State.stile_giveOtap (s : State) (pcl n : Nat) : (s.giveOtap pcl).stile n = s.stile n := by
  unfold State.giveOtap
  dsimp only
  split <;> rfl

/-! ### The checks of sti (R131) -/

section
variable {s : State} {a : BitVec 5} {side : Stile → Bool} {k : Nat → Stile → Out} {t : Stile}

theorem State.sti_unbound (ht : s.stile (s.stileNo a) = t) (h : t.state = 0) : s.sti a side k = s.fault .stileUnbound := by
  subst ht
  exact if_pos h

theorem State.sti_wrongSide (ht : s.stile (s.stileNo a) = t) (h : t.state ≠ 0) (hside : side t = false) :
    s.sti a side k = s.fault .stileSide := by
  subst ht
  exact (if_neg h).trans (if_neg (by simp [hside]))

theorem State.sti_passes (ht : s.stile (s.stileNo a) = t) (h : t.state ≠ 0) (hside : side t = true) :
    s.sti a side k = k (s.stileNo a) t := by
  subst ht
  exact (if_neg h).trans (if_pos hside)

end

/-- The three sides that a form can ask for (R131): its source's, its destination's, either. -/
def State.atSource (s : State) (t : Stile) : Bool := t.sclu = s.myClu

def State.atDestination (s : State) (t : Stile) : Bool := t.dclu = s.myClu && !t.out

def State.atEither (s : State) (t : Stile) : Bool := t.sclu = s.myClu || t.dclu = s.myClu

section
variable (s : State) (i : BitVec 2) (d a b : BitVec 5)

theorem exec_stiPut : exec (.stiPut i a b) s = s.sti a s.atSource (fun n t =>
    .next (s.setStile n { t with puts := t.puts ++ [(s.cur, s.rx b, (s.tractOf s.cur.core).tstamp, s.me.seq)] })) := rfl

theorem exec_stiGet : exec (.stiGet i d a) s = s.sti a s.atDestination (fun n t =>
    if t.mode = 3 then
      match s.boxHead t with
      | some v => .next ((s.setStile n { t with box := t.box.tail }).wx d v)
      | none => .next (s.waitFor (.stile d n))
    else .next (s.wx d t.sto)) := rfl

theorem exec_stiStat : exec (.stiStat i d a) s = s.sti a (fun _ => true) (fun _ t => .next (s.wx d t.status)) := rfl

theorem exec_stiAck : exec (.stiAck i a b) s = s.sti a s.atEither (fun n t =>
    .next (s.setStile n { t with
      rpt := t.rpt && !(bit (s.rx b) 2), drop := t.drop && !(bit (s.rx b) 3), ovf := t.ovf && !(bit (s.rx b) 4)
      dropc := if bit (s.rx b) 0 then 0 else t.dropc, rptc := if bit (s.rx b) 0 then 0 else t.rptc })) := rfl

theorem exec_stiCoef : exec (.stiCoef i a b) s = s.sti a s.atEither (fun n t =>
    .next (s.setStile n
      { t with coef := t.coef.set (bits (s.rx b) 9 0) (BitVec.ofNat 16 (bits (s.rx b) 31 16)) })) := rfl

end

/-! ### BOX messages -/

/-- The oldest message of a BOX is v, eligible, and every access of its sender before the put is performed (R128, R129). -/
def State.BoxHolds (s : State) (t : Stile) (v : Word) (rest : List (Word × Bool × StreamId × Nat)) : Prop :=
  ∃ id seq, t.box = (v, true, id, seq) :: rest ∧ ∀ p ∈ (s.stream id).pend, seq ≤ p.seq

theorem State.BoxHolds.boxHead {s : State} {t : Stile} {v : Word} {rest : List (Word × Bool × StreamId × Nat)}
    (h : s.BoxHolds t v rest) : s.boxHead t = some v ∧ t.box.tail = rest := by
  obtain ⟨id, seq, hbox, hpend⟩ := h
  refine ⟨?_, by rw [hbox]; rfl⟩
  have hany : (s.stream id).pend.any (fun a => decide (a.seq < seq)) = false := by simpa using hpend
  simp [State.boxHead, hbox, hany]

/-! ### Forms that write a stile or take from it -/

theorem State.sameBytes_wx_setStile (s : State) (n : Nat) (t : Stile) (d : BitVec 5) (v : Word) :
    s.SameBytes ((s.setStile n t).wx d v) :=
  State.SameBytes.trans (t := s.setStile n t) (.refl s) (State.sameBytes_modStream ..)

/-- A get of a BOX that holds an eligible message takes it (R131). -/
theorem execStiGet_of_boxHolds {s : State} {d a : BitVec 5} {t : Stile} {v : Word}
    {rest : List (Word × Bool × StreamId × Nat)} (ht : s.stile (s.stileNo a) = t) (hstate : t.state ≠ 0)
    (hside : s.atDestination t = true) (hmode : t.mode = 3) (hbox : s.BoxHolds t v rest) :
    execStiGet d a s = .next ((s.setStile (s.stileNo a) { t with box := rest }).wx d v) := by
  obtain ⟨hhead, htail⟩ := hbox.boxHead
  refine (exec_stiGet s 0 d a).trans ?_
  rw [State.sti_passes ht hstate hside]
  simp only [hmode, if_true, hhead, htail]

theorem execStiGet_of_empty {s : State} {d a : BitVec 5} {t : Stile} (ht : s.stile (s.stileNo a) = t) (hstate : t.state ≠ 0)
    (hside : s.atDestination t = true) (hmode : t.mode = 3) (hbox : t.box = []) :
    execStiGet d a s = .next (s.modMe (fun m => { m with wait := .stile d (s.stileNo a) })) := by
  refine (exec_stiGet s 0 d a).trans ?_
  rw [State.sti_passes ht hstate hside]
  simp only [hmode, if_true, State.boxHead, hbox, State.waitFor]

theorem execStiGet_of_output {s : State} {d a : BitVec 5} {t : Stile} (ht : s.stile (s.stileNo a) = t) (hstate : t.state ≠ 0)
    (hside : s.atDestination t = true) (hmode : t.mode ≠ 3) : execStiGet d a s = .next (s.wx d t.sto) := by
  refine (exec_stiGet s 0 d a).trans ?_
  rw [State.sti_passes ht hstate hside, if_neg hmode]

/-- A get that waits takes its message once there is one, and 0 once its stile is UNBOUND (R131). -/
theorem execStiGetReturn_of_waiting {s : State} {d : BitVec 5} {n : Nat} (hawake : s.awake s.cur.core = true)
    (hwait : s.me.wait = .stile d n) :
    (∀ v rest, (s.stile n).state ≠ 0 → s.BoxHolds (s.stile n) v rest →
      execStiGetReturn s.cur.core s.cur.eng s = .next (((s.setStile n { s.stile n with box := rest }).wx d v).modMe
        (fun m => m.complete s.cur.eng)))
    ∧ ((s.stile n).state = 0 → execStiGetReturn s.cur.core s.cur.eng s
        = .next ((s.wx d 0).modMe (fun m => m.complete s.cur.eng))) := by
  have hm : (s.stream ⟨s.cur.core, s.cur.eng⟩).wait = .stile d n := hwait
  refine ⟨fun v rest hstate hbox => ?_, fun hstate => ?_⟩
  · obtain ⟨hhead, htail⟩ := hbox.boxHead
    simp only [execStiGetReturn, hm, hawake, Bool.not_true, Bool.false_eq_true, if_false, hstate, hhead, htail]
    rfl
  · simp only [execStiGetReturn, hm, hawake, Bool.not_true, Bool.false_eq_true, if_false, hstate, if_true]
    rfl

/-- A stream that waited goes on: of its core nothing else changes. -/
theorem Resumes.of_modMe {i : Instr} {s : State} {m : Stream}
    (h : exec i s = .next (s.modMe (fun _ => m.complete s.cur.eng))) : Resumes i s s.cur m := by
  obtain ⟨hframe, hother, -, hbytes⟩ := s.onlyMe_modMe (fun _ => m.complete s.cur.eng)
  exact ⟨_, h, hframe, hother, hbytes, s.me_modMe _⟩

/-! ### The operand of sti.coef -/

theorem coefIndex_eq (x : Word) : bits x 9 0 = x.toNat % 2 ^ 10 := by
  simp [bits]

theorem coefValue_eq (x : Word) : BitVec.ofNat 16 (bits x 31 16) = (x >>> 16).setWidth 16 := by
  apply BitVec.eq_of_toNat_eq
  simp [bits, Nat.shiftRight_eq_div_pow]

/-! ### A put enters its stile -/

/-- A stile that a put of a source sample enters, whose puts it was alone among: DROP where one came before (R129). -/
theorem Stile.enter_of_put {t : Stile} {id : StreamId} {v stamp : Word} {seq : Nat} :
    let e : Word × BitVec 32 := (stamp, v.setWidth 32)
    let again : Stile := { t with
      put := true, puts := [], drop := t.drop || t.put
      dropc := if t.put && t.dropc != 255 then t.dropc + 1 else t.dropc }
    let entered := ({ t with puts := [] } : Stile).enter id v stamp seq
    (t.mode = 2 → entered = { again with slot := some v })
    ∧ (t.mode = 1 → entered = { again with hist := (e :: (if t.put then t.hist.tail else t.hist)).take 16 })
    ∧ (t.mode = 3 → entered = if t.box.length < 16 then { t with puts := [], box := t.box ++ [(v, false, id, seq)] }
        else { t with puts := [], ovf := true }) := by
  intro e again entered
  have hmode : ({ t with puts := [] } : Stile).mode = t.mode := rfl
  have hagain : (if t.put then ({ t with puts := [], put := true } : Stile).dropped else { t with puts := [], put := true })
      = again := by
    by_cases hput : t.put = true
    · by_cases hc : t.dropc = 255#8 <;> simp [hput, again, Stile.dropped, satByte, hc]
    · simp [hput, again]
  have hentered (h : t.mode ≠ 3) : entered = if again.mode = 2 then { again with slot := some v }
      else { again with hist := (if t.put then e :: t.hist.tail else e :: t.hist).take 16 } := by
    simp only [entered, Stile.enter, hmode, if_neg h, hagain]
    rfl
  have hmode' : again.mode = t.mode := rfl
  refine ⟨fun h => ?_, fun h => ?_, fun h => ?_⟩
  · rw [hentered (by omega), hmode', if_pos h]
  · rw [hentered (by omega), hmode', if_neg (by omega)]
    cases t.put <;> rfl
  · simp only [entered, Stile.enter, hmode, h, if_true]

end Sys2Proof.Machine

namespace Sys2Proof
open Machine

/-- Settles O26: the checks of `State.sti` decide between the faults and the form's effect; a put is the only one of its
cycle to enter its stile. -/
theorem stileWords : Obligations.StileWords := by
  refine ⟨?words, ?entry⟩
  case words =>
    intro s i d a b k hk hf n t clu x box
    have unbound {j : Instr} {side : Stile → Bool} {eff : Nat → Stile → Out} (hj : exec j s = s.sti a side eff)
        (h : t.state = 0) : TakesFault j s k .stileUnbound 0 :=
      TakesFault.of_streamFault hk hf (hj.trans (State.sti_unbound rfl h))
    have wrongSide {j : Instr} {side : Stile → Bool} {eff : Nat → Stile → Out} (hj : exec j s = s.sti a side eff)
        (h : t.state ≠ 0) (hside : side t = false) : TakesFault j s k .stileSide 0 :=
      TakesFault.of_streamFault hk hf (hj.trans (State.sti_wrongSide rfl h hside))
    refine ⟨fun h => ?unbound,
      fun h hs => ?putSide, fun h hs => ?getSide,
      fun h hs hd => ?eitherSide, fun h hs => ?put, fun h hd hout => ?get,
      fun h => GivesX.of_wx ((exec_stiStat s i d a).trans (State.sti_passes rfl h rfl)),
      fun h hs => ?ackCoef, fun hawake hwait => ?back⟩
    case unbound => exact ⟨unbound (exec_stiPut s i a b) h, unbound (exec_stiGet s i d a) h, unbound (exec_stiStat s i d a) h,
      unbound (exec_stiAck s i a b) h, unbound (exec_stiCoef s i a b) h⟩
    case putSide => exact wrongSide (exec_stiPut s i a b) h (decide_eq_false hs)
    case getSide =>
      refine wrongSide (exec_stiGet s i d a) h ?_
      rcases hs with hs | hs
      · simp [State.atDestination, show t.dclu ≠ s.myClu from hs]
      · simp [State.atDestination, hs]
    case eitherSide =>
      have hside : s.atEither t = false := by
        simp [State.atEither, show t.sclu ≠ s.myClu from hs, show t.dclu ≠ s.myClu from hd]
      exact ⟨wrongSide (exec_stiAck s i a b) h hside, wrongSide (exec_stiCoef s i a b) h hside⟩
    case put =>
      have hside : s.atSource t = true := decide_eq_true hs
      exact ⟨_, (exec_stiPut s i a b).trans (State.sti_passes rfl h hside), rfl, .refl s, s.stile_setStile_self ..,
        fun m hm => (s.stile_setStile ..).trans (if_neg hm)⟩
    case get =>
      have hside : s.atDestination t = true := by simp [State.atDestination, show t.dclu = s.myClu from hd, hout]
      refine ⟨fun hmode => GivesX.of_wx (execStiGet_of_output rfl h hside hmode),
        fun hmode hbox => GivesMe.of_modMe (f := fun m => { m with wait := .stile d n })
          (execStiGet_of_empty rfl h hside hmode hbox),
        fun v rest hmode hbox => ⟨_, execStiGet_of_boxHolds rfl h hside hmode hbox, ?_, ?_, s.sameBytes_wx_setStile ..⟩⟩
      · exact State.me_modMe ..
      · exact s.stile_setStile_self ..
    case ackCoef =>
      have hside : s.atEither t = true := Bool.or_eq_true_iff.2 (hs.imp decide_eq_true decide_eq_true)
      refine ⟨⟨_, (exec_stiAck s i a b).trans (State.sti_passes rfl h hside), rfl, .refl s, ?_⟩,
        ⟨_, (exec_stiCoef s i a b).trans (State.sti_passes rfl h hside), rfl, .refl s, fun j => ?_⟩⟩
      · refine (s.stile_setStile_self ..).trans ?_
        simp only [bit_eq_getLsbD]
        rfl
      · refine (congrArg (fun t : Stile => t.coef.get 0 j) (s.stile_setStile_self ..)).trans ?_
        rw [coefIndex_eq, coefValue_eq]
        exact Tbl.get_set ..
    case back =>
      obtain ⟨hmessage, hunbound⟩ := execStiGetReturn_of_waiting hawake hwait
      refine ⟨fun v rest hstate hbox => ⟨_, hmessage v rest hstate hbox, ?_, s.stile_setStile_self .., ?_⟩, fun hstate => ?_⟩
      · rw [State.me_modMe, State.wx, State.me_modMe]
        rfl
      · exact (s.sameBytes_wx_setStile ..).trans (State.sameBytes_modStream ..)
      · refine Resumes.of_modMe (m := s.me.wx d 0) ((hunbound hstate).trans ?_)
        rw [State.wx, State.modMe_modMe]
        rfl
  case entry =>
    intro s pcl n id v stamp seq hn r t e again hissuing hlast hside hputs
    have htake : (((s.giveOtap pcl).cycleEnd pcl).modTract pcl (fun t => { t with edge := .taken })).stile n
        = ({ t with puts := [] } : Stile).enter id v stamp seq := by
      have hstile : (s.giveOtap pcl).stile n = t := s.stile_giveOtap pcl n
      rw [State.modTract, State.stile_setTract, State.stile_cycleEnd, State.stile_stilePuts hn (by rw [hstile]; exact hside)
        (by rw [hstile, hputs]; simp), hstile, Stile.take_of_single hputs]
    obtain ⟨hhold, hinterp, hboxed⟩ := Stile.enter_of_put (t := t) (id := id) (v := v) (stamp := stamp) (seq := seq)
    refine ⟨_, execSinkTake_of_last hissuing hlast, fun h => ?_, fun h => ?_, fun h => ?_⟩
    · exact htake.trans (hhold h)
    · exact htake.trans (hinterp h)
    · exact htake.trans (hboxed h)

end Sys2Proof
end

section
/-! PROOFS. The states of a tract (05_tract.md, R105, R112, R113, R115): O28. A lock's failure faults the launches that its
filter over the kernel table finds, by their numbers. A table that lists a number twice is read at the first entry and
filtered at both, so that the launch found need not be the launch read. -/

namespace Sys2Proof.Machine

/-- The lock of tract 0, to be FREE again, is one tick late. Kernel 0 is listed twice: its first entry, which every read
finds, is LOADED; the second one waits in STARTING for the lock. -/
def lateLock : State :=
  { chron := 16000001
    kernels := [(0, {}), (0, { state := .starting, hdr := { tkind := 1 }, seats := [{ pcn := 0 }] })]
    tracts := [(0, { state := .locking, old := some {} })] }

theorem awaitingLock_lateLock : lateLock.awaitingLock 0 = [0] := by decide +kernel

theorem kernel_lockFail_lateLock : ((lateLock.lockFail 0 .lockTimeout).kernel 0).state ≠ .faulted := by
  decide +kernel

theorem exec_lockTimeout_lateLock : exec (.lockTimeout 0) lateLock = .next (lateLock.lockFail 0 .lockTimeout) :=
  congrArg Host.Outcome.next rfl

end Sys2Proof.Machine

namespace Sys2Proof
open Machine

/-- Refutes O28: the kernel table of `lateLock` lists the number 0 twice, so `awaitingLock` names the kernel 0, which reads
as LOADED and takes no fault. -/
theorem not_tractStatesChangeAsTheirSourcesDo : ¬ Obligations.TractStatesChangeAsTheirSourcesDo := by
  intro h
  obtain ⟨-, htimeout, -⟩ := h lateLock 0
  obtain ⟨u, hexec, -, -, -, -, -, -, hfree, -⟩ := htimeout rfl (by decide) {} rfl
  obtain ⟨-, hfaulted⟩ := hfree rfl
  obtain rfl : lateLock.lockFail 0 .lockTimeout = u := Host.Outcome.next.inj (exec_lockTimeout_lateLock.symm.trans hexec)
  exact kernel_lockFail_lateLock (hfaulted 0 (by rw [awaitingLock_lateLock]; exact List.mem_singleton_self 0))

end Sys2Proof
end

section
/-! PROOFS. What a report to a queue leaves as it was (20_queue.md, R342, R346, R347): every unit outside the command complex,
every other queue, and of the queue itself its lock under way, and its fault once it has one. -/

namespace Sys2Proof.Machine

/-- From s to t nothing has changed but the parts of the command complex, of the links and of the helm that a report to
queue q uses; of the queues none but q, whose lock is as it was; and a queue that takes no fault keeps the one it has. -/
structure State.Reports (s t : State) (q : Nat) : Prop where
  frame : t = { s with
    queues := t.queues, dies := t.dies, ctxs := t.ctxs, links := t.links, remotes := t.remotes, nextTag := t.nextTag
    parked := t.parked, ports := t.ports, helm := t.helm, mem := t.mem, intr := t.intr, sextants := t.sextants
    walks := t.walks, scalls := t.scalls }
  other : ∀ n, n ≠ q → t.queue n = s.queue n
  lock : (t.queue q).lock = (s.queue q).lock
  stands : (s.queue q).takesFault = false → (t.queue q).state = (s.queue q).state ∧ (t.queue q).fcode = (s.queue q).fcode

section
variable {s t u : State} {q : Nat}

theorem State.Reports.refl (s : State) (q : Nat) : s.Reports s q := ⟨rfl, fun _ _ => rfl, rfl, fun _ => ⟨rfl, rfl⟩⟩

theorem State.Reports.trans (h : s.Reports t q) (h' : t.Reports u q) : s.Reports u q where
  frame := h'.frame.trans (by rw [h.frame])
  other n hn := (h'.other n hn).trans (h.other n hn)
  lock := h'.lock.trans h.lock
  stands hs := by
    obtain ⟨hstate, hcode⟩ := h.stands hs
    obtain ⟨hstate', hcode'⟩ := h'.stands (by simpa only [Queue.takesFault, hstate] using hs)
    exact ⟨hstate'.trans hstate, hcode'.trans hcode⟩

/-- A change outside the queues. -/
theorem State.Reports.of_queues (hframe : t = { s with
      dies := t.dies, ctxs := t.ctxs, links := t.links, remotes := t.remotes, nextTag := t.nextTag, parked := t.parked
      ports := t.ports, helm := t.helm, mem := t.mem, intr := t.intr, sextants := t.sextants, walks := t.walks
      scalls := t.scalls }) (q : Nat) : s.Reports t q := by
  have hqueue : ∀ n, t.queue n = s.queue n := fun n => by rw [hframe]; rfl
  refine ⟨?_, fun n _ => hqueue n, by rw [hqueue], fun _ => by rw [hqueue]; exact ⟨rfl, rfl⟩⟩
  rw [hframe]

theorem State.Reports.stile (h : s.Reports t q) (n : Nat) : t.stile n = s.stile n := by
  rw [h.frame]
  rfl

/-- A change of queue q that keeps its lock, its state and its fault. -/
theorem State.reports_modQueue (s : State) (q : Nat) {f : Queue → Queue} (hlock : (f (s.queue q)).lock = (s.queue q).lock)
    (hstate : (f (s.queue q)).state = (s.queue q).state) (hcode : (f (s.queue q)).fcode = (s.queue q).fcode) :
    s.Reports (s.modQueue q f) q := by
  have hq : ∀ n, (s.modQueue q f).queue n = if n = q then f (s.queue q) else s.queue n := fun n => s.queue_setQueue q n _
  refine ⟨rfl, fun n hn => by rw [hq, if_neg hn], ?_, fun _ => ?_⟩ <;> rw [hq, if_pos rfl]
  · exact hlock
  · exact ⟨hstate, hcode⟩

/-- A queue that takes a fault enters FAULTED. -/
theorem State.reports_enterFaulted (h : (s.queue q).takesFault = true) (f : QFault) (lvl off : Nat) :
    s.Reports (s.enterFaulted q f lvl off) q := by
  have hq : ∀ n, (s.enterFaulted q f lvl off).queue n = if n = q then
      { s.queue q with state := .faulted, fcode := some f, flvl := lvl, foff := off, fchron := s.chron } else s.queue n :=
    fun n => s.queue_setQueue q n _
  refine ⟨rfl, fun n hn => by rw [hq, if_neg hn], by rw [hq, if_pos rfl], fun h' => ?_⟩
  rw [h] at h'
  cases h'

end

/-! ### The parts of a report -/

section
variable (s : State) (q : Nat)

theorem State.reports_log (die cls index : Nat) (detail : Word) (p n : BitVec 16) : s.Reports (s.log die cls index detail p n) q :=
  .of_queues rfl q

theorem State.reports_sendTo (f : BitVec 256) (data : Row) : s.Reports (s.sendTo f data) q := by
  unfold State.sendTo
  split <;> exact .of_queues rfl q

theorem State.reports_request (who : Issuer) (kind addr : Nat) (pay : Word) (data : Row) :
    s.Reports (s.request who kind addr pay data) q := by
  unfold State.request
  dsimp only
  split
  · exact .of_queues rfl q
  · exact State.Reports.trans (.of_queues rfl q) (State.reports_sendTo ..)

theorem State.reports_put (who : Issuer) (pa n v : Nat) : s.Reports (s.put who pa n v) q := by
  unfold State.put
  split
  next p hp =>
    split
    · rw [State.store, hp]
      exact .of_queues rfl q
    · exact s.reports_request ..
  next => exact s.reports_request ..

theorem State.reports_forget (who : Issuer) : s.Reports (s.forget who) q := .of_queues rfl q

theorem State.reports_awaitLoad (who : Issuer) (pa : Nat) : s.Reports (s.awaitLoad who pa) q := by
  unfold State.awaitLoad
  split
  · exact .refl s q
  · exact s.reports_request ..

theorem State.reports_sendIrq : s.Reports (s.sendIrq q) q := by
  have hsent : s.Reports (s.modQueue q (fun Q => { Q with sent := Q.seq, timer := none })) q := s.reports_modQueue q rfl rfl rfl
  unfold State.sendIrq
  dsimp only
  split
  · exact hsent.trans (.of_queues rfl q)
  · exact hsent

theorem State.reports_noteIrq (urgent : Bool) : s.Reports (s.noteIrq q urgent) q := by
  unfold State.noteIrq
  dsimp only
  split
  · exact s.reports_sendIrq q
  · split
    · exact s.reports_modQueue q rfl rfl rfl
    · exact .refl s q

theorem State.reports_noteLost (d : NoteDue) : s.Reports (s.noteLost q d) q := by
  unfold State.noteLost
  dsimp only
  refine (s.reports_log q (q / 1024) 2 QFault.linkRoute.code (word d.off) 0xFFFF (BitVec.ofNat 16 q)).trans ?_
  split
  next h =>
    exact ((State.reports_enterFaulted h ..).trans (State.reports_modQueue _ q rfl rfl rfl)).trans (State.reports_sendIrq _ q)
  next =>
    split
    · exact State.reports_sendIrq _ q
    · exact .refl _ q

theorem State.reports_noteWrite (d : NoteDue) (pa : Nat) : s.Reports (s.noteWrite q d pa) q := by
  unfold State.noteWrite
  dsimp only
  refine (s.reports_put q (.note q) pa 64 (s.queue q).block).trans ?_
  split
  · exact State.reports_modQueue _ q rfl rfl rfl
  · exact State.reports_noteIrq ..

theorem State.reports_noteStep : s.Reports (s.noteStep q) q := by
  have left : s.Reports ((s.modQueue q (fun Q => { Q with noteDue := none })).forget (.note q)) q :=
    (s.reports_modQueue q rfl rfl rfl).trans (State.reports_forget ..)
  unfold State.noteStep
  split
  · exact .refl s q
  · dsimp only
    split
    · exact .refl s q
    · split
      · split
        · exact left.trans (State.reports_noteIrq ..)
        · split
          · exact left.trans (State.reports_noteLost ..)
          · split
            · exact .refl s q
            · exact left.trans (State.reports_noteWrite ..)
      · exact s.reports_awaitLoad ..
      · split
        · exact left.trans (State.reports_noteIrq ..)
        · exact (s.reports_modQueue q rfl rfl rfl).trans (State.reports_forget ..)
      · exact left.trans (State.reports_noteIrq ..)

theorem State.reports_notify (urgent : Bool) (lvl off : Nat) : s.Reports (s.notify q urgent lvl off) q :=
  (s.reports_modQueue q rfl rfl rfl).trans (State.reports_noteStep ..)

theorem State.reports_completed (n : Option Nat) (lvl off : Nat) : s.Reports (s.completed q n lvl off) q := by
  unfold State.completed
  split
  · exact .refl s q
  · exact (s.reports_modQueue q rfl rfl rfl).trans (State.reports_notify ..)

theorem State.reports_queueFault (f : QFault) (lvl off : Nat) : s.Reports (s.queueFault q f lvl off) q := by
  unfold State.queueFault
  dsimp only
  have hlog := s.reports_log q (q / 1024) 2 f.code (word off) 0xFFFF (BitVec.ofNat 16 q)
  split
  next h => exact (hlog.trans (State.reports_enterFaulted h ..)).trans (State.reports_notify _ q true ..)
  next => exact hlog

theorem State.reports_launchFaulted : s.Reports (s.launchFaulted q) q := by
  refine State.Reports.trans (t := s.unclaim q) (.of_queues rfl q) (State.reports_modQueue _ q ?_ ?_ ?_) <;> split <;> rfl

theorem State.reports_reportLaunch (f : QFault) (lvl off : Nat) : s.Reports (s.reportLaunch q f lvl off) q := by
  have hlaunch := s.reports_launchFaulted q
  unfold State.reportLaunch
  dsimp only
  split
  · exact (hlaunch.trans (State.Reports.trans (.of_queues rfl q) (State.reports_modQueue _ q rfl rfl rfl))).trans
      (State.reports_completed ..)
  · split
    · exact hlaunch.trans (State.reports_queueFault ..)
    · exact (hlaunch.trans (State.reports_queueFault ..)).trans (State.reports_completed ..)

theorem State.reports_foldl {α : Type} {f : State → α → State} (h : ∀ (s : State) (a : α), s.Reports (f s a) q) (l : List α)
    (s : State) : s.Reports (l.foldl f s) q :=
  foldl_inv (I := fun t => s.Reports t q) (fun a _ t ht => ht.trans (h t a)) (.refl s q)

theorem State.reports_dismissAps (k : Nat) : s.Reports (s.dismissAps k) q := by
  have hdismiss : ∀ (s : State) (seat : Seat), s.Reports (s.dismiss (.ap seat.pcn)) q := fun s seat => .of_queues rfl q
  exact (State.reports_foldl q hdismiss _ s).trans (.of_queues rfl q)

theorem State.reports_dropRefresh (k : Nat) : s.Reports (s.dropRefresh k) q :=
  State.reports_foldl q (fun _ _ => .of_queues rfl q) _ s

/-- A kernel's fault is a report to its queue, beside the kernel. -/
theorem State.reports_kernelFault (k : Nat) (r : FaultRec) : ∃ u : State, (u = s ∨ ∃ K, u = s.setKernel k K)
    ∧ u.Reports (s.kernelFault k r) (s.kernel k).queue := by
  unfold State.kernelFault
  dsimp only
  split
  iterate 3
    refine ⟨s.setKernel k { s.kernel k with state := .faulted, fault := some r, preempt := false }, .inr ⟨_, rfl⟩, ?_⟩
    refine (((State.reports_dismissAps _ _ k).trans (State.reports_dropRefresh _ _ k)).trans (State.reports_log _ _ (r.pcn / 128)
      r.cls r.code.code r.whr (BitVec.ofNat 16 r.pcn) (BitVec.ofNat 16 (s.kernel k).queue))).trans
      (State.Reports.trans ?_ (State.reports_reportLaunch ..))
    split
    · exact .refl _ _
    · exact State.reports_modQueue _ _ rfl rfl rfl
  exact ⟨s, .inl rfl, .refl s _⟩

/-- A tract's event is a report to the queue that bound it, beside the tract's EVT (R115). -/
theorem State.reports_tractEvent (pcl index : Nat) : ∃ n,
    (s.modTract pcl (fun t => { t with evt := true })).Reports (s.tractEvent pcl index) n := by
  have hlog (n : Nat) (t : State) : t.Reports (t.tractLog pcl index) n := t.reports_log ..
  unfold State.tractEvent
  dsimp only
  split
  next => exact ⟨0, hlog ..⟩
  next n _ =>
    refine ⟨n, (hlog n _).trans ?_⟩
    split
    · exact .refl _ n
    · exact (State.reports_modQueue _ n rfl rfl rfl).trans (State.reports_notify ..)

end

end Sys2Proof.Machine
end

section
/-! PROOFS. Samples (05_tract.md, R102, R103, R107, R109) and the end of a sample (R106, R110): a sample reaches each tract
bound to its source once; the last cycle of a sample gives OTAP to the sink port, and ends the cycle in the cores. -/

namespace Sys2Proof.Machine

/-! ### A sample reaches its tracts -/

theorem State.feedTracts_frame (s : State) (kind src : Nat) (stamp v : Word) :
    s.feedTracts kind src stamp v = { s with tracts := (s.feedTracts kind src stamp v).tracts } := by
  refine foldl_inv (I := fun t : State => t = { s with tracts := t.tracts }) (fun n _ t ht => ?_) rfl
  dsimp only
  split
  · rw [ht]
    rfl
  · exact ht

theorem State.tract_feedTracts {s : State} {pcl kind src : Nat} (hpcl : pcl < 64) (hkind : tctlKind (s.tract pcl).tctl = kind)
    (hsrc : tctlSrc (s.tract pcl).tctl = src) (hbound : (s.tract pcl).state ≠ .free) (stamp v : Word) :
    (s.feedTracts kind src stamp v).tract pcl = (s.tract pcl).arrive s.ceiling stamp v := by
  have hat := foldl_at (I := fun t : State => t.ceiling = s.ceiling) (get := fun t : State => t.tract pcl)
    (step := fun s pcl =>
      let t := s.tract pcl
      if tctlKind t.tctl = kind ∧ tctlSrc t.tctl = src ∧ t.state ≠ .free then s.setTract pcl (t.arrive s.ceiling stamp v) else s)
    (fun m _ t ht => by dsimp only; split <;> exact ht)
    (fun m _ t _ hm => by
      dsimp only
      split
      · rw [State.tract_setTract, if_neg (Ne.symm hm)]
      · rfl)
    List.nodup_range (List.mem_range.2 hpcl) (s := s) rfl
  obtain ⟨t, hceiling, ht, hfold⟩ := hat
  refine hfold.trans ?_
  dsimp only at ht ⊢
  rw [ht, if_pos ⟨hkind, hsrc, hbound⟩, State.tract_setTract_self, hceiling]

/-- A tract that runs and has no frame held keeps the sample with its stamp. -/
theorem Tract.arrive_of_running {t : Tract} (hstate : t.state = .locked ∨ t.state = .slipped) (hheld : t.held = false) (ceil : Nat)
    (stamp v : Word) : (t.arrive ceil stamp v).fresh = t.fresh ++ [(stamp, v)] ∧ (t.arrive ceil stamp v).lastEdge = stamp := by
  have key : t.arrive ceil stamp v = if t.restart then { t with lastEdge := stamp, fresh := t.fresh ++ [(stamp, v)] }
      else { t with
        lastEdge := stamp, fresh := t.fresh ++ [(stamp, v)]
        off := !(t.inRange (stamp - t.lastEdge).toNat)
          || decide (ceil * t.m * ((stamp - t.lastEdge).toNat + 1) < 10 ^ 9 * t.n)
        range := t.range || !(t.inRange (stamp - t.lastEdge).toNat)
        ceil := t.ceil || decide (ceil * t.m * ((stamp - t.lastEdge).toNat + 1) < 10 ^ 9 * t.n) } := by
    rcases hstate with h | h <;> simp only [Tract.arrive, h, hheld, Bool.false_eq_true, if_false]
  rw [key]
  split <;> exact ⟨rfl, rfl⟩

/-- A sample is kept by the tract, and no core and no byte changes. -/
def State.TakesSample (s : State) (pcl : Nat) (u : State) (stamp v : Word) : Prop :=
  (u.tract pcl).fresh = (s.tract pcl).fresh ++ [(stamp, v)] ∧ (u.tract pcl).lastEdge = stamp ∧ u.cores = s.cores ∧ s.SameBytes u

theorem State.takesSample_feedTracts {s : State} {pcl kind src : Nat} (hpcl : pcl < 64)
    (hkind : tctlKind (s.tract pcl).tctl = kind) (hsrc : tctlSrc (s.tract pcl).tctl = src)
    (hstate : (s.tract pcl).state = .locked ∨ (s.tract pcl).state = .slipped) (hheld : (s.tract pcl).held = false)
    (stamp v : Word) : s.TakesSample pcl (s.feedTracts kind src stamp v) stamp v := by
  have hbound : (s.tract pcl).state ≠ .free := by rcases hstate with h | h <;> rw [h] <;> decide
  obtain ⟨hfresh, hedge⟩ := Tract.arrive_of_running hstate hheld s.ceiling stamp v
  refine ⟨?_, ?_, ?_, ?_⟩
  · rw [State.tract_feedTracts hpcl hkind hsrc hbound, hfresh]
  · rw [State.tract_feedTracts hpcl hkind hsrc hbound, hedge]
  · rw [State.feedTracts_frame]
  · rw [State.feedTracts_frame]
    exact .refl s

/-- A source port's sample goes on over the links that send it, which changes links alone (R356). -/
theorem State.TakesSample.of_links {s t u : State} {pcl : Nat} {stamp v : Word} (h : s.TakesSample pcl t stamp v)
    (hu : u = { t with links := u.links, freeCtr := u.freeCtr }) : s.TakesSample pcl u stamp v := by
  rw [hu]
  exact h

theorem exec_sampleArrival_port {s : State} {n : Nat} (hn : n < 32) (hon : (s.spcfg.get 0 n).getLsbD 31 = true) (v : Word) :
    ∃ u, exec (.sampleArrival (.port n) v) s = .next u ∧
      let t := s.feedTracts 1 n s.chron (signLow (portWidth (s.spcfg.get 0 n)) v)
      u = { t with links := u.links, freeCtr := u.freeCtr } := by
  have hgo : (portOn (s.spcfg.get 0 n) && decide (n < 32)) = true := by
    rw [decide_eq_true hn, Bool.and_true]
    exact hon
  refine ⟨_, if_pos hgo, ?_⟩
  refine foldl_inv (I := fun u : State => u = { s.feedTracts 1 n s.chron (signLow (portWidth (s.spcfg.get 0 n)) v) with
    links := u.links, freeCtr := u.freeCtr }) (fun l _ u hu => ?_) rfl
  dsimp only
  split
  · rw [hu]
    rfl
  · exact hu

theorem exec_sampleArrival_link {s : State} {n : Nat} (hcarries : (s.link n).carries = true) (v : Word) :
    exec (.sampleArrival (.link n) v) s = .next ((s.setLink n { s.link n with xstr := true }).feedTracts 3 n s.chron
      (signLow (portWidth (s.link n).cfg) v)) :=
  congrArg Host.Outcome.next (if_pos hcarries)

theorem exec_paceSample {s : State} {n : Nat} (hon : (s.pace n).on = true) (hrate : (s.pace n).num ≠ 0)
    (hdue : (s.pace n).stamp.toNat ≤ s.chron.toNat) : exec (.paceSample n) s
      = .next ((s.setPace n { s.pace n with j := (s.pace n).j + 1 }).feedTracts 2 n (s.pace n).stamp (word (s.pace n).j)) := by
  refine if_pos ?_
  rw [hon, decide_eq_true hrate, decide_eq_true hdue]
  rfl

/-! ### The end of a tract cycle in the cores -/

theorem State.sameBytes_stilePuts (s : State) (pcl : Nat) : s.SameBytes (s.stilePuts pcl) :=
  foldl_inv (I := s.SameBytes) (fun n _ t ht => by dsimp only; split <;> exact ht) (.refl s)

theorem State.cores_stilePuts (s : State) (pcl : Nat) : (s.stilePuts pcl).cores = s.cores :=
  foldl_inv (I := fun t : State => t.cores = s.cores) (fun n _ t ht => by dsimp only; split <;> exact ht) rfl

theorem State.sinks_stilePuts (s : State) (pcl : Nat) : (s.stilePuts pcl).sinks = s.sinks :=
  foldl_inv (I := fun t : State => t.sinks = s.sinks) (fun n _ t ht => by dsimp only; split <;> exact ht) rfl

/-- What every end of a tract cycle keeps. -/
structure State.EndsCycle (s t : State) : Prop where
  bytes : s.SameBytes t
  sinks : t.sinks = s.sinks
  otap : ∀ c, (t.core c).otap = (s.core c).otap

theorem State.EndsCycle.setSextant {s t : State} (h : s.EndsCycle t) (n : Nat) (x : Sextant) : s.EndsCycle (t.setSextant n x) :=
  ⟨h.bytes, h.sinks, h.otap⟩

theorem State.endsCycle_cycleEnd (s : State) (pcl : Nat) : s.EndsCycle (s.cycleEnd pcl) := by
  have hputs : s.EndsCycle ((s.stilePuts pcl).modTract pcl (fun t => { t with changed := false, slipped := 0 })) :=
    ⟨s.sameBytes_stilePuts pcl, s.sinks_stilePuts pcl, fun c => congrArg (fun l => (Tbl.get l {} c).otap) (s.cores_stilePuts pcl)⟩
  have htick := State.onlyCores_tickCores ((s.stilePuts pcl).modTract pcl (fun t => { t with changed := false, slipped := 0 })) pcl
  have hticked : s.EndsCycle
      (((s.stilePuts pcl).modTract pcl (fun t => { t with changed := false, slipped := 0 })).tickCores pcl) :=
    ⟨hputs.bytes.trans htick.sameBytes, by rw [htick.frame]; exact hputs.sinks, fun c => (htick.otap c).trans (hputs.otap c)⟩
  rw [State.cycleEnd_eq]
  dsimp only
  split
  · exact hticked
  · exact hticked.setSextant ..

theorem State.core_modStream (s : State) (id : StreamId) (f : Stream → Stream) (c : Nat) :
    (s.modStream id f).core c = if c = id.core then (s.core c).setStream id.eng (f (s.stream id)) else s.core c := by
  refine (s.core_setCore id.core c _).trans ?_
  split
  next h => rw [h]
  next => rfl

theorem State.otapBy_modStream (s : State) (id : StreamId) (f : Stream → Stream) (c : Nat) :
    ((s.modStream id f).core c).otapBy = (s.core c).otapBy := by
  rw [State.core_modStream]
  split
  · cases id.eng <;> rfl
  · rfl

theorem State.otapBy_monitorArrival (s : State) (id : StreamId) (c : Nat) :
    ((s.monitorArrival id).core c).otapBy = (s.core c).otapBy := by
  unfold State.monitorArrival
  split
  · split
    · exact (State.otapBy_modStream ..).trans ((State.otapBy_modStream ..).trans (State.otapBy_modStream ..))
    · rfl
  · rfl

/-- The cores of the cluster give up the OTAP that the cycle's writers had (R110). -/
theorem State.otapBy_tickCores (s : State) (pcl : Nat) {c : Nat} (hc : c < 8) :
    ((s.tickCores pcl).core (8 * pcl + c)).otapBy = 0 := by
  obtain ⟨t, -, -, hfold⟩ := foldl_at (I := fun _ => True) (get := fun t : State => (t.core (8 * pcl + c)).otapBy)
    (step := fun t c => t.modCore (8 * pcl + c) Core.tick) (fun _ _ _ _ => trivial)
    (fun m _ t _ hm => congrArg Core.otapBy ((t.core_setCore ..).trans (if_neg (by omega))))
    List.nodup_range (List.mem_range.2 hc) (s := s) trivial
  refine foldl_inv (I := fun t : State => (t.core (8 * pcl + c)).otapBy = 0) (fun id _ t ht => ?_) ?_
  · rw [State.otapBy_monitorArrival, ht]
  · exact hfold.trans (congrArg Core.otapBy ((t.core_setCore ..).trans (if_pos rfl)))

theorem State.otapBy_cycleEnd (s : State) (pcl : Nat) {c : Nat} (hc : c < 8) :
    ((s.cycleEnd pcl).core (8 * pcl + c)).otapBy = 0 := by
  have h := State.otapBy_tickCores ((s.stilePuts pcl).modTract pcl (fun t => { t with changed := false, slipped := 0 })) pcl hc
  rw [State.cycleEnd_eq]
  dsimp only
  split
  · exact h
  · rw [State.core_setSextant, h]

/-- What the sink port holds after it has taken OTAP (R110), in the numbers of TSNK. -/
theorem State.out_giveOtap (s : State) (pcl : Nat) :
    let t := s.tract pcl
    let port := t.tsnk.toNat % 32
    ((s.giveOtap pcl).sink port).out = if t.tsnk.getLsbD 11 && (s.sink port).cfg.getLsbD 31 then
      word ((s.core (8 * pcl + t.tsnk.toNat / 2 ^ 8 % 8)).otap.toNat % 2 ^ portWidth (s.sink port).cfg) :: (s.sink port).out
      else (s.sink port).out := by
  intro t port
  have hport : (t.tsnk.extractLsb' 0 5).toNat = port := by simp [port, BitVec.extractLsb'_toNat]
  have hcore : (t.tsnk.extractLsb' 8 3).toNat = t.tsnk.toNat / 2 ^ 8 % 8 := by
    simp [BitVec.extractLsb'_toNat, Nat.shiftRight_eq_div_pow]
  unfold State.giveOtap
  simp only [t] at hport hcore ⊢
  rw [hport, hcore, portOn]
  split
  · rw [State.sink_setSink_self]
  · rfl

theorem State.cores_giveOtap (s : State) (pcl : Nat) : (s.giveOtap pcl).cores = s.cores := by
  unfold State.giveOtap
  dsimp only
  split <;> rfl

theorem State.sameBytes_giveOtap (s : State) (pcl : Nat) : s.SameBytes (s.giveOtap pcl) := by
  unfold State.giveOtap
  dsimp only
  split <;> exact .refl s

end Sys2Proof.Machine
end

section
/-! PROOFS. Boundaries (05_tract.md, R106, R107, R113, R116, R117, R118, R127 to R129): slips, what the stiles deliver at a
sample boundary, and frame cycle 0 in the streams of a cluster. -/

namespace Sys2Proof.Machine

/-! ### Slips -/

/-- A tract that has lost or repeated n samples (R113). -/
def Tract.slips (t : Tract) (n : Nat) : Tract :=
  { t with slipc := BitVec.ofNat 32 (min (t.slipc.toNat + n) (2 ^ 32 - 1)), slip := true, slipped := n }

theorem Tract.slipc_slips (t : Tract) (n : Nat) : (t.slips n).slipc.toNat = min (t.slipc.toNat + n) (2 ^ 32 - 1) :=
  Nat.mod_eq_of_lt (by omega)

theorem State.slipBy_zero (s : State) (pcl : Nat) : s.slipBy pcl 0 = s := by
  unfold State.slipBy
  exact if_pos rfl

/-- The stiles that are UNBOUND are so after the others have moved (R127). -/
theorem State.stileFlow_unbound {s : State} {n : Nat} (h : (s.stile n).state = 0) (pcl : Nat) :
    ((s.stileFlow pcl).stile n).state = 0 := by
  refine foldl_inv (I := fun t : State => (t.stile n).state = 0) (fun m _ t ht => ?_) h
  dsimp only
  have hset (x : Stile) (hm : (t.stile m).state ≠ 0) : ((t.setStile m x).stile n).state = 0 := by
    have hne : n ≠ m := fun hnm => hm (hnm ▸ ht)
    rw [State.stile_setStile, if_neg hne, ht]
  split
  next hm =>
    split
    · exact hset _ hm.1
    · split
      · exact hset _ hm.1
      · exact ht
  next => exact ht

theorem State.enterTract_unbound {s : State} {n : Nat} (h : (s.stile n).state = 0) (pcl : Nat) (t : Tract) :
    ((s.enterTract pcl t).stile n).state = 0 := by
  obtain ⟨q, hreport⟩ := State.reports_tractEvent ((s.setTract pcl { t with changed := t.ticking }).stileFlow pcl) pcl t.state.num
  rw [State.enterTract, hreport.stile n, State.modTract, State.stile_setTract]
  exact State.stileFlow_unbound (s := s.setTract pcl { t with changed := t.ticking }) h pcl

/-- What a slip leaves of the compute side and of the stiles: the tract is SLIPPED (R113). -/
theorem State.slipBy_spec {s : State} {pcl n : Nat} (hn : n ≠ 0)
    (hstate : (s.tract pcl).state = .locked ∨ (s.tract pcl).state = .slipped) :
    (∃ v, s.OnlyTract (s.slipBy pcl n) pcl v ∧ ∃ c e, v = { (s.tract pcl).slips n with state := .slipped, changed := c, evt := e })
    ∧ ∀ m, (s.stile m).state = 0 → ((s.slipBy pcl n).stile m).state = 0 := by
  rcases hstate with h | h
  · have heq : s.slipBy pcl n = s.enterTract pcl { (s.tract pcl).slips n with state := .slipped } :=
      (if_neg hn).trans (if_pos h)
    rw [heq]
    exact ⟨⟨_, s.onlyTract_enterTract .., _, _, rfl⟩, fun m hm => State.enterTract_unbound hm ..⟩
  · have heq : s.slipBy pcl n = s.setTract pcl ((s.tract pcl).slips n) :=
      (if_neg hn).trans (if_neg (by rw [h]; decide))
    rw [heq]
    refine ⟨⟨_, s.onlyTract_setTract .., (s.tract pcl).changed, (s.tract pcl).evt, ?_⟩, fun m hm => hm⟩
    rw [← h]
    rfl

/-! ### What the stiles deliver at a sample boundary -/

/-- From s to t stiles have delivered at a boundary of a cluster: of the tracts its own alone has changed, and in its TAP. -/
structure State.Delivers (s t : State) (pcl : Nat) : Prop where
  frame : t = { s with stiles := t.stiles, tracts := t.tracts }
  state : ∀ m, (t.stile m).state = (s.stile m).state
  tap : ∃ w, t.tract pcl = { s.tract pcl with tap := w }
  other : ∀ m, m ≠ pcl → t.tract m = s.tract m

section
variable {s t u : State} {pcl : Nat}

theorem State.Delivers.refl (s : State) (pcl : Nat) : s.Delivers s pcl := ⟨rfl, fun _ => rfl, ⟨_, rfl⟩, fun _ _ => rfl⟩

theorem State.Delivers.trans (h : s.Delivers t pcl) (h' : t.Delivers u pcl) : s.Delivers u pcl where
  frame := h'.frame.trans (by rw [h.frame])
  state m := (h'.state m).trans (h.state m)
  tap := by
    obtain ⟨w, hw⟩ := h.tap
    obtain ⟨w', hw'⟩ := h'.tap
    exact ⟨w', by rw [hw', hw]⟩
  other m hm := (h'.other m hm).trans (h.other m hm)

theorem State.Delivers.sameBytes (h : s.Delivers t pcl) : s.SameBytes t := by
  rw [h.frame]
  exact .refl s

theorem State.Delivers.cores (h : s.Delivers t pcl) : t.cores = s.cores := by rw [h.frame]

theorem State.Delivers.kernels (h : s.Delivers t pcl) : t.kernels = s.kernels := by rw [h.frame]

theorem State.Delivers.rate (h : s.Delivers t pcl) (m : Nat) : (t.tract m).rate = (s.tract m).rate := by
  by_cases hm : m = pcl
  · obtain ⟨w, hw⟩ := h.tap
    rw [hm, hw]
  · rw [h.other m hm]

end

/-- The same, of the stiles n alone having changed. -/
structure State.DeliversAt (s t : State) (pcl n : Nat) : Prop extends s.Delivers t pcl where
  stile : ∀ m, m ≠ n → t.stile m = s.stile m

theorem State.DeliversAt.refl (s : State) (pcl n : Nat) : s.DeliversAt s pcl n := ⟨.refl s pcl, fun _ _ => rfl⟩

theorem State.DeliversAt.trans {s t u : State} {pcl n : Nat} (h : s.DeliversAt t pcl n) (h' : t.DeliversAt u pcl n) :
    s.DeliversAt u pcl n :=
  ⟨h.toDelivers.trans h'.toDelivers, fun m hm => (h'.stile m hm).trans (h.stile m hm)⟩

theorem State.deliversAt_setStile (s : State) (pcl : Nat) {n : Nat} {x : Stile} (h : x.state = (s.stile n).state) :
    s.DeliversAt (s.setStile n x) pcl n := by
  refine ⟨⟨rfl, fun m => ?_, ⟨_, rfl⟩, fun _ _ => rfl⟩, fun m hm => (s.stile_setStile ..).trans (if_neg hm)⟩
  rw [State.stile_setStile]
  split
  next hm => rw [h, hm]
  next => rfl

theorem State.deliversAt_tap (s : State) (pcl n : Nat) (w : Word) :
    s.DeliversAt (s.modTract pcl (fun r => { r with tap := w })) pcl n :=
  ⟨⟨rfl, fun _ => rfl, ⟨w, s.tract_setTract_self ..⟩, fun _ hm => (s.tract_setTract ..).trans (if_neg hm)⟩, fun _ _ => rfl⟩

/-- A HOLD or an INTERP delivers a value to TAP or to STO (R128, R129). -/
def Stile.delivered (t : Stile) (v : Word) : Stile := { t with last := v, sto := if t.out then t.sto else v }

def State.handOver (s : State) (pcl n : Nat) (t : Stile) (v : Word) : State :=
  if t.out then (s.setStile n { t with last := v }).modTract pcl (fun r => { r with tap := v })
  else s.setStile n { t with last := v, sto := v }

theorem State.deliversAt_handOver {s : State} {n : Nat} {t : Stile} (h : t.state = (s.stile n).state) (pcl : Nat) (v : Word) :
    s.DeliversAt (s.handOver pcl n t v) pcl n := by
  unfold State.handOver
  split
  · exact (s.deliversAt_setStile (x := { t with last := v }) pcl h).trans (State.deliversAt_tap ..)
  · exact s.deliversAt_setStile pcl h

theorem State.stile_handOver (s : State) (pcl n : Nat) (t : Stile) (v : Word) :
    (s.handOver pcl n t v).stile n = t.delivered v := by
  unfold State.handOver Stile.delivered
  split
  · rw [State.modTract, State.stile_setTract, State.stile_setStile_self]
  · rw [State.stile_setStile_self]

theorem State.tap_handOver {s : State} {pcl n : Nat} {t : Stile} {v : Word} (h : t.out = true) :
    ((s.handOver pcl n t v).tract pcl).tap = v := by
  rw [State.handOver, if_pos h, State.modTract, State.tract_setTract_self]

/-- A destination's boundary makes what a BOX holds eligible (R129). -/
def Stile.eligible (t : Stile) : Stile := { t with box := t.box.map (fun e => (e.1, true, e.2.2.1, e.2.2.2)) }

/-- The stile that delivers at a boundary, and the value, of a HOLD or an INTERP in FLOWING (R128, R129). -/
def Stile.output (t : Stile) (src : Tract) (stamp : Word) : Stile × Word :=
  if t.mode = 2 then
    match t.slot with
    | some v => ({ t with slot := none, stale := false }, v)
    | none => ({ t with rpt := true, rptc := satByte t.rptc, stale := true }, t.last)
  else ({ t with stale := (t.interp src stamp).2 }, (t.interp src stamp).1)

theorem Stile.state_output (t : Stile) (src : Tract) (stamp : Word) :
    (t.eligible.output src stamp).1.state = t.state := by
  unfold Stile.output
  split
  · split <;> rfl
  · rfl

theorem State.stileOut_flowing {s : State} {pcl n : Nat} {held : Word} (hstate : (s.stile n).state = 2) :
    let t := (s.stile n).eligible
    let o := t.output (s.tract (pcl / 16 * 16 + t.sclu)) (s.tract pcl).tstamp
    s.stileOut pcl n held = if t.mode = 2 ∨ t.mode = 1 then s.handOver pcl n o.1 o.2 else s.setStile n { t with stale := false } := by
  intro t o
  have hbox : (if (s.stile n).state ≠ 0 then t else s.stile n) = t := if_pos (by rw [hstate]; decide)
  have hmode : t.mode = (s.stile n).mode := rfl
  unfold State.stileOut
  dsimp only
  rw [show (if (s.stile n).state ≠ 0 then { s.stile n with
    box := (s.stile n).box.map (fun e => (e.1, true, e.2.2.1, e.2.2.2)) } else s.stile n) = t from hbox]
  have ht : t.state = 2 := hstate
  rw [if_neg (by rw [ht]; simp), if_neg (by rw [ht]; simp)]
  by_cases h2 : t.mode = 2
  · have hor : t.mode = 2 ∨ t.mode = 1 := .inl h2
    have ho : o = match t.slot with
        | some v => ({ t with slot := none, stale := false }, v)
        | none => ({ t with rpt := true, rptc := satByte t.rptc, stale := true }, t.last) := if_pos h2
    rw [if_pos h2, if_pos hor, ho]
    cases hslot : t.slot <;> rfl
  · have ho : o = ({ t with stale := (t.interp (s.tract (pcl / 16 * 16 + t.sclu)) (s.tract pcl).tstamp).2 },
        (t.interp (s.tract (pcl / 16 * 16 + t.sclu)) (s.tract pcl).tstamp).1) := if_neg h2
    by_cases h1 : t.mode = 1
    · have hor : t.mode = 2 ∨ t.mode = 1 := .inr h1
      rw [if_neg h2, if_pos h1, if_pos hor, ho]
      rfl
    · rw [if_neg h2, if_neg h1, if_neg (not_or.2 ⟨h2, h1⟩)]

theorem State.deliversAt_stileOut (s : State) (pcl n : Nat) (held : Word) : s.DeliversAt (s.stileOut pcl n held) pcl n := by
  by_cases h2 : (s.stile n).state = 2
  · rw [State.stileOut_flowing h2]
    split
    · exact State.deliversAt_handOver (Stile.state_output ..) ..
    · exact s.deliversAt_setStile pcl rfl
  · unfold State.stileOut
    extract_lets was deliver t
    have hstate : t.state = was.state := by
      simp only [t]
      split <;> rfl
    have hset := s.deliversAt_setStile pcl hstate
    split
    · exact hset.trans (State.deliversAt_tap ..)
    · rw [if_pos (hstate.symm ▸ h2)]
      exact hset

/-- One stile's part of a sample boundary of a cluster that is its destination, and of one that is its source (R128, R129). -/
def State.stileIn (s : State) (pcl n : Nat) (held : Word) : State :=
  if (s.stile n).dclu = pcl % 16 ∧ (s.stile n).state ≠ 0 then s.stileOut pcl n held else s

def State.newSample (s : State) (pcl n : Nat) : State :=
  if (s.stile n).sclu = pcl % 16 ∧ (s.stile n).put then s.setStile n { (s.stile n) with put := false } else s

theorem State.deliversAt_newSample (s : State) (pcl n : Nat) : s.DeliversAt (s.newSample pcl n) pcl n := by
  unfold State.newSample
  split
  · exact s.deliversAt_setStile pcl rfl
  · exact .refl s pcl n

theorem State.deliversAt_step (s : State) (pcl n : Nat) (held : Word) :
    s.DeliversAt ((s.stileIn pcl n held).newSample pcl n) pcl n := by
  refine State.DeliversAt.trans ?_ (State.deliversAt_newSample ..)
  unfold State.stileIn
  split
  · exact s.deliversAt_stileOut ..
  · exact .refl s pcl n

theorem State.tract_newSample (s : State) (pcl n m : Nat) : (s.newSample pcl n).tract m = s.tract m := by
  unfold State.newSample
  split <;> rfl

/-- A stile that is UNBOUND delivers nothing. -/
theorem State.tract_step_of_unbound {s : State} {n : Nat} (h : (s.stile n).state = 0) (pcl : Nat) (held : Word) :
    ((s.stileIn pcl n held).newSample pcl n).tract pcl = s.tract pcl := by
  rw [State.tract_newSample, State.stileIn, if_neg (fun hb => hb.2 h)]

theorem State.delivers_stileBoundary (s : State) (pcl : Nat) (held : Word) : s.Delivers (s.stileBoundary pcl held) pcl :=
  foldl_inv (I := fun t => s.Delivers t pcl) (fun n _ t ht => ht.trans (t.deliversAt_step pcl n held).toDelivers) (.refl s pcl)

theorem State.tract_stileBoundary_of_unbound {s : State} {pcl : Nat} (h : ∀ m ∈ stilesOf (pcl / 16), (s.stile m).state = 0)
    (held : Word) : (s.stileBoundary pcl held).tract pcl = s.tract pcl := by
  refine (foldl_inv (I := fun t : State => (∀ m, (t.stile m).state = (s.stile m).state) ∧ t.tract pcl = s.tract pcl)
    (fun n hn t ⟨hstate, htract⟩ => ⟨fun m => ((t.deliversAt_step pcl n held).state m).trans (hstate m), ?_⟩)
    ⟨fun _ => rfl, rfl⟩).2
  rw [State.tract_step_of_unbound ((hstate n).trans (h n hn)), htract]

/-- The boundary's fold comes to a stile in a state that has delivered from others. -/
theorem State.exists_stileBoundary_step (s : State) {pcl n : Nat} (hn : n / 32 = pcl / 16) (held : Word) :
    ∃ t, s.Delivers t pcl ∧ t.stile n = s.stile n
      ∧ (s.stileBoundary pcl held).stile n = ((t.stileIn pcl n held).newSample pcl n).stile n :=
  foldl_at (I := fun t => s.Delivers t pcl) (get := fun t : State => t.stile n)
    (fun m _ t ht => ht.trans (t.deliversAt_step pcl m held).toDelivers)
    (fun m _ t _ hm => (t.deliversAt_step pcl m held).stile n (Ne.symm hm)) (nodup_stilesOf _) (mem_stilesOf.2 hn) (.refl s pcl)

/-- Where all others of the die are UNBOUND, that stile's step is all that the tract sees. -/
theorem State.exists_stileBoundary_alone {s : State} {pcl n : Nat} (hn : n / 32 = pcl / 16)
    (halone : ∀ m ∈ stilesOf (pcl / 16), m ≠ n → (s.stile m).state = 0) (held : Word) :
    ∃ t, s.Delivers t pcl ∧ t.stile n = s.stile n
      ∧ (s.stileBoundary pcl held).stile n = ((t.stileIn pcl n held).newSample pcl n).stile n
      ∧ (s.stileBoundary pcl held).tract pcl = (t.stileIn pcl n held).tract pcl := by
  have hat := foldl_at (I := fun t => s.Delivers t pcl) (get := fun t : State => (t.stile n, t.tract pcl))
    (step := fun t m => (t.stileIn pcl m held).newSample pcl m) (n := n)
    (fun m _ t ht => ht.trans (t.deliversAt_step pcl m held).toDelivers)
    (fun m hm t ht hne => Prod.ext ((t.deliversAt_step pcl m held).stile n (Ne.symm hne))
      (State.tract_step_of_unbound ((ht.state m).trans (halone m hm hne)) pcl held))
    (nodup_stilesOf (pcl / 16)) (mem_stilesOf.2 hn) (.refl s pcl)
  obtain ⟨t, ht, hread, hfold⟩ := hat
  obtain ⟨hstile, htract⟩ := Prod.mk.inj hfold
  exact ⟨t, ht, congrArg Prod.fst hread, hstile, htract.trans (State.tract_newSample ..)⟩

end Sys2Proof.Machine
end

section
/-! PROOFS. Frame cycle 0 in the streams of a cluster (05_tract.md, R107, R117, R118): one stream's part leaves the others, and
no stream without a word of its iteration still to issue faults its kernel. -/

namespace Sys2Proof.Machine

theorem mem_streamsOf {pcl : Nat} {id : StreamId} : id ∈ streamsOf pcl ↔ id.core / 8 = pcl := by
  obtain ⟨c, e⟩ := id
  simp only [streamsOf, List.mem_flatMap, List.mem_range, List.mem_map, StreamId.mk.injEq]
  constructor
  · rintro ⟨i, hi, _, _, rfl, -⟩
    omega
  · intro h
    exact ⟨c % 8, by omega, e, by cases e <;> decide, by omega, rfl⟩

theorem nodup_streamsOf (pcl : Nat) : (streamsOf pcl).Nodup := by
  have hmap : streamsOf pcl = (streamsOf 0).map (fun id => { id with core := 8 * pcl + id.core }) := rfl
  rw [hmap]
  refine List.Nodup.map (fun a b h => ?_) (by decide)
  obtain ⟨c, e⟩ := a
  obtain ⟨c', e'⟩ := b
  simpa using h

theorem State.live_iff {s : State} {c : Nat} : s.live c = true ↔
    ∃ k, (s.core c).kernel = some k ∧ ((s.kernel k).state = .running ∨ (s.kernel k).state = .draining) := by
  unfold State.live
  cases (s.core c).kernel <;> simp

theorem State.live_congr {s t : State} {c : Nat} (hcore : (t.core c).kernel = (s.core c).kernel) (hkernels : t.kernels = s.kernels) :
    t.live c = s.live c := by
  rw [Bool.eq_iff_iff, State.live_iff, State.live_iff, hcore]
  simp only [State.kernel, hkernels]

/-- What frame cycle 0 at some streams leaves alone: the others, and what the streams do not hold; and no kernel runs that
did not. -/
structure State.FrameStep (s t : State) (ids : List StreamId) : Prop where
  stream : ∀ j, j ∉ ids → t.stream j = s.stream j
  kernel : ∀ c, (t.core c).kernel = (s.core c).kernel
  live : ∀ c, t.live c = true → s.live c = true
  stiles : t.stiles = s.stiles
  tracts : t.tracts = s.tracts

theorem State.FrameStep.refl (s : State) (ids : List StreamId) : s.FrameStep s ids :=
  ⟨fun _ _ => rfl, fun _ => rfl, fun _ h => h, rfl, rfl⟩

theorem State.FrameStep.trans {s t u : State} {ids : List StreamId} (h : s.FrameStep t ids) (h' : t.FrameStep u ids) :
    s.FrameStep u ids where
  stream j hj := (h'.stream j hj).trans (h.stream j hj)
  kernel c := (h'.kernel c).trans (h.kernel c)
  live c hc := h.live c (h'.live c hc)
  stiles := h'.stiles.trans h.stiles
  tracts := h'.tracts.trans h.tracts

theorem State.FrameStep.mono {s t : State} {ids ids' : List StreamId} (h : s.FrameStep t ids) (hsub : ids ⊆ ids') :
    s.FrameStep t ids' :=
  { h with stream := fun j hj => h.stream j (fun hm => hj (hsub hm)) }

theorem State.frameStep_modStream (s : State) (id : StreamId) (f : Stream → Stream) : s.FrameStep (s.modStream id f) [id] := by
  have hkernel : ∀ c, ((s.modStream id f).core c).kernel = (s.core c).kernel := (s.onlyCores_modStream id f).kernel
  refine ⟨fun j hj => (s.stream_modStream ..).trans (if_neg (mt List.mem_singleton.2 hj)), hkernel, fun c hc => ?_, rfl, rfl⟩
  obtain ⟨k, hk, hrun⟩ := State.live_iff.1 hc
  exact State.live_iff.2 ⟨k, (hkernel c).symm.trans hk, hrun⟩

theorem State.setStream_eq (s : State) (id : StreamId) (m : Stream) : s.setStream id m = s.modStream id (fun _ => m) := rfl

/-- A fault at a stream of a kernel that runs. -/
theorem State.streamFault_of_live {s : State} {id : StreamId} {k : Nat} (hk : (s.core id.core).kernel = some k)
    (hrun : (s.kernel k).state = .running ∨ (s.kernel k).state = .draining) (c : KFault) (detail : Nat) :
    let t := s.streamFault id c detail
    s.FrameStep t [id] ∧ t.cores = s.cores ∧ (t.kernel k).state = .faulted ∧ (t.kernel k).fault.map (·.code) = some c
      ∧ (t.kernel k).fault.map (·.whr) = some (word (s.stream id).pc) := by
  intro t
  obtain ⟨r, ht, hcode, hwhr⟩ : ∃ r, t = s.kernelFault k r ∧ r.code = c ∧ r.whr = word (s.stream id).pc :=
    ⟨{ code := c, pcn := id.core, eng := id.eng.num, whr := word (s.stream id).pc, recVa := (s.kernel k).krec, detail := detail },
      by simp only [t, State.streamFault, hk], rfl, rfl⟩
  obtain ⟨hcores, htracts, -, hothers, hself⟩ := s.kernelFault_spec k r (.inr hrun)
  obtain ⟨u, hu, hreport⟩ := s.reports_kernelFault k r
  have hustiles : u.stiles = s.stiles := by rcases hu with rfl | ⟨K, rfl⟩ <;> rfl
  have hstiles : (s.kernelFault k r).stiles = s.stiles := by rw [hreport.frame]; exact hustiles
  rw [← ht] at hcores htracts hothers hself hstiles
  have hcore : ∀ n, t.core n = s.core n := fun n => by simp only [State.core, hcores]
  refine ⟨⟨fun j _ => by simp only [State.stream, hcore], fun n => by rw [hcore], fun n hn => ?_, hstiles, htracts⟩,
    hcores, ?_, ?_, ?_⟩
  · obtain ⟨j, hj, hjrun⟩ := State.live_iff.1 hn
    have hjk : j ≠ k := by
      rintro rfl
      rw [hself] at hjrun
      simp at hjrun
    exact State.live_iff.2 ⟨j, (congrArg Core.kernel (hcore n)).symm.trans hj, by rwa [hothers j hjk] at hjrun⟩
  · rw [hself]
  · rw [hself]
    exact congrArg some hcode
  · rw [hself]
    exact congrArg some hwhr

/-- A stream of a kernel that runs has a word of its iteration still to issue at frame cycle 0 (R118). -/
def State.lateAt (s : State) (id : StreamId) : Bool :=
  (s.stream id).phase = .live && s.live id.core && (s.stream id).wait != .frame && ((s.stream id).atTest id.eng).overruns

/-- A stream that is not late, as frame cycle 0 finds it (R117). -/
def Stream.atFrame (m : Stream) (eng : Eng) : Stream :=
  if m.wait = .frame then ({ m with wait := .none } : Stream).frameStart eng
  else if (m.atTest eng).idling = false then m
  else match m.wait with
    | .trAt n => { (m.complete eng).frameStart eng with wait := .trAtPast n, busy := m.busy }
    | _ => m.frameStart eng

/-- Frame cycle 0 at a stream that may not run, that is late, and that is not. -/
theorem State.frameZeroAt_of_dead {s : State} {id : StreamId} (h : (s.stream id).phase ≠ .live ∨ s.live id.core = false) :
    s.frameZeroAt id = s := by
  unfold State.frameZeroAt
  refine if_neg (fun ⟨hphase, hlive⟩ => h.elim (fun hn => hn hphase) (fun hn => ?_))
  rw [hn] at hlive
  cases hlive

theorem State.frameZeroAt_of_late {s : State} {id : StreamId} (h : s.lateAt id = true) : s.frameZeroAt id
    = (s.setStream id { s.stream id with pc := ((s.stream id).atTest id.eng).pc }).streamFault id .frameOverrun 0 := by
  simp only [State.lateAt, Bool.and_eq_true, decide_eq_true_eq, bne_iff_ne] at h
  obtain ⟨⟨⟨hphase, hlive⟩, hwait⟩, hover⟩ := h
  unfold State.frameZeroAt
  dsimp only
  rw [if_pos ⟨hphase, hlive⟩, if_neg hwait, if_pos hover]

theorem State.frameZeroAt_of_intime {s : State} {id : StreamId} (hphase : (s.stream id).phase = .live)
    (hlive : s.live id.core = true) (h : s.lateAt id = false) :
    (∃ f, s.frameZeroAt id = s.modStream id f ∧ f (s.stream id) = (s.stream id).atFrame id.eng)
    ∨ (s.frameZeroAt id = s ∧ (s.stream id).atFrame id.eng = s.stream id) := by
  have hintime : (s.stream id).wait = .frame ∨ ((s.stream id).atTest id.eng).overruns = false := by
    by_cases hw : (s.stream id).wait = .frame
    · exact .inl hw
    · right
      simpa [State.lateAt, hphase, hlive, hw] using h
  unfold State.frameZeroAt Stream.atFrame
  dsimp only
  rw [if_pos ⟨hphase, hlive⟩]
  by_cases hw : (s.stream id).wait = .frame
  · rw [if_pos hw, if_pos hw]
    exact .inl ⟨_, rfl, rfl⟩
  · rw [if_neg hw, if_neg hw, if_neg (by rw [hintime.resolve_left hw]; decide)]
    by_cases hidle : ((s.stream id).atTest id.eng).idling = true
    · rw [if_pos hidle, if_neg (by rw [hidle]; decide)]
      left
      cases hwait : (s.stream id).wait with
      | trAt n =>
        refine ⟨fun m => { (m.complete id.eng).frameStart id.eng with wait := .trAtPast n, busy := m.busy }, ?_, rfl⟩
        rw [State.modStream, Stream.atTest, hwait]
      | _ => exact ⟨fun m => m.frameStart id.eng, rfl, rfl⟩
    · rw [if_neg hidle, if_pos (by simpa using hidle)]
      exact .inr ⟨rfl, rfl⟩

/-- What frame cycle 0 does at any stream. -/
theorem State.frameStep_frameZeroAt (s : State) (id : StreamId) : s.FrameStep (s.frameZeroAt id) [id] := by
  by_cases hrun : (s.stream id).phase = .live ∧ s.live id.core = true
  · obtain ⟨hphase, hlive⟩ := hrun
    cases hlate : s.lateAt id with
    | true =>
      rw [State.frameZeroAt_of_late hlate, State.setStream_eq]
      have hmod := s.frameStep_modStream id (fun _ => { s.stream id with pc := ((s.stream id).atTest id.eng).pc })
      obtain ⟨k, hk, hkrun⟩ := State.live_iff.1 hlive
      exact hmod.trans (State.streamFault_of_live ((hmod.kernel id.core).trans hk) hkrun .frameOverrun 0).1
    | false =>
      rcases State.frameZeroAt_of_intime hphase hlive hlate with ⟨f, heq, -⟩ | ⟨heq, -⟩
      · rw [heq]
        exact s.frameStep_modStream id f
      · rw [heq]
        exact .refl s [id]
  · have hdead : (s.stream id).phase ≠ .live ∨ s.live id.core = false := by
      by_cases hphase : (s.stream id).phase = .live
      · exact .inr (by simpa using fun h => hrun ⟨hphase, h⟩)
      · exact .inl hphase
    rw [State.frameZeroAt_of_dead hdead]
    exact .refl s [id]

theorem State.kernels_frameZeroAt {s : State} {id : StreamId} (h : s.lateAt id = false) :
    (s.frameZeroAt id).kernels = s.kernels := by
  by_cases hphase : (s.stream id).phase = .live
  · cases hlive : s.live id.core with
    | true =>
      rcases State.frameZeroAt_of_intime hphase hlive h with ⟨f, heq, -⟩ | ⟨heq, -⟩ <;> rw [heq]
      rfl
    | false => rw [State.frameZeroAt_of_dead (.inr hlive)]
  · rw [State.frameZeroAt_of_dead (.inl hphase)]

/-! ### All streams of a cluster -/

theorem State.frameStep_foldl (ids : List StreamId) (s : State) : s.FrameStep (ids.foldl State.frameZeroAt s) ids :=
  foldl_inv (I := fun t => s.FrameStep t ids)
    (fun id hid t ht => ht.trans ((t.frameStep_frameZeroAt id).mono (List.cons_subset.2 ⟨hid, List.nil_subset _⟩))) (.refl s ids)

/-- A stream that is late at a state reached by others' steps was so before them. -/
theorem State.FrameStep.lateAt {s t : State} {ids : List StreamId} {id : StreamId} (h : s.FrameStep t ids) (hid : id ∉ ids)
    (hintime : s.lateAt id = false) : t.lateAt id = false := by
  cases hlive : t.live id.core with
  | true => simpa only [State.lateAt, h.stream id hid, hlive, h.live id.core hlive] using hintime
  | false => simp [State.lateAt, hlive]

theorem State.FrameStep.lateAt_true {s t : State} {ids : List StreamId} {id : StreamId} (h : s.FrameStep t ids) (hid : id ∉ ids)
    (hlive : t.live id.core = s.live id.core) (hlate : s.lateAt id = true) : t.lateAt id = true := by
  simpa only [State.lateAt, h.stream id hid, hlive] using hlate

/-- The kernel of a late stream is FAULTED at the word that the stream has still to issue (R118). -/
theorem State.fault_frameZeroAt_of_late {s : State} {id : StreamId} {k : Nat} (h : s.lateAt id = true)
    (hk : (s.core id.core).kernel = some k) :
    let K := (s.frameZeroAt id).kernel k
    K.state = .faulted ∧ K.fault.map (·.code) = some .frameOverrun
      ∧ K.fault.map (·.whr) = some (word ((s.stream id).atTest id.eng).pc) := by
  have hlive : s.live id.core = true := by
    simp only [State.lateAt, Bool.and_eq_true] at h
    exact h.1.1.2
  obtain ⟨k', hk', hrun⟩ := State.live_iff.1 hlive
  obtain rfl : k' = k := Option.some.inj (hk'.symm.trans hk)
  have hmod := s.frameStep_modStream id (fun _ => { s.stream id with pc := ((s.stream id).atTest id.eng).pc })
  obtain ⟨-, -, hstate, hcode, hwhr⟩ := State.streamFault_of_live ((hmod.kernel id.core).trans hk) hrun .frameOverrun 0
  rw [State.stream_modStream, if_pos rfl] at hwhr
  intro K
  have hK : K = ((s.modStream id (fun _ => { s.stream id with pc := ((s.stream id).atTest id.eng).pc })).streamFault id
      .frameOverrun 0).kernel k' := by
    simp only [K, State.frameZeroAt_of_late h, State.setStream_eq]
  rw [hK]
  exact ⟨hstate, hcode, hwhr⟩

/-- Where no stream of a list is late, no kernel faults. -/
theorem State.kernels_foldl_frameZeroAt {ids : List StreamId} (hnodup : ids.Nodup) {s : State}
    (h : ∀ id ∈ ids, s.lateAt id = false) : (ids.foldl State.frameZeroAt s).kernels = s.kernels := by
  induction ids generalizing s with
  | nil => rfl
  | cons id ids ih =>
    obtain ⟨hid, hnodup⟩ := List.nodup_cons.1 hnodup
    have hstep := State.frameStep_foldl [id] s
    refine (ih hnodup (fun j hj => hstep.lateAt ?_ (h j (List.mem_cons_of_mem id hj)))).trans
      (State.kernels_frameZeroAt (h id List.mem_cons_self))
    exact fun hj' => hid (List.mem_singleton.1 hj' ▸ hj)

/-- The streams of a cluster before and behind one of them. -/
theorem exists_split_streamsOf {pcl : Nat} {id : StreamId} (h : id.core / 8 = pcl) : ∃ before after,
    streamsOf pcl = before ++ id :: after ∧ id ∉ before ∧ id ∉ after ∧ before.Nodup ∧ after.Nodup
      ∧ ∀ j ∈ after, j ∉ before := by
  obtain ⟨before, after, hlist⟩ := List.append_of_mem (mem_streamsOf.2 h)
  have hnodup := nodup_streamsOf pcl
  rw [hlist] at hnodup
  obtain ⟨hbefore, hrest, hapart⟩ := List.nodup_append.1 hnodup
  obtain ⟨hid, hafter⟩ := List.nodup_cons.1 hrest
  exact ⟨before, after, hlist, fun hm => hapart id hm id List.mem_cons_self rfl, hid, hbefore, hafter,
    fun j hj hj' => hapart j hj' j (List.mem_cons_of_mem id hj) rfl⟩

/-- Frame cycle 0 comes to a stream of the cluster once. -/
theorem State.frameZero_eq {pcl : Nat} {id : StreamId} {before after : List StreamId}
    (h : streamsOf pcl = before ++ id :: after) (s : State) :
    s.frameZero pcl = after.foldl State.frameZeroAt ((before.foldl State.frameZeroAt s).frameZeroAt id) := by
  rw [State.frameZero, h, List.foldl_append, List.foldl_cons]

section
variable {s : State} {pcl : Nat}

theorem State.stream_frameZero_of_intime (h : ∀ id, id.core / 8 = pcl → s.lateAt id = false) {id : StreamId}
    (hid : id.core / 8 = pcl) : (s.frameZero pcl).stream id =
      if (s.stream id).phase ≠ .live ∨ s.live id.core = false then s.stream id else (s.stream id).atFrame id.eng := by
  obtain ⟨before, after, hlist, hbefore, hafter, hnodup, -, -⟩ := exists_split_streamsOf hid
  have hmem : ∀ j ∈ before, s.lateAt j = false := fun j hj =>
    h j (mem_streamsOf.1 (hlist ▸ List.mem_append_left _ hj))
  have hstep := State.frameStep_foldl before s
  have hkernels := State.kernels_foldl_frameZeroAt hnodup hmem
  rw [State.frameZero_eq hlist, (State.frameStep_foldl after _).stream id hafter, ← hstep.stream id hbefore]
  have hlive := State.live_congr (hstep.kernel id.core) hkernels
  have hlate := hstep.lateAt hbefore (h id hid)
  rw [← hlive]
  generalize before.foldl State.frameZeroAt s = t at hlate ⊢
  split
  next hdead => rw [State.frameZeroAt_of_dead hdead]
  next hrun =>
    obtain ⟨hphase, hrun⟩ := not_or.1 hrun
    rcases State.frameZeroAt_of_intime (not_not.1 hphase) (by simpa using hrun) hlate with ⟨f, heq, hf⟩ | ⟨heq, hf⟩
    · rw [heq, State.stream_modStream, if_pos rfl, hf]
    · rw [heq, hf]

/-- The only stream that is late takes FRAME_OVERRUN at the word that it has still to issue (R118). -/
theorem State.kernel_frameZero_of_late {id : StreamId} {k : Nat} (hid : id.core / 8 = pcl) (hlate : s.lateAt id = true)
    (hk : (s.core id.core).kernel = some k) (honly : ∀ j, j.core / 8 = pcl → s.lateAt j = true → j = id) :
    let K := (s.frameZero pcl).kernel k
    K.state = .faulted ∧ K.fault.map (·.code) = some .frameOverrun
      ∧ K.fault.map (·.whr) = some (word ((s.stream id).atTest id.eng).pc) := by
  obtain ⟨before, after, hlist, hbefore, hafter, hnodup, hnodup', happart⟩ := exists_split_streamsOf hid
  have hintime : ∀ j, j.core / 8 = pcl → j ≠ id → s.lateAt j = false := fun j hj hne => by
    cases hl : s.lateAt j with
    | true => exact absurd (honly j hj hl) hne
    | false => rfl
  have hours : ∀ j ∈ before ++ id :: after, j.core / 8 = pcl := fun j hj => mem_streamsOf.1 (hlist ▸ hj)
  have hstep := State.frameStep_foldl before s
  have hkernels : (before.foldl State.frameZeroAt s).kernels = s.kernels := State.kernels_foldl_frameZeroAt hnodup (fun j hj =>
    hintime j (hours j (List.mem_append_left _ hj)) (fun h => hbefore (h ▸ hj)))
  have hfault := State.fault_frameZeroAt_of_late
    (hstep.lateAt_true hbefore (State.live_congr (hstep.kernel id.core) hkernels) hlate) ((hstep.kernel id.core).trans hk)
  have hafter' : (after.foldl State.frameZeroAt ((before.foldl State.frameZeroAt s).frameZeroAt id)).kernels
      = ((before.foldl State.frameZeroAt s).frameZeroAt id).kernels := by
    refine State.kernels_foldl_frameZeroAt hnodup' (fun j hj => ?_)
    have hne : j ≠ id := fun h => hafter (h ▸ hj)
    have hours' := hours j (List.mem_append_right _ (List.mem_cons_of_mem id hj))
    exact (State.frameStep_frameZeroAt _ id).lateAt (mt List.mem_singleton.1 hne)
      (hstep.lateAt (happart j hj) (hintime j hours' hne))
  have hK : (s.frameZero pcl).kernel k = ((before.foldl State.frameZeroAt s).frameZeroAt id).kernel k := by
    rw [State.frameZero_eq hlist]
    exact congrArg (fun l => Tbl.get l {} k) hafter'
  rw [hstep.stream id hbefore] at hfault
  dsimp only
  rw [hK]
  exact hfault

theorem State.frameBegins_frameZero (s : State) (pcl : Nat) : FrameBegins s (s.frameZero pcl) pcl := by
  refine ⟨fun id hid => ?_, fun h => ⟨?_, fun id hid => ?_⟩, fun id k hid hlate hk honly =>
    State.kernel_frameZero_of_late hid hlate hk honly⟩
  · exact (State.frameStep_foldl (streamsOf pcl) s).stream id (mt mem_streamsOf.1 hid)
  · exact State.kernels_foldl_frameZeroAt (nodup_streamsOf pcl) (fun id hid => h id (mem_streamsOf.1 hid))
  · exact State.stream_frameZero_of_intime h hid

end

end Sys2Proof.Machine
end

section
/-! PROOFS. Samples, tracts and sinks (05_tract.md, R102 to R118, R127 to R129): O27. What a sample boundary presents and
leaves of its tract, what a stile delivers at it, and the arithmetic of INTERP. -/

namespace Sys2Proof.Machine

theorem TState.runs_of_in_time {x : TState} (h : x = .locked ∨ x = .slipped) : x.runs = true ∧ x ≠ .coast := by
  rcases h with rfl | rfl <;> decide

/-! ### What a boundary presents -/

section
variable {t : Tract} {l : List (Word × Word)} {st v : Word}

theorem Tract.present_of_fresh (hstate : t.state ≠ .coast) (hoff : t.off = false) (hfresh : t.fresh = (st, v) :: l) :
    t.present = ({ t with tap := v, tstamp := st, stale := false, fresh := l }, 0) := by
  simp only [Tract.present, if_neg hstate, hoff, hfresh, Bool.false_eq_true, if_false]

theorem Tract.present_of_off (hstate : t.state ≠ .coast) (hoff : t.off = true) (hfresh : t.fresh = l ++ [(st, v)]) :
    t.present = ({ t with tap := v, tstamp := st, stale := false, fresh := [] }, l.length) := by
  simp only [Tract.present, if_neg hstate, hoff, hfresh, if_true, List.reverse_append, List.reverse_cons, List.reverse_nil,
    List.nil_append, List.cons_append, List.length_reverse]

theorem Tract.present_of_none (hstate : t.state ≠ .coast) (hfresh : t.fresh = []) :
    t.present = ({ t with stale := true }, 1) := by
  simp only [Tract.present, if_neg hstate, hfresh, List.reverse_nil, ite_self]

theorem Tract.present_of_coast (hstate : t.state = .coast) :
    t.present = ({ t with stale := true, holdLeft := t.holdLeft - 1, fresh := [] }, 0) := if_pos hstate

theorem Tract.boundaryDue_of {chron : Word} (hruns : t.state.runs = true) (hheld : t.held = false)
    (hcoast : ¬(t.state = .coast ∧ t.edge = .framed ∧ t.holdLeft = 0))
    (hedge : t.edge = .framed ∨ (t.edge = .taken ∧ t.sidx + 1 < t.m)) (hsupplied : t.supplied chron = true) :
    t.boundaryDue chron = true := by
  have hc : (!(decide (t.state = .coast) && decide (t.edge = .framed) && decide (t.holdLeft = 0))) = true := by
    rw [Bool.not_eq_true']
    simpa [and_assoc] using hcoast
  have he : (decide (t.edge = .framed) || (decide (t.edge = .taken) && decide (t.sidx + 1 < t.m))) = true := by
    simpa using hedge
  rw [Tract.boundaryDue, hruns, hheld, hc, he, hsupplied]
  rfl

end

/-- A tract inside the sample that a boundary begins (R107, R110). -/
def Tract.bounded (t : Tract) : Tract :=
  { (if t.edge = .framed then t.present.1 else { t.present.1 with sidx := t.sidx + 1, fcyc := t.fcyc + 1 }) with
    edge := .inside, restart := false }

theorem Tract.bounded_of_taken {t : Tract} (h : t.edge = .taken) : t.bounded
    = { t.present.1 with sidx := t.sidx + 1, fcyc := t.fcyc + 1, edge := .inside, restart := false } := by
  rw [Tract.bounded, if_neg (by rw [h]; decide)]

theorem Tract.bounded_of_framed {t : Tract} (h : t.edge = .framed) :
    t.bounded = { t.present.1 with edge := .inside, restart := false } := by
  rw [Tract.bounded, if_pos h]

/-- A sample boundary, but for frame cycle 0. -/
def State.bounded (s : State) (pcl : Nat) : State :=
  ((s.setTract pcl (s.tract pcl).bounded).slipBy pcl (s.tract pcl).present.2).stileBoundary pcl (s.tract pcl).tap

section
variable {s : State} {pcl : Nat}

theorem execSampleBoundary_of_due (hdue : (s.tract pcl).boundaryDue s.chron = true) (hheld : (s.tract pcl).held = false) :
    execSampleBoundary pcl s
      = .next (if (s.tract pcl).edge = .framed then (s.bounded pcl).frameZero pcl else s.bounded pcl) := by
  have hover : (s.tract pcl).holdOver = false := by rw [Tract.holdOver, hheld, Bool.false_and]
  unfold execSampleBoundary
  dsimp only
  rw [hdue, hover]
  rfl

/-- No stile of a die is bound. -/
def State.NoStile (s : State) (die : Nat) : Prop := ∀ m < 32, (s.stile (32 * die + m)).state = 0

theorem State.NoStile.unbound {die : Nat} (h : s.NoStile die) : ∀ m ∈ stilesOf die, (s.stile m).state = 0 := by
  intro m hm
  obtain ⟨k, hk, rfl⟩ := List.mem_map.1 hm
  exact h k (List.mem_range.1 hk)

/-- A boundary that finds no sample lost or repeated. -/
theorem State.bounded_of_intime (h : (s.tract pcl).present.2 = 0) :
    (s.setTract pcl (s.tract pcl).bounded).Delivers (s.bounded pcl) pcl
    ∧ (s.NoStile (pcl / 16) → (s.bounded pcl).tract pcl = (s.tract pcl).bounded) := by
  unfold State.bounded
  rw [h, State.slipBy_zero]
  refine ⟨State.delivers_stileBoundary .., fun hnone => ?_⟩
  rw [State.tract_stileBoundary_of_unbound (s := s.setTract pcl (s.tract pcl).bounded) hnone.unbound,
    State.tract_setTract_self]

/-- A boundary that finds n samples lost or repeated leaves the tract SLIPPED (R113). -/
theorem State.bounded_of_slip {n : Nat} (h : (s.tract pcl).present.2 = n) (hn : n ≠ 0)
    (hstate : (s.tract pcl).bounded.state = .locked ∨ (s.tract pcl).bounded.state = .slipped) :
    (s.bounded pcl).cores = s.cores ∧ ∃ w c e, (s.bounded pcl).tract pcl
        = { (s.tract pcl).bounded.slips n with state := .slipped, changed := c, evt := e, tap := w }
      ∧ (s.NoStile (pcl / 16) → w = (s.tract pcl).bounded.tap) := by
  rw [← s.tract_setTract_self pcl (s.tract pcl).bounded] at hstate
  obtain ⟨⟨v, honly, c, e, hv⟩, hunbound⟩ := State.slipBy_spec hn hstate
  have hdeliver := State.delivers_stileBoundary ((s.setTract pcl (s.tract pcl).bounded).slipBy pcl n) pcl (s.tract pcl).tap
  obtain ⟨w, hw⟩ := hdeliver.tap
  rw [honly.self, hv, State.tract_setTract_self] at hw
  unfold State.bounded
  rw [h]
  refine ⟨hdeliver.cores.trans honly.cores, w, c, e, hw, fun hnone => ?_⟩
  have hsame := State.tract_stileBoundary_of_unbound (s := (s.setTract pcl (s.tract pcl).bounded).slipBy pcl n) (pcl := pcl)
    (fun m hm => hunbound m (hnone.unbound m hm)) (s.tract pcl).tap
  rw [hw, honly.self, hv, State.tract_setTract_self] at hsame
  exact congrArg Tract.tap hsame

end

theorem State.FrameStep.tract {s t : State} {ids : List StreamId} (h : s.FrameStep t ids) (n : Nat) : t.tract n = s.tract n := by
  simp only [State.tract, h.tracts]

theorem State.FrameStep.stile {s t : State} {ids : List StreamId} (h : s.FrameStep t ids) (n : Nat) : t.stile n = s.stile n := by
  simp only [State.stile, h.stiles]

theorem State.tract_frameZero (s : State) (pcl n : Nat) : (s.frameZero pcl).tract n = s.tract n :=
  (State.frameStep_foldl (streamsOf pcl) s).tract n

theorem State.stile_frameZero (s : State) (pcl n : Nat) : (s.frameZero pcl).stile n = s.stile n :=
  (State.frameStep_foldl (streamsOf pcl) s).stile n

/-- Frame cycle 0 changes neither the tract nor a stile. -/
theorem exists_sampleBoundary {s : State} {pcl : Nat} (hdue : (s.tract pcl).boundaryDue s.chron = true)
    (hheld : (s.tract pcl).held = false) : ∃ u, exec (.sampleBoundary pcl) s = .next u
      ∧ u.tract pcl = (s.bounded pcl).tract pcl ∧ (∀ n, u.stile n = (s.bounded pcl).stile n)
      ∧ ((s.tract pcl).edge ≠ .framed → u = s.bounded pcl)
      ∧ ((s.tract pcl).edge = .framed → u = (s.bounded pcl).frameZero pcl) := by
  have hexec := execSampleBoundary_of_due hdue hheld
  by_cases hedge : (s.tract pcl).edge = .framed
  · rw [if_pos hedge] at hexec
    exact ⟨_, hexec, State.tract_frameZero .., fun n => State.stile_frameZero .., fun h => absurd hedge h, fun _ => rfl⟩
  · rw [if_neg hedge] at hexec
    exact ⟨_, hexec, rfl, fun _ => rfl, fun _ => rfl, fun h => absurd h hedge⟩

/-- How a frame begins is a matter of the cores and kernels. -/
theorem FrameBegins.congr {s t u : State} {pcl : Nat} (h : FrameBegins t u pcl) (hcores : t.cores = s.cores)
    (hkernels : t.kernels = s.kernels) : FrameBegins s u pcl := by
  have hcore : ∀ c, t.core c = s.core c := fun c => by simp only [State.core, hcores]
  have hstream : ∀ id, t.stream id = s.stream id := fun id => by simp only [State.stream, hcore]
  have hlive : ∀ c, t.live c = s.live c := fun c => State.live_congr (congrArg Core.kernel (hcore c)) hkernels
  unfold FrameBegins at h ⊢
  simp only [hcore, hstream, hlive, hkernels] at h
  exact h

/-! ### What a stile delivers -/

/-- A stile at a boundary of its destination, but for its output: what a BOX holds becomes eligible, and a boundary that is
its source's too begins a source sample (R128, R129). -/
def Stile.reached (t : Stile) (clu : Nat) : Stile :=
  { t with box := t.box.map (fun e => (e.1, true, e.2.2)), put := t.put && t.sclu != clu }

/-- A FLOWING stile after its output (R127 to R129). -/
def Stile.boundary (t : Stile) (src : Tract) (stamp : Word) : Stile :=
  if t.mode = 2 ∨ t.mode = 1 then (t.output src stamp).1.delivered (t.output src stamp).2 else { t with stale := false }

theorem Stile.interp_congr {src src' : Tract} (h : src.rate = src'.rate) (t : Stile) (stamp : Word) :
    t.interp src stamp = t.interp src' stamp := by
  unfold Stile.interp
  rw [h]

theorem Stile.boundary_congr {src src' : Tract} (h : src.rate = src'.rate) (t : Stile) (stamp : Word) :
    t.boundary src stamp = t.boundary src' stamp := by
  unfold Stile.boundary Stile.output
  rw [Stile.interp_congr h]

/-- Whether a put came in the source sample does not matter to the output. -/
theorem Stile.boundary_put (t : Stile) (p : Bool) (src : Tract) (stamp : Word) :
    ({ t with put := p } : Stile).boundary src stamp = { t.boundary src stamp with put := p } := by
  have hmode : ({ t with put := p } : Stile).mode = t.mode := rfl
  unfold Stile.boundary
  rw [hmode]
  split
  · unfold Stile.output
    rw [hmode]
    split
    · cases hslot : t.slot <;> rfl
    · rfl
  · rfl

theorem State.stile_newSample (s : State) (pcl n : Nat) : (s.newSample pcl n).stile n
    = { s.stile n with put := (s.stile n).put && (s.stile n).sclu != pcl % 16 } := by
  unfold State.newSample
  by_cases hclu : (s.stile n).sclu = pcl % 16
  · cases hput : (s.stile n).put with
    | true => rw [if_pos ⟨hclu, rfl⟩, State.stile_setStile_self, bne_eq_false_iff_eq.2 hclu, Bool.and_false]
    | false => rw [if_neg (by simp), Bool.false_and, ← hput]
  · rw [if_neg (fun h => hclu h.1), bne_iff_ne.2 hclu, Bool.and_true]

theorem Stile.sclu_boundary (t : Stile) (src : Tract) (stamp : Word) : (t.boundary src stamp).sclu = t.sclu ∧
    (t.boundary src stamp).put = t.put ∧ (t.boundary src stamp).out = t.out := by
  unfold Stile.boundary Stile.output
  split
  · split
    · cases t.slot <;> exact ⟨rfl, rfl, rfl⟩
    · exact ⟨rfl, rfl, rfl⟩
  · exact ⟨rfl, rfl, rfl⟩

section
variable {s : State} {pcl n : Nat}

/-- A FLOWING stile at a boundary of its destination. -/
theorem State.stile_step (hdest : (s.stile n).dclu = pcl % 16) (hstate : (s.stile n).state = 2) (held : Word) :
    ((s.stileIn pcl n held).newSample pcl n).stile n = ((s.stile n).reached (pcl % 16)).boundary
      (s.tract (pcl / 16 * 16 + (s.stile n).sclu)) (s.tract pcl).tstamp := by
  have hin : s.stileIn pcl n held = s.stileOut pcl n held := if_pos ⟨hdest, by rw [hstate]; decide⟩
  have hout : (s.stileOut pcl n held).stile n = (s.stile n).eligible.boundary
      (s.tract (pcl / 16 * 16 + (s.stile n).sclu)) (s.tract pcl).tstamp := by
    rw [State.stileOut_flowing hstate, Stile.boundary]
    split
    · exact State.stile_handOver ..
    · exact s.stile_setStile_self ..
  obtain ⟨hsclu, hput, -⟩ := (s.stile n).eligible.sclu_boundary (s.tract (pcl / 16 * 16 + (s.stile n).sclu)) (s.tract pcl).tstamp
  rw [hin, State.stile_newSample, hout, hsclu, hput, ← Stile.boundary_put]
  rfl

/-- A HOLD or an INTERP that drives TAP gives it what it last delivered. -/
theorem State.tap_stileIn (hdest : (s.stile n).dclu = pcl % 16) (hstate : (s.stile n).state = 2)
    (hmode : (s.stile n).mode = 2 ∨ (s.stile n).mode = 1) (hdrive : (s.stile n).out = true) (held : Word) :
    ((s.stileIn pcl n held).tract pcl).tap = (((s.stileIn pcl n held).newSample pcl n).stile n).last := by
  have hin : s.stileIn pcl n held = s.stileOut pcl n held := if_pos ⟨hdest, by rw [hstate]; decide⟩
  have hlast : ∀ u : State, ((u.newSample pcl n).stile n).last = (u.stile n).last := fun u => by rw [State.stile_newSample]
  rw [hlast, hin, State.stileOut_flowing hstate]
  have hmode' : (s.stile n).eligible.mode = 2 ∨ (s.stile n).eligible.mode = 1 := hmode
  rw [if_pos hmode', State.stile_handOver]
  refine State.tap_handOver ?_
  unfold Stile.output
  split
  · cases (s.stile n).eligible.slot <;> exact hdrive
  · exact hdrive

end

section
variable {t : Stile} {src : Tract} {stamp : Word}

theorem Stile.boundary_of_box (h : t.mode = 3) : t.boundary src stamp = { t with stale := false } := if_neg (by omega)

theorem Stile.boundary_of_slot {w : Word} (h : t.mode = 2) (hslot : t.slot = some w) : t.boundary src stamp
    = { t with slot := none, stale := false, last := w, sto := if t.out then t.sto else w } := by
  rw [Stile.boundary, if_pos (.inl h), Stile.output, if_pos h, hslot]
  rfl

theorem Stile.boundary_of_empty (h : t.mode = 2) (hslot : t.slot = none) : t.boundary src stamp = { t with
    rpt := true, rptc := if t.rptc = 255 then 255 else t.rptc + 1, stale := true, sto := if t.out then t.sto else t.last } := by
  rw [Stile.boundary, if_pos (.inl h), Stile.output, if_pos h, hslot]
  rfl

theorem Stile.boundary_of_interp (h : t.mode = 1) : t.boundary src stamp
    = ({ t with stale := (t.interp src stamp).2 } : Stile).delivered (t.interp src stamp).1 := by
  rw [Stile.boundary, if_pos (.inr h), Stile.output, if_neg (by omega)]

theorem Stile.sto_boundary (h : t.mode = 2 ∨ t.mode = 1) (hout : t.out = false) :
    (t.boundary src stamp).sto = (t.boundary src stamp).last := by
  obtain ⟨-, -, hkeep⟩ := t.sclu_boundary src stamp
  have ho : (t.output src stamp).1.out = false := by
    rw [Stile.boundary, if_pos h] at hkeep
    exact hkeep.trans hout
  rw [Stile.boundary, if_pos h, Stile.delivered, ho]
  rfl

end

/-- A FLOWING stile at a boundary that presents a sample of stamp st: its output, and TAP where it drives TAP alone. -/
theorem State.stile_bounded {s : State} {pcl n : Nat} (hn : n / 32 = pcl / 16) (hdest : (s.stile n).dclu = pcl % 16)
    (hflow : (s.stile n).state = 2) (hintime : (s.tract pcl).present.2 = 0) (hrate : (s.tract pcl).bounded.rate = (s.tract pcl).rate) :
    (s.bounded pcl).stile n = ((s.stile n).reached (pcl % 16)).boundary (s.tract (pcl / 16 * 16 + (s.stile n).sclu))
      (s.tract pcl).bounded.tstamp
    ∧ ((s.stile n).mode = 2 ∨ (s.stile n).mode = 1 → (s.stile n).out = true →
      (∀ m ∈ stilesOf (pcl / 16), m ≠ n → (s.stile m).state = 0) →
      ((s.bounded pcl).tract pcl).tap = ((s.bounded pcl).stile n).last) := by
  have hrates : ∀ m, ((s.setTract pcl (s.tract pcl).bounded).tract m).rate = (s.tract m).rate := fun m => by
    rw [State.tract_setTract]
    split
    next h => rw [hrate, h]
    next => rfl
  unfold State.bounded
  rw [hintime, State.slipBy_zero]
  refine ⟨?_, fun hmode hout halone => ?_⟩
  · obtain ⟨t, ht, hread, hstep⟩ := (s.setTract pcl (s.tract pcl).bounded).exists_stileBoundary_step hn (s.tract pcl).tap
    have hread : t.stile n = s.stile n := hread
    obtain ⟨w, hw⟩ := ht.tap
    rw [hstep, State.stile_step (by rw [hread, hdest]) (by rw [hread, hflow]), hread, hw, State.tract_setTract_self]
    exact Stile.boundary_congr ((ht.rate _).trans (hrates _)) ..
  · obtain ⟨t, -, hread, hstile, htract⟩ := State.exists_stileBoundary_alone (s := s.setTract pcl (s.tract pcl).bounded) hn halone
      (s.tract pcl).tap
    have hread : t.stile n = s.stile n := hread
    rw [htract, hstile]
    exact State.tap_stileIn (by rw [hread, hdest]) (by rw [hread, hflow]) (by rw [hread]; exact hmode) (by rw [hread, hout]) ..

/-! ### The arithmetic of INTERP (R129) -/

/-- The filtered value in units of 2^-14. -/
def Stile.filtered (t : Stile) (phi : Nat) (hs : List (Word × BitVec 32)) : Int :=
  ((List.range 16).map (fun j => match hs[j]? with
    | none => 0
    | some x => (t.coef.get 0 (16 * phi + j)).toInt * x.2.toInt)).sum

theorem Stile.foldl_filtered (t : Stile) (phi : Nat) (hs : List (Word × BitVec 32)) :
    (List.range 16).foldl (fun (a : Int) j => match hs[j]? with
      | none => a
      | some e => a + (t.coef.get 0 (16 * phi + j)).toInt * e.2.toInt) 0 = t.filtered phi hs := by
  rw [Stile.filtered, List.sum_eq_foldl, List.foldl_map]
  congr 1
  funext a j
  cases hs[j]? <;> simp

/-- A value in units of 2^-14 is rounded to the nearest integer, ties to even, and saturated. -/
theorem convInt_of_nearest {acc k : Int}
    (hk : 2 * |k * 2 ^ 14 - acc| < 2 ^ 14 ∨ (2 * |k * 2 ^ 14 - acc| = 2 ^ 14 ∧ k % 2 = 0)) :
    convInt 32 true false (.val (decide (acc < 0)) acc.natAbs 1 (-14)) = max (-(2 ^ 31)) (min (2 ^ 31 - 1) k) := by
  have hround : roundUnits false acc.natAbs 1 (-14) 0 = roundQuot false acc.natAbs (2 ^ 14) := rfl
  have hsigned : (if acc < 0 then -(roundQuot false acc.natAbs (2 ^ 14) : Int) else roundQuot false acc.natAbs (2 ^ 14)) = k := by
    unfold roundQuot
    simp only [Bool.false_eq_true, if_false]
    rcases abs_cases (k * 2 ^ 14 - acc) with ⟨habs, hsign⟩ | ⟨habs, hsign⟩ <;> rw [habs] at hk <;> split <;> split <;> omega
  simp only [convInt, hround, decide_eq_true_eq, hsigned]
  rfl

section
variable {t : Stile} {src : Tract} {stamp : Word}

theorem Stile.interp_of_none (h : ∀ e ∈ t.hist, stamp.toNat < e.1.toNat + t.dly) : t.interp src stamp = (0, true) := by
  have hdrop : t.hist.dropWhile (fun e => decide ((stamp.toNat : Int) - t.dly < (e.1.toNat : Int))) = [] := by
    rw [List.dropWhile_eq_nil_iff]
    intro e he
    have := h e he
    exact decide_eq_true (by omega)
  unfold Stile.interp
  simp only [hdrop]

theorem Stile.interp_of_entry {a r : List (Word × BitVec 32)} {e : Word × BitVec 32} (hhist : t.hist = a ++ e :: r)
    (hlate : ∀ x ∈ a, stamp.toNat < x.1.toNat + t.dly) (hdue : e.1.toNat + t.dly ≤ stamp.toNat) :
    let d := stamp.toNat - t.dly - e.1.toNat
    let acc := t.filtered (min 63 (64 * d * src.rate.1 / (10 ^ 9 * src.rate.2))) (e :: r)
    t.interp src stamp = (sword (convInt 32 true false (.val (decide (acc < 0)) acc.natAbs 1 (-14))),
      decide (2 * (10 ^ 9 * src.rate.2) ≤ d * src.rate.1)) := by
  intro d acc
  have hdrop : t.hist.dropWhile (fun x => decide ((stamp.toNat : Int) - t.dly < (x.1.toNat : Int))) = e :: r := by
    rw [hhist, List.dropWhile_append_of_pos (fun x hx => decide_eq_true (by have := hlate x hx; omega)),
      List.dropWhile_cons_of_neg (by simp; omega)]
  have hd : (((stamp.toNat : Int) - t.dly) - (e.1.toNat : Int)).toNat = d := by omega
  unfold Stile.interp
  simp only [hdrop, hd]
  have hacc : ∀ x : Int, x = acc → (sword (convInt 32 true false (.val (decide (x < 0)) x.natAbs 1 (-14))),
      decide (2 * (10 ^ 9 * src.rate.2) ≤ d * src.rate.1)) =
      (sword (convInt 32 true false (.val (decide (acc < 0)) acc.natAbs 1 (-14))),
      decide (2 * (10 ^ 9 * src.rate.2) ≤ d * src.rate.1)) := fun x hx => by rw [hx]
  exact hacc _ (t.foldl_filtered _ (e :: r))

end

theorem State.EndsCycle.sink {s t : State} (h : s.EndsCycle t) (n : Nat) : t.sink n = s.sink n := by
  simp only [State.sink, h.sinks]

/-! ### Frame boundaries (R106, R107, R113) -/

/-- A tract whose frame has ended. -/
def Tract.framed (t : Tract) : Tract := { t with frames := t.frames + 1, fcyc := 0, sidx := 0, edge := .framed }

theorem execFrameBoundary_of_end {s : State} {pcl : Nat} (hruns : (s.tract pcl).state.runs = true)
    (hedge : (s.tract pcl).edge = .taken) (hlast : (s.tract pcl).sidx + 1 = (s.tract pcl).m) (hrelock : (s.tract pcl).relock = none) :
    execFrameBoundary pcl s =
      if (s.tract pcl).back then .next (s.enterTract pcl { (s.tract pcl).framed with
        state := .locked, restart := true, stale := false, back := false, acq := [] })
      else if (s.tract pcl).state = .coast then .next (s.setTract pcl (s.tract pcl).framed)
      else if (s.tract pcl).alternate && tctlKind (s.tract pcl).tctl = 2 then
        .next (s.setTract pcl { (s.tract pcl).framed with held := true, acq := [], fresh := [] })
      else .next (s.setTract pcl (s.tract pcl).framed) := by
  have hgo : ((s.tract pcl).state.runs && decide ((s.tract pcl).edge = .taken)
      && decide ((s.tract pcl).sidx + 1 = (s.tract pcl).m)) = true := by
    rw [hruns, decide_eq_true hedge, decide_eq_true hlast]
    rfl
  unfold execFrameBoundary Tract.framed
  simp only [hgo, hrelock, if_true]

theorem State.SameBytes.setTract {s t : State} (h : s.SameBytes t) (n : Nat) (x : Tract) : s.SameBytes (t.setTract n x) := h

end Sys2Proof.Machine

namespace Sys2Proof
open Machine

/-- Settles O27: each sample reaches a tract by the one step of `feedTracts` that is the tract's; a boundary is
`Tract.present`, the slip, the one step of `stileBoundary` that is the stile's, and frame cycle 0. -/
theorem samplesTractsAndSinks : Obligations.SamplesTractsAndSinks := by
  refine ⟨?samples, ?sinks⟩
  case samples =>
    intro s pcl n v hpcl t bound takes
    refine ⟨fun hn hb hon => ?_, fun hn hb hcarries => ?_, fun hn hb hon hrate hdue => ?_⟩
    all_goals obtain ⟨hkind, hsrc, hstate, hheld⟩ := hb
    · obtain ⟨u, hu, hlinks⟩ := exec_sampleArrival_port hn hon v
      exact ⟨u, hu, (State.takesSample_feedTracts hpcl hkind hsrc hstate hheld ..).of_links hlinks⟩
    · exact ⟨_, exec_sampleArrival_link hcarries v, State.takesSample_feedTracts
        (s := s.setLink n { s.link n with xstr := true }) hpcl hkind hsrc hstate hheld ..⟩
    · refine ⟨_, exec_paceSample hon hrate hdue, State.takesSample_feedTracts
        (s := s.setPace n { s.pace n with j := (s.pace n).j + 1 }) hpcl hkind hsrc hstate hheld .., ?_⟩
      rw [State.feedTracts_frame]
      exact congrArg Pace.j (s.pace_setPace_self ..)
  case sinks =>
    intro s pcl t port
    refine ⟨?sink, ?inside, ?frame, ?coast, ?first, ?stile⟩
    case sink =>
      intro hissuing hlast
      have hend := (s.giveOtap pcl).endsCycle_cycleEnd pcl
      refine ⟨_, execSinkTake_of_last hissuing hlast, ?_, ?_, ?_, fun c hc => ⟨?_, ?_⟩⟩
      · exact congrArg Tract.edge (State.tract_setTract_self ..)
      · rw [State.modTract]
        exact ((s.sameBytes_giveOtap pcl).trans hend.bytes).setTract ..
      · rw [State.modTract, State.sink_setTract, hend.sink]
        exact s.out_giveOtap pcl
      · rw [State.modTract, State.core_setTract, hend.otap]
        exact congrArg (fun l => (Tbl.get l {} (8 * pcl + c)).otap) (s.cores_giveOtap pcl)
      · rw [State.modTract, State.core_setTract, State.otapBy_cycleEnd _ _ hc]
    case inside =>
      intro l st v hstate hheld hedge hlast next slips tapIs
      obtain ⟨hruns, hne⟩ := TState.runs_of_in_time hstate
      have hnotfirst : t.edge ≠ .framed := by rw [hedge]; decide
      have hexec (hsupplied : t.supplied s.chron = true) : exec (.sampleBoundary pcl) s = .next (s.bounded pcl) := by
        refine (execSampleBoundary_of_due (Tract.boundaryDue_of hruns hheld (fun h => hne h.1) (.inr ⟨hedge, hlast⟩) hsupplied)
          hheld).trans ?_
        rw [if_neg hnotfirst]
      refine ⟨fun hoff hfresh => ?fresh, fun hoff hfresh => ?lost, fun hrestart hfresh hslow hstopped => ?repeated⟩
      case fresh =>
        have hpresent := Tract.present_of_fresh hne hoff hfresh
        have hbounded := Tract.bounded_of_taken hedge
        rw [hpresent] at hbounded
        obtain ⟨hdeliver, hnone⟩ := State.bounded_of_intime (s := s) (pcl := pcl) (congrArg Prod.snd hpresent)
        obtain ⟨w, hw⟩ := hdeliver.tap
        rw [State.tract_setTract_self, hbounded] at hw
        exact ⟨_, hexec (by simp [Tract.supplied, hfresh]),
          ⟨congrArg Tract.sidx hw, congrArg Tract.fcyc hw, congrArg Tract.edge hw, hdeliver.cores⟩,
          fun h => congrArg Tract.tap ((hnone h).trans hbounded), congrArg Tract.tstamp hw, congrArg Tract.fresh hw,
          congrArg Tract.stale hw, (congrArg Tract.slipc hw).trans rfl, (congrArg Tract.state hw).trans rfl, hdeliver.sameBytes⟩
      case lost =>
        have hpresent := Tract.present_of_off hne hoff hfresh
        have hbounded := Tract.bounded_of_taken hedge
        rw [hpresent] at hbounded
        have hexec' := hexec (by simp [Tract.supplied, hfresh])
        by_cases hl : l.length = 0
        · rw [hl] at hpresent
          obtain ⟨hdeliver, hnone⟩ := State.bounded_of_intime (s := s) (pcl := pcl) (congrArg Prod.snd hpresent)
          obtain ⟨w, hw⟩ := hdeliver.tap
          rw [State.tract_setTract_self, hbounded] at hw
          exact ⟨_, hexec', ⟨congrArg Tract.sidx hw, congrArg Tract.fcyc hw, congrArg Tract.edge hw, hdeliver.cores⟩,
            fun h => congrArg Tract.tap ((hnone h).trans hbounded), congrArg Tract.tstamp hw, congrArg Tract.fresh hw,
            fun h => absurd (List.length_eq_zero_iff.1 hl) h⟩
        · obtain ⟨hcores, w, c, e, hw, hnone⟩ := State.bounded_of_slip (s := s) (pcl := pcl) (congrArg Prod.snd hpresent) hl
            (by rw [hbounded]; exact hstate)
          rw [hbounded] at hw hnone
          exact ⟨_, hexec', ⟨congrArg Tract.sidx hw, congrArg Tract.fcyc hw, congrArg Tract.edge hw, hcores⟩,
            fun h => (congrArg Tract.tap hw).trans (hnone h), congrArg Tract.tstamp hw, congrArg Tract.fresh hw,
            fun _ => ⟨(congrArg (fun t : Tract => t.slipc.toNat) hw).trans (Tract.slipc_slips ..), congrArg Tract.slip hw,
              congrArg Tract.state hw⟩⟩
      case repeated =>
        have hpresent := Tract.present_of_none hne hfresh
        have hbounded := Tract.bounded_of_taken hedge
        rw [hpresent] at hbounded
        obtain ⟨hcores, w, c, e, hw, hnone⟩ := State.bounded_of_slip (s := s) (pcl := pcl) (congrArg Prod.snd hpresent)
          Nat.one_ne_zero (by rw [hbounded]; exact hstate)
        rw [hbounded] at hw hnone
        exact ⟨_, hexec (by simp [Tract.supplied, hrestart, hslow, hstopped]),
          ⟨congrArg Tract.sidx hw, congrArg Tract.fcyc hw, congrArg Tract.edge hw, hcores⟩,
          fun h => (congrArg Tract.tap hw).trans (hnone h), congrArg Tract.stale hw,
          (congrArg (fun t : Tract => t.slipc.toNat) hw).trans (Tract.slipc_slips ..), congrArg Tract.slip hw,
          congrArg Tract.state hw⟩
    case frame =>
      intro hruns hedge hlast hrelock u'
      have hexec := execFrameBoundary_of_end hruns hedge hlast hrelock
      have hnotback (h : t.back = false) : ¬ (s.tract pcl).back = true := by
        rw [h]
        exact Bool.false_ne_true
      refine ⟨fun hback h => ⟨s.setTract pcl (s.tract pcl).framed, hexec.trans ((if_neg (hnotback hback)).trans ?_),
          s.tract_setTract_self .., rfl, .refl s⟩,
        fun hback hcoast halt hpace => ⟨s.setTract pcl { (s.tract pcl).framed with held := true, acq := [], fresh := [] },
          hexec.trans ((if_neg (hnotback hback)).trans ((if_neg hcoast).trans (if_pos ?_))),
          s.tract_setTract_self .., rfl, .refl s⟩, fun hback => ?_⟩
      · by_cases hcoast : (s.tract pcl).state = .coast
        · exact if_pos hcoast
        · have halt : ¬(((s.tract pcl).alternate && decide (tctlKind (s.tract pcl).tctl = 2)) = true) := by
            rcases h with h | h | h
            · exact absurd h hcoast
            · simp [show (s.tract pcl).alternate = false from h]
            · simp [show tctlKind (s.tract pcl).tctl ≠ 2 from h]
          exact (if_neg hcoast).trans (if_neg halt)
      · exact Bool.and_eq_true_iff.2 ⟨halt, decide_eq_true hpace⟩
      · have honly := s.onlyTract_enterTract pcl { (s.tract pcl).framed with
          state := .locked, restart := true, stale := false, back := false, acq := [] }
        exact ⟨_, hexec.trans (if_pos hback), honly.cores, honly.self⟩
    case coast =>
      intro hstate hheld hedge
      have hpresent := Tract.present_of_coast hstate
      have hdue : t.boundaryDue s.chron = true := by
        have hruns : t.state.runs = true := by rw [hstate]; decide
        have hsupplied : t.supplied s.chron = true := by simp [Tract.supplied, hstate]
        refine Tract.boundaryDue_of hruns hheld ?_ (hedge.imp And.left id) hsupplied
        rintro ⟨-, hframed, hleft⟩
        rcases hedge with ⟨-, h⟩ | ⟨h, -⟩
        · exact h hleft
        · rw [h] at hframed
          cases hframed
      obtain ⟨u, hu, htract, -, hinside, -⟩ := exists_sampleBoundary hdue hheld
      obtain ⟨hdeliver, hnone⟩ := State.bounded_of_intime (s := s) (pcl := pcl) (congrArg Prod.snd hpresent)
      obtain ⟨w, hw⟩ := hdeliver.tap
      rw [State.tract_setTract_self, ← htract] at hw
      obtain ⟨hs, hstale, hleft, hslipc, hin, htap⟩ : t.bounded.state = .coast ∧ t.bounded.stale = true
          ∧ t.bounded.holdLeft = t.holdLeft - 1 ∧ t.bounded.slipc = t.slipc
          ∧ t.bounded.edge = .inside ∧ t.bounded.tap = t.tap := by
        rcases hedge with ⟨h, -⟩ | ⟨h, -⟩
        · rw [Tract.bounded_of_framed h, hpresent]
          exact ⟨hstate, rfl, rfl, rfl, rfl, rfl⟩
        · rw [Tract.bounded_of_taken h, hpresent]
          exact ⟨hstate, rfl, rfl, rfl, rfl, rfl⟩
      refine ⟨u, hu, ?_, ?_, ?_, ?_, ?_, fun h => ?_, fun h => ?_⟩
      · rw [hw, ← hs]
      · rw [hw, ← hstale]
      · rw [hw, ← hleft]
      · rw [hw, ← hslipc]
      · rw [hw, ← hin]
      · rw [htract, hnone h, htap]
      · have hnotfirst : t.edge ≠ .framed := by rw [h]; decide
        rw [hinside hnotfirst]
        exact hdeliver.cores
    case first =>
      intro l st v hstate hheld hedge hoff hfresh
      obtain ⟨hruns, hne⟩ := TState.runs_of_in_time hstate
      have hdue : t.boundaryDue s.chron = true :=
        Tract.boundaryDue_of hruns hheld (fun h => hne h.1) (.inl hedge) (by simp [Tract.supplied, hfresh])
      have hpresent := Tract.present_of_fresh hne hoff hfresh
      have hbounded := Tract.bounded_of_framed hedge
      rw [hpresent] at hbounded
      obtain ⟨u, hu, htract, -, -, hfirst⟩ := exists_sampleBoundary hdue hheld
      obtain ⟨hdeliver, hnone⟩ := State.bounded_of_intime (s := s) (pcl := pcl) (congrArg Prod.snd hpresent)
      obtain ⟨w, hw⟩ := hdeliver.tap
      rw [State.tract_setTract_self, hbounded, ← htract] at hw
      refine ⟨u, hu, congrArg Tract.fresh hw, congrArg Tract.tstamp hw, (congrArg Tract.sidx hw).trans rfl,
        (congrArg Tract.fcyc hw).trans rfl, congrArg Tract.edge hw, congrArg Tract.restart hw, congrArg Tract.stale hw,
        (congrArg Tract.state hw).trans rfl,
        fun h => congrArg Tract.tap (htract.trans ((hnone h).trans hbounded)), ?_⟩
      rw [hfirst hedge]
      exact (State.frameBegins_frameZero (s.bounded pcl) pcl).congr hdeliver.cores hdeliver.kernels
    case stile =>
      intro n l st v hn hdest hflow hstate hheld hoff hfresh hedge T src alone
      obtain ⟨hruns, hne⟩ := TState.runs_of_in_time hstate
      have hdue : t.boundaryDue s.chron = true :=
        Tract.boundaryDue_of hruns hheld (fun h => hne h.1) hedge (by simp [Tract.supplied, hfresh])
      have hpresent := Tract.present_of_fresh hne hoff hfresh
      obtain ⟨u, hu, htract, hstile, -, -⟩ := exists_sampleBoundary hdue hheld
      have hstamp : t.bounded.tstamp = st ∧ t.bounded.rate = t.rate := by
        rcases hedge with h | ⟨h, -⟩
        · rw [Tract.bounded_of_framed h, hpresent]
          exact ⟨rfl, rfl⟩
        · rw [Tract.bounded_of_taken h, hpresent]
          exact ⟨rfl, rfl⟩
      obtain ⟨hout, htap⟩ := State.stile_bounded hn hdest hflow (congrArg Prod.snd hpresent) hstamp.2
      rw [← hstile, hstamp.1] at hout
      rw [← hstile, ← htract] at htap
      have hT : u.stile n = T.boundary src st := hout
      refine ⟨u, hu, fun h => hT.trans (Stile.boundary_of_box h), fun w hmode hw => ⟨fun ho => ?_, fun ho halone => ?_⟩,
        fun w h hslot => hT.trans (Stile.boundary_of_slot h hslot), fun h hslot => hT.trans (Stile.boundary_of_empty h hslot),
        fun h hlate => ?_, ?interp⟩
      · rw [hT, Stile.sto_boundary hmode ho, ← hT, hw]
      · refine (htap hmode ho (fun m hm hne => ?_)).trans hw
        obtain ⟨k, hk, rfl⟩ := List.mem_map.1 hm
        exact halone k (List.mem_range.1 hk) hne
      · rw [hT, Stile.boundary_of_interp h, Stile.interp_of_none hlate]
        exact ⟨rfl, rfl⟩
      case interp =>
        intro a e r h hhist hlate hdue d phi acc
        have hout := hT.trans (Stile.boundary_of_interp h)
        rw [Stile.interp_of_entry hhist hlate hdue] at hout
        refine ⟨congrArg Stile.stale hout, fun k hk => ?_⟩
        rw [← convInt_of_nearest hk]
        exact congrArg Stile.last hout

end Sys2Proof
end

section
/-! PROOFS. The TRACT packets (05_tract.md, R103 to R125; 20_queue.md, R339, R340): O48. A packet at the head that passes the
checks of R332 and R340 reaches its meaning; a packet without NOTIFY is over with the queue past it; and a fault that
the meaning finds, or gives the packet before it, stands through the reports that follow. -/

namespace Sys2Proof.Machine

/-! ### A packet at the head -/

/-- A TRACT packet of an OP stands at the head of a queue's ring and passes the checks of R332 and R340. -/
structure State.HeadsTract (s : State) (q op words : Nat) (p : Packet) : Prop where
  ready : s.feReady q = true
  fetched : s.fetchPacket q = .ok p
  type : p.type = 10
  flags : p.flags = 0
  whole : p.past = false
  count : p.count = 1 + words
  allowed : (s.queue q).tmask 10 = true
  ring : (s.queue q).hand = none
  op : p.w 1 % 16 = op

/-- A queue whose front end has taken up the packet at its head. -/
def State.heading (s : State) (q : Nat) (p : Packet) : State := s.modQueue q (fun Q => { Q with skip := p.bytes })

section
variable {s : State} {q op words : Nat} {p : Packet}

theorem State.queue_modQueue (s : State) (q n : Nat) (f : Queue → Queue) :
    (s.modQueue q f).queue n = if n = q then f (s.queue q) else s.queue n := s.queue_setQueue q n _

theorem State.queue_modQueue_self (s : State) (q : Nat) (f : Queue → Queue) : (s.modQueue q f).queue q = f (s.queue q) :=
  s.queue_setQueue_self q _

theorem State.queue_heading (s : State) (q : Nat) (p : Packet) :
    (s.heading q p).queue q = { s.queue q with skip := p.bytes } := s.queue_modQueue_self ..

/-- A packet that passes the checks reaches its meaning. -/
theorem State.HeadsTract.withTract (h : s.HeadsTract q op words p) (hop : op ≤ 7) (hwords : words = tractWords op)
    (hcount : words ≤ 4) (k : Packet → State → Out) : s.withTract q op k = k p (s.heading q p) := by
  have hskip : s.modQueue q (fun Q => { Q with skip := if Q.hand.isSome then Q.skip else p.bytes }) = s.heading q p := by
    simp only [State.heading, State.modQueue, h.ring]
    rfl
  have hallowed : ((s.heading q p).queue q).tmask 10 = true := by
    rw [State.queue_heading]
    exact h.allowed
  have hok : countOk 10 p.count = true := decide_eq_true (by have := h.count; omega)
  unfold State.withTract State.withPacket
  rw [h.ready, h.fetched]
  dsimp only
  rw [hskip, if_neg (by decide), if_neg (by rw [h.type]; decide), if_neg (fun hne => absurd hne.1 (by rw [hallowed]; decide)),
    if_neg (by rw [h.flags, hok, h.whole]; decide), if_neg (by rw [h.op]; omega), if_neg (by rw [h.op]; exact fun hne => hne rfl),
    if_neg (by rw [h.count, hwords]; exact fun hne => hne rfl)]

theorem State.HeadsTract.takesFault (h : s.HeadsTract q op words p) : ((s.heading q p).queue q).takesFault = true := by
  have hready := h.ready
  rw [State.queue_heading]
  simp only [State.feReady, Bool.and_eq_true, Bool.or_eq_true, decide_eq_true_eq] at hready
  obtain ⟨⟨⟨⟨⟨hstate, -⟩, -⟩, -⟩, -⟩, -⟩ := hready
  rcases hstate with (hstate | hstate) | hstate <;> simp [Queue.takesFault, hstate]

end

/-! ### A packet that is over -/

theorem State.fePacketPast_frame (s : State) (q : Nat) :
    s.fePacketPast q = { s with remotes := (s.fePacketPast q).remotes, walks := (s.fePacketPast q).walks } := by
  unfold State.fePacketPast State.fePast
  dsimp only
  split <;> rfl

theorem State.queue_fePacketPast (s : State) (q n : Nat) : (s.fePacketPast q).queue n = s.queue n := by
  rw [State.fePacketPast_frame]
  rfl

theorem Queue.take_of_ring {Q : Queue} (h : Q.hand = none) (p : Packet) (n : Nat) :
    ({ Q with skip := n } : Queue).take p = { Q.advance p.bytes with performed := false, skip := 0 } := by
  unfold Queue.take Queue.advance
  rw [h]
  cases Q.stack <;> rfl

/-- From t to u a packet has left the head of its queue, which t has performed. -/
structure State.PastPacket (t u : State) : Prop where
  frame : u = { t with queues := u.queues, remotes := u.remotes, walks := u.walks }

section
variable {t u : State}

theorem State.PastPacket.tract (h : t.PastPacket u) (n : Nat) : u.tract n = t.tract n := by rw [h.frame]; rfl
theorem State.PastPacket.stile (h : t.PastPacket u) (n : Nat) : u.stile n = t.stile n := by rw [h.frame]; rfl
theorem State.PastPacket.pace (h : t.PastPacket u) (n : Nat) : u.pace n = t.pace n := by rw [h.frame]; rfl
theorem State.PastPacket.sink (h : t.PastPacket u) (n : Nat) : u.sink n = t.sink n := by rw [h.frame]; rfl
theorem State.PastPacket.link (h : t.PastPacket u) (n : Nat) : u.link n = t.link n := by rw [h.frame]; rfl
theorem State.PastPacket.spcfg (h : t.PastPacket u) : u.spcfg = t.spcfg := by rw [h.frame]
theorem State.PastPacket.sameBytes (h : t.PastPacket u) : t.SameBytes u := by
  rw [h.frame]
  exact .refl t

end

/-- A packet of a ring without NOTIFY that its meaning completes: its queue is past it, and of the rest only what the front end
waited for changes. -/
theorem State.packetDone_of_ring {s t : State} {q : Nat} {p : Packet} (hflags : p.flags = 0) (hring : (s.queue q).hand = none)
    (ht : t.queue q = (s.heading q p).queue q) :
    let u := t.packetDone q p
    u.queue q = ({ (s.queue q).advance p.bytes with performed := false, skip := 0 } : Queue).settle
      ∧ t.PastPacket u := by
  have hnotify : p.notify = false := by
    have hzero : p.hdr.extractLsb' 0 12 = 0#12 := BitVec.eq_of_toNat_eq hflags
    simpa [Packet.notify] using congrArg (fun b : BitVec 12 => b.getLsbD 0) hzero
  have hhand : (t.queue q).hand = none := by
    rw [ht, State.queue_heading]
    exact hring
  have hdone : t.packetDone q p = (t.modQueue q (fun Q => (Q.take p).settle)).fePacketPast q := by
    simp only [State.packetDone, State.notifyNo, hnotify, Queue.handPort, hhand]
    rfl
  intro u
  refine ⟨?_, ⟨?_⟩⟩
  · rw [show u = _ from hdone, State.queue_fePacketPast, State.queue_modQueue_self, ht, State.queue_heading,
      Queue.take_of_ring hring]
  · rw [show u = _ from hdone, State.fePacketPast_frame]
    rfl

/-! ### A fault that stands -/

/-- A fault that a queue has stays through any report. -/
theorem State.Reports.keepsFault {s t : State} {n : Nat} (h : s.Reports t n) {q : Nat} (hq : (s.queue q).takesFault = false) :
    (t.queue q).state = (s.queue q).state ∧ (t.queue q).fcode = (s.queue q).fcode := by
  by_cases hn : q = n
  · subst hn
    exact h.stands hq
  · rw [h.other q hn]
    exact ⟨rfl, rfl⟩

/-- A queue that takes a fault has it after its report. -/
theorem State.queueFault_spec {s : State} {q : Nat} (hq : (s.queue q).takesFault = true) (f : QFault) (lvl off : Nat) :
    let u := s.queueFault q f lvl off
    (u.queue q).state = .faulted ∧ (u.queue q).fcode = some f := by
  intro u
  have hu : u = (((s.log (q / 1024) 2 f.code (word off) 0xFFFF (BitVec.ofNat 16 q))).enterFaulted q f lvl off).notify q true lvl off :=
    if_pos hq
  have hentered := State.queue_modQueue_self (s.log (q / 1024) 2 f.code (word off) 0xFFFF (BitVec.ofNat 16 q)) q
    (fun Q => { Q with state := .faulted, fcode := some f, flvl := lvl, foff := off, fchron := s.chron })
  obtain ⟨hstate, hcode⟩ := (State.reports_notify ((s.log (q / 1024) 2 f.code (word off) 0xFFFF
    (BitVec.ofNat 16 q)).enterFaulted q f lvl off) q true lvl off).stands (congrArg Queue.takesFault hentered)
  rw [hu, hstate, hcode]
  exact ⟨congrArg Queue.state hentered, congrArg Queue.fcode hentered⟩

/-- A packet of a ring whose queue takes its fault. -/
theorem State.packetFault_of_ring {s : State} {q : Nat} (hring : (s.queue q).hand = none) (hq : (s.queue q).takesFault = true)
    (f : QFault) :
    let u := s.packetFault q f
    (u.queue q).state = .faulted ∧ (u.queue q).fcode = some f ∧ s.SameCompute u ∧ (∀ n, n ≠ q → u.queue n = s.queue n) := by
  intro u
  have hpast := s.queue_fePacketPast q
  have hu : u = ((s.fePacketPast q).queueFault q f ((s.fePacketPast q).queue q).stack.length
      ((s.fePacketPast q).queue q).place).modQueue q (fun Q => { Q with performed := false, writes := [], wait := none }) := by
    simp only [u, State.packetFault, hpast, hring]
  obtain ⟨hstate, hcode⟩ := State.queueFault_spec (s := s.fePacketPast q) (q := q) (by rw [hpast, hq]) f
    ((s.fePacketPast q).queue q).stack.length ((s.fePacketPast q).queue q).place
  have hreport := (s.fePacketPast q).reports_queueFault q f ((s.fePacketPast q).queue q).stack.length
    ((s.fePacketPast q).queue q).place
  have hsame : s.SameCompute (s.fePacketPast q) := by
    rw [State.fePacketPast_frame]
    exact .refl s
  refine ⟨?_, ?_, ?_, fun n hn => ?_⟩
  · rw [hu, State.queue_modQueue_self]
    exact hstate
  · rw [hu, State.queue_modQueue_self]
    exact hcode
  · rw [hu]
    exact (hsame.trans (State.sameCompute_queueFault ..)).trans (State.sameCompute_modQueue ..)
  · rw [hu, State.queue_modQueue, if_neg hn, hreport.other n hn, hpast]

/-- From s to t nothing has changed but tracts and stiles. -/
structure State.OnlyTracts (s t : State) : Prop where
  frame : t = { s with tracts := t.tracts, stiles := t.stiles }

section
variable {s t u : State}

theorem State.OnlyTracts.trans (h : s.OnlyTracts t) (h' : t.OnlyTracts u) : s.OnlyTracts u :=
  ⟨h'.frame.trans (by rw [h.frame])⟩

theorem State.OnlyTracts.queue (h : s.OnlyTracts t) (q : Nat) : t.queue q = s.queue q := by
  rw [h.frame]
  rfl

theorem State.OnlyTracts.sameBytes (h : s.OnlyTracts t) : s.SameBytes t := by
  rw [h.frame]
  exact .refl s

theorem State.onlyTracts_setTract (s : State) (n : Nat) (t : Tract) : s.OnlyTracts (s.setTract n t) := ⟨rfl⟩

theorem State.onlyTracts_stileFlow (s : State) (pcl : Nat) : s.OnlyTracts (s.stileFlow pcl) := by
  refine foldl_inv (I := s.OnlyTracts) (fun n _ t ht => ?_) ⟨rfl⟩
  have hset (x : Stile) : s.OnlyTracts (t.setStile n x) := ht.trans ⟨rfl⟩
  dsimp only
  split
  · split
    · exact hset _
    · split
      · exact hset _
      · exact ht
  · exact ht

theorem State.tract_stileFlow (s : State) (pcl n : Nat) : (s.stileFlow pcl).tract n = s.tract n := by
  obtain ⟨-, -, htracts, -⟩ := s.sameCompute_stileFlow pcl
  simp only [State.tract, htracts]

end

/-- A tract's event leaves every queue's fault that stands, and every lock under way. -/
theorem State.queue_tractEvent (s : State) (pcl index q : Nat)
    (hq : (s.queue q).takesFault = false) : ((s.tractEvent pcl index).queue q).state = (s.queue q).state
      ∧ ((s.tractEvent pcl index).queue q).fcode = (s.queue q).fcode := by
  obtain ⟨n, hreport⟩ := s.reports_tractEvent pcl index
  exact hreport.keepsFault hq

/-! ### What the meanings read and leave -/

section
variable (s : State) (q : Nat) (p : Packet)

theorem State.asid_heading : ((s.heading q p).queue q).asid = (s.queue q).asid := by
  rw [State.queue_heading]
  rfl

theorem State.priv_heading : ((s.heading q p).queue q).priv = (s.queue q).priv := by
  rw [State.queue_heading]
  rfl

end

section
variable {s t : State} {q op words : Nat} {p : Packet} {i : Instr}

/-- A meaning that completes its packet. -/
theorem State.HeadsTract.completes (h : s.HeadsTract q op words p) (hexec : exec i s = .next (t.packetDone q p))
    (ht : t.queue q = (s.heading q p).queue q) (hbytes : s.SameBytes t) {done : State → Prop}
    (hdone : ∀ u, t.PastPacket u → done u) : ∃ u, exec i s = .next u
      ∧ u.queue q = ({ (s.queue q).advance p.bytes with performed := false, skip := 0 } : Queue).settle ∧ s.SameBytes u
      ∧ done u := by
  obtain ⟨hqueue, hpast⟩ := State.packetDone_of_ring h.flags h.ring ht
  exact ⟨_, hexec, hqueue, hbytes.trans hpast.sameBytes, hdone _ hpast⟩

end

/-- A stile after its tracts have moved: only its state can have changed, and an UNBOUND one's has not (R127). -/
theorem State.stile_stileFlow (s : State) (pcl n : Nat) :
    ∃ v, (s.stileFlow pcl).stile n = { s.stile n with state := v } := by
  refine foldl_inv (I := fun t : State => ∃ v, t.stile n = { s.stile n with state := v }) (fun m _ t ht => ?_) ⟨_, rfl⟩
  obtain ⟨v, hv⟩ := ht
  have hset (x : BitVec 2) : ∃ v, (t.setStile m { t.stile m with state := x }).stile n = { s.stile n with state := v } := by
    rw [State.stile_setStile]
    split
    next h =>
      rw [← h, hv]
      exact ⟨x, rfl⟩
    next => exact ⟨v, hv⟩
  dsimp only
  split
  · split
    · exact hset 2
    · split
      · exact hset 3
      · exact ⟨v, hv⟩
  · exact ⟨v, hv⟩

/-- A STCFG that is written (R125, R127). -/
theorem State.stile_writeStile (s : State) (n : Nat) (c : BitVec 32) :
    let X : Stile := { cfg := c }
    let t := (s.writeStile n c).stile n
    t.cfg = c ∧ t.box = [] ∧ t.puts = [] ∧ t.hist = [] ∧ (X.mode = 0 → t.state = 0)
      ∧ (X.mode ≠ 0 → t.dropc = 0 ∧ t.rptc = 0) := by
  intro X t
  obtain ⟨x, hx, hcfg, hbox, hputs, hhist, hunbound, hbound⟩ : ∃ x : Stile, s.writeStile n c
      = (s.setStile n x).stileFlow (n / 32 * 16 + x.dclu) ∧ x.cfg = c ∧ x.box = [] ∧ x.puts = [] ∧ x.hist = []
      ∧ (X.mode = 0 → x.state = 0) ∧ (X.mode ≠ 0 → x.dropc = 0 ∧ x.rptc = 0) := by
    refine ⟨_, rfl, ?_⟩
    split
    next h => exact ⟨rfl, rfl, rfl, rfl, fun _ => rfl, fun hne => absurd h hne⟩
    next h => exact ⟨rfl, rfl, rfl, rfl, fun hz => absurd hz h, fun _ => ⟨rfl, rfl⟩⟩
  obtain ⟨v, hv⟩ := (s.setStile n x).stile_stileFlow (n / 32 * 16 + x.dclu) n
  rw [State.stile_setStile_self] at hv
  have ht : t = { x with state := v } := by
    simp only [t, hx, hv]
  rw [ht]
  refine ⟨hcfg, hbox, hputs, hhist, fun h => ?_, hbound⟩
  have hzero := State.stileFlow_unbound (s := s.setStile n x) (n := n) (by rw [State.stile_setStile_self]; exact hunbound h)
    (n / 32 * 16 + x.dclu)
  rw [hv] at hzero
  exact hzero

theorem State.onlyTracts_writeStile (s : State) (n : Nat) (c : BitVec 32) : s.OnlyTracts (s.writeStile n c) := by
  unfold State.writeStile
  exact State.OnlyTracts.trans ⟨rfl⟩ (State.onlyTracts_stileFlow ..)

theorem State.SameBytes.setStile {s t : State} (h : s.SameBytes t) (n : Nat) (x : Stile) : s.SameBytes (t.setStile n x) := h

/-- A bind that is accepted (R113). -/
theorem State.beginLock_spec (s : State) (pcl : Nat) (w : Word) (who : LockBy) (q asid : Nat) :
    let u := s.beginLock pcl w who q asid
    let t := u.tract pcl
    t.state = .locking ∧ t.tctl = w ∧ t.asid = asid ∧ t.queue = some q ∧ t.slipc = 0 ∧ t.frames = 0 ∧ t.since = s.chron
      ∧ s.OnlyTracts u := by
  unfold State.beginLock
  dsimp only
  rw [State.tract_stileFlow, State.tract_setTract_self]
  exact ⟨rfl, rfl, rfl, rfl, rfl, rfl, rfl, (s.onlyTracts_setTract ..).trans (State.onlyTracts_stileFlow ..)⟩

/-- A re-lock that begins (R113). -/
theorem State.beginRelock_spec (s : State) (pcl : Nat) (w : Word) :
    let u := s.beginRelock pcl w
    let t := s.tract pcl
    (u.tract pcl).state = .locking ∧ (u.tract pcl).tctl = w ∧ (u.tract pcl).queue = t.queue ∧ (u.tract pcl).asker = t.asker
    ∧ (t.old = none ∨ t.state ≠ .locking → (u.tract pcl).old = some { tctl := t.tctl, state := t.state, rate := t.rate })
    ∧ s.OnlyTracts u := by
  intro u t
  obtain ⟨o, hu, ho⟩ : ∃ o, u.tract pcl = { t with
      state := .locking, tctl := w, old := some o, relock := none, acq := [], since := s.chron, fresh := [], restart := false
      held := false, back := false, haSeq := none, off := false }
      ∧ (t.old = none ∨ t.state ≠ .locking → o = { tctl := t.tctl, state := t.state, rate := t.rate }) := by
    simp only [u, State.beginRelock]
    rw [State.tract_stileFlow]
    refine ⟨_, s.tract_setTract_self .., fun h => ?_⟩
    split
    next o hold => exact if_neg (h.resolve_left (by rw [show t.old = some o from hold]; exact Option.some_ne_none o))
    next => rfl
  rw [hu]
  exact ⟨rfl, rfl, rfl, rfl, fun h => congrArg some (ho h),
    (s.onlyTracts_setTract ..).trans (State.onlyTracts_stileFlow ..)⟩

/-- A tract that is FREE again (R113). -/
def Tract.released (t : Tract) : Tract :=
  { t with
    state := .free, tctl := 0, queue := none, asker := none, relock := none, old := none, haSeq := none, acq := []
    fresh := [], restart := false, held := false, back := false, alternate := false, edge := .framed, fcyc := 0, sidx := 0 }

theorem State.dropAsker_of_none {s : State} {pcl : Nat} (h : (s.tract pcl).asker = none) : s.dropAsker pcl = s := by
  rw [State.dropAsker, h]

/-- The packet whose lock is given up takes its fault, which stands; nothing else of the compute side changes but the tract's
EVT, and no other queue's lock (R115). -/
theorem State.dropAsker_of_packet {s : State} {pcl o : Nat} (h : (s.tract pcl).asker = some (.packet o))
    (hring : (s.queue o).hand = none) (ho : (s.queue o).takesFault = true) :
    let u := s.dropAsker pcl
    (u.queue o).state = .faulted ∧ (u.queue o).fcode = some .lockTimeout := by
  intro u
  have hu : u = ((s.modQueue o (fun Q => { Q with lock := none })).packetFault o .lockTimeout).tractEvent pcl
      (QFault.lockTimeout.code % 4096) := by
    simp only [u, State.dropAsker, h]
  have hmod : (s.modQueue o (fun Q => { Q with lock := none })).queue o = { s.queue o with lock := none } :=
    State.queue_modQueue_self ..
  obtain ⟨hstate, hcode, -, -⟩ := State.packetFault_of_ring (s := s.modQueue o (fun Q => { Q with lock := none })) (q := o)
    (by rw [hmod]; exact hring) (by rw [hmod]; exact ho) .lockTimeout
  obtain ⟨hstate', hcode'⟩ := State.queue_tractEvent ((s.modQueue o (fun Q => { Q with lock := none })).packetFault o .lockTimeout)
    pcl (QFault.lockTimeout.code % 4096) o (by rw [Queue.takesFault, hstate]; rfl)
  rw [hu]
  exact ⟨hstate'.trans hstate, hcode'.trans hcode⟩

/-- The request of a re-lock that its checks let through is the tract's, and its packet waits for the lock (R113, R340). -/
def State.requested (s : State) (q pcl : Nat) (w : Word) (hdr : BitVec 32) : State :=
  (s.modQueue q (fun Q => { Q with lock := some (pcl, hdr) })).modTract pcl (fun t => { t with
    asker := some (.packet q), relock := some w })

theorem State.HeadsTract.exec_relock {s : State} {q words : Nat} {p : Packet} (h : s.HeadsTract q 1 words p) (hwords : words = 2) :
    let pcl := p.cluster
    let asid := (s.queue q).asid
    let u := ((s.heading q p).dropAsker pcl).requested q pcl p.tctl p.hdr
    s.tractTaken pcl asid = false → (s.tract pcl).state ≠ .free → s.lockDenied asid p.tctl = false →
    s.requestBad pcl p.tctl = none →
    exec (.tractRelock q) s = if (s.tract pcl).ticking && (s.tract pcl).edge != .framed then .next u
      else .next (u.beginRelock pcl p.tctl) := by
  intro pcl asid u htaken hbound hdenied hgood
  subst hwords
  have hmay : ¬((s.heading q p).tractTaken pcl asid = true ∨ ((s.heading q p).tract pcl).state = .free) :=
    fun hn => hn.elim (Bool.eq_false_iff.1 htaken) hbound
  show execTractRelock q s = _
  rw [execTractRelock, h.withTract (by decide) rfl (by decide), State.asid_heading]
  refine (if_neg hmay).trans ((if_neg (Bool.eq_false_iff.1 hdenied)).trans ?_)
  rw [show (s.heading q p).requestBad p.cluster p.tctl = none from hgood]
  rfl

end Sys2Proof.Machine

namespace Sys2Proof
open Machine

/-- Settles O48: each OP's meaning at a packet that its checks let through, from `State.HeadsTract.withTract` and
`State.HeadsTract.completes`; the faults stand by `State.Reports.keepsFault`. -/
theorem tractPacketsBindAndConfigure : Obligations.TractPacketsBindAndConfigure := by
  intro s q p Q is past pcl T w c unit goes
  have heads {op words : Nat} : is op words → s.HeadsTract q op words p := fun ⟨h1, h2, h3, h4, h5, h6, h7, h8, h9⟩ =>
    ⟨h1, h2, h3, h4, h5, h6, h7, h8, h9⟩
  have hasid : ((s.heading q p).queue q).asid = Q.asid := s.asid_heading q p
  have hpriv : ((s.heading q p).queue q).priv = Q.priv := s.priv_heading q p
  refine ⟨?bind, ?relock, ?retake, ?unbind, ?sink, ?stile, ?pace, ?port, ?linkcfg⟩
  case bind =>
    intro his htaken hfree hdenied
    have h := heads his
    have hmay : ¬((s.heading q p).tractTaken p.cluster Q.asid = true ∨ ((s.heading q p).tract p.cluster).state ≠ .free) :=
      fun hn => hn.elim (Bool.eq_false_iff.1 htaken) (fun hne => hne hfree)
    have hexec : execTractBind q s = (match (s.heading q p).requestBad pcl w with
        | some f => .next (((s.heading q p).packetFault q f).tractEvent pcl (f.code % 4096))
        | none => .next (((s.heading q p).modQueue q (fun Q => { Q with lock := some (pcl, p.hdr) })).beginLock pcl w
            (.packet q) q Q.asid)) := by
      rw [execTractBind, h.withTract (by decide) rfl (by decide), hasid]
      exact (if_neg hmay).trans (if_neg (Bool.eq_false_iff.1 hdenied))
    refine ⟨fun hgood => ?_, fun f hbad => ?_⟩
    · rw [show (s.heading q p).requestBad pcl w = none from hgood] at hexec
      obtain ⟨hstate, htctl, howner, hqueue, hslipc, hframes, hsince, honly⟩ := State.beginLock_spec
        ((s.heading q p).modQueue q (fun Q => { Q with lock := some (pcl, p.hdr) })) pcl w (.packet q) q Q.asid
      refine ⟨_, hexec, hstate, htctl, howner, hqueue, hslipc, hframes, hsince, ?_, honly.sameBytes⟩
      rw [honly.queue, State.queue_modQueue_self]
    · rw [show (s.heading q p).requestBad pcl w = some f from hbad] at hexec
      obtain ⟨hstate, hcode, hsame, -⟩ := State.packetFault_of_ring (s := s.heading q p) (q := q)
        (by rw [State.queue_heading]; exact h.ring) h.takesFault f
      obtain ⟨hstate', hcode'⟩ := State.queue_tractEvent ((s.heading q p).packetFault q f) pcl (f.code % 4096) q
        (by rw [Queue.takesFault, hstate]; rfl)
      refine ⟨_, hexec, hstate'.trans hstate, hcode'.trans hcode, ?_⟩
      rw [(State.onlyTract_tractEvent ..).self]
      obtain ⟨-, -, htracts, -⟩ := hsame
      exact (congrArg (fun l => (Tbl.get l {} pcl).state) htracts).trans hfree
  case sink =>
    intro his htaken
    have h := heads his
    refine h.completes (t := (s.heading q p).modTract pcl (fun t => { t with tsnk := c &&& 0x00000F1F })) ?_ rfl (.refl s)
      (fun u hu => (hu.tract pcl).trans (s.tract_setTract_self ..))
    show execTractSink q s = _
    rw [execTractSink, h.withTract (by decide) rfl (by decide), hasid]
    exact if_neg (Bool.eq_false_iff.1 htaken)
  case unbind =>
    intro his htaken hplaced hasker
    have h := heads his
    have honly := ((s.heading q p).onlyTracts_setTract pcl T.released).trans (State.onlyTracts_stileFlow _ pcl)
    refine h.completes (t := ((s.heading q p).setTract pcl T.released).stileFlow pcl) ?_ (honly.queue q) honly.sameBytes
      (fun u hu => ?_)
    · have hmay : ¬((s.heading q p).tractTaken p.cluster Q.asid = true ∨ (!((s.heading q p).placedIn p.cluster).isEmpty) = true) :=
        fun hn => hn.elim (Bool.eq_false_iff.1 htaken) (fun hne => by
          rw [show (s.heading q p).placedIn p.cluster = [] from hplaced] at hne
          cases hne)
      show execTractUnbind q s = _
      rw [execTractUnbind, h.withTract (by decide) rfl (by decide), hasid]
      refine (if_neg hmay).trans ?_
      rw [State.dropAsker_of_none (s := s.heading q p) (pcl := p.cluster) hasker]
      rfl
    · have htract : (((s.heading q p).setTract pcl T.released).stileFlow pcl).tract pcl = T.released := by
        rw [State.tract_stileFlow, State.tract_setTract_self]
      rw [hu.tract, htract]
      exact ⟨rfl, rfl, rfl⟩
  case stile =>
    intro his n d X htaken hform
    have h := heads his
    have hwell : ¬(X.mode ≠ 0 ∧ ((X.out = true ∧ X.mode = 3) ∨ X.sclu = X.dclu)) := by
      rintro ⟨hmode, hbad⟩
      obtain ⟨hout, hdiff⟩ := hform.resolve_left hmode
      rcases hbad with ⟨ho, hm⟩ | he
      · rw [hout hm] at ho
        cases ho
      · exact hdiff he
    obtain ⟨hcfg, hbox, hputs, hhist, hunbound, hbound⟩ := (s.heading q p).stile_writeStile n d
    have honly := (s.heading q p).onlyTracts_writeStile n d
    have hexec : exec (.tractStile q) s = .next ((((s.heading q p).writeStile n d).setStile n
        { ((s.heading q p).writeStile n d).stile n with asid := Q.asid }).packetDone q p) := by
      have howner : (((s.heading q p).writeStile n d).queue q).asid = Q.asid := by rw [honly.queue, hasid]
      show execTractStile q s = _
      rw [execTractStile, h.withTract (by decide) rfl (by decide), hasid]
      refine (if_neg (Bool.eq_false_iff.1 htaken)).trans ((if_neg hwell).trans ?_)
      rw [← howner]
    generalize (s.heading q p).writeStile n d = t at hexec hcfg hbox hputs hhist hunbound hbound honly
    refine h.completes hexec (honly.queue q) (honly.sameBytes.setStile ..) (fun u hu => ?_)
    rw [hu.stile, State.stile_setStile_self]
    exact ⟨hcfg, rfl, hbox, hputs, hhist, hunbound, hbound⟩
  case pace =>
    intro his hnum hden hne
    have h := heads his
    have hmay : ¬(2 ^ 63 ≤ p.w2 2 ∨ 2 ^ 63 ≤ p.w2 4 ∨ (p.w2 4 = 0 ∧ p.w2 2 ≠ 0)) := by omega
    by_cases hzero : p.w2 2 = 0
    · refine h.completes (t := (s.heading q p).setPace (unit % 16) { s.pace (unit % 16) with on := false, num := 0, dnum := 0 })
        ?_ rfl (.refl s) (fun u hu => ?_)
      · show execTractPace q s = _
        rw [execTractPace, h.withTract (by decide) rfl (by decide)]
        exact (if_neg hmay).trans (if_pos hzero)
      · rw [if_pos hzero, hu.pace]
        exact s.pace_setPace_self ..
    · refine h.completes (t := (s.heading q p).setPace (unit % 16)
        { on := true, num := p.w2 2, den := p.w2 4, dnum := p.w2 2, dden := p.w2 4, t0 := s.chron }) ?_ rfl (.refl s)
        (fun u hu => ?_)
      · show execTractPace q s = _
        rw [execTractPace, h.withTract (by decide) rfl (by decide)]
        exact (if_neg hmay).trans (if_neg hzero)
      · rw [if_neg hzero, hu.pace]
        exact s.pace_setPace_self ..
  case port =>
    intro his hprivileged hreserved
    have h := heads his
    have hmay : ¬((!((s.heading q p).queue q).priv) = true) := by
      rw [hpriv, hprivileged]
      decide
    by_cases hsource : p.w 1 / 2 ^ 8 % 2 = 0
    · refine h.completes (t := { s.heading q p with spcfg := s.spcfg.set (unit % 32) c }) ?_ rfl (.refl s) (fun u hu => ?_)
      · show execTractPort q s = _
        rw [execTractPort, h.withTract (by decide) rfl (by decide)]
        exact (if_neg hmay).trans ((if_neg (not_not.2 hreserved)).trans (if_pos hsource))
      · rw [if_pos hsource, hu.spcfg]
        exact Tbl.get_set_self ..
    · refine h.completes (t := (s.heading q p).setSink (unit % 32) { s.sink (unit % 32) with cfg := c }) ?_ rfl (.refl s)
        (fun u hu => ?_)
      · show execTractPort q s = _
        rw [execTractPort, h.withTract (by decide) rfl (by decide)]
        exact (if_neg hmay).trans ((if_neg (not_not.2 hreserved)).trans (if_neg hsource))
      · rw [if_neg hsource, hu.sink]
        exact s.sink_setSink_self ..
  case linkcfg =>
    intro his hprivileged hreserved hl
    have h := heads his
    have hmay : ¬((!((s.heading q p).queue q).priv) = true) := by
      rw [hpriv, hprivileged]
      decide
    have hform : ¬(c &&& 0x7FFFE0C0 ≠ 0 ∨ 12 ≤ unit % 16) := fun hn => hn.elim (fun hne => hne hreserved) (Nat.not_le.2 hl)
    refine h.completes (t := (s.heading q p).setLink (unit % 16) { s.link (unit % 16) with cfg := c }) ?_ rfl (.refl s)
      (fun u hu => (hu.link _).trans (s.link_setLink_self ..))
    show execTractLinkcfg q s = _
    rw [execTractLinkcfg, h.withTract (by decide) rfl (by decide)]
    exact (if_neg hmay).trans (if_neg hform)
  case relock =>
    intro his htaken hbound hasker hdenied hgood
    have h := heads his
    have hexec := h.exec_relock rfl htaken hbound hdenied hgood
    have hdrop : (s.heading q p).dropAsker p.cluster = s.heading q p := State.dropAsker_of_none hasker
    rw [hdrop] at hexec
    have hqueue : (((s.heading q p).requested q pcl w p.hdr).queue q).lock = some (pcl, p.hdr) := by
      rw [State.requested, State.modTract, State.queue_setTract, State.queue_modQueue_self]
    have htract : ((s.heading q p).requested q pcl w p.hdr).tract pcl
        = { T with asker := some (.packet q), relock := some w } := State.tract_setTract_self ..
    by_cases hrun : T.ticking = true ∧ T.edge ≠ .framed
    · refine ⟨_, hexec.trans (if_pos ?_), hqueue, .refl s, ?_⟩
      · exact Bool.and_eq_true_iff.2 ⟨hrun.1, bne_iff_ne.2 hrun.2⟩
      · rw [if_pos hrun]
        exact htract
    · obtain ⟨hstate, htctl, hown, -, hold, honly⟩ := State.beginRelock_spec ((s.heading q p).requested q pcl w p.hdr) pcl w
      refine ⟨_, hexec.trans (if_neg ?_), ?_, honly.sameBytes, ?_⟩
      · exact fun hn => hrun ((Bool.and_eq_true_iff.1 hn).imp id bne_iff_ne.1)
      · exact (congrArg Queue.lock (honly.queue q)).trans hqueue
      · rw [if_neg hrun]
        rw [htract] at hown hold
        exact ⟨hstate, htctl, hown, hold⟩
  case retake =>
    intro o his htaken hbound hasker hne hring hfault hdenied hgood
    have h := heads his
    have hexec := h.exec_relock rfl htaken hbound hdenied hgood
    have ho : (s.heading q p).queue o = s.queue o := (State.queue_modQueue ..).trans (if_neg hne)
    obtain ⟨hstate, hcode⟩ := State.dropAsker_of_packet (s := s.heading q p) (pcl := pcl) hasker (by rw [ho, hring])
      (by rw [ho, hfault])
    have hqueue (t : State) (n : Nat) : (t.requested q pcl w p.hdr).queue n
        = if n = q then { t.queue q with lock := some (pcl, p.hdr) } else t.queue n := by
      rw [State.requested, State.modTract, State.queue_setTract, State.queue_modQueue]
    have htract (t : State) : ((t.requested q pcl w p.hdr).tract pcl).asker = some (.packet q) :=
      congrArg Tract.asker (State.tract_setTract_self ..)
    have hdone (u : State) (hu : exec (.tractRelock q) s = .next u)
        (hq : ∀ n, u.queue n = (((s.heading q p).dropAsker pcl).requested q pcl w p.hdr).queue n)
        (hasks : (u.tract pcl).asker = some (.packet q)) : ∃ t, exec (.tractRelock q) s = .next t
          ∧ (t.queue q).lock = some (pcl, p.hdr) ∧ (t.tract pcl).asker = some (.packet q) ∧ (t.queue o).state = .faulted
          ∧ (t.queue o).fcode = some .lockTimeout := by
      refine ⟨u, hu, ?_, hasks, ?_, ?_⟩ <;> rw [hq, hqueue]
      · rw [if_pos rfl]
      · rw [if_neg hne, hstate]
      · rw [if_neg hne, hcode]
    by_cases hrun : (T.ticking && T.edge != .framed) = true
    · exact hdone _ (hexec.trans (if_pos hrun)) (fun _ => rfl) (htract _)
    · obtain ⟨-, -, -, hasks, -, honly⟩ := State.beginRelock_spec (((s.heading q p).dropAsker pcl).requested q pcl w p.hdr) pcl w
      exact hdone _ (hexec.trans (if_neg hrun)) honly.queue (hasks.trans (htract _))

end Sys2Proof
end

section
/-! PROOFS. Flits that leave (22_link.md, R350 to R352): the fields of a flit that this agent makes, and what sending one changes:
the queue of unacknowledged flits of one link. -/

namespace Sys2Proof.Machine

/-! ### Fields of a flit (R351) -/

/-- A field of a flit, read from the number that the flit is. -/
theorem extract_ofNat (x : Nat) {lo n : Nat} (h : lo + n ≤ 256) :
    (BitVec.ofNat 256 x).extractLsb' lo n = BitVec.ofNat n (x / 2 ^ lo) := by
  refine BitVec.eq_of_toNat_eq ?_
  rw [BitVec.extractLsb'_toNat, BitVec.toNat_ofNat, BitVec.toNat_ofNat, Nat.shiftRight_eq_div_pow]
  rw [show 256 = lo + (256 - lo) by omega, pow_add, Nat.mod_mul_right_div_self, Nat.mod_mod_of_dvd]
  exact pow_dvd_pow 2 (by omega)

theorem append_div (y : Nat) {x k : Nat} (h : x < 2 ^ k) : (y * 2 ^ k + x) / 2 ^ k = y := by
  rw [mul_comm, Nat.mul_add_div (Nat.two_pow_pos k), Nat.div_eq_of_lt h, add_zero]

section
variable (addr asid kind : Nat) (src dst : BitVec 19) (tag : BitVec 16) (pay : Word)

/-- The fields of a flit from SRC to ITAG, as one number. -/
def flitHead : Nat := (((addr * 2 ^ 19 + src.toNat) * 2 ^ 19 + dst.toNat) * 2 ^ 16 + asid % 2 ^ 16) * 2 ^ 32 + tag.toNat

theorem headFlit_eq_flitHead : headFlit addr src dst asid tag kind pay
    = BitVec.ofNat 256 ((flitHead addr asid src dst tag * 2 ^ 4 + kind) * 2 ^ 102 + pay.toNat) :=
  congrArg (BitVec.ofNat 256) (by unfold flitHead; ring)

theorem flitHead_div_tag : flitHead addr asid src dst tag / 2 ^ 32
    = ((addr * 2 ^ 19 + src.toNat) * 2 ^ 19 + dst.toNat) * 2 ^ 16 + asid % 2 ^ 16 :=
  append_div _ (Nat.lt_trans tag.isLt (by decide))

theorem flitHead_div_asid : flitHead addr asid src dst tag / 2 ^ 48 = (addr * 2 ^ 19 + src.toNat) * 2 ^ 19 + dst.toNat := by
  rw [show (2 : Nat) ^ 48 = 2 ^ 32 * 2 ^ 16 by decide, ← Nat.div_div_eq_div_mul, flitHead_div_tag]
  exact append_div _ (Nat.mod_lt _ (Nat.two_pow_pos 16))

theorem flitHead_div_src : flitHead addr asid src dst tag / 2 ^ 86 = addr := by
  rw [show (2 : Nat) ^ 86 = 2 ^ 48 * 2 ^ 19 * 2 ^ 19 by decide, ← Nat.div_div_eq_div_mul, ← Nat.div_div_eq_div_mul,
    flitHead_div_asid, append_div _ dst.isLt, append_div _ src.isLt]

variable {kind} (hkind : kind < 16)
include hkind

/-- A field above KIND, at lo of the head. -/
theorem extract_headFlit {lo n : Nat} (h : 106 + lo + n ≤ 256) :
    (headFlit addr src dst asid tag kind pay).extractLsb' (106 + lo) n
      = BitVec.ofNat n (flitHead addr asid src dst tag / 2 ^ lo) := by
  rw [headFlit_eq_flitHead, extract_ofNat _ h, pow_add, ← Nat.div_div_eq_div_mul,
    show (2 : Nat) ^ 106 = 2 ^ 102 * 2 ^ 4 by decide, ← Nat.div_div_eq_div_mul,
    append_div _ (Nat.lt_trans pay.isLt (by decide)), append_div _ hkind]

theorem flitAddr_headFlit : flitAddr (headFlit addr src dst asid tag kind pay) = addr % 2 ^ 64 := by
  unfold flitAddr
  rw [extract_headFlit addr asid src dst tag pay hkind (lo := 86) (by decide), flitHead_div_src, BitVec.toNat_ofNat]

theorem flitDst_headFlit : flitDst (headFlit addr src dst asid tag kind pay) = dst := by
  unfold flitDst
  rw [extract_headFlit addr asid src dst tag pay hkind (lo := 48) (by decide), flitHead_div_asid]
  exact BitVec.eq_of_toNat_eq (by rw [BitVec.toNat_ofNat, Nat.mul_add_mod_of_lt dst.isLt])

theorem flitTag_headFlit : flitTag (headFlit addr src dst asid tag kind pay) = tag := by
  unfold flitTag
  rw [extract_headFlit addr asid src dst tag pay hkind (lo := 0) (by decide), pow_zero, Nat.div_one]
  refine BitVec.eq_of_toNat_eq ?_
  rw [BitVec.toNat_ofNat, flitHead, show (2 : Nat) ^ 32 = 2 ^ 16 * 2 ^ 16 by decide, ← mul_assoc, Nat.mul_add_mod_of_lt tag.isLt]

theorem flitKind_headFlit : flitKind (headFlit addr src dst asid tag kind pay) = kind := by
  unfold flitKind
  rw [headFlit_eq_flitHead, extract_ofNat _ (by decide), append_div _ (Nat.lt_trans pay.isLt (by decide)), BitVec.toNat_ofNat,
    Nat.mul_add_mod_of_lt (b := 2 ^ 4) hkind]

end

/-! ### Sending (R350, R352) -/

/-- From s to t flits have been sent: they wait for a link, or a link keeps them until they are acknowledged. -/
structure State.Sends (s t : State) : Prop where
  frame : t = { s with links := t.links, parked := t.parked, helm := { s.helm with elided := t.helm.elided } }
  link : ∀ k, t.link k = { s.link k with unacked := (t.link k).unacked, sent := (t.link k).sent }

section
variable {s t u : State}

theorem State.Sends.refl (s : State) : s.Sends s := ⟨rfl, fun _ => rfl⟩

theorem State.Sends.trans (h : s.Sends t) (h' : t.Sends u) : s.Sends u where
  frame := h'.frame.trans (by rw [h.frame])
  link k := (h'.link k).trans (by rw [h.link k])

theorem State.Sends.state (h : s.Sends t) (k : Nat) : (t.link k).state = (s.link k).state :=
  (congrArg Link.state (h.link k)).trans rfl
theorem State.Sends.errc (h : s.Sends t) (k : Nat) : (t.link k).errc = (s.link k).errc :=
  (congrArg Link.errc (h.link k)).trans rfl
theorem State.Sends.expect (h : s.Sends t) (k : Nat) : (t.link k).expect = (s.link k).expect :=
  (congrArg Link.expect (h.link k)).trans rfl
theorem State.Sends.mem (h : s.Sends t) : t.mem = s.mem := (congrArg State.mem h.frame).trans rfl
theorem State.Sends.pkg (h : s.Sends t) : t.pkg = s.pkg := (congrArg State.pkg h.frame).trans rfl

/-- A route turns on the states of the links (R350). -/
theorem State.route_congr (hpkg : t.pkg = s.pkg) (hstate : ∀ k, (t.link k).state = (s.link k).state) (dst : BitVec 19)
    (odd up : Bool) : t.route dst odd up = s.route dst odd up := by
  simp only [State.route, hpkg, hstate]

theorem State.Sends.route (h : s.Sends t) (dst : BitVec 19) (odd up : Bool) : t.route dst odd up = s.route dst odd up :=
  State.route_congr h.pkg h.state ..

theorem State.sends_sendOn (s : State) (l : Nat) (f : BitVec 256) (data : Row) : s.Sends (s.sendOn l f data) where
  frame := rfl
  link k := by
    unfold State.sendOn
    rw [State.link_setLink]
    split
    · next h => rw [h]
    · rfl

theorem State.sends_sendTo (s : State) (f : BitVec 256) (data : Row) : s.Sends (s.sendTo f data) := by
  unfold State.sendTo
  split
  · exact State.sends_sendOn ..
  · exact .refl s
  · exact ⟨rfl, fun _ => rfl⟩

theorem State.sends_unpark (s : State) : s.Sends s.unpark :=
  foldl_inv (I := s.Sends) (fun _ _ _ h => h.trans (State.sends_sendTo ..)) ⟨rfl, fun _ => rfl⟩

/-- A flit by a link joins those that the link keeps. -/
theorem State.link_sendTo {f : BitVec 256} {k : Nat} (hroute : s.flitRoute f = .via k) (data : Row) :
    (s.sendTo f data).link k = { s.link k with
      unacked := (s.link k).unacked ++ [(withSeq (markFlit f data) (s.link k).sent, data, 0)], sent := (s.link k).sent + 1 } := by
  unfold State.sendTo
  rw [hroute]
  exact State.link_setLink_self ..

/-! ### Answers (R351) -/

variable {f : BitVec 256} {kind k : Nat}

/-- An answer goes back by the route of its ADDR to the package that asked, and reads nothing for a walk. -/
theorem State.flitRoute_answerFlit (hkind : kind < 16) (h0 : kind ≠ 0) (own : BitVec 19) :
    s.flitRoute (answerFlit own f kind) = s.route (flitSrc f) (paOdd (flitAddr f)) false := by
  have hwalk : s.walkFlit (answerFlit own f kind) = false := by
    unfold State.walkFlit answerFlit
    rw [flitKind_headFlit _ _ _ _ _ _ hkind, decide_eq_false h0, Bool.and_false, Bool.false_and]
  have haddr : flitAddr f % 2 ^ 64 = flitAddr f := Nat.mod_eq_of_lt (BitVec.isLt _)
  unfold State.flitRoute
  rw [hwalk, answerFlit, flitDst_headFlit _ _ _ _ _ _ hkind, flitAddr_headFlit _ _ _ _ _ _ hkind, haddr]

variable (hsrc : flitSrc f ≠ s.pkg)
include hsrc

theorem State.reply_of_foreign (row : Row) : s.reply f kind row = s.sendTo (answerFlit s.pkg f kind) row := if_neg hsrc

theorem State.sends_reply (row : Row) : s.Sends (s.reply f kind row) := by
  rw [State.reply_of_foreign hsrc]
  exact State.sends_sendTo ..

theorem State.link_reply (hkind : kind < 16) (h0 : kind ≠ 0) (hroute : s.route (flitSrc f) (paOdd (flitAddr f)) false = .via k)
    (row : Row) : (s.reply f kind row).link k = { s.link k with
      unacked := (s.link k).unacked ++ [(withSeq (markFlit (answerFlit s.pkg f kind) row) (s.link k).sent, row, 0)]
      sent := (s.link k).sent + 1 } := by
  rw [State.reply_of_foreign hsrc]
  exact State.link_sendTo ((State.flitRoute_answerFlit hkind h0 s.pkg).trans hroute) row

end

end Sys2Proof.Machine
end

section
/-! PROOFS. Receipt of flits and the home of an access (22_link.md, R351, R352, R357): which flits a link takes, and what a
request of another package does to the memory of its home and is answered with. -/

namespace Sys2Proof.Machine

/-! ### Which flits are taken (R352) -/

theorem Link.inPeriod_eq (L : Link) (now : Word) : L.inPeriod now = { L with
    period := (L.inPeriod now).period, crcs := (L.inPeriod now).crcs, replay := (L.inPeriod now).replay } := by
  unfold Link.inPeriod
  split <;> rfl

theorem Link.carries_iff (L : Link) : L.carries = true ↔ L.state = .up ∨ L.state = .degraded := by
  rw [Link.carries, Bool.or_eq_true, decide_eq_true_iff, decide_eq_true_iff]

/-- A link once it has taken the flit that it expected. -/
def Link.takes (P : Link) (f : BitVec 256) : Link := { P with expect := P.expect + 1, acks := flitSeq f :: P.acks }

section
variable {s t : State} {l : Nat} {f : BitVec 256} {data : Row} {P : Link} (hP : (s.link l).inPeriod s.chron = P)
  (hopen : (P.state = .up ∨ P.state = .degraded) ∨ P.state = .align)
include hP hopen

theorem execFlitReceive_open (ok : Bool) : execFlitReceive l f data ok s =
    if !ok ∨ 8 ≤ flitKind f then .next (s.setLink l { P with crcs := P.crcs + 1 })
    else if P.stale (flitSeq f) then .next (s.setLink l { P with acks := flitSeq f :: P.acks })
    else if flitSeq f ≠ P.expect then .next (s.setLink l P)
    else match (s.setLink l (P.takes f)).deliver l f (unelide f data) with
      | none => .next s
      | some s => .next s := by
  have hclosed : ¬ ((!P.carries && P.state != .align) = true) := by
    rw [Bool.and_eq_true, Bool.not_eq_true', ← Bool.not_eq_true, Link.carries_iff, bne_iff_ne]
    exact fun h => hopen.elim h.1 h.2
  unfold execFlitReceive
  rw [hP]
  exact if_neg hclosed

theorem execFlitReceive_bad (ok : Bool) (hbad : ok = false ∨ 8 ≤ flitKind f) :
    execFlitReceive l f data ok s = .next (s.setLink l { P with crcs := P.crcs + 1 }) := by
  rw [execFlitReceive_open hP hopen, if_pos (by simpa using hbad)]

variable (hkind : flitKind f < 8)
include hkind

theorem execFlitReceive_stale (hne : flitSeq f ≠ P.expect) (hold : (P.expect - flitSeq f).toNat < 2 ^ 15) :
    execFlitReceive l f data true s = .next (s.setLink l { P with acks := flitSeq f :: P.acks }) := by
  have hstale : P.stale (flitSeq f) = true := by
    rw [Link.stale, Bool.and_eq_true, bne_iff_ne, decide_eq_true_iff]
    exact ⟨hne, hold⟩
  rw [execFlitReceive_open hP hopen, if_neg (by simpa using hkind), if_pos hstale]

theorem execFlitReceive_early (hne : flitSeq f ≠ P.expect) (hnew : 2 ^ 15 ≤ (P.expect - flitSeq f).toNat) :
    execFlitReceive l f data true s = .next (s.setLink l P) := by
  have hstale : ¬ P.stale (flitSeq f) = true := by
    rw [Link.stale, Bool.and_eq_true, decide_eq_true_iff]
    exact fun h => absurd h.2 (Nat.not_lt.2 hnew)
  rw [execFlitReceive_open hP hopen, if_neg (by simpa using hkind), if_neg hstale, if_pos hne]

theorem execFlitReceive_next (hseq : flitSeq f = P.expect)
    (hdeliver : (s.setLink l (P.takes f)).deliver l f (unelide f data) = some t) :
    execFlitReceive l f data true s = .next t := by
  have hstale : ¬ P.stale (flitSeq f) = true := by
    rw [Link.stale, hseq, bne_self_eq_false, Bool.false_and]
    exact Bool.false_ne_true
  rw [execFlitReceive_open hP hopen, if_neg (by simpa using hkind), if_neg hstale, if_neg (not_not_intro hseq), hdeliver]

end

/-! ### What is delivered (R102, R351) -/

section
variable {s t : State} {l : Nat} {f : BitVec 256} {data : Row}

theorem State.deliver_sample (hkind : flitKind f = 5) : s.deliver l f data =
    some (s.setLink l { s.link l with inbox := (s.link l).inbox ++ [(s.chron, flitPay f)] }) := if_pos hkind

theorem State.deliver_exchange (hkind : flitKind f = 6) : s.deliver l f data = some s := by
  rw [State.deliver, if_neg (by omega), if_pos hkind]

variable (hdst : flitDst f = s.pkg)
include hdst

theorem State.deliver_answer (hkind : flitKind f = 4 ∨ flitKind f = 7) : s.deliver l f data = some (s.answered f data) := by
  rw [State.deliver, if_neg (by omega), if_neg (by omega), if_neg (not_not_intro hdst), if_pos hkind]

theorem State.deliver_request (hkind : flitKind f < 4) : s.deliver l f data = s.serveAccess f data := by
  rw [State.deliver, if_neg (by omega), if_neg (by omega), if_neg (not_not_intro hdst), if_neg (by omega)]

theorem State.deliver_heard (hkind : flitKind f < 4) (hheard : withSeq f 0 ∈ s.heard) : s.deliver l f data = some s := by
  rw [State.deliver_request hdst hkind, State.serveAccess, if_pos (List.contains_iff_mem.2 hheard)]

/-- A request as its home performs it. -/
def homeAccess (f : BitVec 256) (data : Row) : HeldAccess :=
  { agent := memLink (flitAddr f), acc := flitAccess f data, flit := some f }

/-- A home that remembers one more request. -/
def State.hears (s : State) (f : BitVec 256) : State := { s with heard := (withSeq f 0 :: s.heard).take heardSlots }

theorem State.deliver_performs (hkind : flitKind f < 4) (hnew : withSeq f 0 ∉ s.heard) (hroom : s.agentFull (flitAddr f) = false)
    (hholder : s.holder (flitAddr f) = none) :
    s.deliver l f data = some ((s.hears f).performAccess none (homeAccess f data)) := by
  have hfull : ¬ s.agentFull (flitAddr f) = true := by rw [hroom]; exact Bool.false_ne_true
  rw [State.deliver_request hdst hkind, State.serveAccess, if_neg (mt List.contains_iff_mem.1 hnew), if_neg hfull]
  show (match s.holder (flitAddr f) with
    | some asid => some ((s.hears f).hold asid (homeAccess f data))
    | none => some ((s.hears f).performAccess none (homeAccess f data))) = _
  rw [hholder]

end

/-! ### An access at its home (R325, R351) -/

section
variable {s : State} {a b : Nat}

theorem dirtyMark_of_no_precopy {cs : Tbl Context} (h : ∀ c ∈ cs, c.2.state ≠ .precopy) (pa : Nat) (m : Mem) :
    dirtyMark pa cs m = m := by
  induction cs with
  | nil => rfl
  | cons c r ih =>
    rw [dirtyMark, if_neg (fun hc => h c List.mem_cons_self hc.1)]
    exact ih (fun c hc => h c (List.mem_cons_of_mem _ hc))

theorem State.store_of_place (hplace : s.place a = some b) (hpre : ∀ c ∈ s.ctxs, c.2.state ≠ .precopy) (n v : Nat) :
    s.store a n v = some { s with mem := Mem.setNum s.mem b v n } := by
  rw [State.store, hplace, Option.map_some, dirtyMark_of_no_precopy hpre]

theorem rowAt_of_aligned (h : a % 64 = 0) : rowAt a = a := Nat.div_mul_cancel (Nat.dvd_of_mod_eq_zero h)

variable {f : BitVec 256} {data : Row} (hplace : s.place (flitAddr f) = some b) (hhome : paPkg b = s.pkg)
include hplace hhome

theorem State.performAccess_read (hkind : flitKind f = 0) (hb : b % 64 = 0) : s.performAccess none (homeAccess f data) =
    (s.reply f 4 (Mem.row s.mem b)).reply f 7 0 := by
  simp only [State.performAccess, homeAccess, flitAccess, hkind, hplace, Option.getD_some, hhome, ne_eq, not_true_eq_false,
    if_false, rowAt_of_aligned hb, Mem.row]

variable (hpre : ∀ c ∈ s.ctxs, c.2.state ≠ .precopy)
include hpre

theorem State.performAccess_write (hkind : flitKind f = 1) (ha : flitAddr f % 64 = 0) (hb : b % 64 = 0) :
    s.performAccess none (homeAccess f data) =
      ({ s with mem := Mem.setRow s.mem b (maskedRow (flitPay f) (Mem.row s.mem b) data) } : State).reply f 7 0 := by
  simp only [State.performAccess, homeAccess, flitAccess, hkind, hplace, Option.getD_some, hhome, ne_eq, not_true_eq_false,
    if_false, rowAt_of_aligned hb, rowAt_of_aligned ha, State.store_of_place hplace hpre, Option.map_some, Mem.row, Mem.setRow]

theorem State.performAccess_atomic (hkind : flitKind f = 2) : s.performAccess none (homeAccess f data) =
    (({ s with mem := Mem.setNum s.mem b ((Mem.num s.mem b 8 + data.toNat % 2 ^ 64) % 2 ^ 64) 8 } : State).reply f 4
      (BitVec.ofNat 512 (Mem.num s.mem b 8))).reply f 7 0 := by
  simp only [State.performAccess, homeAccess, flitAccess, hkind, hplace, Option.getD_some, hhome, ne_eq, not_true_eq_false,
    if_false, if_true, State.store_of_place hplace hpre, BitVec.toNat_setWidth]

theorem State.performAccess_signal (hkind : flitKind f = 3) : s.performAccess none (homeAccess f data) =
    ({ s with mem := Mem.setNum s.mem b ((Mem.num s.mem b 8 + (flitPay f).toNat) % 2 ^ 64) 8 } : State).reply f 7 0 := by
  simp only [State.performAccess, homeAccess, flitAccess, hkind, hplace, Option.getD_some, hhome, ne_eq, not_true_eq_false,
    if_false, State.store_of_place hplace hpre, show ¬ (3 = 2) by decide]

end

end Sys2Proof.Machine
end

section
/-! PROOFS. A request of another package at its home (22_link.md, R351, R357; 18_page.md, R325): the bytes that it reads or
writes, and the answer and acknowledgement that leave by the route back. -/

namespace Sys2Proof.Machine

/-- From s to w link l has taken a flit: every link stands and numbers its flits as before. -/
structure State.Took (s w : State) (l : Nat) (P : Link) : Prop where
  pkg : w.pkg = s.pkg
  state : ∀ k, (w.link k).state = (s.link k).state
  sent : ∀ k, (w.link k).sent = (s.link k).sent
  expect : (w.link l).expect = P.expect + 1

/-- The n-th flit that the home of a request sends back answers it. -/
def State.Answers (s t : State) (f : BitVec 256) (n kind : Nat) (row : Row) : Prop :=
  ∀ k, s.route (flitSrc f) (paOdd (flitAddr f)) false = .via k →
    (withSeq (markFlit (answerFlit s.pkg f kind) row) ((s.link k).sent + BitVec.ofNat 16 n), row, 0) ∈ (t.link k).unacked

section
variable {s w : State} {l : Nat} {f : BitVec 256} {P : Link}

/-- The state in which the home of a request performs it. -/
def State.atHome (s : State) (l : Nat) (P : Link) (f : BitVec 256) : State := (s.setLink l (P.takes f)).hears f

theorem State.took_atHome (hP : (s.link l).inPeriod s.chron = P) : s.Took (s.atHome l P f) l P where
  pkg := rfl
  state k := by
    show ((s.setLink l (P.takes f)).link k).state = _
    rw [State.link_setLink]
    split
    · next h => rw [h, ← hP, Link.takes, Link.inPeriod_eq]
    · rfl
  sent k := by
    show ((s.setLink l (P.takes f)).link k).sent = _
    rw [State.link_setLink]
    split
    · next h => rw [h, ← hP, Link.takes, Link.inPeriod_eq]
    · rfl
  expect := by
    show ((s.setLink l (P.takes f)).link l).expect = _
    rw [State.link_setLink_self]
    rfl

theorem State.Took.setMem (h : s.Took w l P) (m : Mem) : s.Took { w with mem := m } l P := ⟨h.pkg, h.state, h.sent, h.expect⟩

variable (h : s.Took w l P) (hsrc : flitSrc f ≠ s.pkg)
include h

theorem State.Took.route (dst : BitVec 19) (odd up : Bool) : w.route dst odd up = s.route dst odd up :=
  State.route_congr h.pkg h.state ..

include hsrc

/-- A write or a signal is acknowledged. -/
theorem State.Took.acknowledges : s.Answers (w.reply f 7 0) f 0 7 0 := by
  intro k hroute
  rw [State.link_reply (by rwa [h.pkg]) (by decide) (by decide) (by rwa [h.route]), h.pkg, h.sent]
  exact List.mem_append_right _ (by simp)

theorem State.Took.unacked_answers (row : Row) {k : Nat} (hroute : s.route (flitSrc f) (paOdd (flitAddr f)) false = .via k) :
    (((w.reply f 4 row).reply f 7 0).link k).unacked = (w.link k).unacked
      ++ [(withSeq (markFlit (answerFlit s.pkg f 4) row) (s.link k).sent, row, 0)]
      ++ [(withSeq (markFlit (answerFlit s.pkg f 7) 0) ((s.link k).sent + 1), 0, 0)] := by
  have hsrc' : flitSrc f ≠ w.pkg := by rwa [h.pkg]
  have hsends := State.sends_reply (kind := 4) hsrc' row
  have hroute' := (h.route (flitSrc f) (paOdd (flitAddr f)) false).trans hroute
  rw [State.link_reply (by rwa [hsends.pkg]) (by decide) (by decide) (by rwa [hsends.route]),
    State.link_reply hsrc' (by decide) (by decide) hroute', hsends.pkg, h.pkg, h.sent]

/-- A read or an atomic is answered, and then acknowledged. -/
theorem State.Took.answers (row : Row) :
    s.Answers ((w.reply f 4 row).reply f 7 0) f 0 4 row ∧ s.Answers ((w.reply f 4 row).reply f 7 0) f 1 7 0 := by
  constructor
  · intro k hroute
    rw [h.unacked_answers hsrc row hroute]
    exact List.mem_append_left _ (List.mem_append_right _ (by simp))
  · intro k hroute
    rw [h.unacked_answers hsrc row hroute]
    exact List.mem_append_right _ (by simp)

theorem State.Took.sends_acknowledge : w.Sends (w.reply f 7 0) := State.sends_reply (by rwa [h.pkg]) 0

theorem State.Took.sends_answer (row : Row) : w.Sends ((w.reply f 4 row).reply f 7 0) := by
  have hsrc' : flitSrc f ≠ w.pkg := by rwa [h.pkg]
  have hsends := State.sends_reply (kind := 4) hsrc' row
  exact hsends.trans (State.sends_reply (by rwa [hsends.pkg]) 0)

omit hsrc

theorem State.Took.expect_sends {t : State} (hsends : w.Sends t) : (t.link l).expect = P.expect + 1 :=
  (hsends.expect l).trans h.expect

end

/-! ### The four requests -/

section
variable {s : State} {l b : Nat} {f : BitVec 256} {data : Row} {P : Link}

variable (hP : (s.link l).inPeriod s.chron = P) (hopen : (P.state = .up ∨ P.state = .degraded) ∨ P.state = .align)
  (hseq : flitSeq f = P.expect) (hdst : flitDst f = s.pkg) (hsrc : flitSrc f ≠ s.pkg) (hnew : withSeq f 0 ∉ s.heard)
  (hroom : s.agentFull (flitAddr f) = false) (hholder : s.holder (flitAddr f) = none) (hplace : s.place (flitAddr f) = some b)
  (hhome : paPkg b = s.pkg) (hpre : ∀ c ∈ s.ctxs, c.2.state ≠ .precopy)

include hP hopen hseq hdst hnew hroom hholder in
theorem execFlitReceive_request (hkind : flitKind f < 4) : execFlitReceive l f data true s =
    .next ((s.atHome l P f).performAccess none (homeAccess f (unelide f data))) :=
  execFlitReceive_next hP hopen (by omega) hseq (State.deliver_performs hdst hkind hnew hroom hholder)

include hP hopen hseq hdst hsrc hnew hroom hholder hplace hhome

theorem execFlitReceive_read (hkind : flitKind f = 0) (hb : b % 64 = 0) : ∃ t, execFlitReceive l f data true s = .next t
    ∧ t.mem = s.mem ∧ (t.link l).expect = P.expect + 1 ∧ s.Answers t f 0 4 (Mem.row s.mem b) ∧ s.Answers t f 1 7 0 := by
  have hexec := (execFlitReceive_request (data := data) hP hopen hseq hdst hnew hroom hholder (by omega)).trans
    (congrArg Host.Outcome.next (State.performAccess_read (s := s.atHome l P f) hplace hhome hkind hb))
  have htook := State.took_atHome (f := f) hP
  have hsends := htook.sends_answer hsrc (Mem.row s.mem b)
  exact ⟨_, hexec, hsends.mem, htook.expect_sends hsends, htook.answers hsrc _⟩

include hpre

theorem execFlitReceive_write (hkind : flitKind f = 1) (ha : flitAddr f % 64 = 0) (hb : b % 64 = 0) :
    ∃ t, execFlitReceive l f data true s = .next t
      ∧ Mem.row t.mem b = maskedRow (flitPay f) (Mem.row s.mem b) (unelide f data) ∧ (t.link l).expect = P.expect + 1
      ∧ s.Answers t f 0 7 0 ∧ ∀ a, a < b ∨ b + 64 ≤ a → Mem.byte t.mem a = Mem.byte s.mem a := by
  have hexec := (execFlitReceive_request (data := data) hP hopen hseq hdst hnew hroom hholder (by omega)).trans
    (congrArg Host.Outcome.next (State.performAccess_write (s := s.atHome l P f) hplace hhome hpre hkind ha hb))
  have htook := (State.took_atHome (f := f) hP).setMem
    (Mem.setRow s.mem b (maskedRow (flitPay f) (Mem.row s.mem b) (unelide f data)))
  have hsends := htook.sends_acknowledge hsrc
  refine ⟨_, hexec, ?_, htook.expect_sends hsends, htook.acknowledges hsrc, fun a ha => ?_⟩
  · exact (congrArg (Mem.row · b) hsends.mem).trans (Mem.row_setRow ..)
  · exact (congrArg (Mem.byte · a) hsends.mem).trans (Mem.byte_setNum_outside _ _ _ _ _ ha)

theorem execFlitReceive_atomic (hkind : flitKind f = 2) : ∃ t, execFlitReceive l f data true s = .next t
    ∧ Mem.num t.mem b 8 = (Mem.num s.mem b 8 + (unelide f data).toNat) % 2 ^ 64 ∧ (t.link l).expect = P.expect + 1
    ∧ s.Answers t f 0 4 (BitVec.ofNat 512 (Mem.num s.mem b 8)) ∧ s.Answers t f 1 7 0
    ∧ ∀ a, a < b ∨ b + 8 ≤ a → Mem.byte t.mem a = Mem.byte s.mem a := by
  have hexec := (execFlitReceive_request (data := data) hP hopen hseq hdst hnew hroom hholder (by omega)).trans
    (congrArg Host.Outcome.next (State.performAccess_atomic (s := s.atHome l P f) hplace hhome hpre hkind))
  have htook := (State.took_atHome (f := f) hP).setMem
    (Mem.setNum s.mem b ((Mem.num s.mem b 8 + (unelide f data).toNat % 2 ^ 64) % 2 ^ 64) 8)
  have hsends := htook.sends_answer hsrc (BitVec.ofNat 512 (Mem.num s.mem b 8))
  obtain ⟨hanswer, hack⟩ := htook.answers hsrc (BitVec.ofNat 512 (Mem.num s.mem b 8))
  refine ⟨_, hexec, ?_, htook.expect_sends hsends, hanswer, hack, fun a ha => ?_⟩
  · refine (congrArg (Mem.num · b 8) hsends.mem).trans ((Mem.num_setNum ..).trans ?_)
    rw [Nat.add_mod_mod]
    exact Nat.mod_mod _ _
  · exact (congrArg (Mem.byte · a) hsends.mem).trans (Mem.byte_setNum_outside _ _ _ _ _ ha)

theorem execFlitReceive_signal (hkind : flitKind f = 3) : ∃ t, execFlitReceive l f data true s = .next t
    ∧ Mem.num t.mem b 8 = (Mem.num s.mem b 8 + (flitPay f).toNat) % 2 ^ 64 ∧ (t.link l).expect = P.expect + 1
    ∧ s.Answers t f 0 7 0 ∧ ∀ a, a < b ∨ b + 8 ≤ a → Mem.byte t.mem a = Mem.byte s.mem a := by
  have hexec := (execFlitReceive_request (data := data) hP hopen hseq hdst hnew hroom hholder (by omega)).trans
    (congrArg Host.Outcome.next (State.performAccess_signal (s := s.atHome l P f) hplace hhome hpre hkind))
  have htook := (State.took_atHome (f := f) hP).setMem
    (Mem.setNum s.mem b ((Mem.num s.mem b 8 + (flitPay f).toNat) % 2 ^ 64) 8)
  have hsends := htook.sends_acknowledge hsrc
  refine ⟨_, hexec, ?_, htook.expect_sends hsends, htook.acknowledges hsrc, fun a ha => ?_⟩
  · refine (congrArg (Mem.num · b 8) hsends.mem).trans ((Mem.num_setNum ..).trans ?_)
    exact Nat.mod_mod _ _
  · exact (congrArg (Mem.byte · a) hsends.mem).trans (Mem.byte_setNum_outside _ _ _ _ _ ha)

end

end Sys2Proof.Machine
end

section
/-! PROOFS. Answers that come back, and the states of a link (22_link.md, R351 to R354, R357): what an answer changes, what a link
that leaves UP and DEGRADED keeps, the lanes that are left, and the LINK commands. -/

namespace Sys2Proof.Machine

/-! ### Answers and acknowledgements of this agent's accesses -/

section
variable {s : State} {f : BitVec 256} {r : Remote}
  (hfind : s.remotes.find? (fun r => r.itag = flitTag f) = some r) (horig : r.orig = none)
include hfind horig

/-- An answer is kept for the access that waits for it. -/
theorem State.answered_answer (hkind : flitKind f = 4) (hwho : ¬ (r.who = .agent ∧ r.kind = 0)) (data : Row) :
    s.answered f data = { s with remotes := s.remotes.map (fun (x : Remote) => if x.itag = r.itag
      then { x with back := some data, asid := if x.kind = 0 then none else x.asid } else x) } := by
  unfold State.answered
  rw [hfind]
  dsimp only
  rw [horig]
  dsimp only
  rw [if_pos hkind, if_neg hwho]

/-- An acknowledgement ends a write or a signal. -/
theorem State.answered_acknowledgement (hkind : flitKind f ≠ 4) (hwrite : r.kind ≠ 0) (hwho : ∀ q, r.who ≠ .note q)
    (data : Row) : s.answered f data = { s with remotes := s.remotes.filter (fun x => x.itag != r.itag) } := by
  unfold State.answered
  rw [hfind]
  dsimp only
  rw [horig]
  dsimp only
  rw [if_neg hkind, if_neg hwrite]
  split
  · next q hq => exact absurd hq (hwho q)
  · rfl

end

theorem execRemoteAck_access {s : State} {tag : BitVec 16} {r : Remote}
    (hfind : s.remotes.find? (fun r => r.itag = tag) = some r) (horig : r.orig = none) (hwrite : r.kind ≠ 0)
    (hwho : ∀ q, r.who ≠ .note q) (l : Nat) : execRemoteAck l (2 ^ 16 + tag.toNat) s =
      .next { s with remotes := s.remotes.filter (fun x => x.itag != tag) } := by
  have htag : flitTag (headFlit 0 (s.link l).peer s.pkg 0 (BitVec.ofNat 16 (2 ^ 16 + tag.toNat)) 7 0) = tag := by
    rw [flitTag_headFlit _ _ _ _ _ _ (by decide)]
    exact BitVec.eq_of_toNat_eq (by rw [BitVec.toNat_ofNat, Nat.add_mod_left, Nat.mod_eq_of_lt tag.isLt])
  have hkind : flitKind (headFlit 0 (s.link l).peer s.pkg 0 (BitVec.ofNat 16 (2 ^ 16 + tag.toNat)) 7 0) ≠ 4 := by
    rw [flitKind_headFlit _ _ _ _ _ _ (by decide)]
    decide
  have hr : r.itag = tag := by simpa using List.find?_some hfind
  have hanswered := State.answered_acknowledgement (by rwa [htag]) horig hkind hwrite hwho 0
  rw [hr] at hanswered
  unfold execRemoteAck
  dsimp only
  rw [if_neg (by omega), hanswered]

/-! ### A link that leaves UP and DEGRADED (R353, R354) -/

theorem State.links_haFlush (s : State) (done rest : List HaReq) : (s.haFlush done rest).links = s.links := by
  induction rest generalizing s done with
  | nil => rfl
  | cons r rest ih =>
    unfold State.haFlush
    split
    · rfl
    · split
      · exact ih s _
      · split
        · rfl
        · exact (ih _ _).trans rfl

theorem State.links_haRequest (s : State) (fn unit : Nat) (arg0 arg1 : Word) (key : Nat) (who : Requester) :
    (s.haRequest fn unit arg0 arg1 key who).links = s.links := (State.links_haFlush ..).trans rfl

/-- A link that has left UP and DEGRADED: no lane is in use, and its queues are empty. -/
def Link.leaves (L : Link) (st : LState) : Link := { L with state := st, xstr := false, lanes := 0, inbox := [], unacked := [] }

theorem State.link_leaveLink (s : State) (l : Nat) (st : LState) :
    ((s.leaveLink l st).link l).state = st ∧ ((s.leaveLink l st).link l).errc = (s.link l).errc := by
  have hset : (s.setLink l ((s.link l).leaves st)).link l = (s.link l).leaves st := State.link_setLink_self ..
  have hsends := State.sends_unpark { s.setLink l ((s.link l).leaves st) with
    parked := (s.link l).unacked.map (fun (u : BitVec 256 × BitVec 512 × Nat) => (u.1, u.2.1)) ++ s.parked }
  exact ⟨(hsends.state l).trans (congrArg Link.state hset), ((hsends.errc l).trans (congrArg Link.errc hset)).trans rfl⟩

theorem State.link_faultLink (s : State) (l : Nat) :
    ((s.faultLink l).link l).state = .faulted ∧ ((s.faultLink l).link l).errc = satByte (s.link l).errc := by
  have key : (s.faultLink l).link l = ((s.leaveLink l .faulted).link l).errs := by
    unfold State.faultLink
    dsimp only
    split
    · unfold State.link
      rw [State.links_haRequest]
      exact State.link_setLink_self ..
    · exact State.link_setLink_self ..
  obtain ⟨hstate, herrc⟩ := s.link_leaveLink l .faulted
  rw [key]
  exact ⟨hstate, congrArg satByte herrc⟩

theorem execTrainingTimeout_late {s : State} {l : Nat} (hstate : (s.link l).state = .training)
    (hlate : Config.trainTicks < (s.chron - (s.link l).since).toNat) : execTrainingTimeout l s = .next (s.faultLink l) :=
  if_pos ⟨hstate, hlate⟩

theorem execLinkFault_fails {s : State} {l : Nat} {P : Link} (hP : (s.link l).inPeriod s.chron = P)
    (hup : P.state = .up ∨ P.state = .degraded) (hbad : (∃ u ∈ P.unacked, 16 ≤ u.2.2) ∨ 64 ≤ P.crcs) :
    execLinkFault l s = .next (s.faultLink l) := by
  unfold execLinkFault
  rw [hP]
  refine if_pos ?_
  rw [Bool.and_eq_true, Link.carries_iff, Bool.or_eq_true, List.any_eq_true, decide_eq_true_iff]
  exact ⟨hup, hbad.imp_left (fun ⟨u, hu, h16⟩ => ⟨u, hu, decide_eq_true h16⟩)⟩

/-! ### Lanes (R354) -/

theorem mem_linkLanes {v : BitVec 16} {n : Nat} : n ∈ linkLanes v ↔ v.getLsbD n = true := by
  rw [linkLanes, List.mem_filter, List.mem_range]
  exact ⟨fun h => h.2, fun h => ⟨BitVec.lt_of_getLsbD h, h⟩⟩

theorem linkLanes_sorted (v : BitVec 16) : (linkLanes v).SortedLT := (List.pairwise_lt_range.filter _).sortedLT

/-- The lanes that a link goes on with. -/
theorem linkLanes_eightLanes (v : BitVec 16) : linkLanes (eightLanes v) = (linkLanes v).take 8 := by
  have hsorted : ((linkLanes v).take 8).SortedLT := ((linkLanes_sorted v).pairwise.sublist (List.take_sublist ..)).sortedLT
  refine List.SortedLT.eq_of_mem_iff (linkLanes_sorted _) hsorted (fun n => ?_)
  have hbit : n ∈ (linkLanes v).take 8 ↔ ((((linkLanes v).take 8).map (2 ^ ·)).sum).testBit n = true := by
    rw [← Nat.mem_bitIndices, Nat.bitIndices_sum_map_two_pow hsorted]
  have hlt (h : n ∈ (linkLanes v).take 8) : n < 16 := BitVec.lt_of_getLsbD (mem_linkLanes.1 (List.mem_of_mem_take h))
  rw [mem_linkLanes, eightLanes, BitVec.getLsbD_ofNat, Bool.and_eq_true, decide_eq_true_iff, hbit]
  exact ⟨fun h => h.2, fun h => ⟨hlt (hbit.2 h), h⟩⟩

/-- The lanes without one that has failed. -/
theorem linkLanes_without (v : BitVec 16) (lane : Nat) :
    linkLanes (v &&& ~~~(BitVec.ofNat 16 (2 ^ lane))) = (linkLanes v).erase lane := by
  have hsorted : ((linkLanes v).erase lane).SortedLT := ((linkLanes_sorted v).pairwise.sublist List.erase_sublist).sortedLT
  refine List.SortedLT.eq_of_mem_iff (linkLanes_sorted _) hsorted (fun n => ?_)
  rw [mem_linkLanes, (linkLanes_sorted v).nodup.mem_erase_iff, mem_linkLanes, BitVec.getLsbD_and, BitVec.getLsbD_not,
    BitVec.getLsbD_ofNat, Nat.testBit_two_pow]
  have hlt : v.getLsbD n = true → n < 16 := BitVec.lt_of_getLsbD
  simp only [Bool.and_eq_true, Bool.not_eq_true', Bool.and_eq_false_iff, decide_eq_true_iff, decide_eq_false_iff_not]
  grind

theorem execLaneFailure_up {s : State} {l lane : Nat} (hstate : (s.link l).state = .up)
    (hlane : (s.link l).lanes.getLsbD lane = true) : ∃ m, execLaneFailure l lane s = .next (s.setLink l { s.link l with
      state := .degraded, errc := satByte (s.link l).errc, lanes := m }) ∧ m.getLsbD lane = false
        ∧ (∀ n, m.getLsbD n = true → (s.link l).lanes.getLsbD n = true)
        ∧ (linkLanes m).length = min 8 ((linkLanes (s.link l).lanes).length - 1) := by
  have hleft : linkLanes (eightLanes ((s.link l).lanes &&& ~~~(BitVec.ofNat 16 (2 ^ lane))))
      = ((linkLanes (s.link l).lanes).erase lane).take 8 := by rw [linkLanes_eightLanes, linkLanes_without]
  refine ⟨eightLanes ((s.link l).lanes &&& ~~~(BitVec.ofNat 16 (2 ^ lane))), ?_, ?_, fun n hn => ?_, ?_⟩
  · refine (if_neg ?_).trans rfl
    rw [hstate, hlane]
    decide
  · rw [← Bool.not_eq_true, ← mem_linkLanes, hleft]
    exact fun h => (linkLanes_sorted _).nodup.not_mem_erase (List.mem_of_mem_take h)
  · rw [← mem_linkLanes, hleft] at hn
    exact mem_linkLanes.1 (List.mem_of_mem_erase (List.mem_of_mem_take hn))
  · rw [hleft, List.length_take, List.length_erase_of_mem (mem_linkLanes.2 hlane)]

/-! ### Replay, training and samples (R352, R353, R356) -/

theorem execFlitReplay_up {s : State} {l : Nat} {P : Link} (hP : (s.link l).inPeriod s.chron = P)
    (hup : P.state = .up ∨ P.state = .degraded) (hunacked : P.unacked ≠ []) :
    execFlitReplay l s = .next (s.setLink l { P with
      unacked := P.unacked.map (fun u => (u.1, u.2.1, u.2.2 + 1))
      replay := BitVec.ofNat 8 (min 255 (P.replay.toNat + P.unacked.length)) }) := by
  unfold execFlitReplay
  rw [hP]
  refine if_neg ?_
  rw [(Link.carries_iff P).2 hup, List.isEmpty_iff]
  simpa using hunacked

theorem execLinkTrained_ready {s : State} {l : Nat} {lanes : BitVec 16} (hstate : (s.link l).state = .training)
    (hlanes : 12 ≤ (linkLanes lanes).length) (htime : (s.chron - (s.link l).since).toNat ≤ Config.trainTicks)
    (peer : BitVec 19) :
    execLinkTrained l lanes peer s = .next (s.setLink l { s.link l with
      state := .align, lanes := if (linkLanes lanes).length = 16 then lanes else eightLanes lanes, peer := peer
      sent := 0, expect := 0, acks := [] }) :=
  if_neg (not_or.2 ⟨not_not_intro hstate, not_or.2 ⟨Nat.not_lt.2 hlanes, Nat.not_lt.2 htime⟩⟩)

/-- A sample of a link is kept by a tract that runs, whatever else has changed than tracts. -/
theorem State.fresh_feedTracts {s u : State} (hu : ∀ n, u.tract n = s.tract n) {pcl l : Nat} (hpcl : pcl < 64)
    (hkind : tctlKind (s.tract pcl).tctl = 3) (hsrc : tctlSrc (s.tract pcl).tctl = l) (hstate : (s.tract pcl).state = .locked)
    (hheld : (s.tract pcl).held = false) (stamp v : Word) :
    ((u.feedTracts 3 l stamp v).tract pcl).fresh = (s.tract pcl).fresh ++ [(stamp, v)] := by
  have hfresh := (State.takesSample_feedTracts (s := u) (kind := 3) (src := l) hpcl (by rwa [hu]) (by rwa [hu])
    (by rw [hu]; exact .inl hstate) (by rwa [hu]) stamp v).1
  rwa [hu] at hfresh

theorem execLinkSample_up {s : State} {l : Nat} {at_ v : Word} {r : List (Word × Word)} (hinbox : (s.link l).inbox = (at_, v) :: r)
    (hup : (s.link l).state = .up ∨ (s.link l).state = .degraded) : ∃ t, execLinkSample l s = .next t
      ∧ t.link l = { s.link l with inbox := r, xstr := true } ∧ t.cores = s.cores
      ∧ ∀ pcl < 64, tctlKind (s.tract pcl).tctl = 3 → tctlSrc (s.tract pcl).tctl = l → (s.tract pcl).state = .locked →
        (s.tract pcl).held = false →
        (t.tract pcl).fresh = (s.tract pcl).fresh ++ [(at_, signLow (portWidth (s.link l).cfg) v)] := by
  have hcarries : ({ s.link l with inbox := r } : Link).carries = true := (Link.carries_iff _).2 hup
  have hexec : execLinkSample l s = .next (((s.setLink l { s.link l with inbox := r }).setLink l
      { s.link l with inbox := r, xstr := true }).feedTracts 3 l at_ (signLow (portWidth (s.link l).cfg) v)) := by
    unfold execLinkSample
    rw [hinbox]
    dsimp only
    rw [State.linkSample, State.link_setLink_self]
    exact congrArg Host.Outcome.next (if_pos hcarries)
  generalize hu : (s.setLink l { s.link l with inbox := r }).setLink l { s.link l with inbox := r, xstr := true } = u at hexec
  have hlink : u.link l = { s.link l with inbox := r, xstr := true } := by rw [← hu, State.link_setLink_self]
  have hcores : u.cores = s.cores := by rw [← hu]; rfl
  have htract (n : Nat) : u.tract n = s.tract n := by rw [← hu]; rfl
  refine ⟨_, hexec, ?_, ?_, fun pcl hpcl hkind hsrc hstate hheld => ?_⟩
  · rw [State.feedTracts_frame]
    exact hlink
  · rw [State.feedTracts_frame]
    exact hcores
  · exact State.fresh_feedTracts htract hpcl hkind hsrc hstate hheld _ _

/-! ### The LINK commands (R354, R380) -/

section
variable {s : State} {w : Word} {l act : Nat}

theorem State.linkCommand_next (hfree : bits s.helm.mbcmd 62 61 ≠ 1) (hgo : bit w 63 = true) (hop : bits w 55 48 = 7)
    (hact : bits w 31 0 = act) (harg : bits w 47 32 = l) (hl : l < 12) (k : Nat → State) :
    s.linkCommand w act k = .next ((k l).mbDone w) := by
  have hargs : linkArgs w act = true := by
    rw [linkArgs, Bool.and_eq_true, decide_eq_true_iff, decide_eq_true_iff]
    exact ⟨(congrArg (· < 12) harg).mpr hl, hact⟩
  have hbusy : ¬ (s.mbBusy = true ∨ mbOp w ≠ 7) := by
    rw [State.mbBusy, decide_eq_true_iff]
    exact not_or.2 ⟨hfree, not_not_intro hop⟩
  unfold State.linkCommand
  rw [if_neg (fun h => h.1 hact), State.withMb, if_neg hbusy, hgo, hargs, show mbArg0 w = l from harg]
  rfl

variable (hfree : bits s.helm.mbcmd 62 61 ≠ 1) (hgo : bit w 63 = true) (hop : bits w 55 48 = 7)
  (harg : bits w 47 32 = l) (hl : l < 12)
include hfree hgo hop harg hl

theorem execLinkEnable_down (hact : bits w 31 0 = 0) (hstate : (s.link l).state = .down) :
    ∃ t, execLinkEnable w s = .next t ∧ (t.link l).state = .training := by
  refine ⟨_, State.linkCommand_next hfree hgo hop hact harg hl _, ?_⟩
  rw [if_pos hstate]
  exact congrArg Link.state (State.link_setLink_self ..)

theorem execLinkRetrain_faulted (hact : bits w 31 0 = 1) (hstate : (s.link l).state = .faulted) :
    ∃ t, execLinkRetrain w s = .next t ∧ (t.link l).state = .training := by
  refine ⟨_, State.linkCommand_next hfree hgo hop hact harg hl _, ?_⟩
  rw [if_pos hstate]
  exact congrArg Link.state (State.link_setLink_self ..)

theorem execLinkDisable_any (hact : bits w 31 0 = 2) : ∃ t, execLinkDisable w s = .next t ∧ (t.link l).state = .down :=
  ⟨_, State.linkCommand_next hfree hgo hop hact harg hl _, (s.link_leaveLink l .down).1⟩

end

end Sys2Proof.Machine
end

section
/-! PROOFS. The chronometer exchange (05_tract.md, R101; 22_link.md, R355), and O52, which gathers what the links do. -/

namespace Sys2Proof.Machine

/-! ### The flit of an exchange -/

section
variable (s : State) (l : Nat) (t1 : Word)

/-- An exchange carries no data, so nothing of its flit is elided. -/
theorem markFlit_exchange {f : BitVec 256} (hkind : flitKind f = 6) (data : Row) :
    markFlit f data = f ∧ elidedOf (flitKind f) data = 0 := by
  rw [markFlit, hkind]
  exact ⟨BitVec.or_zero, rfl⟩

theorem State.stampFlit_eq : s.stampFlit l t1 = s.setLink l { s.link l with
    unacked := (s.link l).unacked ++ [(withSeq (headFlit 0 s.pkg (s.link l).peer 0 0 6 t1) (s.link l).sent, 0, 0)]
    sent := (s.link l).sent + 1 } := by
  have hkind : flitKind (headFlit 0 s.pkg (s.link l).peer 0 0 6 t1) = 6 := flitKind_headFlit _ _ _ _ _ _ (by decide)
  obtain ⟨hmark, helided⟩ := markFlit_exchange hkind 0
  unfold State.stampFlit State.sendOn
  rw [hmark, helided]
  rfl

theorem State.parentLink_stampFlit : (s.stampFlit l t1).parentLink = s.parentLink := by
  unfold State.parentLink State.stampFlit
  rw [State.Sends.route (State.sends_sendOn ..)]

end

/-! ### What an exchange does (R101, R354, R355) -/

/-- A link whose exchange was near enough: from ALIGN it comes UP, or DEGRADED with fewer lanes. -/
def Link.exchanged (L : Link) : Link :=
  if L.state ≠ .align then L else if L.lanes = 0xFFFF then { L with state := .up } else { L.errs with state := .degraded }

theorem Link.exchanged_keeps (L : Link) :
    L.exchanged.aligned = L.aligned ∧ L.exchanged.exchAt = L.exchAt ∧ L.exchanged.offset = L.offset := by
  unfold Link.exchanged
  split
  · exact ⟨rfl, rfl, rfl⟩
  · split <;> exact ⟨rfl, rfl, rfl⟩

theorem Link.exchanged_of_align {L : Link} (h : L.state = .align) :
    L.exchanged.state = if L.lanes = 0xFFFF then .up else .degraded := by
  rw [Link.exchanged, if_neg (not_not_intro h)]
  split <;> rfl

theorem Link.exchanged_of_not_align {L : Link} (h : L.state ≠ .align) : L.exchanged = L := if_pos h

/-- The state after an exchange that was near enough. -/
def State.exchangedOn (s : State) (l : Nat) (t1 : Word) (off : Int) : State :=
  (s.stampFlit l t1).setLink l
    (Link.exchanged { (s.stampFlit l t1).link l with exchAt := s.chron, aligned := true, offset := off })

section
variable {s : State} {l : Nat} {t1 t2 t3 t4 : Word}

theorem execChronExchange_not_due (h : (s.link l).exchanges s.chron = false) : execChronExchange l t1 t2 t3 t4 s = .next s :=
  if_pos (congrArg (!·) h)

variable (hdue : (s.link l).state = .align
  ∨ (((s.link l).state = .up ∨ (s.link l).state = .degraded) ∧ 1000000 ≤ (s.chron - (s.link l).exchAt).toNat))
include hdue

theorem Link.exchanges_due : (s.link l).exchanges s.chron = true := by
  rw [Link.exchanges, Bool.or_eq_true, Bool.and_eq_true, Link.carries_iff, decide_eq_true_iff, decide_eq_true_iff]
  exact hdue

/-- Too long a round trip leaves the link unaligned. -/
theorem execChronExchange_far (hfar : 4000 < roundTrip t1 t2 t3 t4) : execChronExchange l t1 t2 t3 t4 s =
    .next ((s.stampFlit l t1).setLink l { (s.stampFlit l t1).link l with exchAt := s.chron, aligned := false }) := by
  unfold execChronExchange
  rw [Link.exchanges_due hdue]
  exact if_pos hfar

theorem execChronExchange_near (hnear : roundTrip t1 t2 t3 t4 ≤ 4000) (hassist : s.assisted 5 = false) :
    execChronExchange l t1 t2 t3 t4 s = if s.parentLink = some l
      then .next { s.exchangedOn l t1 (exchangeOffset t1 t2 t3 t4) with adjust := exchangeOffset t1 t2 t3 t4 }
      else .next (s.exchangedOn l t1 (exchangeOffset t1 t2 t3 t4)) := by
  have hexec : execChronExchange l t1 t2 t3 t4 s =
      let u := s.exchangedOn l t1 (exchangeOffset t1 t2 t3 t4)
      if !decide ((s.stampFlit l t1).parentLink = some l) then .next u
      else if u.assisted 5 then .next (u.haRequest 5 l (sword (exchangeOffset t1 t2 t3 t4))
        (sword (roundTrip t1 t2 t3 t4)) l (.queue 0))
      else .next { u with adjust := exchangeOffset t1 t2 t3 t4 } := by
    unfold execChronExchange
    rw [Link.exchanges_due hdue]
    exact if_neg (not_lt.2 hnear)
  have hassist' : ¬ (s.exchangedOn l t1 (exchangeOffset t1 t2 t3 t4)).assisted 5 = true := by
    unfold State.exchangedOn
    rw [State.stampFlit_eq]
    exact Bool.eq_false_iff.1 hassist
  rw [hexec, State.parentLink_stampFlit]
  dsimp only
  by_cases hparent : s.parentLink = some l
  · rw [if_pos hparent, hparent, if_neg (by simp), if_neg hassist']
  · rw [if_neg hparent, if_pos (by simpa using hparent)]

end

/-! ### O52 -/

/-- An outcome that leaves link l as M and every other link as it was, and changes nothing but links. -/
theorem State.lands_setLink {s u : State} {r : Host.Outcome State Fault Refusal} {l : Nat} {M : Link}
    (hframe : u = { s with links := u.links }) (hother : ∀ k, k ≠ l → u.link k = s.link k) (h : r = .next (u.setLink l M)) :
    ∃ t, r = .next t ∧ t.link l = M ∧ t = { s with links := t.links } ∧ ∀ k, k ≠ l → t.link k = s.link k := by
  refine ⟨_, h, State.link_setLink_self .., ?_, fun k hk => ?_⟩
  · conv_lhs => rw [hframe]
    rfl
  · rw [State.link_setLink, if_neg hk, hother k hk]

/-- The frame that one `setLink` keeps, for what follows it on the same link. -/
theorem State.setLink_frame (s : State) (l : Nat) (M : Link) :
    s.setLink l M = { s with links := (s.setLink l M).links } ∧ ∀ k, k ≠ l → (s.setLink l M).link k = s.link k :=
  ⟨rfl, fun k hk => by rw [State.link_setLink, if_neg hk]⟩

theorem exec_chronExchange_far {s : State} {l : Nat} {t1 t2 t3 t4 : Word} (hdue : (s.link l).state = .align
      ∨ (((s.link l).state = .up ∨ (s.link l).state = .degraded) ∧ 1000000 ≤ (s.chron - (s.link l).exchAt).toNat))
    (hfar : 4000 < roundTrip t1 t2 t3 t4) : ∃ t, execChronExchange l t1 t2 t3 t4 s = .next t
      ∧ t.link l = { s.link l with
        aligned := false, exchAt := s.chron, sent := (s.link l).sent + 1
        unacked := (s.link l).unacked ++ [(withSeq (headFlit 0 s.pkg (s.link l).peer 0 0 6 t1) (s.link l).sent, 0, 0)] }
      ∧ t = { s with links := t.links } ∧ ∀ k, k ≠ l → t.link k = s.link k := by
  have hexec := execChronExchange_far hdue hfar (t1 := t1)
  rw [State.stampFlit_eq, State.link_setLink_self] at hexec
  obtain ⟨hframe, hother⟩ := State.setLink_frame s l _
  exact State.lands_setLink hframe hother hexec

theorem exec_chronExchange_near {s : State} {l : Nat} {t1 t2 t3 t4 : Word} (hdue : (s.link l).state = .align
      ∨ (((s.link l).state = .up ∨ (s.link l).state = .degraded) ∧ 1000000 ≤ (s.chron - (s.link l).exchAt).toNat))
    (hnear : roundTrip t1 t2 t3 t4 ≤ 4000) (hassist : s.assisted 5 = false) :
    ∃ t, execChronExchange l t1 t2 t3 t4 s = .next t
      ∧ (t.link l).aligned = true ∧ (t.link l).exchAt = s.chron ∧ (t.link l).offset = exchangeOffset t1 t2 t3 t4
      ∧ ((s.link l).state = .align → (t.link l).state = if (s.link l).lanes = 0xFFFF then .up else .degraded)
      ∧ ((s.link l).state ≠ .align → (t.link l).state = (s.link l).state)
      ∧ (s.parentLink ≠ some l → t.adjust = s.adjust)
      ∧ (s.parentLink = some l → t.adjust = exchangeOffset t1 t2 t3 t4) := by
  have hexec := execChronExchange_near hdue hnear hassist (t1 := t1)
  generalize hM : ({ (s.stampFlit l t1).link l with
    exchAt := s.chron, aligned := true, offset := exchangeOffset t1 t2 t3 t4 } : Link) = M
  have hlink : (s.exchangedOn l t1 (exchangeOffset t1 t2 t3 t4)).link l = M.exchanged := by
    rw [State.exchangedOn, State.link_setLink_self, hM]
  have hadjust : (s.exchangedOn l t1 (exchangeOffset t1 t2 t3 t4)).adjust = s.adjust := rfl
  rw [State.stampFlit_eq, State.link_setLink_self] at hM
  have hstate : M.state = (s.link l).state := by rw [← hM]
  have hlanes : M.lanes = (s.link l).lanes := by rw [← hM]
  obtain ⟨haligned, hexchAt, hoffset⟩ := M.exchanged_keeps
  have hclauses (t : State) (ht : t.link l = M.exchanged) :
      (t.link l).aligned = true ∧ (t.link l).exchAt = s.chron ∧ (t.link l).offset = exchangeOffset t1 t2 t3 t4
      ∧ ((s.link l).state = .align → (t.link l).state = if (s.link l).lanes = 0xFFFF then .up else .degraded)
      ∧ ((s.link l).state ≠ .align → (t.link l).state = (s.link l).state) := by
    rw [ht, haligned, hexchAt, hoffset, ← hlanes, ← hstate]
    refine ⟨by rw [← hM], by rw [← hM], by rw [← hM], Link.exchanged_of_align, fun h => ?_⟩
    rw [Link.exchanged_of_not_align h]
  by_cases hparent : s.parentLink = some l
  · obtain ⟨h1, h2, h3, h4, h5⟩ := hclauses
      { s.exchangedOn l t1 (exchangeOffset t1 t2 t3 t4) with adjust := exchangeOffset t1 t2 t3 t4 } hlink
    exact ⟨_, hexec.trans (if_pos hparent), h1, h2, h3, h4, h5, fun h => absurd hparent h, fun _ => rfl⟩
  · obtain ⟨h1, h2, h3, h4, h5⟩ := hclauses _ hlink
    exact ⟨_, hexec.trans (if_neg hparent), h1, h2, h3, h4, h5, fun _ => hadjust, fun h => absurd h hparent⟩

end Sys2Proof.Machine

namespace Sys2Proof
open Machine

/-- Settles O52: each clause is one of the lemmas above about the instruction that it names. -/
theorem linksCarryAndRecover : Obligations.LinksCarryAndRecover := by
  unfold Obligations.LinksCarryAndRecover
  intro s l f data w L P up becomes lands state cmd taken answers data'
  have hP : (s.link l).inPeriod s.chron = P := rfl
  have hreceive (ok : Bool) : exec (.flitReceive l f data ok) s = execFlitReceive l f data ok s := rfl
  have hack (tag : Nat) : exec (.remoteAck l tag) s = execRemoteAck l tag s := rfl
  refine ⟨fun hopen => ⟨?bad, ?other, ?sample, ?exchange, ?heard, ?served, ?answer⟩, ?replay, ?ack, ?access, ?inbox, ?trained,
    ?timeout, ?lane, ?fault, ?command, ?idle, ?due⟩
  case bad => exact fun ok hbad => (hreceive ok).trans (execFlitReceive_bad hP hopen ok hbad)
  case other =>
    exact fun hkind hne => ⟨fun hold => (hreceive true).trans (execFlitReceive_stale hP hopen hkind hne hold),
      fun hnew => (hreceive true).trans (execFlitReceive_early hP hopen hkind hne hnew)⟩
  case sample =>
    intro hkind hseq
    obtain ⟨hframe, hother⟩ := State.setLink_frame s l (P.takes f)
    have hnext := execFlitReceive_next (data := data) hP hopen (by omega) hseq (State.deliver_sample hkind)
    rw [State.link_setLink_self] at hnext
    exact State.lands_setLink hframe hother ((hreceive true).trans hnext)
  case exchange =>
    intro hkind hseq
    exact State.lands_setLink (u := s) rfl (fun _ _ => rfl) ((hreceive true).trans
      (execFlitReceive_next hP hopen (by omega) hseq (State.deliver_exchange hkind)))
  case heard =>
    intro hkind hseq hdst hheard
    exact State.lands_setLink (u := s) rfl (fun _ _ => rfl) ((hreceive true).trans
      (execFlitReceive_next hP hopen (by omega) hseq (State.deliver_heard hdst hkind hheard)))
  case served =>
    intro b hseq hdst hsrc hnew hroom hholder hplace hhome hpre
    exact ⟨execFlitReceive_read hP hopen hseq hdst hsrc hnew hroom hholder hplace hhome,
      execFlitReceive_write hP hopen hseq hdst hsrc hnew hroom hholder hplace hhome hpre,
      execFlitReceive_atomic hP hopen hseq hdst hsrc hnew hroom hholder hplace hhome hpre,
      execFlitReceive_signal hP hopen hseq hdst hsrc hnew hroom hholder hplace hhome hpre⟩
  case answer =>
    intro r hkind hseq hdst hfind horig hwho
    have hanswered := State.answered_answer (s := s.setLink l (P.takes f)) hfind horig hkind hwho (unelide f data)
    have hdeliver := (State.deliver_answer (s := s.setLink l (P.takes f)) (l := l) hdst (.inl hkind)).trans
      (congrArg some hanswered)
    exact ⟨_, (hreceive true).trans (execFlitReceive_next hP hopen (by omega) hseq hdeliver), State.link_setLink_self .., rfl⟩
  case replay => exact fun hup hunacked => execFlitReplay_up hP hup hunacked
  case ack => exact fun tag htag => (hack tag).trans (if_pos htag)
  case access => exact fun tag r hfind horig hkind hwho => (hack _).trans (execRemoteAck_access hfind horig hkind hwho l)
  case inbox => exact fun at_ v r hinbox hup => execLinkSample_up hinbox hup
  case trained => exact fun lanes peer hstate hlanes htime => execLinkTrained_ready hstate hlanes htime peer
  case timeout => exact fun hstate hlate => ⟨_, execTrainingTimeout_late hstate hlate, s.link_faultLink l⟩
  case lane => exact fun lane _ hstate hlane => execLaneFailure_up hstate hlane
  case fault => exact fun hup hbad => ⟨_, execLinkFault_fails hP hup hbad, (s.link_faultLink l).1⟩
  case command =>
    intro hl
    refine ⟨?_, ?_, ?_⟩
    · rintro ⟨hfree, hgo, hop, hact, harg⟩
      exact execLinkEnable_down hfree hgo hop harg hl hact
    · rintro ⟨hfree, hgo, hop, hact, harg⟩
      exact execLinkRetrain_faulted hfree hgo hop harg hl hact
    · rintro ⟨hfree, hgo, hop, hact, harg⟩
      exact execLinkDisable_any hfree hgo hop harg hl hact
  case idle => exact fun _ _ _ _ hidle => execChronExchange_not_due hidle
  case due => exact fun t1 t2 t3 t4 hdue => ⟨exec_chronExchange_far hdue, exec_chronExchange_near hdue⟩

end Sys2Proof
end

section
/-! PROOFS. The compares (07_control.md, R156): O6. One lemma says which register numbers a word of major cmp may name, so
that any other is ILLEGAL; what a compare writes is what its one shared meaning writes. -/

namespace Sys2Proof.Machine

/-! ### The words of major cmp -/

/-- A word of major cmp decodes by the major's own table and the checks of its fields (R70, R71). -/
theorem decode_cmp {w : BitVec 32} (htop : w.extractLsb' 23 9 = 0x1C5#9) :
    decode (Encoded.word w).bytes = .ofInstr 4 ((decCmp w).filter Instr.wf) := by
  have hmark : w.extractLsb' 29 3 = 0x7#3 := by
    rw [slice_eq_iff] at htop ⊢
    simp only [BitVec.reduceToNat, Nat.reducePow] at htop ⊢
    omega
  have hmaj : (w.extractLsb' 23 6).toNat = 0x05 := by
    rw [slice_eq_iff] at htop
    rw [toNat_slice]
    simp only [BitVec.reduceToNat, Nat.reducePow] at htop ⊢
    omega
  have hhead : isHeader w = false := by rw [isHeader, htop]; rfl
  rw [decode_word, if_pos hmark, hhead, if_neg Bool.false_ne_true, decodeWord, if_pos hmark, decMajor, hmaj]
  rfl

/-- The register numbers that a word n of major cmp may name: c0 to c3, s0 to s7 for `cmp.stg`, and 0 where the form at its
FN has no operand (R156). -/
structure CmpRegsOk (n : Nat) : Prop where
  dest : n / 2 ^ 16 % 2 ^ 5 < 4
  conds : 8 ≤ n % 2 ^ 6 → n % 2 ^ 6 < 12 → n / 2 ^ 11 % 2 ^ 5 < 4 ∧ n / 2 ^ 6 % 2 ^ 5 < 4
  stage : n % 2 ^ 6 = 12 → n / 2 ^ 11 % 2 ^ 5 < 8 ∧ n / 2 ^ 6 % 2 ^ 5 = 0

theorem CmpRegsOk.of_decCmp {w : BitVec 32} {i : Instr} (h : decCmp w = some i) (hwf : i.wf = true) :
    CmpRegsOk w.toNat := by
  simp only [decCmp, toNat_slice, slice_eq_iff, Nat.pow_zero, Nat.div_one] at h
  split at h
  case h_13 hfn =>
    split at h
    case isFalse => cases h
    case isTrue hb =>
      cases h
      simp only [Instr.wf, toNat_slice, Bool.and_eq_true, decide_eq_true_eq] at hwf
      exact ⟨hwf.1, by omega, fun _ => ⟨hwf.2, hb⟩⟩
  case h_14 => cases h
  all_goals
    cases h
    simp only [Instr.wf, toNat_slice, Bool.and_eq_true, decide_eq_true_eq] at hwf
    constructor <;> omega

theorem illegalWord_cmp {n : Nat} (hmaj : n / 2 ^ 23 = 0x1C5) (h : ¬CmpRegsOk n) : IllegalWord n := by
  have hn : (BitVec.ofNat 32 n).toNat = n := Nat.mod_eq_of_lt (by omega)
  have htop : (BitVec.ofNat 32 n).extractLsb' 23 9 = 0x1C5#9 := slice_eq_iff.2 (by rw [hn, hmaj]; rfl)
  have hnone : (decCmp (BitVec.ofNat 32 n)).filter Instr.wf = none :=
    Option.filter_eq_none_iff.2 fun i hi hwf => h (hn ▸ .of_decCmp hi hwf)
  rw [IllegalWord, decode_cmp htop, hnone]
  rfl

/-! ### What a compare writes -/

theorem not_sLt (a b : Word) : (!sLt a b) = decide (b.toInt ≤ a.toInt) :=
  (decide_not ..).symm.trans (decide_eq_decide.2 Int.not_lt)

theorem not_uLt (a b : Word) : (!uLt a b) = decide (b.toNat ≤ a.toNat) :=
  (decide_not ..).symm.trans (decide_eq_decide.2 Nat.not_lt)

section
variable {i : Instr} {s : State} {d a b : BitVec 5} {v : Bool} (hd : d.toNat < 4)
include hd

theorem GivesC.of_opCmp (f : Word → Word → Bool) (hi : exec i s = s.opCmp f d a b) (hv : f (s.rx a) (s.rx b) = v) :
    GivesC i s d.toNat v := .of_wc hd (hv ▸ hi)

theorem GivesC.of_opCond (f : Bool → Bool → Bool) (hi : exec i s = s.opCond f d a b)
    (hv : f (s.me.rc a.toNat) (s.me.rc b.toNat) = v) : GivesC i s d.toNat v := .of_wc hd (hv ▸ hi)

end

/-- Settles O6: the table of major cmp with the checks of its fields, and each form's meaning as a truth value. -/
theorem compareWords : Obligations.CompareWords := by
  refine ⟨?forms, fun n hn f hf => ⟨fun h => ?dest, fun h8 h12 h => ⟨?left, ?right⟩,
    fun h12 => ⟨fun h => ?stage, fun h => ?zero⟩⟩, fun s i d a b hd => ?meanings⟩
  case forms =>
    unfold MajorForms
    decide +kernel
  case dest => exact illegalWord_cmp (by omega) fun ok => by have := ok.dest; omega
  case left => exact illegalWord_cmp (by omega) fun ok => by have := ok.conds; omega
  case right => exact illegalWord_cmp (by omega) fun ok => by have := ok.conds; omega
  case stage => exact illegalWord_cmp (by omega) fun ok => by have := ok.stage; omega
  case zero => exact illegalWord_cmp (by omega) fun ok => by have := ok.stage; omega
  case meanings =>
    exact ⟨.of_opCmp hd (· == ·) rfl rfl, .of_opCmp hd (· != ·) rfl (decide_not ..).symm, .of_opCmp hd sLt rfl rfl,
      .of_opCmp hd (fun x y => !sLt x y) rfl (not_sLt ..), .of_opCmp hd uLt rfl rfl,
      .of_opCmp hd (fun x y => !uLt x y) rfl (not_uLt ..), .of_opCmp hd tst rfl (decide_not ..).symm,
      .of_opCmp hd (fun x y => !tst x y) rfl (Bool.not_not _), .of_opCond hd (· && ·) rfl rfl,
      .of_opCond hd (· || ·) rfl rfl, .of_opCond hd (fun p q => p && !q) rfl rfl, .of_opCond hd (· != ·) rfl rfl,
      .of_wc hd rfl⟩

end Sys2Proof.Machine
end

section
/-! PROOFS. The branch words and their transfers (07_control.md, R157 to R162): O11. The two shared meanings `setTarget` and
`go` each complete or fault by one check; a transfer leaves blocks from the innermost on, each pipelined one giving back its
SPW, so that of the blocks left the outermost pipelined one decides. -/

namespace Sys2Proof.Machine

/-! ### The words of major br -/

theorem State.targetOk_iff (s : State) (t : Int) :
    s.targetOk t = true ↔ t % 2 = 0 ∧ 0 ≤ t ∧ t < (s.code s.cur.core).length := by
  simp [State.targetOk, and_assoc]

section
variable {i : Instr} {s : State} {d : BitVec 2} {t : Int} {take : Bool} {k : Nat}

theorem GivesMe.of_setTarget (hi : exec i s = s.setTarget d t)
    (h : t % 2 = 0 ∧ 0 ≤ t ∧ t < (s.code s.cur.core).length) : GivesMe i s (s.me.wt d (BitVec.ofInt 64 t)) :=
  .of_modMe (hi.trans (if_pos ((s.targetOk_iff t).2 h)))

theorem TakesFault.of_setTarget (hk : s.myCore.kernel = some k) (hK : (s.kernel k).Faultable)
    (hi : exec i s = s.setTarget d t) (h : ¬(t % 2 = 0 ∧ 0 ≤ t ∧ t < (s.code s.cur.core).length)) :
    TakesFault i s k .badTarget 0 :=
  .of_streamFault hk hK (hi.trans (if_neg (mt (s.targetOk_iff t).1 h)))

theorem GivesMe.of_go (hi : exec i s = s.go d take) (h : s.slotsFit = true) :
    GivesMe i s { s.me with window := some { slots := 3, take := take, dest := (s.me.rt d).toNat } } :=
  .of_modMe (hi.trans (if_pos h))

theorem TakesFault.of_go (hk : s.myCore.kernel = some k) (hK : (s.kernel k).Faultable) (hi : exec i s = s.go d take)
    (h : s.slotsFit = false) : TakesFault i s k .branchSlot 0 :=
  .of_streamFault hk hK (hi.trans (if_neg (by simp [h])))

end

/-! ### The delay window -/

section
variable {m : Stream} (e : Eng) {w : Window} (hw : m.window = some w) (hr : m.repOn = false)
include hw hr

/-- Before the last slot control goes on in sequence, with one slot fewer to come (R158). -/
theorem Stream.complete_of_slot (h : 2 ≤ w.slots) :
    m.complete e = ({ m with busy := m.busy + 1, wait := .none, pc := m.npc,
                             window := some { w with slots := w.slots - 1 } } : Stream).seqEnd e m.blocks := by
  simp [Stream.complete, hr, hw, Nat.not_le.2 h]

/-- Behind the last slot of a transfer that is taken, no iteration ends (R161, R162). -/
theorem Stream.complete_of_taken (h : w.slots ≤ 1) (ht : w.take = true) :
    m.complete e =
      ({ m with busy := m.busy + 1, wait := .none, window := none } : Stream).transfer w.dest m.blocks := by
  simp [Stream.complete, hr, hw, h, ht]

/-- The last slot of a transfer that is not taken completes like a word outside a window (R158). -/
theorem Stream.complete_of_untaken (h : w.slots ≤ 1) (ht : w.take = false) :
    m.complete e = ({ m with window := none } : Stream).complete e := by
  simp [Stream.complete, hr, hw, h, ht]

end

/-! ### The blocks that a transfer leaves (R161) -/

/-- The block saved the SPW of its stream (R58). -/
def Block.isPipelined (b : Block) : Bool :=
  match b.kind with
  | .pipelined _ => true
  | _ => false

/-- The SPW once the blocks of l, innermost first, are left. -/
def spwBehind (spw : BitVec 8) (l : List Block) : BitVec 8 :=
  ((l.reverse.find? Block.isPipelined).map (fun b => b.spw)).getD spw

theorem spwBehind_cons (spw : BitVec 8) (b : Block) (l : List Block) :
    spwBehind spw (b :: l) = spwBehind (if b.isPipelined then b.spw else spw) l := by
  unfold spwBehind
  rw [List.reverse_cons, List.find?_append]
  cases l.reverse.find? Block.isPipelined with
  | some o => rfl
  | none => by_cases hb : b.isPipelined <;> simp [hb]

theorem Stream.leave_eq (m : Stream) (b : Block) :
    m.leave b = { m with spw := if b.isPipelined then b.spw else m.spw } := by
  unfold Stream.leave Block.isPipelined
  cases b.kind <;> rfl

/-- A transfer leaves the blocks whose bodies do not hold its target, up to the first that does. -/
theorem Stream.transfer_eq (m : Stream) (dest : Nat) (l : List Block) : ∃ j ≤ l.length,
    m.transfer dest l = { m with blocks := l.drop j, pc := dest, spw := spwBehind m.spw (l.take j) }
    ∧ (∀ b ∈ l.take j, ¬(b.body ≤ dest ∧ dest < b.stop)) ∧ ∀ b ∈ (l.drop j).head?, b.body ≤ dest ∧ dest < b.stop := by
  induction l generalizing m with
  | nil => exact ⟨0, le_rfl, rfl, by simp, by simp⟩
  | cons b rest ih =>
    by_cases hin : b.body ≤ dest ∧ dest < b.stop
    · exact ⟨0, Nat.zero_le _, if_pos hin, by simp, by simpa using hin⟩
    · obtain ⟨j, hj, heq, hleft, hhead⟩ := ih (m.leave b)
      refine ⟨j + 1, Nat.succ_le_succ hj, ?_, List.forall_mem_cons.2 ⟨hin, hleft⟩, hhead⟩
      rw [Stream.transfer, if_neg hin, heq, m.leave_eq, List.take_succ_cons, spwBehind_cons]
      rfl

/-- Settles O11: the checks of `setTarget` and of `go` pass or fault; what completes in a window is read off its slots; a
transfer leaves blocks one by one. -/
theorem branchWordsAndTheirTransfers : Obligations.BranchWordsAndTheirTransfers := by
  refine ⟨?words, fun m e w hw hr => ⟨m.complete_of_taken e hw hr,
    fun hend => ⟨fun h => ?slot, fun h ht => ?untaken⟩, m.complete_of_untaken e hw hr⟩, Stream.transfer_eq⟩
  case slot => rw [m.complete_of_slot e hw hr h, Stream.seqEnd_inside _ _ hend]
  case untaken =>
    rw [m.complete_of_untaken e hw hr h ht, Stream.complete_of_plain (m := { m with window := none }) e rfl hr rfl,
      Stream.seqEnd_inside _ _ hend]
  case words =>
    intro s i d a t c k size rel abs held
    have hprep : exec (.brPrep i t k) s = s.setTarget t rel :=
      congrArg (fun z => s.setTarget t (s.me.pc + z)) (Int.mul_comm ..)
    have hprepx : exec (.brPrepx i d a) s = s.setTarget (d.setWidth 2) abs := rfl
    have habs : 0 ≤ abs := Int.natCast_nonneg _
    have hword : BitVec.ofInt 64 abs = s.rx a := by rw [BitVec.ofInt_natCast, BitVec.ofNat_toNat, BitVec.setWidth_eq]
    refine ⟨fun h2 h0 hsize => .of_setTarget hprep ⟨h2, h0, hsize⟩,
      fun h2 hsize => hword ▸ .of_setTarget hprepx ⟨h2, habs, hsize⟩, .of_wx rfl,
      fun h => ⟨.of_go rfl h, .of_go rfl h, .of_go rfl h, .of_go rfl h, .of_go rfl h, .of_go rfl h⟩,
      fun K hk hK => ⟨.of_setTarget hk hK hprep, fun h => .of_setTarget hk hK hprepx fun hok => h ⟨hok.1, hok.2.2⟩,
        fun h => ⟨.of_go hk hK rfl h, .of_go hk hK (take := !_) rfl h, .of_go hk hK rfl h, .of_go hk hK rfl h,
          .of_go hk hK (take := !_) rfl h, .of_go hk hK rfl h⟩⟩⟩

end Sys2Proof.Machine
end

section
/-! PROOFS. The integer words (08_vector.md, R172 to R176): O1 to O4. Reading a number as a signed or unsigned integer of a width
is reading it as a bit vector of that width, which turns each result into the operation of the statement. -/

namespace Sys2Proof.Machine

/-! ### Patterns and integers of a width -/

theorem bitsInt_signed (w p : Nat) : bitsInt w true p = (BitVec.ofNat w p).toInt := by
  rw [bitsInt, BitVec.toInt_eq_toNat_cond, BitVec.toNat_ofNat]
  cases w with
  | zero => simp [Nat.mod_one]
  | succ w =>
    have hlt := Nat.mod_lt p (Nat.two_pow_pos (w + 1))
    rw [Nat.add_sub_cancel, pow_succ] at *
    split <;> split <;> simp_all <;> omega

theorem bitsInt_unsigned (w p : Nat) : bitsInt w false p = (BitVec.ofNat w p).toNat := by
  simp [bitsInt]

theorem ofNat_intBits (w : Nat) (v : Int) : BitVec.ofNat w (intBits w v) = BitVec.ofInt w v := by
  apply BitVec.eq_of_toNat_eq
  have hpos : (0 : Int) < ((2 ^ w : Nat) : Int) := by exact_mod_cast Nat.two_pow_pos w
  have hlt : (v % ((2 ^ w : Nat) : Int)).toNat < 2 ^ w := by
    have := Int.emod_lt_of_pos v hpos
    have := Int.emod_nonneg v hpos.ne'
    omega
  rw [BitVec.toNat_ofNat, intBits, Nat.mod_eq_of_lt hlt, BitVec.toNat_ofInt]

theorem sextN_eq (w : Nat) (v : Word) : sextN w v = (v.setWidth w).signExtend 64 := by
  rw [sextN, bitsInt_signed, BitVec.ofNat_toNat]
  rfl

theorem zextN_eq (w : Nat) (v : Word) : zextN w v = (v.setWidth w).setWidth 64 := by
  apply BitVec.eq_of_toNat_eq
  simp [zextN, word]

theorem bits_low (w : Word) (hi : Nat) : bits w hi 0 = w.toNat % 2 ^ (hi + 1) := by
  simp [bits]

/-! ### Results of `ia` -/

theorem mulHigh_eq (a b : Word) :
    mulHigh a b = ((a.signExtend 128 * b.signExtend 128) >>> 64).setWidth 64 := by
  apply BitVec.eq_of_toNat_eq
  rw [BitVec.signExtend, BitVec.signExtend, ← BitVec.ofInt_mul, mulHigh, sword]
  simp only [BitVec.toNat_setWidth, BitVec.toNat_ushiftRight, BitVec.toNat_ofInt, Nat.shiftRight_eq_div_pow]
  generalize a.toInt * b.toInt = p
  omega

theorem mulHighU_eq (a b : Word) : mulHighU a b = ((a.setWidth 128 * b.setWidth 128) >>> 64).setWidth 64 := by
  apply BitVec.eq_of_toNat_eq
  have ha := a.isLt
  have hb := b.isLt
  simp only [mulHighU, word, BitVec.toNat_setWidth, BitVec.toNat_ushiftRight, BitVec.toNat_ofNat, BitVec.toNat_mul,
    Nat.shiftRight_eq_div_pow, Nat.mod_eq_of_lt (show a.toNat < 2 ^ 128 by omega),
    Nat.mod_eq_of_lt (show b.toNat < 2 ^ 128 by omega)]
  generalize a.toNat * b.toNat = p
  omega

theorem ite_sLt (a b x y : Word) : (if sLt b a then x else y) = if a.toInt ≤ b.toInt then y else x := by
  have h := not_sLt b a
  split <;> simp_all

theorem ite_uLt (a b x y : Word) : (if uLt b a then x else y) = if a.toNat ≤ b.toNat then y else x := by
  have h := not_uLt b a
  split <;> simp_all

/-- Of two equal registers, either is the larger. -/
theorem max_sLt (a b : Word) : (if sLt a b then b else a) = if a.toInt ≤ b.toInt then b else a := by
  rw [ite_sLt]
  obtain h | h | h := lt_trichotomy a.toInt b.toInt
  · rw [if_neg (not_le.2 h), if_pos h.le]
  · rw [BitVec.eq_of_toInt_eq h]
  · rw [if_pos h.le, if_neg (not_le.2 h)]

theorem max_uLt (a b : Word) : (if uLt a b then b else a) = if a.toNat ≤ b.toNat then b else a := by
  rw [ite_uLt]
  obtain h | h | h := lt_trichotomy a.toNat b.toNat
  · rw [if_neg (not_le.2 h), if_pos h.le]
  · rw [BitVec.eq_of_toNat_eq h]
  · rw [if_pos h.le, if_neg (not_le.2 h)]

section
variable {i : Instr} {s : State} {d a b : BitVec 5} {v : Word}

theorem GivesX.of_op2 (f : Word → Word → Word) (hi : exec i s = s.op2 f d a b) (hv : f (s.rx a) (s.rx b) = v) :
    GivesX i s d v := .of_wx (hv ▸ hi)

theorem GivesX.of_op1 (f : Word → Word) (hi : exec i s = s.op1 f d a) (hv : f (s.rx a) = v) : GivesX i s d v :=
  .of_wx (hv ▸ hi)

end

/-- Settles O1: each word is one of the two shared meanings of major ia, at the operation of the statement. -/
theorem integerWordsGiveTheirResults : Obligations.IntegerWordsGiveTheirResults := by
  intro s i d a b
  exact ⟨.of_op2 (· + ·) rfl rfl, .of_op2 (· - ·) rfl rfl, .of_op2 (· &&& ·) rfl rfl, .of_op2 (· ||| ·) rfl rfl,
    .of_op2 (· ^^^ ·) rfl rfl, .of_op1 id rfl rfl, .of_op2 (fun x y => x &&& ~~~y) rfl rfl,
    .of_op2 (fun x y => x ||| ~~~y) rfl rfl,
    .of_op2 (· * ·) rfl (by rw [BitVec.ofInt_mul, BitVec.ofInt_toInt, BitVec.ofInt_toInt]),
    .of_op2 mulHigh rfl (mulHigh_eq ..), .of_op2 mulHighU rfl (mulHighU_eq ..),
    .of_op2 (fun x y => if sLt y x then y else x) rfl (ite_sLt ..),
    .of_op2 (fun x y => if sLt x y then y else x) rfl (max_sLt ..),
    .of_op2 (fun x y => if uLt y x then y else x) rfl (ite_uLt ..),
    .of_op2 (fun x y => if uLt x y then y else x) rfl (max_uLt ..),
    .of_op2 (fun x y => sword (satInt 64 true (x.toInt + y.toInt))) rfl rfl,
    .of_op2 (fun x y => sword (satInt 64 true (x.toInt - y.toInt))) rfl rfl,
    .of_op1 (sextN 8) rfl (sextN_eq ..), .of_op1 (sextN 16) rfl (sextN_eq ..), .of_op1 (sextN 32) rfl (sextN_eq ..),
    .of_op1 (zextN 8) rfl (zextN_eq ..), .of_op1 (zextN 16) rfl (zextN_eq ..), .of_op1 (zextN 32) rfl (zextN_eq ..)⟩

/-! ### Divisions (R173) -/

theorem divS_zero {a b : Word} (h : b = 0) : divS a b = -1 := if_pos h

theorem divS_eq_sdiv {a b : Word} (h : b ≠ 0) : divS a b = a.sdiv b := by
  apply BitVec.eq_of_toInt_eq
  rw [divS, if_neg h, sword, BitVec.toInt_ofInt, BitVec.toInt_sdiv]

theorem remS_eq_srem (a b : Word) : remS a b = a.srem b := by
  apply BitVec.eq_of_toInt_eq
  rw [remS]
  split
  · simp_all
  · have hlo := BitVec.toInt_srem a b ▸ BitVec.le_toInt (a.srem b)
    have hhi := BitVec.toInt_srem a b ▸ BitVec.toInt_lt (x := a.srem b)
    rw [sword, BitVec.toInt_ofInt, BitVec.toInt_srem, Int.bmod_eq_of_le (by omega) (by omega)]

theorem toNat_divU (a b : Word) : (divU a b).toNat = if b.toNat = 0 then 2 ^ 64 - 1 else a.toNat / b.toNat := by
  have hiff : b = 0 ↔ b.toNat = 0 := BitVec.toNat_eq
  have hle := Nat.div_le_self a.toNat b.toNat
  have hlt := a.isLt
  rw [divU]
  simp only [hiff]
  split
  · rfl
  · exact Nat.mod_eq_of_lt (by omega)

theorem toNat_remU (a b : Word) : (remU a b).toNat = if b.toNat = 0 then a.toNat else a.toNat % b.toNat := by
  have hiff : b = 0 ↔ b.toNat = 0 := BitVec.toNat_eq
  have hle := Nat.mod_le a.toNat b.toNat
  have hlt := a.isLt
  rw [remU]
  simp only [hiff]
  split
  · rfl
  · exact Nat.mod_eq_of_lt (by omega)

/-- A quotient rounded toward zero is 0 or has the sign of the product. -/
theorem tdiv_eq_zero_or_sign (a b : Int) : a.tdiv b = 0 ∨ (a.tdiv b).sign = (a * b).sign := by
  rw [Int.sign_mul, ← Int.sign_eq_zero_iff_zero, Int.sign_tdiv]
  exact (em _).imp (if_pos ·) (if_neg ·)

/-- A remainder is 0 or has the sign of the dividend. -/
theorem tmod_eq_zero_or_sign (a b : Int) : a.tmod b = 0 ∨ (a.tmod b).sign = a.sign := by
  rw [← Int.sign_eq_zero_iff_zero, Int.sign_tmod]
  exact (em _).imp (if_pos ·) (if_neg ·)

theorem exec_opDiv {i : Instr} {s : State} {d a b : BitVec 5} (f : Word → Word → Word) (hi : exec i s = s.opDiv f d a b) :
    ∃ t, exec i s = .next t ∧ s.OnlyMe t ∧ t.me = { s.me with x := t.me.x, busy := t.me.busy }
      ∧ (∀ r, r ≠ d → t.rx r = s.rx r) ∧ t.rx d = if d = 0 then 0 else f (s.rx a) (s.rx b) := by
  have hfuse : (s.wx d (f (s.rx a) (s.rx b))).spend 33
      = s.modMe (fun m => { m.wx d (f (s.rx a) (s.rx b)) with busy := (m.wx d (f (s.rx a) (s.rx b))).busy + 33 }) :=
    s.modMe_modMe ..
  have hrx (r : BitVec 5) : ((s.wx d (f (s.rx a) (s.rx b))).spend 33).rx r
      = if r = 0 then 0 else if r = d then f (s.rx a) (s.rx b) else s.rx r := by
    rw [← s.rx_wx, State.rx, State.spend, State.me_modMe]
    rfl
  refine ⟨_, hi, hfuse ▸ s.onlyMe_modMe _, ?_, fun r hr => ?_, ?_⟩
  · rw [hfuse, State.me_modMe, Stream.wx_eq]
  · rw [hrx, if_neg hr]
    split
    · subst_vars; rfl
    · rfl
  · rw [hrx, if_pos rfl]

/-- The signed quotient: −1 by zero, −2^63 where it overflows, else rounded toward zero (R173). -/
theorem divS_spec (a b : Word) :
    if b.toInt = 0 then divS a b = -1
    else if a.toInt = -2 ^ 63 ∧ b.toInt = -1 then (divS a b).toInt = -2 ^ 63
    else (divS a b).toInt.natAbs = a.toInt.natAbs / b.toInt.natAbs
      ∧ ((divS a b).toInt = 0 ∨ (divS a b).toInt.sign = (a.toInt * b.toInt).sign) := by
  have hzero : b.toInt = 0 ↔ b = 0 := BitVec.toInt_inj (y := 0#64)
  split
  case isTrue h => exact divS_zero (hzero.1 h)
  case isFalse h =>
    rw [divS_eq_sdiv (mt hzero.2 h)]
    split
    case isTrue hov =>
      rw [BitVec.toInt_sdiv, hov.1, hov.2]
      decide
    case isFalse hov =>
      have hne : a ≠ BitVec.intMin 64 ∨ b ≠ -1#64 := by
        by_contra hall
        obtain ⟨rfl, rfl⟩ := not_or.1 hall |>.imp not_not.1 not_not.1
        exact hov ⟨by decide, by decide⟩
      rw [BitVec.toInt_sdiv_of_ne_or_ne a b hne]
      exact ⟨Int.natAbs_tdiv .., tdiv_eq_zero_or_sign ..⟩

/-- The signed remainder: the dividend by zero, 0 where the quotient overflows, else what the quotient leaves (R173). -/
theorem remS_spec (a b : Word) :
    if b.toInt = 0 then remS a b = a
    else if a.toInt = -2 ^ 63 ∧ b.toInt = -1 then remS a b = 0
    else (∃ q : Int, (remS a b).toInt = a.toInt - b.toInt * q ∧ q.natAbs = a.toInt.natAbs / b.toInt.natAbs
        ∧ (q = 0 ∨ q.sign = (a.toInt * b.toInt).sign))
      ∧ ((remS a b).toInt = 0 ∨ (remS a b).toInt.sign = a.toInt.sign) := by
  rw [remS_eq_srem]
  split
  case isTrue h =>
    apply BitVec.eq_of_toInt_eq
    rw [BitVec.toInt_srem, h, Int.tmod_zero]
  case isFalse h =>
    split
    case isTrue hov =>
      apply BitVec.eq_of_toInt_eq
      rw [BitVec.toInt_srem, hov.1, hov.2]
      decide
    case isFalse =>
      rw [BitVec.toInt_srem]
      exact ⟨⟨_, Int.tmod_def .., Int.natAbs_tdiv .., tdiv_eq_zero_or_sign ..⟩, tmod_eq_zero_or_sign ..⟩

/-- Settles O2: the signed divisions are those of the library's bit vectors, which round toward zero; the unsigned ones are
those of the naturals. -/
theorem divisionsRoundTowardZeroAndNeverFault : Obligations.DivisionsRoundTowardZeroAndNeverFault := by
  intro s i d a b sa sb ua ub n hn
  match n, hn with
  | 0, _ =>
    obtain ⟨t, ht, hme, hstream, hother, hd⟩ := exec_opDiv (i := .iaDiv i d a b) divS rfl
    exact ⟨t, _, ht, hme, hstream, hother, hd, fun _ => divS_spec .., nofun, nofun, nofun⟩
  | 1, _ =>
    obtain ⟨t, ht, hme, hstream, hother, hd⟩ := exec_opDiv (i := .iaRem i d a b) remS rfl
    exact ⟨t, _, ht, hme, hstream, hother, hd, nofun, fun _ => remS_spec .., nofun, nofun⟩
  | 2, _ =>
    obtain ⟨t, ht, hme, hstream, hother, hd⟩ := exec_opDiv (i := .iaDivu i d a b) divU rfl
    exact ⟨t, _, ht, hme, hstream, hother, hd, nofun, nofun, fun _ => toNat_divU .., nofun⟩
  | 3, _ =>
    obtain ⟨t, ht, hme, hstream, hother, hd⟩ := exec_opDiv (i := .iaRemu i d a b) remU rfl
    exact ⟨t, _, ht, hme, hstream, hother, hd, nofun, nofun, nofun, fun _ => toNat_remU ..⟩

/-! ### The carry chain (R174) -/

theorem carry_eq {a b : Word} {c : Bool} {cin : Nat} (h : num c = cin) :
    (addWith a b c).toNat + 2 ^ 64 * (if carryOf a b c then 1 else 0) = a.toNat + b.toNat + cin := by
  have ha := a.isLt
  have hb := b.isLt
  have hc : num c ≤ 1 := by cases c <;> decide
  simp only [addWith, word, carryOf, BitVec.toNat_ofNat, decide_eq_true_eq]
  split <;> omega

theorem borrow_eq {a b : Word} {c : Bool} {cin : Nat} (h : num c = cin) :
    (subWith a b c).toNat + b.toNat + cin = a.toNat + 2 ^ 64 * (if borrowOf a b c then 1 else 0) := by
  have ha := a.isLt
  have hb := b.isLt
  have hc : num c ≤ 1 := by cases c <;> decide
  simp only [subWith, word, borrowOf, BitVec.toNat_sub, BitVec.toNat_ofNat, decide_eq_true_eq]
  split <;> omega

/-- A word of the carry chain writes x[d] and c3, and nothing else. -/
theorem exec_opCarry {i : Instr} {s : State} {d a b : BitVec 5} {start : Bool} (f : Word → Word → Bool → Word)
    (c : Word → Word → Bool → Bool) (hi : exec i s = s.opCarry f c start d a b) :
    ∃ t, exec i s = .next t ∧ s.OnlyMe t ∧ t.me = { s.me with x := t.me.x, c := t.me.c } ∧ (∀ r, r ≠ d → t.rx r = s.rx r)
      ∧ (∀ r, r ≠ 3 → t.me.rc r = s.me.rc r)
      ∧ (t.rx d = if d = 0 then 0 else f (s.rx a) (s.rx b) (!start && s.me.rc 3))
      ∧ t.me.rc 3 = c (s.rx a) (s.rx b) (!start && s.me.rc 3) := by
  generalize hcin : (!start && s.me.rc 3) = cin
  rw [State.opCarry, hcin] at hi
  generalize f (s.rx a) (s.rx b) cin = w at hi ⊢
  generalize c (s.rx a) (s.rx b) cin = out at hi ⊢
  have hfuse : (s.wx d w).wc 3 out = s.modMe (fun m => (m.wx d w).wc 3 out) := s.modMe_modMe ..
  have hme : ((s.wx d w).wc 3 out).me = (s.me.wx d w).wc 3 out := by rw [hfuse, State.me_modMe]
  have hrx (r : BitVec 5) : ((s.wx d w).wc 3 out).rx r = if r = 0 then 0 else if r = d then w else s.rx r := by
    rw [State.rx, hme]
    exact Stream.rx_wx s.me d r w
  have hrc (r : Nat) : ((s.wx d w).wc 3 out).me.rc r = if r = 3 then out else s.me.rc r := by
    rw [hme, Stream.rc_wc _ _ _ _ (by decide), Stream.rc, Stream.c_wx]
    rfl
  refine ⟨_, hi, hfuse ▸ s.onlyMe_modMe _, ?_, fun r hr => ?_, fun r hr => ?_, ?_, ?_⟩
  · rw [hme, Stream.wc, Stream.wx_eq]
  · rw [hrx, if_neg hr]
    split
    · subst_vars; rfl
    · rfl
  · rw [hrc, if_neg hr]
  · rw [hrx, if_pos rfl]
  · rw [hrc, if_pos rfl]

theorem num_eq_ite {p : Bool} {q : Prop} [Decidable q] (h : p = true ↔ q) : num p = if q then 1 else 0 := by
  simp only [num, h]

/-- Settles O3: each word is the chain's shared meaning, whose result and carry are one equation over the naturals. -/
theorem carryChainWords : Obligations.CarryChainWords := by
  intro s i d a b n hn
  have hstart : num (!true && s.me.rc 3) = if 0 % 2 = 1 ∧ s.me.rc 3 = true then 1 else 0 := num_eq_ite (by simp)
  have hchain : num (!false && s.me.rc 3) = if 1 % 2 = 1 ∧ s.me.rc 3 = true then 1 else 0 := num_eq_ite (by simp)
  match n, hn with
  | 0, _ =>
    obtain ⟨t, ht, hme, hstream, hx, hc, hd, h3⟩ := exec_opCarry (i := .iaAddco i d a b) addWith carryOf rfl
    exact ⟨t, _, ht, hme, hstream, hx, hc, hd, fun _ => h3 ▸ carry_eq hstart, nofun⟩
  | 1, _ =>
    obtain ⟨t, ht, hme, hstream, hx, hc, hd, h3⟩ := exec_opCarry (i := .iaAddc i d a b) addWith carryOf rfl
    exact ⟨t, _, ht, hme, hstream, hx, hc, hd, fun _ => h3 ▸ carry_eq hchain, nofun⟩
  | 2, _ =>
    obtain ⟨t, ht, hme, hstream, hx, hc, hd, h3⟩ := exec_opCarry (i := .iaSubbo i d a b) subWith borrowOf rfl
    exact ⟨t, _, ht, hme, hstream, hx, hc, hd, nofun, fun _ => h3 ▸ borrow_eq hstart⟩
  | 3, _ =>
    obtain ⟨t, ht, hme, hstream, hx, hc, hd, h3⟩ := exec_opCarry (i := .iaSubb i d a b) subWith borrowOf rfl
    exact ⟨t, _, ht, hme, hstream, hx, hc, hd, nofun, fun _ => h3 ▸ borrow_eq hchain⟩

/-! ### Address, immediate and compact words (R64, R65, R172, R175, R176) -/

theorem sext_add_eq (x : Word) (k : BitVec 11) : x + k.signExtend 64 = BitVec.ofInt 64 (x.toNat + k.toInt) := by
  rw [BitVec.ofInt_add, BitVec.ofInt_natCast, BitVec.ofNat_toNat, BitVec.setWidth_eq]
  rfl

theorem insert16_eq (x : Word) (k : BitVec 16) :
    (x <<< 16) ||| k.setWidth 64 = BitVec.ofNat 64 (x.toNat * 2 ^ 16 + k.toNat) := by
  have hdisj : (x <<< 16) &&& k.setWidth 64 = 0 := by
    ext j hj
    simp only [BitVec.getElem_and, BitVec.getElem_shiftLeft, BitVec.getElem_setWidth]
    by_cases h : j < 16
    · simp [h]
    · simp [BitVec.getLsbD_of_ge k j (by omega)]
  apply BitVec.eq_of_toNat_eq
  have hk := k.isLt
  rw [← BitVec.add_eq_or_of_and_eq_zero _ _ hdisj]
  simp only [BitVec.toNat_add, BitVec.toNat_shiftLeft, BitVec.toNat_setWidth, BitVec.toNat_ofNat, Nat.shiftLeft_eq]
  omega

theorem shiftLeft_six (x : Word) : x <<< 6 = 64 * x := by
  rw [BitVec.shiftLeft_eq_mul_twoPow, BitVec.mul_comm]
  rfl

/-- Settles O4: the words of the address registers, the immediate and the compact forms by their shared meanings. -/
theorem addressImmediateAndCompactWords : Obligations.AddressImmediateAndCompactWords := by
  refine ⟨fun s i d a b => ⟨.of_wa rfl, .of_wx rfl, .of_wa rfl, shiftLeft_six (s.rx b) ▸ .of_wa rfl⟩,
    ⟨by decide, fun s i d a k => ⟨sext_add_eq (s.rx a) k ▸ .of_wx rfl, ?lo, ?hi, fun k8 hk => hk ▸ .of_wx rfl⟩⟩,
    fun s i d a k => ⟨insert16_eq (s.rx d) k ▸ .of_wx rfl, .of_op2 (· + ·) rfl rfl, .of_op2 (· - ·) rfl rfl,
      .of_op2 (· &&& ·) rfl rfl, .of_op2 (· ||| ·) rfl rfl, .of_op2 (· ^^^ ·) rfl rfl, .of_op1 id rfl rfl,
      .of_op2 (fun x y => x <<< amount y) rfl (congrArg _ (bits_low ..)),
      .of_op2 (fun x y => x >>> amount y) rfl (congrArg _ (bits_low ..))⟩⟩
  case lo => exact BitVec.le_toInt k
  case hi => exact Int.le_of_lt_add_one BitVec.toInt_lt

end Sys2Proof.Machine
end

section
/-! PROOFS. The bit-field words (08_vector.md, R177): O5. Every result is read bit by bit; a result that is a sum of bits or
bytes at their places has them as its digits. -/

namespace Sys2Proof.Machine

/-! ### Digits of a sum -/

theorem foldl_add_eq_sum (f : Nat → Nat) (n : Nat) :
    (List.range n).foldl (fun acc j => acc + f j) 0 = ∑ j ∈ Finset.range n, f j := by
  induction n with
  | zero => rfl
  | succ n ih => rw [List.range_succ, List.foldl_append, ih, Finset.sum_range_succ]; rfl

/-- The digits of a sum of digits at their places. -/
theorem digit_of_sum {B : Nat} (d : Nat → Nat) (hd : ∀ i, d i < B) {n i : Nat} (hi : i < n) :
    (∑ j ∈ Finset.range n, d j * B ^ j) / B ^ i % B = d i := by
  have hB : 0 < B := Nat.zero_lt_of_lt (hd 0)
  induction n generalizing d i with
  | zero => cases hi
  | succ n ih =>
    have hsplit : ∑ j ∈ Finset.range (n + 1), d j * B ^ j = B * (∑ j ∈ Finset.range n, d (j + 1) * B ^ j) + d 0 := by
      rw [Finset.sum_range_succ', Finset.mul_sum, pow_zero, mul_one]
      exact congrArg (· + d 0) (Finset.sum_congr rfl fun j _ => by rw [pow_succ]; ring)
    rw [hsplit]
    cases i with
    | zero => rw [pow_zero, Nat.div_one, Nat.mul_add_mod, Nat.mod_eq_of_lt (hd 0)]
    | succ i =>
      rw [pow_succ', ← Nat.div_div_eq_div_mul, Nat.mul_add_div hB, Nat.div_eq_of_lt (hd 0), Nat.add_zero]
      exact ih (fun j => d (j + 1)) (fun j => hd _) (Nat.lt_of_succ_lt_succ hi)

/-- The same where the last digit comes first. -/
theorem digit_of_sum_reflect {B : Nat} (d : Nat → Nat) (hd : ∀ i, d i < B) {n i : Nat} (hi : i < n) :
    (∑ j ∈ Finset.range n, d j * B ^ (n - 1 - j)) / B ^ i % B = d (n - 1 - i) := by
  have hflip : ∑ j ∈ Finset.range n, d j * B ^ (n - 1 - j) = ∑ j ∈ Finset.range n, d (n - 1 - j) * B ^ j := by
    rw [← Finset.sum_range_reflect]
    refine Finset.sum_congr rfl fun j hj => ?_
    rw [Nat.sub_sub_self (by have := Finset.mem_range.1 hj; omega)]
  rw [hflip]
  exact digit_of_sum (fun j => d (n - 1 - j)) (fun j => hd _) hi

theorem getLsbD_eq_decide {n : Nat} (x : BitVec n) (j : Nat) : x.getLsbD j = decide (x.toNat / 2 ^ j % 2 = 1) :=
  Nat.testBit_eq_decide_div_mod_eq

theorem getLsbD_word (x : Nat) {j : Nat} (hj : j < 64) : (word x).getLsbD j = x.testBit j := by
  rw [word, BitVec.getLsbD_ofNat, decide_eq_true hj, Bool.true_and]

theorem getLsbD_bitRev (v : Word) {j : Nat} (hj : j < 64) : (bitRev v).getLsbD j = v.getLsbD (63 - j) := by
  rw [bitRev, getLsbD_word _ hj, foldl_add_eq_sum, Nat.testBit_eq_decide_div_mod_eq, getLsbD_eq_decide]
  rw [digit_of_sum_reflect (fun j => v.toNat / 2 ^ j % 2) (fun _ => Nat.mod_lt _ two_pos) hj]

theorem getLsbD_byteRev (v : Word) {j : Nat} (hj : j < 64) :
    (byteRev v).getLsbD j = v.getLsbD (8 * (7 - j / 8) + j % 8) := by
  have hbyte (x q : Nat) : (x / 256 ^ q % 256).testBit (j % 8) = x.testBit (j % 8 + 8 * q) := by
    rw [show (256 : Nat) = 2 ^ 8 from rfl, ← pow_mul, Nat.testBit_mod_two_pow, Nat.testBit_div_two_pow,
      decide_eq_true (Nat.mod_lt _ (by decide)), Bool.true_and]
  rw [byteRev, getLsbD_word _ hj, foldl_add_eq_sum, BitVec.getLsbD, Nat.add_comm (8 * _), ← hbyte]
  have hsum := digit_of_sum_reflect (fun j => v.toNat / 256 ^ j % 256) (fun _ => Nat.mod_lt _ (by decide))
    (show j / 8 < 8 by omega)
  rw [← hsum, hbyte, Nat.mod_add_div]
  refine congrArg (Nat.testBit · j) (Finset.sum_congr rfl fun j _ => ?_)
  rw [show (256 : Nat) = 2 ^ 8 from rfl, ← pow_mul, ← pow_mul]

/-! ### Counts -/

theorem popCount_eq (v n : Nat) : popCount v n = (List.range n).countP (fun j => v.testBit j) := by
  induction n generalizing v with
  | zero => rfl
  | succ n ih =>
    rw [popCount, ih, List.range_succ_eq_map, List.countP_cons, List.countP_map, Nat.add_comm]
    congr 1
    · exact List.countP_congr fun j _ => by simp [Nat.testBit_succ]
    · rw [Nat.testBit_zero]
      split <;> simp_all

/-- The zeros above the highest bit set of the low n. -/
theorem leadZeros_spec (v n : Nat) : leadZeros v n ≤ n ∧ (∀ j < n, n - leadZeros v n ≤ j → v.testBit j = false)
    ∧ (leadZeros v n < n → v.testBit (n - 1 - leadZeros v n) = true) := by
  induction n with
  | zero => exact ⟨le_rfl, nofun, nofun⟩
  | succ n ih =>
    obtain ⟨hle, hzero, hone⟩ := ih
    rw [leadZeros]
    split
    case isTrue h => exact ⟨Nat.zero_le _, fun j hj hj' => by omega, fun _ => by simpa [Nat.testBit_eq_decide_div_mod_eq] using h⟩
    case isFalse h =>
      refine ⟨by omega, fun j hj hj' => ?_, fun hlt => ?_⟩
      · obtain rfl | hj := Nat.lt_succ_iff_lt_or_eq.1 hj |>.symm
        · simpa [Nat.testBit_eq_decide_div_mod_eq] using h
        · exact hzero j hj (by omega)
      · rw [show n + 1 - 1 - (1 + leadZeros v n) = n - 1 - leadZeros v n by omega]
        exact hone (by omega)

/-- The zeros below the lowest bit set of the low n. -/
theorem trailZeros_spec (v n : Nat) : trailZeros v n ≤ n ∧ (∀ j < trailZeros v n, v.testBit j = false)
    ∧ (trailZeros v n < n → v.testBit (trailZeros v n) = true) := by
  induction n generalizing v with
  | zero => exact ⟨le_rfl, nofun, nofun⟩
  | succ n ih =>
    obtain ⟨hle, hzero, hone⟩ := ih (v / 2)
    rw [trailZeros]
    split
    case isTrue h => exact ⟨Nat.zero_le _, nofun, fun _ => by simpa [Nat.testBit_zero] using h⟩
    case isFalse h =>
      refine ⟨by omega, fun j hj => ?_, fun hlt => ?_⟩
      · cases j with
        | zero => simpa [Nat.testBit_zero] using h
        | succ j => rw [Nat.testBit_succ]; exact hzero j (by omega)
      · rw [Nat.add_comm, Nat.testBit_succ]
        exact hone (by omega)

/-! ### Shifts, rotates and fields, bit by bit -/

section
variable (v d b : Word) {k len j : Nat} (hj : j < 64)
include hj

theorem getLsbD_sll : (v <<< k).getLsbD j = (decide (k ≤ j) && v.getLsbD (j - k)) := by
  rw [BitVec.getLsbD_shiftLeft, decide_eq_true hj, Bool.true_and, ← decide_not]
  simp only [not_lt]

omit hj in
theorem getLsbD_srl : (v >>> k).getLsbD j = v.getLsbD (j + k) := by
  rw [BitVec.getLsbD_ushiftRight, Nat.add_comm]

theorem getLsbD_sra : (v.sshiftRight k).getLsbD j = if j + k < 64 then v.getLsbD (j + k) else v.getLsbD 63 := by
  rw [BitVec.getLsbD_sshiftRight, decide_eq_false (not_le.2 hj), Nat.add_comm k, BitVec.msb_eq_getLsbD_last]
  rfl

theorem getLsbD_rol (hk : k < 64) : (v.rotateLeft k).getLsbD j = v.getLsbD ((j + 64 - k) % 64) := by
  rw [BitVec.getLsbD_rotateLeft, Nat.mod_eq_of_lt hk, decide_eq_true hj, Bool.true_and]
  by_cases h : j < k
  · rw [decide_eq_true h, show (j + 64 - k) % 64 = 64 - k + j by omega]
    rfl
  · rw [decide_eq_false h, show (j + 64 - k) % 64 = j - k by omega]
    rfl

theorem getLsbD_ror (hk : k < 64) : (v.rotateRight k).getLsbD j = v.getLsbD ((j + k) % 64) := by
  rw [BitVec.getLsbD_rotateRight, Nat.mod_eq_of_lt hk, decide_eq_true hj, Bool.true_and]
  by_cases h : j < 64 - k
  · rw [decide_eq_true h, show (j + k) % 64 = k + j by omega]
    rfl
  · rw [decide_eq_false h, show (j + k) % 64 = j - (64 - k) by omega]
    rfl

theorem getLsbD_bfx : (zextN len (v >>> k)).getLsbD j = (decide (j < len) && v.getLsbD (j + k)) := by
  rw [zextN_eq, BitVec.getLsbD_setWidth, BitVec.getLsbD_setWidth, BitVec.getLsbD_ushiftRight, decide_eq_true hj,
    Bool.true_and, Nat.add_comm]

theorem getLsbD_bfxs (hlen : 0 < len) :
    (sextN len (v >>> k)).getLsbD j = if j < len then v.getLsbD (j + k) else v.getLsbD (k + len - 1) := by
  rw [sextN_eq, BitVec.getLsbD_signExtend, decide_eq_true hj, Bool.true_and, BitVec.msb_eq_getLsbD_last,
    BitVec.getLsbD_setWidth, BitVec.getLsbD_setWidth, BitVec.getLsbD_ushiftRight, BitVec.getLsbD_ushiftRight,
    decide_eq_true (show len - 1 < len by omega), Bool.true_and, Nat.add_comm k j, Nat.add_sub_assoc hlen]
  split <;> simp_all

theorem getLsbD_insertField : (insertField d v b).getLsbD j =
    if fieldPos b ≤ j ∧ j < fieldPos b + fieldLen b then v.getLsbD (j - fieldPos b) else d.getLsbD j := by
  have hmask : (word ((2 ^ fieldLen b - 1) * 2 ^ fieldPos b % 2 ^ 64)).getLsbD j
      = (decide (fieldPos b ≤ j) && decide (j - fieldPos b < fieldLen b)) := by
    rw [getLsbD_word _ hj, Nat.testBit_mod_two_pow, decide_eq_true hj, Bool.true_and, Nat.testBit_mul_two_pow,
      Nat.testBit_two_pow_sub_one]
  have hfield : (word (v.toNat % 2 ^ fieldLen b * 2 ^ fieldPos b)).getLsbD j
      = (decide (fieldPos b ≤ j) && (decide (j - fieldPos b < fieldLen b) && v.getLsbD (j - fieldPos b))) := by
    rw [getLsbD_word _ hj, Nat.testBit_mul_two_pow, Nat.testBit_mod_two_pow]
    rfl
  rw [insertField]
  simp only [BitVec.getLsbD_or, BitVec.getLsbD_and, BitVec.getLsbD_not, hmask, hfield, decide_eq_true hj]
  by_cases hlo : fieldPos b ≤ j
  · by_cases hhi : j - fieldPos b < fieldLen b
    · simp [hlo, hhi, show j < fieldPos b + fieldLen b by omega]
    · simp [hlo, hhi, show ¬j < fieldPos b + fieldLen b by omega]
  · simp [hlo]

theorem getLsbD_funnel : (funnel d v b).getLsbD j =
    if amount b ≤ j then d.getLsbD (j - amount b) else v.getLsbD (j + 64 - amount b) := by
  have hk : amount b < 64 := Nat.mod_lt _ (by decide)
  rw [funnel, BitVec.getLsbD_or, getLsbD_sll d hj, BitVec.getLsbD_ushiftRight]
  split
  case isTrue h => rw [decide_eq_true h, BitVec.getLsbD_of_ge v _ (by omega), Bool.true_and, Bool.or_false]
  case isFalse h =>
    rw [decide_eq_false h, Bool.false_and, Bool.false_or, show 64 - amount b + j = j + 64 - amount b by omega]

end

theorem amount_eq (b : Word) : amount b = b.toNat % 64 := bits_low b 5

theorem fieldLen_eq (b : Word) :
    fieldLen b = if b.toNat / 256 % 64 = 0 then 64 else b.toNat / 256 % 64 := rfl

theorem fieldLen_pos (b : Word) : 0 < fieldLen b := by
  rw [fieldLen_eq]
  split <;> omega

theorem immAmount_eq (s5 : BitVec 5) (h : BitVec 1) : immAmount s5 h = 32 * h.toNat + s5.toNat := by
  rw [immAmount, Nat.mul_comm]

/-- Settles O5: the table of major bf, the forms of two operands bit by bit, and the counts, reversals and immediate
shifts. -/
theorem bitFieldWords : Obligations.BitFieldWords := by
  refine ⟨⟨?forms, fun s i d a b => ?fields⟩, fun s i d a s5 h => ?unary⟩
  case forms =>
    unfold MajorForms
    decide +kernel
  case fields =>
    intro A k len n hn
    have hk : amount (s.rx b) = k := amount_eq _
    have hlt : k < 64 := Nat.mod_lt _ (by decide)
    have hlen : 0 < len := fieldLen_pos (s.rx b)
    match n, hn with
    | 0, _ => exact ⟨A <<< k, .of_op2 (fun x y => x <<< amount y) rfl (congrArg _ hk), fun j hj =>
        ⟨fun _ => getLsbD_sll _ hj, nofun, nofun, nofun, nofun, nofun, nofun, nofun, nofun⟩⟩
    | 1, _ => exact ⟨A >>> k, .of_op2 (fun x y => x >>> amount y) rfl (congrArg _ hk), fun j hj =>
        ⟨nofun, fun _ => getLsbD_srl .., nofun, nofun, nofun, nofun, nofun, nofun, nofun⟩⟩
    | 2, _ => exact ⟨A.sshiftRight k, .of_op2 (fun x y => x.sshiftRight (amount y)) rfl (congrArg _ hk), fun j hj =>
        ⟨nofun, nofun, fun _ => getLsbD_sra _ hj, nofun, nofun, nofun, nofun, nofun, nofun⟩⟩
    | 3, _ => exact ⟨A.rotateLeft k, .of_op2 (fun x y => x.rotateLeft (amount y)) rfl (congrArg _ hk), fun j hj =>
        ⟨nofun, nofun, nofun, fun _ => getLsbD_rol _ hj hlt, nofun, nofun, nofun, nofun, nofun⟩⟩
    | 4, _ => exact ⟨A.rotateRight k, .of_op2 (fun x y => x.rotateRight (amount y)) rfl (congrArg _ hk), fun j hj =>
        ⟨nofun, nofun, nofun, nofun, fun _ => getLsbD_ror _ hj hlt, nofun, nofun, nofun, nofun⟩⟩
    | 5, _ => exact ⟨zextN len (A >>> k), .of_op2 (fun x y => zextN (fieldLen y) (x >>> fieldPos y)) rfl
        (congrArg (fun n => zextN len (A >>> n)) hk), fun j hj =>
        ⟨nofun, nofun, nofun, nofun, nofun, fun _ => getLsbD_bfx _ hj, nofun, nofun, nofun⟩⟩
    | 6, _ => exact ⟨sextN len (A >>> k), .of_op2 (fun x y => sextN (fieldLen y) (x >>> fieldPos y)) rfl
        (congrArg (fun n => sextN len (A >>> n)) hk), fun j hj =>
        ⟨nofun, nofun, nofun, nofun, nofun, nofun, fun _ => getLsbD_bfxs _ hj hlen, nofun, nofun⟩⟩
    | 7, _ => exact ⟨_, .of_wx rfl, fun j hj =>
        ⟨nofun, nofun, nofun, nofun, nofun, nofun, nofun, fun _ => hk ▸ getLsbD_insertField _ _ _ hj, nofun⟩⟩
    | 8, _ => exact ⟨_, .of_wx rfl, fun j hj =>
        ⟨nofun, nofun, nofun, nofun, nofun, nofun, nofun, nofun, fun _ => hk ▸ getLsbD_funnel _ _ _ hj⟩⟩
  case unary =>
    intro A k
    obtain ⟨hlead_le, hlead_zero, hlead_one⟩ := leadZeros_spec A.toNat 64
    obtain ⟨htrail_le, htrail_zero, htrail_one⟩ := trailZeros_spec A.toNat 64
    exact ⟨.of_op1 (fun x => word (popCount x.toNat 64)) rfl (congrArg word (popCount_eq ..)),
      ⟨_, hlead_le, .of_op1 (fun x => word (leadZeros x.toNat 64)) rfl rfl,
        fun j hj => (lt_or_ge j 64).elim (hlead_zero j · hj) (BitVec.getLsbD_of_ge A j), hlead_one⟩,
      ⟨_, htrail_le, .of_op1 (fun x => word (trailZeros x.toNat 64)) rfl rfl, htrail_zero, htrail_one⟩,
      ⟨_, .of_op1 bitRev rfl rfl, fun j hj => getLsbD_bitRev _ hj⟩,
      ⟨_, .of_op1 byteRev rfl rfl, fun j hj => getLsbD_byteRev _ hj⟩,
      .of_op1 (fun x => x <<< immAmount s5 h) rfl (congrArg _ (immAmount_eq ..)),
      .of_op1 (fun x => x >>> immAmount s5 h) rfl (congrArg _ (immAmount_eq ..)),
      .of_op1 (fun x => x.sshiftRight (immAmount s5 h)) rfl (congrArg _ (immAmount_eq ..)),
      .of_op1 (fun x => x.rotateLeft (immAmount s5 h)) rfl (congrArg _ (immAmount_eq ..)),
      .of_op1 (fun x => x.rotateRight (immAmount s5 h)) rfl (congrArg _ (immAmount_eq ..))⟩

end Sys2Proof.Machine
end

section
/-! PROOFS. Lanes of a vector register (08_vector.md, R179), and the integer lane words (R181): O33. A register written from its
lanes reads back as them, so that each word is known by what it computes in one lane. -/

namespace Sys2Proof.Machine

/-! ### Lanes and bytes of a register -/

/-- The bits of the first n lanes of width w. -/
theorem getLsbD_foldl_lanes (w : Nat) (f : Nat → BitVec w) (n i : Nat) (hi : i < 512) :
    ((List.range n).foldl (fun acc k => acc ||| ((f k).setWidth 512 <<< (w * k))) (0 : Row)).getLsbD i
      = (decide (i < w * n) && (f (i / w)).getLsbD (i % w)) := by
  induction n with
  | zero => simp
  | succ n ih =>
    rw [List.range_succ, List.foldl_append, List.foldl_cons, List.foldl_nil, BitVec.getLsbD_or, ih,
      BitVec.getLsbD_shiftLeft, BitVec.getLsbD_setWidth, decide_eq_true hi, Bool.true_and, Nat.mul_succ]
    by_cases hlo : i < w * n
    · simp [hlo, Nat.lt_of_lt_of_le hlo]
    · by_cases hhi : i < w * n + w
      · have hw : 0 < w := by omega
        have hdiv : i / w = n := by
          rw [Nat.div_eq_iff hw, Nat.mul_comm n]
          omega
        have hmod : i % w = i - w * n := by
          rw [Nat.mod_eq_sub, hdiv]
        simp [hlo, hhi, hdiv, hmod, show i - w * n < 512 by omega]
      · simp [hlo, hhi, BitVec.getLsbD_of_ge (f n) (i - w * n) (by omega)]

theorem getLsbD_lane (w : Nat) (r : Row) (k j : Nat) :
    (Row.lane w r k).getLsbD j = (decide (j < w) && r.getLsbD (w * k + j)) := by
  rw [Row.lane, BitVec.getLsbD_setWidth, BitVec.getLsbD_ushiftRight]

theorem lane_ofLanes {w : Nat} (f : Nat → BitVec w) {k : Nat} (hk : k < 512 / w) :
    Row.lane w (Row.ofLanes w f) k = f k := by
  have hfit : w * (k + 1) ≤ 512 := (Nat.mul_le_mul_left w hk).trans (Nat.mul_div_le 512 w)
  rw [Nat.mul_succ] at hfit
  ext j hj
  have hlt : w * k + j < w * (512 / w) := by
    have := Nat.mul_le_mul_left w (Nat.succ_le_of_lt hk)
    rw [Nat.mul_succ] at this
    omega
  rw [← BitVec.getLsbD_eq_getElem, ← BitVec.getLsbD_eq_getElem, getLsbD_lane, Row.ofLanes,
    getLsbD_foldl_lanes _ _ _ _ (by omega), decide_eq_true hj, decide_eq_true hlt, Bool.true_and, Bool.true_and,
    Nat.mul_add_div (by omega), Nat.div_eq_of_lt hj, Nat.add_zero, Nat.mul_add_mod, Nat.mod_eq_of_lt hj]

theorem lane_lanesOf {w : Nat} (f : Nat → Nat) {k : Nat} (hk : k < 512 / w) :
    Row.lane w (lanesOf w f) k = BitVec.ofNat w (f k) := lane_ofLanes _ hk

theorem byte_ofBytes (f : Nat → Byte) {j : Nat} (hj : j < 64) : Row.byte (Row.ofBytes f) j = f j :=
  lane_ofLanes (w := 8) f hj

/-- A register is its lanes, where they fill it. -/
theorem ext_lane {w : Nat} (hw : w ∣ 512) {r r' : Row} (h : ∀ k < 512 / w, Row.lane w r k = Row.lane w r' k) : r = r' := by
  have hpos : 0 < w := Nat.pos_of_dvd_of_pos hw (by decide)
  ext i hi
  have hk : i / w < 512 / w := Nat.div_lt_div_of_lt_of_dvd hw hi
  have hbit := congrArg (fun x => x.getLsbD (i % w)) (h _ hk)
  simp only [getLsbD_lane, decide_eq_true (Nat.mod_lt i hpos), Bool.true_and, Nat.div_add_mod] at hbit
  simpa only [BitVec.getLsbD_eq_getElem, hi] using hbit

/-! ### One lane's number -/

/-- A lane's value as T reads it (R181). -/
theorem bitsInt_toNat (sgn : Bool) {w : Nat} (x : BitVec w) :
    bitsInt w sgn x.toNat = if sgn then x.toInt else x.toNat := by
  cases sgn
  · rw [bitsInt_unsigned, BitVec.ofNat_toNat, BitVec.setWidth_eq]
    rfl
  · rw [bitsInt_signed, BitVec.ofNat_toNat, BitVec.setWidth_eq]
    rfl

theorem ofInt_value (sgn : Bool) {w : Nat} (x : BitVec w) :
    BitVec.ofInt w (if sgn then x.toInt else x.toNat) = x := by
  cases sgn
  · rw [if_neg Bool.false_ne_true, BitVec.ofInt_natCast, BitVec.ofNat_toNat, BitVec.setWidth_eq]
  · rw [if_pos rfl, BitVec.ofInt_toInt]

theorem ofInt_sub (w : Nat) (x y : Int) : BitVec.ofInt w (x - y) = BitVec.ofInt w x - BitVec.ofInt w y := by
  rw [Int.sub_eq_add_neg, BitVec.ofInt_add, BitVec.ofInt_neg, BitVec.sub_eq_add_neg]

theorem ofInt_min (w : Nat) (x y : Int) :
    BitVec.ofInt w (min x y) = if x ≤ y then BitVec.ofInt w x else BitVec.ofInt w y := by
  rw [min_def, apply_ite (BitVec.ofInt w)]

theorem ofInt_max (w : Nat) (x y : Int) :
    BitVec.ofInt w (max x y) = if x ≤ y then BitVec.ofInt w y else BitVec.ofInt w x := by
  rw [max_def, apply_ite (BitVec.ofInt w)]

theorem satInt_eq (w : Nat) (sgn : Bool) (v : Int) : satInt w sgn v =
    max (if sgn then -2 ^ (w - 1) else 0) (min (if sgn then 2 ^ (w - 1) - 1 else 2 ^ w - 1) v) := by
  rw [satInt, intMin, intMax]
  push_cast
  rfl

section
variable {w : Nat} (x : BitVec w) (n : Nat)

theorem ofNat_shiftLeft : BitVec.ofNat w (x.toNat * 2 ^ n % 2 ^ w) = x <<< n := by
  apply BitVec.eq_of_toNat_eq
  rw [BitVec.toNat_ofNat, Nat.mod_mod, BitVec.toNat_shiftLeft, Nat.shiftLeft_eq]

theorem ofNat_shiftRight : BitVec.ofNat w (x.toNat / 2 ^ n) = x >>> n := by
  apply BitVec.eq_of_toNat_eq
  rw [BitVec.toNat_ofNat, BitVec.toNat_ushiftRight, Nat.shiftRight_eq_div_pow,
    Nat.mod_eq_of_lt ((Nat.div_le_self ..).trans_lt x.isLt)]

theorem ofInt_sshiftRight : BitVec.ofInt w (x.toInt / (2 ^ n : Nat)) = x.sshiftRight n := by
  rw [BitVec.sshiftRight, Int.shiftRight_eq_div_pow]

end

/-! ### The integer lane words -/

section
variable {ins : Instr} {s : State} {d a b : BitVec 5}

/-- A word that writes v[d] lane by lane. -/
theorem lanes_of_wv {w : Nat} {f : Nat → Nat} {g : Nat → BitVec w} (hi : exec ins s = .next (s.wv d (lanesOf w f)))
    (hfg : ∀ k, BitVec.ofNat w (f k) = g k) : ∃ r, GivesV ins s d r ∧ ∀ k, k < 512 / w → Row.lane w r k = g k :=
  ⟨_, .of_wv hi, fun k hk => (lane_lanesOf f hk).trans (hfg k)⟩

theorem lanes_of_viOp {t : BitVec 3} (f : Int → Int → Int) {g : Nat → BitVec (tWidth t)}
    (hi : exec ins s = s.viOp f d a b t)
    (hfg : let val (x : BitVec (tWidth t)) : Int := if tSigned t then x.toInt else x.toNat
      ∀ k, BitVec.ofInt (tWidth t) (f (val (Row.lane _ (s.rv a) k)) (val (Row.lane _ (s.rv b) k))) = g k) :
    ∃ r, GivesV ins s d r ∧ ∀ k, k < 512 / tWidth t → Row.lane (tWidth t) r k = g k :=
  lanes_of_wv hi fun k => by
    rw [ofNat_intBits, laneN, laneN, bitsInt_toNat, bitsInt_toNat]
    exact hfg k

theorem lanes_of_viShift {wc : BitVec 2} (f : Nat → Nat → Nat → Nat) {g : Nat → BitVec (wWidth wc)}
    (hi : exec ins s = s.viShift f d a b wc)
    (hfg : ∀ k, BitVec.ofNat (wWidth wc) (f (wWidth wc) (Row.lane (wWidth wc) (s.rv a) k).toNat
      ((Row.lane (wWidth wc) (s.rv b) k).toNat % wWidth wc)) = g k) :
    ∃ r, GivesV ins s d r ∧ ∀ k, k < 512 / wWidth wc → Row.lane (wWidth wc) r k = g k :=
  lanes_of_wv hi hfg

end

/-- Settles O33: the table of major vi, and what each word computes in one lane. -/
theorem integerLaneWords : Obligations.IntegerLaneWords := by
  refine ⟨?forms, fun s i d a b t wc => ?lanes⟩
  case forms =>
    unfold MajorForms
    decide +kernel
  case lanes =>
    intro W A B val lo hi S X n lanes shifts
    have hval (x : BitVec W) : BitVec.ofInt W (val x) = x := ofInt_value ..
    refine ⟨lanes_of_viOp (· + ·) rfl fun k => ?add, lanes_of_viOp (· - ·) rfl fun k => ?sub,
      lanes_of_viOp (· * ·) rfl fun k => ?mul, lanes_of_viOp min rfl fun k => ?min, lanes_of_viOp max rfl fun k => ?max,
      lanes_of_viOp (fun x y => satInt W (tSigned t) (x + y)) rfl fun k => congrArg _ (satInt_eq ..),
      lanes_of_viShift (fun w x k => x * 2 ^ k % 2 ^ w) rfl fun k => ofNat_shiftLeft ..,
      lanes_of_viShift (fun _ x k => x / 2 ^ k) rfl fun k => ofNat_shiftRight ..,
      lanes_of_viShift (fun w x k => intBits w (bitsInt w true x / (2 ^ k : Nat))) rfl fun k => ?sra,
      .of_wv rfl, .of_wv rfl, .of_wv rfl, .of_wv rfl⟩
    case add => exact (BitVec.ofInt_add ..).trans (congrArg₂ (· + ·) (hval _) (hval _))
    case sub => exact (ofInt_sub ..).trans (congrArg₂ (· - ·) (hval _) (hval _))
    case mul => exact (BitVec.ofInt_mul ..).trans (congrArg₂ (· * ·) (hval _) (hval _))
    case min =>
      refine (ofInt_min ..).trans ?_
      rw [hval, hval]
    case max =>
      refine (ofInt_max ..).trans ?_
      rw [hval, hval]
    case sra => rw [ofNat_intBits, bitsInt_toNat, if_pos rfl, ofInt_sshiftRight]

end Sys2Proof.Machine
end

section
/-! PROOFS. The float lane words (08_vector.md, R182): O34. The values and the rounding are those of the statement; what is
proved is which lanes they are of, that the results come late, and what a pair of registers holds. -/

namespace Sys2Proof.Machine

/-! ### Registers after a write of v[d] or of a pair -/

theorem State.rv_modMe (s : State) (f : Stream → Stream) (r : BitVec 5) : (s.modMe f).rv r = (f s.me).rv r := by
  rw [State.rv, State.me_modMe]

@[simp] theorem State.rv_wv (s : State) (d r : BitVec 5) (v : Row) : (s.wv d v).rv r = if r = d then v else s.rv r := by
  rw [State.wv, State.rv_modMe, Stream.rv_wv]
  rfl

@[simp] theorem State.rv_late (s : State) (q : RegName) (n : Nat) (r : BitVec 5) : (s.late q n).rv r = s.rv r :=
  s.rv_modMe ..

@[simp] theorem State.rv_spend (s : State) (n : Nat) (r : BitVec 5) : (s.spend n).rv r = s.rv r := s.rv_modMe ..

theorem GivesVLate.of_wv_late {i : Instr} {s : State} {d : BitVec 5} {v : Row} {n : Nat}
    (h : exec i s = .next ((s.wv d v).late (.v d) n)) : GivesVLate i s d v n := by
  have hfuse : (s.wv d v).late (.v d) n = s.modMe (fun m => { m.wv d v with late := m.late ++ [(.v d, n)] }) :=
    s.modMe_modMe ..
  refine ⟨_, h, hfuse ▸ s.onlyMe_modMe _, ?_, fun r hr => ?_, ?_⟩
  · rw [hfuse, State.me_modMe]
    rfl
  · rw [State.rv_late, State.rv_wv, if_neg hr]
  · rw [State.rv_late, State.rv_wv, if_pos rfl]

theorem succ_ne_self (d : BitVec 5) : d + 1 ≠ d := by
  revert d
  decide

theorem State.rv_writePair (s : State) (w : Nat) (n : BitVec 5) (f : Nat → Nat) (r : BitVec 5) :
    (s.writePair w n f).rv r = if r = n + 1 then lanesOf w (fun k => f (k + 512 / w)) else if r = n then lanesOf w f
      else s.rv r := by
  rw [State.writePair, State.rv_wv, State.rv_wv]

theorem State.writePair_eq (s : State) (w : Nat) (n : BitVec 5) (f : Nat → Nat) : s.writePair w n f
    = s.modMe (fun m => (m.wv n (lanesOf w f)).wv (n + 1) (lanesOf w (fun k => f (k + 512 / w)))) :=
  s.modMe_modMe (fun m => m.wv n (lanesOf w f)) (fun m => m.wv (n + 1) (lanesOf w (fun k => f (k + 512 / w))))

/-- A lane of a pair, where the two registers are written from its lanes. -/
theorem State.pairLane_of_lanesOf {s : State} {w : Nat} {n : BitVec 5} {f : Nat → Nat} (hlow : s.rv n = lanesOf w f)
    (hhigh : s.rv (n + 1) = lanesOf w (fun k => f (k + 512 / w))) {k : Nat} (hk : k < 2 * (512 / w)) :
    s.pairLane w n k = f k % 2 ^ w := by
  rw [State.pairLane, hlow, hhigh]
  split
  case isTrue h => rw [laneN, lane_lanesOf _ h, BitVec.toNat_ofNat]
  case isFalse h =>
    rw [laneN, lane_lanesOf _ (by omega), BitVec.toNat_ofNat, Nat.sub_add_cancel (not_lt.1 h)]

/-! ### What a lane holds -/

theorem fPick_eq (F : FFmt) (larger : Bool) (x y : Nat) : fPick F larger x y =
    if F.decode x = .nan ∨ F.decode y = .nan then F.nan
    else if ((F.decode x).le (F.decode y) != larger) = true then x else y := by
  have hswap (p q : Bool) : (if p = q then y else x) = if (p != q) = true then x else y := by
    cases p <;> cases q <;> rfl
  rw [← hswap]
  unfold fPick
  cases F.decode x <;> cases F.decode y <;> rfl

theorem ofNat_fPick {w : Nat} (F : FFmt) (larger : Bool) (x y : Nat) : BitVec.ofNat w (fPick F larger x y) =
    if F.decode x = .nan ∨ F.decode y = .nan then BitVec.ofNat w F.nan
    else BitVec.ofNat w (if ((F.decode x).le (F.decode y) != larger) = true then x else y) := by
  rw [fPick_eq, apply_ite (BitVec.ofNat w)]

theorem cfmaLane_eq (F : FFmt) (rz : Bool) (d a b : Nat → FVal) (k : Nat) : cfmaLane F rz d a b k =
    if k % 2 = 0 then F.arith rz (FVal.sum [d (k / 2 * 2), (a (k / 2 * 2)).mul (b (k / 2 * 2)),
      ((a (k / 2 * 2 + 1)).mul (b (k / 2 * 2 + 1))).neg])
    else F.arith rz (FVal.sum [d (k / 2 * 2 + 1), (a (k / 2 * 2)).mul (b (k / 2 * 2 + 1)),
      (a (k / 2 * 2 + 1)).mul (b (k / 2 * 2))]) := by
  rw [cfmaLane, Nat.mul_comm, apply_ite (F.arith rz)]

section
variable {w : Nat} (x : BitVec w)

theorem ofNat_xor_toNat (y : Nat) : BitVec.ofNat w (Nat.xor x.toNat y) = x ^^^ BitVec.ofNat w y := by
  ext j hj
  rw [← BitVec.getLsbD_eq_getElem, ← BitVec.getLsbD_eq_getElem, BitVec.getLsbD_ofNat, BitVec.getLsbD_xor,
    BitVec.getLsbD_ofNat, decide_eq_true hj, Bool.true_and, Bool.true_and]
  exact Nat.testBit_xor ..

theorem ofNat_mod_two_pow (n : Nat) : BitVec.ofNat w (x.toNat % 2 ^ n) = x &&& BitVec.ofNat w (2 ^ n - 1) := by
  ext j hj
  rw [← BitVec.getLsbD_eq_getElem, ← BitVec.getLsbD_eq_getElem, BitVec.getLsbD_ofNat, BitVec.getLsbD_and,
    BitVec.getLsbD_ofNat, decide_eq_true hj, Bool.true_and, Bool.true_and, Nat.testBit_two_pow_sub_one,
    Nat.testBit_mod_two_pow, Bool.and_comm]
  rfl

end

/-! ### The words -/

theorem lanes_of_wv_late {ins : Instr} {s : State} {d : BitVec 5} {w : Nat} {f : Nat → Nat} {g : Nat → BitVec w}
    (hi : exec ins s = .next ((s.wv d (lanesOf w f)).late (.v d) 3)) (hfg : ∀ k, BitVec.ofNat w (f k) = g k) :
    ∃ r, GivesVLate ins s d r 3 ∧ ∀ k, k < 512 / w → Row.lane w r k = g k :=
  ⟨_, .of_wv_late hi, fun k hk => (lane_lanesOf f hk).trans (hfg k)⟩

/-- Settles O34: each word's lanes are its operation at them, rounded once; a pair of registers is written from 64 lanes. -/
theorem floatLaneWords : Obligations.FloatLaneWords := by
  intro s i d a b r f F W L rnd pick sign lanes N
  refine ⟨lanes_of_wv_late rfl fun k => rfl, lanes_of_wv_late rfl fun k => rfl, lanes_of_wv_late rfl fun k => rfl,
    lanes_of_wv_late rfl fun k => rfl, lanes_of_wv_late rfl fun k => ?min, lanes_of_wv_late rfl fun k => ?max,
    lanes_of_wv_late rfl fun k => ?neg, lanes_of_wv_late rfl fun k => ?abs, lanes_of_wv_late rfl fun k => rfl,
    lanes_of_wv_late rfl fun k => rfl, fun h3 => lanes_of_wv_late (if_neg h3) fun k => ?cfma, ?pair⟩
  case min => exact (ofNat_fPick ..).trans (by rw [Bool.bne_false]; rfl)
  case max => exact (ofNat_fPick ..).trans (by rw [Bool.bne_true]; rfl)
  case neg =>
    refine (apply_ite (BitVec.ofNat W) ..).trans ?_
    exact if_congr Iff.rfl rfl (ofNat_xor_toNat ..)
  case abs =>
    refine (apply_ite (BitVec.ofNat W) ..).trans ?_
    exact if_congr Iff.rfl rfl (ofNat_mod_two_pow ..)
  case cfma => exact (congrArg _ (cfmaLane_eq ..)).trans (apply_ite (BitVec.ofNat W) ..)
  case pair =>
    let out : Nat → Nat := cfmaLane .bf16 (r == 1) (fun j => FFmt.bf16.decode (s.pairLane 16 d j))
      (fun j => FFmt.bf16.decode (s.pairLane 16 a j)) (fun j => FFmt.bf16.decode (s.pairLane 16 b j))
    have hfuse : ((s.writePair 16 d out).late (.v d) 3).late (.v (d + 1)) 3 = s.modMe (fun m =>
        { (m.wv d (lanesOf 16 out)).wv (d + 1) (lanesOf 16 (fun k => out (k + 512 / 16))) with
          late := m.late ++ [(.v d, 3)] ++ [(.v (d + 1), 3)] }) := by
      rw [State.writePair_eq, State.late, State.late, State.modMe_modMe, State.modMe_modMe]
      rfl
    refine ⟨((s.writePair 16 d out).late (.v d) 3).late (.v (d + 1)) 3, rfl, hfuse ▸ s.onlyMe_modMe _,
      fun q hd hd1 => ?_, ?_, fun k hk => ?_⟩
    · rw [State.rv_late, State.rv_late, State.rv_writePair, if_neg hd1, if_neg hd]
    · rw [hfuse, State.me_modMe, List.append_assoc]
      rfl
    · refine State.pairLane_of_lanesOf ?_ ?_ hk
      · rw [State.rv_late, State.rv_late, State.rv_writePair, if_neg (succ_ne_self d).symm, if_pos rfl]
      · rw [State.rv_late, State.rv_late, State.rv_writePair, if_pos rfl]

end Sys2Proof.Machine
end

section
/-! PROOFS. The predicate words (08_vector.md, R185): O37. A predicate written from its bits reads back as them; one lemma says
which register numbers a word of major vq may name, so that any other is ILLEGAL. -/

namespace Sys2Proof.Machine

/-! ### Bits of a predicate -/

theorem sum_digits_lt {B : Nat} (d : Nat → Nat) (hd : ∀ i, d i < B) (n : Nat) :
    ∑ j ∈ Finset.range n, d j * B ^ j < B ^ n := by
  induction n with
  | zero => exact Nat.one_pos
  | succ n ih =>
    have hlast := Nat.mul_le_mul_right (B ^ n) (Nat.succ_le_of_lt (hd n))
    rw [Nat.succ_mul] at hlast
    rw [Finset.sum_range_succ, pow_succ']
    omega

theorem getLsbD_predOf (l : Nat) (f : Nat → Bool) {k : Nat} (hk : k < 128) :
    (predOf l f).getLsbD k = (decide (k < l) && f k) := by
  have hd (i : Nat) : num (f i) < 2 := by cases f i <;> decide
  rw [predOf, BitVec.getLsbD_ofNat, decide_eq_true hk, Bool.true_and, foldl_add_eq_sum, Nat.testBit_eq_decide_div_mod_eq]
  by_cases hkl : k < l
  · rw [digit_of_sum (fun i => num (f i)) hd hkl, decide_eq_true hkl, Bool.true_and]
    cases f k <;> rfl
  · have hlt := (sum_digits_lt (fun i => num (f i)) hd l).trans_le (Nat.pow_le_pow_right two_pos (not_lt.1 hkl))
    rw [Nat.div_eq_of_lt hlt, decide_eq_false hkl]
    rfl

/-! ### The words of major vq -/

/-- A word of a major decodes by the majors' tables and the checks of its fields, where its first nine bits make it no
header (R47, R70, R71). -/
theorem decode_of_top {w : BitVec 32} {top : BitVec 9} (htop : w.extractLsb' 23 9 = top) (hmark : top.toNat / 64 = 7)
    (hhead : top ≠ 0x1C0#9) : decode (Encoded.word w).bytes = .ofInstr 4 ((decMajor w).filter Instr.wf) := by
  have hmark' : w.extractLsb' 29 3 = 0x7#3 := by
    rw [slice_eq_iff] at htop ⊢
    simp only [BitVec.reduceToNat, Nat.reducePow] at htop ⊢
    omega
  have hhead' : isHeader w = false := by simpa [isHeader, htop] using hhead
  rw [decode_word, if_pos hmark', hhead', if_neg Bool.false_ne_true, decodeWord, if_pos hmark']

theorem decode_vq {w : BitVec 32} (htop : w.extractLsb' 23 9 = 0x1DE#9) :
    decode (Encoded.word w).bytes = .ofInstr 4 ((decVq w).filter Instr.wf) := by
  have hmaj : (w.extractLsb' 23 6).toNat = 0x1E := by
    rw [slice_eq_iff] at htop
    rw [toNat_slice]
    simp only [BitVec.reduceToNat, Nat.reducePow] at htop ⊢
    omega
  rw [decode_of_top htop (by decide) (by decide), decMajor, hmaj]
  rfl

/-- The predicate registers that a word n of major vq may name: p0 to p7 (R185). -/
structure VqRegsOk (n : Nat) : Prop where
  dest : n % 2 ^ 6 ≠ 0x38 → n / 2 ^ 16 % 2 ^ 5 < 8
  left : 0x30 ≤ n % 2 ^ 6 → n % 2 ^ 6 < 0x35 ∨ n % 2 ^ 6 = 0x38 → n / 2 ^ 11 % 2 ^ 5 < 8
  right : 0x30 ≤ n % 2 ^ 6 → n % 2 ^ 6 < 0x34 → n / 2 ^ 6 % 2 ^ 5 < 8

theorem VqRegsOk.of_decVq {w : BitVec 32} {i : Instr} (h : decVq w = some i) (hwf : i.wf = true) : VqRegsOk w.toNat := by
  simp only [decVq, toNat_slice, slice_eq_iff, Nat.pow_zero, Nat.div_one] at h
  repeat' split at h
  all_goals cases h
  all_goals
    simp only [Instr.wf, toNat_slice, Bool.and_eq_true, decide_eq_true_eq] at hwf
    constructor <;> omega

theorem illegalWord_vq {n : Nat} (hmaj : n / 2 ^ 23 = 0x1DE) (h : ¬VqRegsOk n) : IllegalWord n := by
  have hn : (BitVec.ofNat 32 n).toNat = n := Nat.mod_eq_of_lt (by omega)
  have htop : (BitVec.ofNat 32 n).extractLsb' 23 9 = 0x1DE#9 := slice_eq_iff.2 (by rw [hn, hmaj]; rfl)
  have hnone : (decVq (BitVec.ofNat 32 n)).filter Instr.wf = none :=
    Option.filter_eq_none_iff.2 fun i hi hwf => h (hn ▸ .of_decVq hi hwf)
  rw [IllegalWord, decode_vq htop, hnone]
  rfl

/-! ### What the words write -/

section
variable {ins : Instr} {s : State} {d a b : BitVec 5}

theorem lanes_of_predOf {l : Nat} {f : Nat → Bool} {g : Nat → Prop} (hi : exec ins s = .next (s.wp d (predOf l f)))
    (hfg : ∀ k, f k = true ↔ g k) :
    ∃ w, GivesP ins s (d.setWidth 3) w ∧ ∀ k, k < 128 → (w.getLsbD k = true ↔ k < l ∧ g k) :=
  ⟨_, .of_wp hi, fun k hk => by rw [getLsbD_predOf l f hk, Bool.and_eq_true, decide_eq_true_eq, hfg]⟩

theorem lanes_of_vqOp {t : BitVec 3} (f : Int → Int → Bool) {g : Nat → Prop} (hi : exec ins s = s.vqOp f d a b t)
    (hfg : let val (r : BitVec 5) (k : Nat) : Int :=
        if tSigned t then (Row.lane (tWidth t) (s.rv r) k).toInt else (Row.lane (tWidth t) (s.rv r) k).toNat
      ∀ k, f (val a k) (val b k) = true ↔ g k) :
    ∃ w, GivesP ins s (d.setWidth 3) w ∧ ∀ k, k < 128 → (w.getLsbD k = true ↔ k < 512 / tWidth t ∧ g k) :=
  lanes_of_predOf hi fun k => by
    simpa only [laneN, bitsInt_toNat] using hfg k

end

theorem ordered_iff (x y : FVal) : ordered x y = true ↔ x ≠ .nan ∧ y ≠ .nan := by
  simp [ordered]

theorem getLsbD_lim (n : Nat) {k : Nat} (hk : k < 128) :
    (BitVec.ofNat 128 (2 ^ min n 128 - 1)).getLsbD k = decide (k < n) := by
  rw [BitVec.getLsbD_ofNat, decide_eq_true hk, Bool.true_and, Nat.testBit_two_pow_sub_one]
  exact decide_eq_decide.2 (by omega)

theorem getLsbD_tox (p : Pred) (h : Nat) {k : Nat} (hk : k < 64) :
    ((p >>> (64 * h)).setWidth 64).getLsbD k = p.getLsbD (64 * h + k) := by
  rw [BitVec.getLsbD_setWidth, decide_eq_true hk, Bool.true_and, BitVec.getLsbD_ushiftRight]

theorem getLsbD_frx (p : Pred) (x : Word) (h : BitVec 1) {k : Nat} (hk : k < 128) :
    (if h = 0 then p.extractLsb' 64 64 ++ x else x ++ p.extractLsb' 0 64 : Pred).getLsbD k =
      if k / 64 = h.toNat then x.getLsbD (k % 64) else p.getLsbD k := by
  obtain rfl | rfl : h = 0#1 ∨ h = 1#1 := by
    revert h
    decide
  · rw [if_pos (show (0#1 : BitVec 1) = 0 from rfl), BitVec.getLsbD_append, BitVec.toNat_zero]
    by_cases hlo : k < 64
    · rw [if_pos hlo, if_pos (show k / 64 = 0 by omega), Nat.mod_eq_of_lt hlo]
    · rw [if_neg hlo, if_neg (show k / 64 ≠ 0 by omega), BitVec.getLsbD_extractLsb', decide_eq_true (by omega),
        Bool.true_and, Nat.add_sub_cancel' (not_lt.1 hlo)]
  · rw [if_neg (by decide), BitVec.getLsbD_append, BitVec.toNat_ofNat]
    by_cases hlo : k < 64
    · rw [if_pos hlo, if_neg (show k / 64 ≠ 1 by omega), BitVec.getLsbD_extractLsb', decide_eq_true hlo, Bool.true_and,
        Nat.zero_add]
    · rw [if_neg hlo, if_pos (show k / 64 = 1 by omega), show k % 64 = k - 64 by omega]

/-- Settles O37: the table of major vq with the checks of its fields, and each word's bits. -/
theorem predicateWords : Obligations.PredicateWords := by
  refine ⟨?forms, fun n hn f hf h8 => ⟨fun h => ?dest, fun hlo h => ?left, fun hlo h => ?right⟩,
    fun s i d a b t f h hd => ?meanings⟩
  case forms =>
    unfold MajorForms
    decide +kernel
  case dest => exact illegalWord_vq (by omega) fun ok => by have := ok.dest; omega
  case left => exact illegalWord_vq (by omega) fun ok => by have := ok.left; omega
  case right => exact illegalWord_vq (by omega) fun ok => by have := ok.right; omega
  case meanings =>
    intro W val F L num D p lanes
    refine ⟨lanes_of_vqOp (· == ·) rfl fun k => beq_iff_eq, lanes_of_vqOp (· != ·) rfl fun k => bne_iff_ne,
      lanes_of_vqOp (fun x y => decide (x < y)) rfl fun k => decide_eq_true_iff,
      lanes_of_vqOp (fun x y => decide (x ≤ y)) rfl fun k => decide_eq_true_iff,
      lanes_of_predOf rfl fun k => ?eq, lanes_of_predOf rfl fun k => ?lt, lanes_of_predOf rfl fun k => ?le,
      lanes_of_predOf rfl fun k => ?un, .of_wp rfl, .of_wp rfl, .of_wp rfl, .of_wp rfl, .of_wp rfl, .of_wp rfl, .of_wp rfl,
      ⟨_, .of_wp rfl, fun k hk => getLsbD_lim _ hk⟩, ⟨_, .of_wx rfl, fun k hk => getLsbD_tox _ _ hk⟩,
      ⟨_, .of_wp rfl, fun k hk => getLsbD_frx _ _ h hk⟩⟩
    case eq => exact Bool.and_eq_true_iff.trans (and_congr_left' (ordered_iff ..))
    case lt =>
      simp only [Bool.and_eq_true, Bool.not_eq_true', ordered_iff]
      exact and_assoc
    case le =>
      simp only [Bool.and_eq_true, Bool.or_eq_true, ordered_iff]
      rfl
    case un =>
      simp only [Bool.not_eq_true', Bool.eq_false_iff, ne_eq, ordered_iff]
      rfl

end Sys2Proof.Machine
end

section
/-! PROOFS. The issue of scratchpad accesses (08_vector.md, R178, R180, R192; 11_scratchpad.md, R224, R230 to R232): O29. Every
form issues through `issueLoad` or `issueRow`, or checks its address in the same way and then waits. -/

namespace Sys2Proof.Machine

/-- The stream with one access issued behind its earlier ones, whose result is counted from its issue (R171, R263). -/
def Stream.issued (m : Stream) (cls : BitVec 4) (home : Home) (off : Nat) (win : Bool) (k : AccKind) : Stream :=
  { m with
    pend := m.pend ++ [{ seq := m.seq, cls := cls, home := home, off := off, win := win, kind := k }]
    seq := m.seq + 1
    late := match k.timed with
      | some r => m.late ++ [(r, latency win)]
      | none => m.late }

theorem State.issue_eq (s : State) (cls : BitVec 4) (home : Home) (ea : Word) (win : Bool) (k : AccKind) :
    s.issue cls home (bits ea 5 0) win k = s.modMe (fun m => m.issued cls home (ea.toNat % 64) win k) := by
  rw [bits_low]
  rfl

theorem reachRow_eq_none {pcn : Nat} {ea : Word} (h : reach pcn ea = none) : reachRow pcn ea = none := by
  rw [reachRow, h]

section
variable {i : Instr} {s : State} {cls : BitVec 4} {ea : Word} {x : AccKind} {h : Home} {p n k : Nat} {w : Bool}

theorem GivesMe.of_issueLoad (hr : reach s.cur.core ea = some (h, w)) (hi : exec i s = s.issueLoad cls ea x) :
    GivesMe i s (s.me.issued cls h (ea.toNat % 64) w x) := by
  rw [State.issueLoad, hr] at hi
  exact .of_modMe (hi.trans (congrArg _ (s.issue_eq ..)))

theorem GivesMe.of_issueRow (hr : reachRow s.cur.core ea = some (p, n, w)) (hi : exec i s = s.issueRow cls ea x) :
    GivesMe i s (s.me.issued cls (.bank p n) (ea.toNat % 64) w x) := by
  rw [State.issueRow, hr] at hi
  exact .of_modMe (hi.trans (congrArg _ (s.issue_eq ..)))

/-- A form that issues an access and then waits. -/
theorem GivesMe.of_issue_wait {wt : Wait}
    (hi : exec i s = .next ((s.issue cls h (bits ea 5 0) w x).waitFor wt)) :
    GivesMe i s { s.me.issued cls h (ea.toNat % 64) w x with wait := wt } :=
  .of_modMe (f := fun m => { m.issued cls h (ea.toNat % 64) w x with wait := wt })
    (hi.trans (congrArg _ ((congrArg (State.waitFor · wt) (s.issue_eq ..)).trans (s.modMe_modMe ..))))

theorem TakesFault.of_issueLoad (hk : s.myCore.kernel = some k) (hK : (s.kernel k).Faultable)
    (hr : reach s.cur.core ea = none) (hi : exec i s = s.issueLoad cls ea x) : TakesFault i s k .addrRange 0 := by
  rw [State.issueLoad, hr] at hi
  exact .of_streamFault hk hK hi

theorem TakesFault.of_issueRow (hk : s.myCore.kernel = some k) (hK : (s.kernel k).Faultable)
    (hr : reach s.cur.core ea = none) (hi : exec i s = s.issueRow cls ea x) : TakesFault i s k .addrRange 0 := by
  rw [State.issueRow, reachRow_eq_none hr] at hi
  exact .of_streamFault hk hK hi

theorem GivesMe.of_monitored {op : MonOp} {d a : BitVec 5} {lt : BitVec 3}
    (hr : reachRow s.cur.core (s.base a) = some (p, n, w)) (hi : exec i s = s.monitored op d a cls lt) :
    GivesMe i s { s.me.issued cls (.bank p n) ((s.base a).toNat % 64) w
      (.monitor op lt d (word ((s.rx d).toNat % 2 ^ (8 * laneBytes lt)))) with wait := .monitor d } := by
  rw [State.monitored, hr] at hi
  exact .of_issue_wait hi

end

theorem State.ea_eq (s : State) (a : BitVec 5) (o : BitVec 7) : s.ea a o = s.base a + 64 * o.signExtend 64 := by
  rw [State.ea, rowOffset, shiftLeft_six]

theorem State.vea_eq (s : State) (v : BitVec 3) (o : BitVec 7) :
    s.vea v o = s.rx (v.setWidth 5) + 64 * o.signExtend 64 := by
  rw [State.vea, rowOffset, shiftLeft_six]

theorem GivesMe.of_vmRmg {s : State} {i : BitVec 2} {d : BitVec 5} {v : BitVec 3} {c : BitVec 4} {o : BitVec 7} {ea : Word}
    {h h' : Home} {w w' : Bool} (hea : s.vea v o = ea) (hr : reach s.cur.core ea = some (h, w))
    (hr' : reach s.cur.core (ea + 64) = some (h', w')) : GivesMe (.vmRmg i d v c o) s
      ((s.me.issued c h (ea.toNat % 64) w (.rmgLow d)).issued c h' (ea.toNat % 64) w' (.rmgHigh d)) := by
  subst hea
  have hi : exec (.vmRmg i d v c o) s = .next ((s.issue c h (bits (s.vea v o) 5 0) w (.rmgLow d)).issue c h'
      (bits (s.vea v o) 5 0) w' (.rmgHigh d)) := by
    change execVmRmg d v c o s = _
    simp only [execVmRmg, hr, hr']
  rw [State.issue_eq, State.issue_eq, State.modMe_modMe] at hi
  exact .of_modMe hi

/-- Settles O29: each form issues its access at the row its address reaches, or faults where it reaches none. -/
theorem scratchpadWordsIssueTheirAccesses : Obligations.ScratchpadWordsIssueTheirAccesses := by
  refine ⟨fun s i d a v b c o k h h' w w' p n hk hK => ?loads, fun s i d a c w p n win => ?atomics⟩
  case loads =>
    intro base ea vea acc issued
    have hld : exec (.ld i d a c o) s = s.issueLoad c ea (.loadX d) :=
      congrArg (s.issueLoad c · (.loadX d)) (s.ea_eq a o)
    have hst : exec (.st i d a c o) s = s.issueRow c ea (.storeX (s.rx d)) :=
      congrArg (s.issueRow c · (.storeX (s.rx d))) (s.ea_eq a o)
    have hvld : exec (.vmLd i d v c o) s = s.issueLoad c vea (.loadV d) :=
      congrArg (s.issueLoad c · (.loadV d)) (s.vea_eq v o)
    have hvst : exec (.vmSt i d v c o) s = s.issueRow c vea (.storeV (s.rv d)) :=
      congrArg (s.issueRow c · (.storeV (s.rv d))) (s.vea_eq v o)
    have hplain (m : Stream) (h : Home) (w : Bool) (ea : Word) (x : AccKind) (hx : x.timed = none) :
        m.issued c h (ea.toNat % 64) w x = issued m h w ea c x none := by
      rw [Stream.issued, hx]
      exact congrArg (fun l => { m with pend := m.pend ++ [acc m h w ea c x], seq := m.seq + 1, late := l })
        (List.append_nil _).symm
    refine ⟨fun hr => .of_issueLoad hr hld, fun hr => ⟨.of_issueLoad hk hK hr hld, .of_issueRow hk hK hr hst⟩,
      fun hr => hplain s.me (.bank p n) w ea (.storeX (s.rx d)) rfl ▸ .of_issueRow hr hst, fun hr => .of_issueLoad hr hvld,
      fun hr => hplain s.me (.bank p n) w vea (.storeV (s.rv d)) rfl ▸ .of_issueRow hr hvst, fun hr hr' => ?rmg, fun hr => ?claim⟩
    case rmg => exact .of_vmRmg (s.vea_eq v o) hr hr'
    case claim => 
      have hclaim : exec (.rgClaim i d a b) s =
          .next ((s.issue 15 (.bank p n) (bits (s.rx a) 5 0) w (.claim d (s.rx b))).waitFor (.claim d)) := by
        change execRgClaim d a b s = _
        rw [execRgClaim, hr]
      exact .of_issue_wait hclaim
  case atomics =>
    intro base low issued at_ mon hr
    have hat (op : AtOp) {ins : Instr} (hi : exec ins s = s.atomic op d a c w) : GivesMe ins s (at_ op) :=
      .of_issueRow hr hi
    have hmon (op : MonOp) {ins : Instr} (hi : exec ins s = s.monitored op d a c w) : GivesMe ins s (mon op) :=
      .of_monitored hr hi
    exact ⟨hat _ rfl, hat _ rfl, hat _ rfl, hat _ rfl, hat _ rfl, hat _ rfl, hat _ rfl, hat _ rfl, hat _ rfl, hat _ rfl,
      hat _ rfl, hmon _ rfl, hmon _ rfl, hmon _ rfl, hmon _ rfl⟩

end Sys2Proof.Machine
end

section
/-! PROOFS. A bank performs loads and stores (08_vector.md, R178; 11_scratchpad.md, R225, R227; 03_encoding.md, R52; 06_kernel.md,
R144): O30. Bytes of a row, of a number read from a row and of a row written from a number are the same digits; the rest is which
part of the state a performed access changes. -/

namespace Sys2Proof.Machine

/-! ### Bytes of rows and numbers -/

theorem toNat_byte (r : Row) (j : Nat) : (Row.byte r j).toNat = r.toNat / 256 ^ j % 256 := by
  rw [Row.byte, BitVec.toNat_setWidth, BitVec.toNat_ushiftRight, Nat.shiftRight_eq_div_pow, pow_mul]
  rfl

theorem setWidth_byte_word (w : Word) (j : Nat) : ((w >>> (8 * j)).setWidth 8).toNat = w.toNat / 256 ^ j % 256 := by
  rw [BitVec.toNat_setWidth, BitVec.toNat_ushiftRight, Nat.shiftRight_eq_div_pow, pow_mul]
  rfl

/-- The digits below the nth of a number are those of its last n. -/
theorem digit_mod_pow (x : Nat) {j n : Nat} (hj : j < n) : x % 256 ^ n / 256 ^ j % 256 = x / 256 ^ j % 256 := by
  obtain ⟨l, rfl⟩ := Nat.exists_eq_add_of_lt hj
  rw [Nat.add_assoc, pow_add, Nat.mod_mul_right_div_self, Nat.mod_mod_of_dvd _ (dvd_pow_self 256 (Nat.succ_ne_zero l))]

theorem digit_ofNat {w n : Nat} (hw : w = 8 * n) (x : Nat) {j : Nat} (hj : j < n) :
    (BitVec.ofNat w x).toNat / 256 ^ j % 256 = x / 256 ^ j % 256 := by
  rw [hw, BitVec.toNat_ofNat, pow_mul]
  exact digit_mod_pow x hj

theorem digit_cons (b : Byte) (m j : Nat) :
    (b.toNat + 256 * m) / 256 ^ (j + 1) % 256 = m / 256 ^ j % 256 := by
  have hb := b.isLt
  rw [pow_succ', ← Nat.div_div_eq_div_mul, show (b.toNat + 256 * m) / 256 = m by omega]

/-- The digits of a number in memory are its bytes (R2). -/
theorem Mem.digit_num (m : Mem) (a n : Nat) {j : Nat} (hj : j < n) :
    m.num a n / 256 ^ j % 256 = (m.byte (a + j)).toNat := by
  induction n generalizing a j with
  | zero => cases hj
  | succ n ih =>
    rw [Mem.num]
    cases j with
    | zero => rw [pow_zero, Nat.div_one, Nat.add_mul_mod_self_left, Nat.mod_eq_of_lt (m.byte a).isLt, Nat.add_zero]
    | succ j => rw [digit_cons, ih (a + 1) (Nat.lt_of_succ_lt_succ hj), Nat.add_right_comm, Nat.add_assoc]

theorem Mem.byte_row (m : Mem) (a : Nat) {j : Nat} (hj : j < 64) : Row.byte (m.row a) j = m.byte (a + j) := by
  apply BitVec.eq_of_toNat_eq
  rw [toNat_byte, Mem.row, digit_ofNat rfl _ hj, Mem.digit_num _ _ _ hj]

theorem Mem.byte_setRow_inside (m : Mem) (a : Nat) (r : Row) {j : Nat} (hj : j < 64) :
    (m.setRow a r).byte (a + j) = Row.byte r j := by
  apply BitVec.eq_of_toNat_eq
  rw [Mem.setRow, Mem.byte_setNum_inside _ _ _ _ _ hj, BitVec.toNat_ofNat, toNat_byte]

/-- The digits of the bytes of a row from an offset, wrapping within the row (R178). -/
theorem Row.digit_bytesAt (r : Row) (off n : Nat) {j : Nat} (hj : j < n) :
    Row.bytesAt r off n / 256 ^ j % 256 = (Row.byte r ((off + j) % 64)).toNat := by
  induction n generalizing off j with
  | zero => cases hj
  | succ n ih =>
    rw [Row.bytesAt]
    cases j with
    | zero =>
      rw [pow_zero, Nat.div_one, Nat.add_mul_mod_self_left, Nat.mod_eq_of_lt (Row.byte r (off % 64)).isLt, Nat.add_zero]
    | succ j => rw [digit_cons, ih (off + 1) (Nat.lt_of_succ_lt_succ hj), Nat.add_right_comm, Nat.add_assoc]

theorem byte_word_bytesAt (r : Row) (off : Nat) {j : Nat} (hj : j < 8) :
    ((word (Row.bytesAt r off 8)) >>> (8 * j)).setWidth 8 = Row.byte r ((off + j) % 64) := by
  apply BitVec.eq_of_toNat_eq
  rw [setWidth_byte_word, word, digit_ofNat rfl _ hj, Row.digit_bytesAt _ _ _ hj]

theorem Row.byte_setByte (r : Row) (b : Byte) {i j : Nat} (hi : i < 64) (hj : j < 64) :
    Row.byte (Row.setByte r i b) j = if j = i then b else Row.byte r j := by
  have hff (x : Nat) (hx : x < 512) : (0xFF#512).getLsbD x = decide (x < 8) := by
    rw [show (0xFF#512) = BitVec.ofNat 512 (2 ^ 8 - 1) from rfl, BitVec.getLsbD_ofNat, decide_eq_true hx, Bool.true_and,
      Nat.testBit_two_pow_sub_one]
  ext l hl
  have hbound : 8 * j + l < 512 := by omega
  have hbyte (q : Row) : (Row.byte q j).getLsbD l = q.getLsbD (8 * j + l) :=
    (getLsbD_lane 8 q j l).trans (by rw [decide_eq_true hl, Bool.true_and])
  rw [← BitVec.getLsbD_eq_getElem, ← BitVec.getLsbD_eq_getElem, hbyte, Row.setByte, BitVec.getLsbD_or, BitVec.getLsbD_and,
    BitVec.getLsbD_not, BitVec.getLsbD_shiftLeft, BitVec.getLsbD_shiftLeft, BitVec.getLsbD_setWidth,
    hff _ (by omega), decide_eq_true hbound, decide_eq_true (show 8 * j + l - 8 * i < 512 by omega)]
  simp only [Bool.true_and]
  obtain h | rfl | h := lt_trichotomy j i
  · rw [if_neg h.ne, hbyte, decide_eq_true (show 8 * j + l < 8 * i by omega)]
    simp
  · rw [if_pos rfl, decide_eq_false (show ¬8 * j + l < 8 * j by omega), Nat.add_sub_cancel_left, decide_eq_true hl]
    simp
  · rw [if_neg h.ne', hbyte, decide_eq_false (show ¬8 * j + l < 8 * i by omega),
      decide_eq_false (show ¬8 * j + l - 8 * i < 8 by omega), BitVec.getLsbD_of_ge b _ (by omega)]
    simp

theorem Row.byte_putBytes (r : Row) (off v n : Nat) (hn : n ≤ 64) {j : Nat} (hj : j < 64) :
    Row.byte (Row.putBytes r off v n) j =
      if (j + 64 - off % 64) % 64 < n then BitVec.ofNat 8 (v / 256 ^ ((j + 64 - off % 64) % 64)) else Row.byte r j := by
  induction n generalizing r off v with
  | zero => rfl
  | succ n ih =>
    rw [Row.putBytes, ih _ _ _ (by omega), Row.byte_setByte _ _ (Nat.mod_lt _ (by decide)) hj]
    by_cases hfirst : j = off % 64
    · rw [if_neg (show ¬(j + 64 - (off + 1) % 64) % 64 < n by omega), if_pos hfirst,
        show (j + 64 - off % 64) % 64 = 0 by omega, if_pos (Nat.zero_lt_succ n), pow_zero, Nat.div_one]
    · have hstep : (j + 64 - off % 64) % 64 = (j + 64 - (off + 1) % 64) % 64 + 1 := by omega
      rw [if_neg hfirst, hstep, pow_succ', ← Nat.div_div_eq_div_mul]
      simp only [Nat.succ_lt_succ_iff]

/-! ### A row written at its bank -/

theorem State.sp_modStream (s : State) (id : StreamId) (f : Stream → Stream) (c : Nat) :
    ((s.modStream id f).core c).sp = (s.core c).sp := by
  rw [State.core_modStream]
  split
  · exact Core.sp_setStream ..
  · rfl

theorem State.monitors_modStream (s : State) (id : StreamId) (f : Stream → Stream) (c : Nat) :
    ((s.modStream id f).core c).monitors = (s.core c).monitors := by
  rw [State.core_modStream]
  split
  · exact Core.monitors_setStream ..
  · rfl

/-- Where no monitor is armed, a write of a row changes the bytes of its core's scratchpad alone. -/
theorem State.writeRow_eq {s : State} {c : Nat} (hmon : (s.core c).monitors = []) (n : Nat) (r : Row) :
    s.writeRow c n r = (s.modCore c (fun k => { k with sp := Mem.setRow k.sp (64 * n) r })).modCore c
      (fun k => { k with monitors := [] }) := by
  have hwritten : ((s.modCore c (fun k => { k with sp := Mem.setRow k.sp (64 * n) r })).core c).monitors = [] := by
    rw [State.modCore, State.core_setCore_self, hmon]
  simp only [State.writeRow, State.retest, hwritten, List.filter_nil, List.foldl_nil]
  simp only [State.modCore, State.core_setCore_self, hmon, List.filter_nil]

theorem State.core_writeRow {s : State} {c : Nat} (hmon : (s.core c).monitors = []) (n : Nat) (r : Row) (b : Nat) :
    (s.writeRow c n r).core b =
      if b = c then { s.core c with sp := Mem.setRow (s.core c).sp (64 * n) r } else s.core b := by
  rw [State.writeRow_eq hmon, State.modCore, State.modCore, State.core_setCore, State.core_setCore, State.core_setCore,
    if_pos rfl]
  split
  · rw [← hmon]
  · rfl

theorem State.mem_writeRow {s : State} {c : Nat} (hmon : (s.core c).monitors = []) (n : Nat) (r : Row) :
    (s.writeRow c n r).mem = s.mem := by
  rw [State.writeRow_eq hmon]
  rfl

/-- A write of a row changes no stream. -/
theorem State.stream_writeRow {s : State} {c : Nat} (hmon : (s.core c).monitors = []) (n : Nat) (r : Row) (id : StreamId) :
    (s.writeRow c n r).stream id = s.stream id := by
  rw [State.stream, State.core_writeRow hmon, State.stream]
  split
  next h =>
    rw [h]
    cases id.eng <;> rfl
  next => rfl

/-! ### Results that reach a register (R52, R144) -/

theorem Stream.result_of_not_saved (m : Stream) (h : m.saved = none) (seq : Nat) (d : BitVec 5) (v : Word) :
    m.result seq d v = { m.wx d (v + m.owed.get 0 d.toNat) with owed := m.owed.erase d.toNat } := by
  rw [Stream.result, h]

theorem Stream.result_of_saved (m : Stream) {z : Snapshot} (h : m.saved = some z) {seq : Nat} (hseq : seq < z.seq)
    {d : BitVec 5} (hd : d ≠ 0) (v : Word) : ∃ y, (m.result seq d v).saved = some y
      ∧ y.x.get d.toFin = v + z.owed.get 0 d.toNat ∧ ∀ r, r ≠ d → y.x.get r.toFin = z.x.get r.toFin := by
  rw [Stream.result, h]
  simp only [hseq, hd, ne_eq, not_false_eq_true, and_self, if_true]
  refine ⟨_, rfl, ?_, fun r hr => ?_⟩
  · simp [Vector.get_eq_getElem]
  · have hne : d.toNat ≠ r.toNat := fun heq => hr (BitVec.eq_of_toNat_eq heq.symm)
    simp [Vector.get_eq_getElem, hne]

theorem Stream.resultV_of_not_saved (m : Stream) (h : m.saved = none) (old : Bool) (d : BitVec 5) (f : Row → Row) :
    m.resultV old d f = m.wv d (f (m.rv d)) := by
  rw [Stream.resultV, h]

/-! ### The performance of one access -/

/-- The state from which a bank performs the only access of a stream: that access is no longer issued. -/
def State.taken (s : State) (id : StreamId) : State := s.modStream id (fun m => { m with pend := [] })

theorem State.stream_taken (s : State) (id : StreamId) :
    (s.taken id).stream id = { s.stream id with pend := [] } := by
  rw [State.taken, State.stream_modStream, if_pos rfl]

theorem State.row_taken (s : State) (id : StreamId) (c n : Nat) : ((s.taken id).core c).row n = (s.core c).row n := by
  rw [Core.row, State.taken, State.sp_modStream]
  rfl

section
variable {s : State} {pcn : Nat} {e : Eng} {a : Access} {c n : Nat} (hclock : (s.tractOf pcn).ticking = true)
  (hpend : (s.stream ⟨pcn, e⟩).pend = [a]) (hhome : a.home = .bank c n)
include hclock hpend

theorem exec_bankAccess : exec (.bankAccess pcn (.stream e) 0) s = .next ((s.taken ⟨pcn, e⟩).perform ⟨pcn, e⟩ a) := by
  change execBankAccess pcn (.stream e) 0 s = _
  have htaken : s.modStream ⟨pcn, e⟩ (fun m => { m with pend := m.pend.eraseIdx 0 }) = s.taken ⟨pcn, e⟩ := by
    simp only [State.modStream, State.taken, hpend, List.eraseIdx_zero, List.tail_cons]
  rw [execBankAccess]
  simp only [hpend, hclock, htaken]
  rfl

/-- A load changes the stream that issued it and no byte. -/
theorem bankAccess_loads {g : Stream → Stream}
    (hperform : (s.taken ⟨pcn, e⟩).perform ⟨pcn, e⟩ a = (s.taken ⟨pcn, e⟩).modStream ⟨pcn, e⟩ g) :
    ∃ t, exec (.bankAccess pcn (.stream e) 0) s = .next t ∧ s.SameBytes t
      ∧ t.stream ⟨pcn, e⟩ = g { s.stream ⟨pcn, e⟩ with pend := [] } := by
  refine ⟨(s.taken ⟨pcn, e⟩).modStream ⟨pcn, e⟩ g, hperform ▸ exec_bankAccess hclock hpend,
    (s.sameBytes_modStream ..).trans (State.sameBytes_modStream ..), ?_⟩
  rw [State.stream_modStream, if_pos rfl, State.stream_taken]

/-- A store changes the bytes of its row, to those of the row it writes, and no stream. -/
theorem bankAccess_stores {r : Row} (hmon : (s.core c).monitors = [])
    (hperform : (s.taken ⟨pcn, e⟩).perform ⟨pcn, e⟩ a = (s.taken ⟨pcn, e⟩).writeRow c n r) :
    ∃ t, exec (.bankAccess pcn (.stream e) 0) s = .next t ∧ t.stream ⟨pcn, e⟩ = { s.stream ⟨pcn, e⟩ with pend := [] }
      ∧ (t.mem = s.mem ∧ (∀ b, b ≠ c → (t.core b).sp = (s.core b).sp)
        ∧ ∀ x, x < 64 * n ∨ 64 * n + 64 ≤ x → Mem.byte (t.core c).sp x = Mem.byte (s.core c).sp x)
      ∧ ∀ j < 64, Mem.byte (t.core c).sp (64 * n + j) = Row.byte r j := by
  have hmon' : ((s.taken ⟨pcn, e⟩).core c).monitors = [] := by rw [State.taken, State.monitors_modStream, hmon]
  have hsp : (((s.taken ⟨pcn, e⟩).writeRow c n r).core c).sp = Mem.setRow (s.core c).sp (64 * n) r := by
    rw [State.core_writeRow hmon', if_pos rfl, State.taken, State.sp_modStream]
  refine ⟨_, hperform ▸ exec_bankAccess hclock hpend, ?_, ⟨State.mem_writeRow hmon' .., fun b hb => ?_, fun x hx => ?_⟩,
    fun j hj => ?_⟩
  · rw [State.stream_writeRow hmon', State.stream_taken]
  · rw [State.core_writeRow hmon', if_neg hb, State.taken, State.sp_modStream]
  · rw [hsp]
    exact Mem.byte_setNum_outside _ _ _ _ _ hx
  · rw [hsp, Mem.byte_setRow_inside _ _ _ hj]

end

/-- Settles O30: a load reads the bytes of its row into the stream, a store writes them, and neither does more. -/
theorem banksPerformLoadsAndStores : Obligations.BanksPerformLoadsAndStores := by
  intro s pcn e a c n d v r hclock hpend hhome hoff hmon m rd only
  have hrow (j : Nat) (hj : j < 64) : Row.byte ((s.core c).row n) j = rd s j := Mem.byte_row _ _ hj
  have hhomeRow : (s.taken ⟨pcn, e⟩).homeRow (.bank c n) = (s.core c).row n := s.row_taken ..
  refine ⟨fun hk => ?loadX, fun hk => ?storeX, fun hk => ?loadV, fun hk => ?storeV⟩
  case loadX =>
    obtain ⟨t, ht, hbytes, hstream⟩ := bankAccess_loads hclock hpend
      (g := fun m => m.result a.seq d (word (Row.bytesAt ((s.core c).row n) a.off 8))) (by
        simp only [State.perform, hk, hhome, hhomeRow])
    refine ⟨t, _, ht, hbytes, fun j hj => (byte_word_bytesAt _ _ hj).trans (hrow _ (Nat.mod_lt _ (by decide))),
      fun hsaved => hstream.trans (m.result_of_not_saved hsaved ..), fun z hsaved hseq hd => ?_⟩
    obtain ⟨y, hy, hown, hother⟩ := m.result_of_saved hsaved hseq hd (word (Row.bytesAt ((s.core c).row n) a.off 8))
    exact ⟨y, (congrArg Stream.saved hstream).trans hy, hown, hother⟩
  case storeX =>
    obtain ⟨t, ht, hstream, honly, hbyte⟩ := bankAccess_stores hclock hpend hmon
      (n := n) (r := Row.putBytes ((s.core c).row n) a.off v.toNat 8) (by
        simp only [State.perform, hk, hhome, hhomeRow])
    refine ⟨t, ht, hstream, honly, fun j hj => (hbyte j hj).trans ?_⟩
    rw [Row.byte_putBytes _ _ _ _ (by decide) hj, Nat.mod_eq_of_lt hoff, hrow j hj]
    exact if_congr Iff.rfl (BitVec.eq_of_toNat_eq (by rw [BitVec.toNat_ofNat, setWidth_byte_word])) rfl
  case loadV =>
    obtain ⟨t, ht, hbytes, hstream⟩ := bankAccess_loads hclock hpend
      (g := fun m => m.resultV (m.issuedBefore a.seq) d (fun _ => (s.core c).row n)) (by
        simp only [State.perform, hk, hhome, hhomeRow])
    exact ⟨t, _, ht, hbytes, fun hsaved => hstream.trans (m.resultV_of_not_saved hsaved ..), hrow⟩
  case storeV =>
    exact bankAccess_stores hclock hpend hmon (by simp only [State.perform, hk, hhome])

end Sys2Proof.Machine
end

section
/-! PROOFS. The mix and the expert words (08_vector.md, R189 to R191): parts of O38. The mix is a fold over rounds, group by group;
the expert words write pairs of registers from 64 lanes, the scatter by a walk in lane order. -/

namespace Sys2Proof.Machine

/-! ### The mix (R189) -/

/-- Word j of the counter after n rounds of its group. -/
def mixed (counter key : Row) (n j : Nat) : BitVec 32 :=
  let c := rmixGroup n (fun i => Row.lane 32 key (4 * (j / 4) + i))
    (Row.lane 32 counter (4 * (j / 4)), Row.lane 32 counter (4 * (j / 4) + 1), Row.lane 32 counter (4 * (j / 4) + 2),
      Row.lane 32 counter (4 * (j / 4) + 3))
  if j % 4 = 0 then c.1 else if j % 4 = 1 then c.2.1 else if j % 4 = 2 then c.2.2.1 else c.2.2.2

theorem rmixGroup_succ (n : Nat) (k : Nat → BitVec 32) (c : BitVec 32 × BitVec 32 × BitVec 32 × BitVec 32) :
    rmixGroup (n + 1) k c = rmixRound k n (rmixGroup n k c) := by
  rw [rmixGroup, List.range_succ, List.foldl_append]
  rfl

theorem mixed_zero (counter key : Row) (j : Nat) : mixed counter key 0 j = Row.lane 32 counter j := by
  have hj : 4 * (j / 4) + j % 4 = j := Nat.div_add_mod j 4
  have hlt : j % 4 < 4 := Nat.mod_lt _ (by decide)
  rw [mixed]
  simp only [rmixGroup, List.range_zero, List.foldl_nil]
  interval_cases h : j % 4 <;> simp_all

/-- One round of one group. -/
theorem mixed_succ (counter key : Row) (n g : Nat) :
    let C (j : Nat) : BitVec 32 := mixed counter key n j
    let C' (j : Nat) : BitVec 32 := mixed counter key (n + 1) j
    let K (j : Nat) : BitVec 32 := Row.lane 32 key (4 * g + j % 4)
    C' (4 * g) = (C (4 * g) + K n).rotateLeft 7 ^^^ C (4 * g + 3)
      ∧ C' (4 * g + 1) = (C (4 * g + 1) ^^^ C' (4 * g)) * 0x2F4BC5A9
      ∧ C' (4 * g + 2) = (C (4 * g + 2) + C' (4 * g + 1)).rotateLeft 13 ^^^ (K (n + 1) + BitVec.ofNat 32 n)
      ∧ C' (4 * g + 3) = (C (4 * g + 3) ^^^ C' (4 * g + 2)) * 0x91D36E17 := by
  have h0 : 4 * g / 4 = g := by omega
  have h1 : (4 * g + 1) / 4 = g := by omega
  have h2 : (4 * g + 2) / 4 = g := by omega
  have h3 : (4 * g + 3) / 4 = g := by omega
  have m0 : 4 * g % 4 = 0 := by omega
  have m1 : (4 * g + 1) % 4 = 1 := by omega
  have m2 : (4 * g + 2) % 4 = 2 := by omega
  have m3 : (4 * g + 3) % 4 = 3 := by omega
  simp only [mixed, rmixGroup_succ, h0, h1, h2, h3, m0, m1, m2, m3]
  exact ⟨rfl, rfl, rfl, rfl⟩

/-- What `vt.rmix` does. -/
theorem exec_vtRmix (s : State) (i : BitVec 2) (d a n : BitVec 5) :
    ∃ t, exec (.vtRmix i d a n) s = .next t ∧ s.OnlyMe t ∧ t.me.busy = s.me.busy + (n.toNat - 1)
      ∧ (∀ r, r ≠ d → t.rv r = s.rv r) ∧ ∀ j < 16, Row.lane 32 (t.rv d) j = mixed (s.rv d) (s.rv a) n.toNat j := by
  let out : Row := Row.ofLanes 32 (mixed (s.rv d) (s.rv a) n.toNat)
  have hfuse : (s.wv d out).spend (n.toNat - 1) = s.modMe (fun m => { m.wv d out with busy := m.busy + (n.toNat - 1) }) :=
    s.modMe_modMe ..
  refine ⟨(s.wv d out).spend (n.toNat - 1), rfl, hfuse ▸ s.onlyMe_modMe _, ?_, fun r hr => ?_, fun j hj => ?_⟩
  · rw [hfuse, State.me_modMe]
  · rw [State.rv_spend, State.rv_wv, if_neg hr]
  · rw [State.rv_spend, State.rv_wv, if_pos rfl, lane_ofLanes _ hj]

/-! ### Pairs of registers -/

/-- A word that writes the pair v[d], v[d + 1] and takes two issue cycles. -/
theorem GivesPair.of_writePair {i : Instr} {s : State} {d : BitVec 5} {w : Nat} {f : Nat → Nat}
    (hi : exec i s = .next ((s.writePair w d f).spend 1)) :
    GivesPair i s d (lanesOf w f) (lanesOf w (fun k => f (k + 512 / w))) := by
  have hfuse : (s.writePair w d f).spend 1 = s.modMe (fun m =>
      { (m.wv d (lanesOf w f)).wv (d + 1) (lanesOf w (fun k => f (k + 512 / w))) with busy := m.busy + 1 }) := by
    rw [State.writePair_eq]
    exact s.modMe_modMe ..
  refine ⟨_, hi, hfuse ▸ s.onlyMe_modMe _, ?_, fun r hd hd1 => ?_, ?_, ?_⟩
  · rw [hfuse, State.me_modMe]
    rfl
  · rw [State.rv_spend, State.rv_writePair, if_neg hd1, if_neg hd]
  · rw [State.rv_spend, State.rv_writePair, if_neg (succ_ne_self d).symm, if_pos rfl]
  · rw [State.rv_spend, State.rv_writePair, if_pos rfl]

/-- Lane j of a pair of 16-bit lanes as the statement of O38 writes it. -/
theorem pair_lanesOf (f : Nat → Nat) {j : Nat} (hj : j < 64) :
    (if j < 32 then (Row.lane 16 (lanesOf 16 f) j).toNat
      else (Row.lane 16 (lanesOf 16 (fun k => f (k + 512 / 16))) (j - 32)).toNat) = f j % 65536 := by
  split
  case isTrue h => rw [lane_lanesOf _ h, BitVec.toNat_ofNat]
  case isFalse h => rw [lane_lanesOf _ (by omega), BitVec.toNat_ofNat, show j - 32 + 512 / 16 = j by omega]

theorem State.pairLane_lt (s : State) (w : Nat) (n : BitVec 5) (k : Nat) : s.pairLane w n k < 2 ^ w := by
  unfold State.pairLane laneN
  split
  · exact (Row.lane ..).isLt
  · exact (Row.lane ..).isLt

/-! ### The walk of the scatter (R191) -/

theorem Tbl.get_map_range (f : Nat → Nat) {n e : Nat} (he : e < n) :
    Tbl.get ((List.range n).map (fun e => (e, f e))) 0 e = f e := by
  have hfind (l : List Nat) (h : e ∈ l) : Tbl.find? (l.map (fun e => (e, f e))) e = some (f e) := by
    induction l with
    | nil => cases h
    | cons x l ih =>
      simp only [List.map_cons, Tbl.find?]
      split
      case isTrue hx => rw [hx]
      case isFalse hx => exact ih ((List.mem_cons.1 h).resolve_left (Ne.symm hx))
  rw [Tbl.get, hfind _ (List.mem_range.2 he)]
  rfl

theorem escatWalk_succ (id : Nat → Nat) (off : Tbl Nat) (n : Nat) :
    escatWalk ((List.range (n + 1)).map id) off =
      let r := escatWalk ((List.range n).map id) off
      if id n < 64 then (r.1 ++ [r.2.get 0 (id n)], r.2.set (id n) ((r.2.get 0 (id n) + 1) % 65536))
      else (r.1 ++ [65535], r.2) := by
  rw [escatWalk, List.range_succ, List.map_append, List.foldl_append]
  rfl

section
variable (id : Nat → Nat) (off : Tbl Nat) (hoff : ∀ e < 64, off.get 0 e < 65536)
include hoff

/-- An offset after n lanes: as many past its first value as lanes named it. -/
theorem escatWalk_offset (n : Nat) {e : Nat} (he : e < 64) : (escatWalk ((List.range n).map id) off).2.get 0 e =
    (off.get 0 e + (List.range n).countP (fun m => id m = e)) % 65536 := by
  induction n with
  | zero => exact (Nat.mod_eq_of_lt (hoff e he)).symm
  | succ n ih =>
    rw [escatWalk_succ, List.range_succ, List.countP_append]
    dsimp only
    split
    case isTrue hn =>
      rw [Tbl.get_set]
      by_cases h : e = id n
      · subst h
        rw [if_pos rfl, ih]
        simp
        omega
      · rw [if_neg h, ih]
        simp [Ne.symm h]
    case isFalse hn =>
      rw [ih]
      simp [show id n ≠ e by omega]

omit hoff in
theorem escatWalk_length (n : Nat) : (escatWalk ((List.range n).map id) off).1.length = n := by
  induction n with
  | zero => rfl
  | succ n ih =>
    rw [escatWalk_succ]
    dsimp only
    split <;> simp [ih]

/-- The position of a lane: the offset of its expert as the lanes before have left it. -/
theorem escatWalk_position {n j : Nat} (hj : j < n) : (escatWalk ((List.range n).map id) off).1.getD j 0 =
    if id j < 64 then (off.get 0 (id j) + (List.range j).countP (fun m => id m = id j)) % 65536 else 65535 := by
  induction n with
  | zero => cases hj
  | succ n ih =>
    have hlen := escatWalk_length id off n
    rw [escatWalk_succ]
    dsimp only
    obtain h | rfl := Nat.lt_succ_iff_lt_or_eq.1 hj
    · rw [← ih h]
      split <;> simp only [List.getD_append _ _ _ _ (hlen.symm ▸ h)]
    · split
      case isTrue hn => rw [List.getD_append_right _ _ _ _ hlen.le, hlen, Nat.sub_self, escatWalk_offset id off hoff j hn]; rfl
      case isFalse hn => rw [List.getD_append_right _ _ _ _ hlen.le, hlen, Nat.sub_self]; rfl

end

/-! ### The expert words -/

section
variable (s : State) (i : BitVec 2) (d a b : BitVec 5)

theorem rgEcount_gives : ∃ w w', GivesPair (.rgEcount i d a) s d w w' ∧ ∀ e < 64,
    (if e < 32 then (Row.lane 16 w e).toNat else (Row.lane 16 w' (e - 32)).toNat)
      = min (s.pairLane 16 d e + (List.range 64).countP (fun j => laneN 8 (s.rv a) j = e)) 65535 := by
  refine ⟨_, _, .of_writePair rfl, fun e he => ?_⟩
  rw [pair_lanesOf _ he, Nat.mod_eq_of_lt (Nat.lt_succ_of_le (Nat.min_le_right ..)), List.countP_eq_length_filter]

theorem rgEscan_gives : ∃ w w', GivesPair (.rgEscan i d a) s d w w' ∧ ∀ e < 64,
    (if e < 32 then (Row.lane 16 w e).toNat else (Row.lane 16 w' (e - 32)).toNat)
      = ((List.range e).map (s.pairLane 16 a)).sum % 65536 := by
  refine ⟨_, _, .of_writePair rfl, fun e he => ?_⟩
  rw [pair_lanesOf _ he, Nat.mod_mod, List.sum_eq_foldl, List.foldl_map]

variable {d b} in
theorem rgEscat_gives (hbd : b ≠ d) (hb1d : b + 1 ≠ d) (hbd1 : b ≠ d + 1) : ∃ t, exec (.rgEscat i d a b) s = .next t
    ∧ s.OnlyMe t ∧ (∀ r, r ≠ d → r ≠ d + 1 → r ≠ b → r ≠ b + 1 → t.rv r = s.rv r)
    ∧ (∀ j < 64, t.pairLane 16 d j =
        if laneN 8 (s.rv a) j < 64 then (s.pairLane 16 b (laneN 8 (s.rv a) j)
          + (List.range j).countP (fun m => laneN 8 (s.rv a) m = laneN 8 (s.rv a) j)) % 65536 else 65535)
    ∧ ∀ e < 64, t.pairLane 16 b e =
        (s.pairLane 16 b e + (List.range 64).countP (fun j => laneN 8 (s.rv a) j = e)) % 65536 := by
  generalize hid : laneN 8 (s.rv a) = id
  let off : Tbl Nat := (List.range 64).map (fun e => (e, s.pairLane 16 b e))
  have hoff (e : Nat) (he : e < 64) : off.get 0 e = s.pairLane 16 b e := Tbl.get_map_range _ he
  have hlt (e : Nat) (he : e < 64) : off.get 0 e < 65536 := hoff e he ▸ s.pairLane_lt 16 b e
  let r := escatWalk ((List.range 64).map id) off
  let pos (k : Nat) : Nat := r.1.getD k 0
  let out (e : Nat) : Nat := r.2.get 0 e
  let t : State := ((s.writePair 16 d pos).writePair 16 b out).spend 1
  have hexec : exec (.rgEscat i d a b) s = .next t := by
    subst hid
    rfl
  have hrv (q : BitVec 5) : t.rv q = if q = b + 1 then lanesOf 16 (fun k => out (k + 512 / 16))
      else if q = b then lanesOf 16 out else if q = d + 1 then lanesOf 16 (fun k => pos (k + 512 / 16))
      else if q = d then lanesOf 16 pos else s.rv q := by
    rw [State.rv_spend, State.rv_writePair, State.rv_writePair]
  have honly : s.OnlyMe t := by
    simp only [t, State.spend, State.writePair_eq, State.modMe_modMe]
    exact s.onlyMe_modMe _
  have hb1d1 : d + 1 ≠ b + 1 := fun h => hbd (add_right_cancel h).symm
  refine ⟨t, hexec, honly, fun q hd hd1 hb hb1 => ?_, fun j hj => ?_, fun e he => ?_⟩
  · rw [hrv, if_neg hb1, if_neg hb, if_neg hd1, if_neg hd]
  · have hpair : t.pairLane 16 d j = pos j % 65536 := State.pairLane_of_lanesOf
      (by rw [hrv, if_neg hb1d.symm, if_neg hbd.symm, if_neg (succ_ne_self d).symm, if_pos rfl])
      (by rw [hrv, if_neg hb1d1, if_neg hbd1.symm, if_pos rfl]) hj
    have hpos : pos j = if id j < 64 then (off.get 0 (id j) + (List.range j).countP (fun m => id m = id j)) % 65536
        else 65535 := escatWalk_position id off hlt hj
    rw [hpair, hpos]
    split
    case isTrue h => rw [Nat.mod_mod, hoff _ h]
    case isFalse => rfl
  · have hpair : t.pairLane 16 b e = out e % 65536 := State.pairLane_of_lanesOf
      (by rw [hrv, if_neg (succ_ne_self b).symm, if_pos rfl]) (by rw [hrv, if_pos rfl]) he
    have hout : out e = (off.get 0 e + (List.range 64).countP (fun m => id m = e)) % 65536 :=
      escatWalk_offset id off hlt 64 he
    rw [hpair, hout, Nat.mod_mod, hoff e he]

end

end Sys2Proof.Machine
end

section
/-! PROOFS. The table lookups (08_vector.md, R187, R188; 13_consistency.md, R284): O38. A sum of finite values is exact, and so a
lane is the interpolation between two entries; the rest is what the unit's FIFO does. -/

namespace Sys2Proof.Machine

/-! ### Exact sums and products -/

theorem FVal.rat_units {q e : Int} (n : Bool) (m : Nat) (h : q ≤ e) :
    ((FVal.units q (.fin n m e) : Int) : ℚ) * 2 ^ q = (FVal.fin n m e).rat := by
  have hexp : (2 : ℚ) ^ (e - q).toNat * 2 ^ q = 2 ^ e := by
    rw [← zpow_natCast, Int.toNat_of_nonneg (by omega), ← zpow_add₀ two_ne_zero, sub_add_cancel]
  rw [FVal.units, FVal.rat, ← hexp]
  cases n <;> push_cast <;> ring

/-- A finite value. -/
def FVal.IsFin (v : FVal) : Prop := ∃ n m e, v = .fin n m e

theorem FVal.minExp_le (vs : List FVal) (q : Int) : FVal.minExp vs q ≤ q ∧ ∀ n m e, .fin n m e ∈ vs → FVal.minExp vs q ≤ e := by
  induction vs generalizing q with
  | nil => exact ⟨le_rfl, nofun⟩
  | cons v vs ih =>
    cases v with
    | nan =>
      obtain ⟨hq, he⟩ := ih q
      exact ⟨hq, fun n m e h => he n m e ((List.mem_cons.1 h).resolve_left nofun)⟩
    | inf s =>
      obtain ⟨hq, he⟩ := ih q
      exact ⟨hq, fun n m e h => he n m e ((List.mem_cons.1 h).resolve_left nofun)⟩
    | fin s k x =>
      obtain ⟨hq, he⟩ := ih (min q x)
      refine ⟨hq.trans (min_le_left ..), fun n m e h => ?_⟩
      obtain h | h := List.mem_cons.1 h
      · cases h
        exact hq.trans (min_le_right ..)
      · exact he n m e h

theorem foldl_units (vs : List FVal) (q : Int) (acc : Int) (hfin : ∀ v ∈ vs, v.IsFin)
    (hq : ∀ n m e, .fin n m e ∈ vs → q ≤ e) :
    ((vs.foldl (fun acc v => acc + v.units q) acc : Int) : ℚ) * 2 ^ q = acc * 2 ^ q + (vs.map FVal.rat).sum := by
  induction vs generalizing acc with
  | nil => simp
  | cons v vs ih =>
    obtain ⟨n, m, e, rfl⟩ := hfin v List.mem_cons_self
    rw [List.foldl_cons, ih _ (fun v hv => hfin v (List.mem_cons_of_mem _ hv))
      (fun n m e h => hq n m e (List.mem_cons_of_mem _ h)), List.map_cons, List.sum_cons,
      ← FVal.rat_units n m (hq n m e List.mem_cons_self)]
    push_cast
    ring

/-- The sum of finite values is exact (R26). -/
theorem FVal.sum_of_finite {vs : List FVal} (hfin : ∀ v ∈ vs, v.IsFin) :
    ∃ n m q, FVal.sum vs = .val n m 1 q ∧ (XVal.val n m 1 q).rat = (vs.map FVal.rat).sum := by
  have hnot (w : FVal) (hw : ¬w.IsFin) : vs.any (fun v => v = w) = false := by
    simp only [List.any_eq_false, decide_eq_true_eq]
    rintro v hv rfl
    exact hw (hfin _ hv)
  have hsum := foldl_units vs (FVal.minExp vs 0) 0 hfin (FVal.minExp_le vs 0).2
  rw [Int.cast_zero, zero_mul, zero_add] at hsum
  rw [FVal.sum, hnot .nan (by rintro ⟨_, _, _, h⟩; cases h), hnot (.inf false) (by rintro ⟨_, _, _, h⟩; cases h),
    hnot (.inf true) (by rintro ⟨_, _, _, h⟩; cases h)]
  simp only [Bool.false_eq_true, Bool.and_self, if_false]
  generalize FVal.minExp vs 0 = q at hsum ⊢
  generalize vs.foldl (fun acc v => acc + v.units q) 0 = s at hsum ⊢
  split
  case isTrue h0 => exact ⟨_, _, _, rfl, by rw [← hsum, h0]; simp [XVal.rat]⟩
  case isFalse h0 =>
    refine ⟨_, _, _, rfl, ?_⟩
    have hsign : (if decide (s < 0) = true then -1 else 1) * (s.natAbs : ℚ) = s := by
      rw [Nat.cast_natAbs]
      obtain h | h := lt_or_ge s 0
      · rw [if_pos (decide_eq_true h), abs_of_neg (by exact_mod_cast h), Int.cast_neg, neg_one_mul, neg_neg]
      · rw [if_neg (by simpa using h), abs_of_nonneg (by exact_mod_cast h), one_mul]
    rw [← hsum, XVal.rat, hsign, Nat.cast_one, div_one]

theorem FVal.IsFin.neg {v : FVal} (h : v.IsFin) : v.neg.IsFin := by
  obtain ⟨n, m, e, rfl⟩ := h
  exact ⟨_, _, _, rfl⟩

theorem FVal.IsFin.mul {v w : FVal} (hv : v.IsFin) (hw : w.IsFin) : (v.mul w).IsFin := by
  obtain ⟨n, m, e, rfl⟩ := hv
  obtain ⟨n', m', e', rfl⟩ := hw
  exact ⟨_, _, _, rfl⟩

theorem FVal.IsFin.rat_mul {v w : FVal} (hv : v.IsFin) (hw : w.IsFin) : (v.mul w).rat = v.rat * w.rat := by
  obtain ⟨n, m, e, rfl⟩ := hv
  obtain ⟨n', m', e', rfl⟩ := hw
  simp only [FVal.mul, FVal.rat, zpow_add₀ (two_ne_zero (α := ℚ))]
  cases n <;> cases n' <;> push_cast <;> simp <;> ring

theorem FVal.sum_pair {v w : FVal} (hv : v.IsFin) (hw : w.IsFin) :
    ∃ n m q, FVal.sum [v, w] = .val n m 1 q ∧ (XVal.val n m 1 q).rat = v.rat + w.rat := by
  obtain ⟨n, m, q, hsum, hrat⟩ := FVal.sum_of_finite (vs := [v, w]) (by simp [hv, hw])
  exact ⟨n, m, q, hsum, by simpa using hrat⟩

theorem FVal.rat_neg (v : FVal) : v.neg.rat = -v.rat := by
  cases v with
  | nan => simp [FVal.neg, FVal.rat]
  | inf s => simp [FVal.neg, FVal.rat]
  | fin n m e => cases n <;> simp [FVal.neg, FVal.rat]

/-! ### One lane (R188) -/

/-- The value `frac` of the way from e0 to e1, or the canonical NaN where one is not finite. -/
def interpBetween (F : FFmt) (e0 e1 frac : FVal) : Nat :=
  match e0, e1 with
  | .fin _ _ _, .fin _ _ _ =>
    (match FVal.sum [e1, e0.neg] with
     | .val neg m _ x => F.arith false (FVal.sum [e0, FVal.mul frac (.fin neg m x)])
     | _ => F.nan)
  | _, _ => F.nan

/-- The interpolation at p × 2^q, q ≤ 0, between the entries below and above. -/
def interpAt (F : FFmt) (n : Nat) (e : Nat → Nat) (p : Nat) (q : Int) : Nat :=
  let one := 2 ^ (-q).toNat
  let p := min p (n * one)
  let i := min (p / one) (n - 1)
  interpBetween F (FFmt.fp32.decode (e i)) (FFmt.fp32.decode (e (i + 1))) (.fin false (p - i * one) q)

theorem interpBetween_of_not_finite (F : FFmt) {e0 e1 : FVal} (frac : FVal) (h : ¬e0.IsFin ∨ ¬e1.IsFin) :
    interpBetween F e0 e1 frac = F.nan := by
  cases e0 with
  | nan => rfl
  | inf => rfl
  | fin n m x =>
    cases e1 with
    | nan => rfl
    | inf => rfl
    | fin n' m' x' => exact (h.elim (· ⟨_, _, _, rfl⟩) (· ⟨_, _, _, rfl⟩)).elim

theorem interpBetween_of_finite (F : FFmt) {e0 e1 frac : FVal} (h0 : e0.IsFin) (h1 : e1.IsFin) (hfrac : frac.IsFin) :
    ∃ neg n m q, 0 < m ∧ interpBetween F e0 e1 frac = F.arith false (.val neg n m q)
      ∧ (XVal.val neg n m q).rat = e0.rat + frac.rat * (e1.rat - e0.rat) := by
  obtain ⟨n, m, x, hdiff, hdiff_rat⟩ := FVal.sum_pair h1 h0.neg
  obtain ⟨n', m', x', hsum, hsum_rat⟩ := FVal.sum_pair h0 (hfrac.mul ⟨n, m, x, rfl⟩)
  have hfin : (FVal.fin n m x).rat = (XVal.val n m 1 x).rat := by simp [FVal.rat, XVal.rat]
  refine ⟨n', m', 1, x', one_pos, ?_, ?_⟩
  · obtain ⟨n0, m0, x0, rfl⟩ := h0
    obtain ⟨n1, m1, x1, rfl⟩ := h1
    unfold interpBetween
    dsimp only
    rw [hdiff]
    dsimp only
    rw [hsum]
  · rw [hsum_rat, hfrac.rat_mul ⟨n, m, x, rfl⟩, hfin, hdiff_rat, FVal.rat_neg, ← sub_eq_add_neg]

theorem interpLane_eq (F : FFmt) (n : Nat) (e : Nat → Nat) (u : FVal) : interpLane F n e u =
    match u with
    | .nan => F.nan
    | .inf neg => interpAt F n e (if neg then 0 else n) 0
    | .fin neg m x => if neg then interpAt F n e 0 0 else interpAt F n e (m * n * 2 ^ (x - min x 0).toNat) (min x 0) := by
  cases u <;> rfl

/-- A lane is the interpolation at P, between entries 0 and N, where the two entries beside it are finite. -/
def Interpolates (F : FFmt) (N : Nat) (e : Nat → FVal) (P : ℚ) (out : Nat) : Prop :=
  let i := min ⌊P⌋.toNat (N - 1)
  ((e i).IsFin → (e (i + 1)).IsFin → ∃ neg n m q, 0 < m ∧ out = F.arith false (.val neg n m q)
      ∧ (XVal.val neg n m q).rat = (e i).rat + (P - i) * ((e (i + 1)).rat - (e i).rat))
    ∧ (¬(e i).IsFin ∨ ¬(e (i + 1)).IsFin → out = F.nan)

theorem interpolates_interpAt (F : FFmt) (N : Nat) (e : Nat → Nat) (p : Nat) {q : Int} (hq : q ≤ 0) :
    Interpolates F N (fun j => FFmt.fp32.decode (e j)) (min N (p * 2 ^ q)) (interpAt F N e p q) := by
  have hone : ((2 ^ (-q).toNat : Nat) : ℚ) * 2 ^ q = 1 := by
    rw [Nat.cast_pow, Nat.cast_ofNat, ← zpow_natCast, Int.toNat_of_nonneg (by omega), ← zpow_add₀ two_ne_zero,
      neg_add_cancel, zpow_zero]
  have hpos : 0 < 2 ^ (-q).toNat := Nat.two_pow_pos _
  unfold interpAt
  dsimp only
  generalize 2 ^ (-q).toNat = one at hone hpos ⊢
  have hP : (min N (p * 2 ^ q) : ℚ) = (min p (N * one) : Nat) * 2 ^ q := by
    rw [Nat.cast_min, min_mul_of_nonneg _ _ (by positivity), Nat.cast_mul, mul_assoc, hone, mul_one, min_comm]
  rw [hP]
  generalize min p (N * one) = p'
  have hfloor : ⌊(p' * 2 ^ q : ℚ)⌋.toNat = p' / one := by
    rw [eq_inv_of_mul_eq_one_right hone, ← div_eq_mul_inv, Int.floor_toNat, Nat.floor_div_eq_div]
  have hle : min (p' / one) (N - 1) * one ≤ p' :=
    (Nat.mul_le_mul_right one (Nat.min_le_left ..)).trans (Nat.div_mul_le_self p' one)
  unfold Interpolates
  simp only [hfloor]
  generalize min (p' / one) (N - 1) = i at hle ⊢
  have hfrac : (FVal.fin false (p' - i * one) q).rat = p' * 2 ^ q - i := by
    rw [FVal.rat, Nat.cast_sub hle, Nat.cast_mul, if_neg Bool.false_ne_true, one_mul, sub_mul, mul_assoc, hone, mul_one]
  rw [← hfrac]
  exact ⟨fun h0 h1 => interpBetween_of_finite F h0 h1 ⟨_, _, _, rfl⟩, fun h => interpBetween_of_not_finite F _ h⟩

/-- The place of a lane's value among the table's entries: 0 for a negative one, N for one past the table. -/
theorem interpolates_interpLane (F : FFmt) (N : Nat) (e : Nat → Nat) {u : FVal} (hu : u ≠ .nan) :
    Interpolates F N (fun j => FFmt.fp32.decode (e j)) (if u = .inf false then N else max 0 (min N (u.rat * N)))
      (interpLane F N e u) := by
  have hN : (0 : ℚ) ≤ N := Nat.cast_nonneg N
  have hzero : Interpolates F N (fun j => FFmt.fp32.decode (e j)) 0 (interpAt F N e 0 0) := by
    have h := interpolates_interpAt F N e 0 le_rfl
    rwa [Nat.cast_zero, zero_mul, min_eq_right hN] at h
  rw [interpLane_eq]
  match u, hu with
  | .inf true, _ =>
    have hP : max 0 (min (N : ℚ) ((FVal.inf true).rat * N)) = 0 := by
      rw [show (FVal.inf true).rat = 0 from rfl, zero_mul, min_eq_right hN, max_self]
    rw [if_neg (by decide), hP]
    exact hzero
  | .inf false, _ =>
    have h := interpolates_interpAt F N e N le_rfl
    rw [zpow_zero, mul_one, min_self] at h
    rw [if_pos rfl]
    exact h
  | .fin true m x, _ =>
    have hrat : (FVal.fin true m x).rat * N ≤ 0 := by
      rw [FVal.rat, if_pos rfl, neg_one_mul, neg_mul, neg_mul]
      exact neg_nonpos.2 (by positivity)
    rw [if_neg (by simp), min_eq_right (hrat.trans hN), max_eq_left hrat]
    exact hzero
  | .fin false m x, _ =>
    have hrat : (FVal.fin false m x).rat * N = (m * N * 2 ^ (x - min x 0).toNat : Nat) * 2 ^ min x 0 := by
      have hexp : (2 : ℚ) ^ (x - min x 0).toNat * 2 ^ min x 0 = 2 ^ x := by
        rw [← zpow_natCast, Int.toNat_of_nonneg (by omega), ← zpow_add₀ two_ne_zero, sub_add_cancel]
      push_cast
      rw [mul_assoc, hexp, FVal.rat, if_neg Bool.false_ne_true]
      ring
    rw [if_neg (by simp), hrat, max_eq_right (by positivity)]
    exact interpolates_interpAt F N e _ (min_le_right ..)

/-! ### The unit's FIFO (R188, R284) -/

/-- A change of the issuing stream after one of its core. -/
theorem State.OnlyMyCore.modMe {s u : State} (h : s.OnlyMyCore u) (hcur : u.cur = s.cur) (f : Stream → Stream) :
    s.OnlyMyCore (u.modMe f) := by
  obtain ⟨hframe, hcore, hbytes⟩ := h
  obtain ⟨hframe', hcore', -, hbytes'⟩ := u.onlyMe_modMe f
  refine ⟨?_, fun c hc => (hcore' c (hcur ▸ hc)).trans (hcore c hc), hbytes.trans hbytes'⟩
  rw [hframe', hframe]

/-- A change of the issuing stream's core that leaves the stream as it is. -/
theorem State.me_modMyCore {s : State} {f : Core → Core} (h : (f s.myCore).stream s.cur.eng = s.myCore.stream s.cur.eng) :
    (s.modMyCore f).me = s.me :=
  (congrArg (fun c => c.stream s.cur.eng) (s.core_setCore_self ..)).trans h

section
variable {s : State} {ins : Instr} {fp32 : Bool} {d a b : BitVec 5} (hi : exec ins s = s.interpPush fp32 d a b)
include hi

theorem exec_interpPush (hok : tableOk (s.rx b) = true) (hroom : s.myCore.interp.length < 4) :
    ∃ t, exec ins s = .next t ∧ s.OnlyMyCore t
      ∧ t.myCore.interp = s.myCore.interp ++ [{
          d := d, src := s.rv a, desc := s.rx b, fp32 := fp32, seq := s.me.seq, old := s.me.saved.isNone }]
      ∧ t.me = { s.me with late := s.me.late ++ [(.v d, 8)] } := by
  have hold : (!s.me.inStub) = s.me.saved.isNone := by rw [Stream.inStub, Option.not_isSome]
  rw [State.interpPush, hok, if_neg (by decide), if_neg (not_le.2 hroom), hold] at hi
  refine ⟨_, hi, (s.onlyMyCore_modMyCore (by rfl)).modMe rfl _, ?_, ?_⟩
  · rw [State.late, State.myCore_modMe, Core.interp_setStream]
    exact congrArg Core.interp (s.core_setCore_self ..)
  · rw [State.late, State.me_modMe, State.me_modMyCore (by cases s.cur.eng <;> rfl)]

theorem GivesMe.of_interpPush_full (hok : tableOk (s.rx b) = true) (hfull : 4 ≤ s.myCore.interp.length) :
    GivesMe ins s { s.me with wait := .again } := by
  rw [State.interpPush, hok, if_neg (by decide), if_pos hfull] at hi
  exact .of_modMe hi

theorem TakesFault.of_interpPush {k : Nat} (hk : s.myCore.kernel = some k) (hK : (s.kernel k).Faultable)
    (hbad : tableOk (s.rx b) = false) : TakesFault ins s k .tableAddr 0 := by
  rw [State.interpPush, hbad, if_pos (by decide)] at hi
  exact .of_streamFault hk hK hi

end

theorem State.pick_mem (s : State) {l : List Nat} (hl : l ≠ []) : s.pick l ∈ l := by
  have hlt := Nat.mod_lt (Config.freePick s.freeCtr) (List.length_pos_iff.2 hl)
  rw [State.pick, List.getD_eq_getElem _ _ hlt]
  exact List.getElem_mem hlt

/-- The state in which the unit's oldest command is gone. -/
def State.popped (s : State) (pcn : Nat) (rest : List InterpCmd) : State :=
  s.modCore pcn (fun k => { k with interp := rest })

/-- Lane k of what the oldest command writes, over the rows that the unit has read (R188). -/
def interpOut (s : State) (pcn : Nat) (c : InterpCmd) (k : Nat) : Nat :=
  let F : FFmt := if c.fp32 then .fp32 else .bf16
  interpLane F (2 ^ bits c.desc 27 24) (fun i => Mem.num ((s.core pcn).seeing c.got).sp (bits c.desc 21 0 + 4 * i) 4)
    (F.decode (laneN F.width c.src k))

section
variable {s : State} {pcn : Nat} {c : InterpCmd} {rest : List InterpCmd} (hhead : (s.core pcn).interp = c :: rest)
  (hclock : (s.tractOf pcn).ticking = true) (hstores : ∀ p ∈ (s.core pcn).xp.pend, c.seq ≤ p.seq)
include hhead hclock hstores

theorem execInterpComplete_eq : execInterpComplete pcn s =
    match s.readOne pcn c.got c.rows with
    | some got => .next (s.modCore pcn (fun k => { k with interp := { c with got := got } :: rest })).drawn
    | none => .next ((s.popped pcn rest).modStream { core := pcn, eng := .xp }
        (fun m => m.resultV c.old c.d (fun _ => lanesOf (if c.fp32 then FFmt.fp32 else .bf16).width (interpOut s pcn c)))) := by
  have hnone : (s.core pcn).xp.pend.any (fun a => decide (a.seq < c.seq)) = false := by
    simpa only [List.any_eq_false, decide_eq_true_eq, not_lt] using hstores
  rw [execInterpComplete]
  simp only [hhead, hclock, hnone]
  rfl

/-- The unit reads one row that it has not read. -/
theorem interpComplete_reads (hmiss : missing c.got c.rows ≠ []) :
    ∃ r ∈ missing c.got c.rows, exec (.interpComplete pcn) s = .next { s.setCore pcn { s.core pcn with
      interp := { c with got := c.got.set r ((s.core pcn).row r) } :: rest } with freeCtr := s.freeCtr + 1 } := by
  have hread : s.readOne pcn c.got c.rows = some (c.got.set (s.pick (missing c.got c.rows))
      ((s.core pcn).row (s.pick (missing c.got c.rows)))) := by
    rw [State.readOne]
    split
    case h_1 h => exact absurd h hmiss
    case h_2 => rfl
  refine ⟨_, s.pick_mem hmiss, ?_⟩
  change execInterpComplete pcn s = _
  rw [execInterpComplete_eq hhead hclock hstores, hread]
  rfl

/-- The unit pops a command whose rows it has read, and writes its lanes. -/
theorem interpComplete_completes (hmiss : missing c.got c.rows = []) :
    ∃ t, exec (.interpComplete pcn) s = .next t ∧ s.SameBytes t ∧ (t.core pcn).interp = rest
      ∧ t.stream ⟨pcn, .xp⟩ = (s.stream ⟨pcn, .xp⟩).resultV c.old c.d
          (fun _ => lanesOf (if c.fp32 then FFmt.fp32 else .bf16).width (interpOut s pcn c)) := by
  have hread : s.readOne pcn c.got c.rows = none := by
    rw [State.readOne, hmiss]
  have hcore (b : Nat) : (s.popped pcn rest).core b = if b = pcn then { s.core pcn with interp := rest } else s.core b :=
    s.core_setCore ..
  have hbytes : s.SameBytes (s.popped pcn rest) :=
    (s.onlyCores_modCore pcn (f := fun k => { k with interp := rest }) (fun _ => rfl) (fun _ => rfl) (fun _ => rfl)).sameBytes
  refine ⟨(s.popped pcn rest).modStream ⟨pcn, .xp⟩ (fun m => m.resultV c.old c.d
    (fun _ => lanesOf (if c.fp32 then FFmt.fp32 else .bf16).width (interpOut s pcn c))), ?_,
    hbytes.trans (State.sameBytes_modStream ..), ?_, ?_⟩
  · change execInterpComplete pcn s = _
    rw [execInterpComplete_eq hhead hclock hstores, hread]
  · rw [State.core_modStream, if_pos rfl, Core.interp_setStream, hcore, if_pos rfl]
  · rw [State.stream_modStream, if_pos rfl, State.stream, hcore, if_pos rfl]
    rfl

end

/-- Settles O38: the FIFO, the lanes, the mix and the expert words, each by the lemma about it. -/
theorem tableMixAndExpertWords : Obligations.TableMixAndExpertWords := by
  intro s i d a b n k pcn c rest hk hK x lane pair put id push
  refine ⟨fun hok hroom => ⟨exec_interpPush rfl hok hroom, exec_interpPush rfl hok hroom⟩,
    fun hok hfull => ⟨.of_interpPush_full rfl hok hfull, .of_interpPush_full rfl hok hfull⟩,
    fun hbad => ⟨.of_interpPush rfl hk hK hbad, .of_interpPush rfl hk hK hbad⟩, ?complete, ?mix,
    rgEcount_gives s i d a, rgEscan_gives s i d a, rgEscat_gives s i a⟩
  case complete =>
    intro hhead hclock hstores F N C sp u e finite
    refine ⟨interpComplete_reads hhead hclock hstores, fun hmiss => ?_⟩
    obtain ⟨t, ht, hbytes, hinterp, hstream⟩ := interpComplete_completes hhead hclock hstores hmiss
    refine ⟨t, _, ht, hbytes, hinterp, fun hsaved => hstream.trans (Stream.resultV_of_not_saved _ hsaved ..), fun j hj =>
      ⟨interpOut s pcn c j, lane_lanesOf _ hj, ?_⟩⟩
    have hout : interpOut s pcn c j = interpLane F N (fun i => Mem.num sp (c.desc.toNat % 2 ^ 22 + 4 * i) 4) (u j) := by
      rw [interpOut, bits_low]
      rfl
    rw [hout]
    split
    case isTrue hnan => exact congrArg (interpLane F N _) hnan
    case isFalse hnum => exact interpolates_interpLane F N (fun i => Mem.num sp (c.desc.toNat % 2 ^ 22 + 4 * i) 4) hnum
  case mix =>
    obtain ⟨t, ht, honly, hbusy, hother, hlane⟩ := exec_vtRmix s i d a n
    refine ⟨t, ht, honly, by rw [hbusy]; omega, hother, fun hn => ?_, mixed (s.rv d) (s.rv a), fun j hj =>
      ⟨mixed_zero .., (hlane j hj).symm⟩, fun k _ g _ => mixed_succ (s.rv d) (s.rv a) k g⟩
    subst hn
    exact ext_lane (w := 32) (by decide) (fun j hj => (hlane j hj).trans (mixed_zero ..))

end Sys2Proof.Machine
end

section
/-! PROOFS. The reductions (08_vector.md, R186): the third part of O36. The order of `vf.min` is that of a key in a chain, and a
fold that picks by a chain's order ends at an extreme of its list. -/

namespace Sys2Proof.Machine

/-! ### The order of `vf.min` (R182) -/

/-- Where a value stands: by its rational, a −0 before every other zero, between the infinities. -/
def FVal.place : FVal → WithBot (WithTop (ℚ ×ₗ Nat))
  | .fin neg m e => ((toLex ((FVal.fin neg m e).rat, if m = 0 ∧ neg = false then 1 else 0) : ℚ ×ₗ Nat) : WithTop (ℚ ×ₗ Nat))
  | .inf true => ⊥
  | _ => ((⊤ : WithTop (ℚ ×ₗ Nat)) : WithBot (WithTop (ℚ ×ₗ Nat)))

theorem FVal.units_eq_zero_iff (q : Int) (n : Bool) (m : Nat) (e : Int) : FVal.units q (.fin n m e) = 0 ↔ m = 0 := by
  cases n <;> simp [FVal.units]

/-- The order of two numbers: by their rationals, and −0 before +0. -/
theorem FVal.le_fin_iff (a b : Bool) (m n : Nat) (e e' : Int) : (FVal.fin a m e).le (.fin b n e') = true ↔
    toLex ((FVal.fin a m e).rat, if m = 0 ∧ a = false then 1 else 0)
      ≤ toLex ((FVal.fin b n e').rat, if n = 0 ∧ b = false then 1 else 0) := by
  have hx := FVal.rat_units a m (min_le_left e e')
  have hy := FVal.rat_units b n (min_le_right e e')
  have hpos : (0 : ℚ) < 2 ^ min e e' := by positivity
  rw [Prod.Lex.toLex_le_toLex, ← hx, ← hy, mul_lt_mul_iff_left₀ hpos, mul_left_inj' hpos.ne', Int.cast_lt, Int.cast_inj]
  rw [FVal.le]
  dsimp only
  have hzero (h : FVal.units (min e e') (.fin a m e) = FVal.units (min e e') (.fin b n e')) : m = 0 ↔ n = 0 := by
    rw [← FVal.units_eq_zero_iff (min e e') a, h, FVal.units_eq_zero_iff]
  split
  case isTrue h =>
    simp only [h, lt_irrefl, false_or, true_and, ← hzero h]
    by_cases hm : m = 0
    · cases a <;> cases b <;> simp [hm]
    · simp [hm]
  case isFalse h => simp [h]

theorem FVal.le_iff_place {u v : FVal} (hu : u ≠ .nan) (hv : v ≠ .nan) : u.le v = true ↔ u.place ≤ v.place := by
  match u, v, hu, hv with
  | .inf true, v, _, _ => simp [FVal.le, FVal.place]
  | .inf false, .inf false, _, _ => simp [FVal.le, FVal.place]
  | .fin a m e, .inf false, _, _ => simp [FVal.le, FVal.place]
  | .inf false, .inf true, _, _ => simp [FVal.le, FVal.place]
  | .inf false, .fin a m e, _, _ => simp [FVal.le, FVal.place]
  | .fin a m e, .inf true, _, _ => simp [FVal.le, FVal.place]
  | .fin a m e, .fin b n e', _, _ =>
    rw [FVal.le_fin_iff, FVal.place, FVal.place, WithBot.coe_le_coe, WithTop.coe_le_coe]

/-! ### Folds that pick -/

/-- A fold by a function that answers the lesser of two ends at a least element of its list. -/
theorem foldl_pick {α β : Type} [Preorder β] (key : α → β) (f : α → α → α) (P : α → Prop)
    (hf : ∀ x y, P x → P y → (f x y = x ∨ f x y = y) ∧ key (f x y) ≤ key x ∧ key (f x y) ≤ key y) (l : List α) (x : α)
    (hx : P x) (hl : ∀ y ∈ l, P y) : l.foldl f x ∈ x :: l ∧ ∀ y ∈ x :: l, key (l.foldl f x) ≤ key y := by
  induction l generalizing x with
  | nil => simp
  | cons y l ih =>
    obtain ⟨hmem, hlex, hley⟩ := hf x y hx (hl y List.mem_cons_self)
    have hP : P (f x y) := by
      obtain h | h := hmem
      · rwa [h]
      · rw [h]; exact hl y List.mem_cons_self
    obtain ⟨hin, hleast⟩ := ih (f x y) hP (fun z hz => hl z (List.mem_cons_of_mem _ hz))
    have hhead := hleast (f x y) List.mem_cons_self
    refine ⟨?_, fun z hz => ?_⟩
    · obtain h | h := List.mem_cons.1 hin
      · rw [List.foldl_cons, h]
        obtain h | h := hmem
        · rw [h]; exact List.mem_cons_self
        · rw [h]; exact List.mem_cons_of_mem _ List.mem_cons_self
      · exact List.mem_cons_of_mem _ (List.mem_cons_of_mem _ h)
    · obtain rfl | h := List.mem_cons.1 hz
      · exact hhead.trans hlex
      · obtain rfl | h := List.mem_cons.1 h
        · exact hhead.trans hley
        · exact hleast z (List.mem_cons_of_mem _ h)

/-! ### The integer reductions -/

section
variable {ins : Instr} {s : State} {d a : BitVec 5} {t : BitVec 3}

/-- The value of lane k as type T. -/
def State.tLane (s : State) (a : BitVec 5) (t : BitVec 3) (k : Nat) : Int :=
  if tSigned t then (Row.lane (tWidth t) (s.rv a) k).toInt else (Row.lane (tWidth t) (s.rv a) k).toNat

theorem State.tLanes_eq (s : State) (a : BitVec 5) (t : BitVec 3) :
    s.tLanes a t = (List.range (512 / tWidth t)).map (s.tLane a t) :=
  List.map_congr_left fun _ _ => bitsInt_toNat ..

theorem State.tLanes_ne_nil (s : State) (a : BitVec 5) (t : BitVec 3) : s.tLanes a t ≠ [] := by
  have hW : 512 / tWidth t ≠ 0 := by
    revert t
    decide
  simpa [State.tLanes] using hW

theorem GivesX.of_vrOp (f : Int → Int → Int) (hi : exec ins s = s.vrOp f d a t) :
    ∃ x r, (List.range (512 / tWidth t)).map (s.tLane a t) = x :: r ∧ GivesX ins s d (sword (r.foldl f x)) := by
  obtain ⟨x, r, hl⟩ := List.exists_cons_of_ne_nil (s.tLanes_ne_nil a t)
  rw [State.vrOp, hl] at hi
  exact ⟨x, r, s.tLanes_eq a t ▸ hl, .of_wx hi⟩

theorem vrOp_pick {β : Type} [Preorder β] (key : Int → β) (f : Int → Int → Int)
    (hf : ∀ x y, (f x y = x ∨ f x y = y) ∧ key (f x y) ≤ key x ∧ key (f x y) ≤ key y) (hi : exec ins s = s.vrOp f d a t) :
    ∃ k < 512 / tWidth t, GivesX ins s d (sword (s.tLane a t k))
      ∧ ∀ j < 512 / tWidth t, key (s.tLane a t k) ≤ key (s.tLane a t j) := by
  obtain ⟨x, r, hl, hgives⟩ := GivesX.of_vrOp f hi
  obtain ⟨hmem, hleast⟩ := foldl_pick key f (fun _ => True) (fun x y _ _ => hf x y) r x trivial (fun _ _ => trivial)
  rw [← hl] at hmem hleast
  obtain ⟨k, hk, hkx⟩ := List.mem_map.1 hmem
  rw [← hkx] at hgives hleast
  exact ⟨k, List.mem_range.1 hk, hgives, fun j hj => hleast _ (List.mem_map_of_mem (List.mem_range.2 hj))⟩

end

/-! ### The float reductions -/

theorem FFmt.decode_nan (F : FFmt) : F.decode F.nan = .nan := by cases F <;> rfl

theorem fPick_nan_left (F : FFmt) (larger : Bool) (x y : Nat) (hx : F.decode x = .nan) : fPick F larger x y = F.nan := by
  rw [fPick_eq, if_pos (.inl hx)]

theorem fPick_nan_right (F : FFmt) (larger : Bool) (x y : Nat) (hy : F.decode y = .nan) : fPick F larger x y = F.nan := by
  rw [fPick_eq, if_pos (.inr hy)]

/-- A NaN among the lanes is what the fold ends at. -/
theorem foldl_fPick_nan (F : FFmt) (larger : Bool) (l : List Nat) (x : Nat)
    (h : x = F.nan ∨ ∃ y ∈ l, F.decode y = .nan) : l.foldl (fPick F larger) x = F.nan := by
  induction l generalizing x with
  | nil => simpa using h
  | cons y l ih =>
    refine ih _ ?_
    obtain rfl | ⟨z, hz, hnan⟩ := h
    · exact .inl (fPick_nan_left F larger _ y F.decode_nan)
    · obtain rfl | hz := List.mem_cons.1 hz
      · exact .inl (fPick_nan_right F larger x z hnan)
      · exact .inr ⟨z, hz, hnan⟩

/-- Of two numbers `vf.min` picks one, at or below both in place. -/
theorem fPick_min (F : FFmt) {x y : Nat} (hx : F.decode x ≠ .nan) (hy : F.decode y ≠ .nan) :
    (fPick F false x y = x ∨ fPick F false x y = y)
      ∧ (F.decode (fPick F false x y)).place ≤ (F.decode x).place
      ∧ (F.decode (fPick F false x y)).place ≤ (F.decode y).place := by
  rw [fPick_eq, if_neg (by simp [hx, hy]), Bool.bne_false]
  split
  case isTrue h => exact ⟨.inl rfl, le_rfl, (FVal.le_iff_place hx hy).1 h⟩
  case isFalse h => exact ⟨.inr rfl, (le_total _ _).resolve_left (mt (FVal.le_iff_place hx hy).2 h), le_rfl⟩

/-- Of two numbers `vf.max` picks one, at or above both in place. -/
theorem fPick_max (F : FFmt) {x y : Nat} (hx : F.decode x ≠ .nan) (hy : F.decode y ≠ .nan) :
    (fPick F true x y = x ∨ fPick F true x y = y)
      ∧ (F.decode x).place ≤ (F.decode (fPick F true x y)).place
      ∧ (F.decode y).place ≤ (F.decode (fPick F true x y)).place := by
  rw [fPick_eq, if_neg (by simp [hx, hy]), Bool.bne_true]
  split
  case isTrue h => exact ⟨.inl rfl, le_rfl, (le_total _ _).resolve_left (mt (FVal.le_iff_place hx hy).2 (by simpa using h))⟩
  case isFalse h => exact ⟨.inr rfl, (FVal.le_iff_place hx hy).1 (by simpa using h), le_rfl⟩

section
variable {ins : Instr} {s : State} {d a : BitVec 5} {f : BitVec 2}

theorem vrPick_gives {β : Type} [Preorder β] (key : FVal → β) {R : FVal → FVal → Prop} (larger : Bool)
    (hkey : ∀ u v, u ≠ .nan → v ≠ .nan → key u ≤ key v → R u v)
    (hf : ∀ x y, (ftFmt f).decode x ≠ .nan → (ftFmt f).decode y ≠ .nan →
      (fPick (ftFmt f) larger x y = x ∨ fPick (ftFmt f) larger x y = y)
        ∧ key ((ftFmt f).decode (fPick (ftFmt f) larger x y)) ≤ key ((ftFmt f).decode x)
        ∧ key ((ftFmt f).decode (fPick (ftFmt f) larger x y)) ≤ key ((ftFmt f).decode y))
    (hi : exec ins s = s.vrPick larger d a f) :
    let F := ftFmt f
    let x := laneN F.width (s.rv a)
    ∃ v, GivesX ins s d (word v) ∧ if ∃ k < 512 / F.width, F.decode (x k) = .nan then v = F.nan
      else ∃ k < 512 / F.width, v = x k ∧ ∀ j < 512 / F.width, R (F.decode (x k)) (F.decode (x j)) := by
  intro F x
  have hlanes : 0 < 512 / F.width := by
    cases F <;> decide
  refine ⟨_, .of_wx hi, ?_⟩
  rw [← List.foldl_map]
  split
  case isTrue h =>
    obtain ⟨k, hk, hnan⟩ := h
    exact foldl_fPick_nan _ _ _ _ (.inr ⟨_, List.mem_map_of_mem (List.mem_range.2 hk), hnan⟩)
  case isFalse h =>
    have hnum (k : Nat) (hk : k < 512 / F.width) : F.decode (x k) ≠ .nan := fun hnan => h ⟨k, hk, hnan⟩
    have hfirst : x 0 ∈ (List.range (512 / F.width)).map x := List.mem_map_of_mem (List.mem_range.2 hlanes)
    rw [if_neg (hnum 0 hlanes)]
    obtain ⟨hmem, hleast⟩ := foldl_pick (fun n => key (F.decode n)) (fPick F larger) (fun n => F.decode n ≠ .nan)
      (fun m n => hf m n) ((List.range (512 / F.width)).map x) (x 0) (hnum 0 hlanes)
      (by simpa using fun k hk => hnum k hk)
    obtain ⟨k, hk, hkx⟩ := List.mem_map.1 ((List.mem_cons.1 hmem).elim (fun h => by rwa [h]) id)
    refine ⟨k, List.mem_range.1 hk, hkx.symm, fun j hj => ?_⟩
    refine hkey _ _ (hnum k (List.mem_range.1 hk)) (hnum j hj) ?_
    rw [hkx]
    exact hleast _ (List.mem_cons_of_mem _ (List.mem_map_of_mem (List.mem_range.2 hj)))

end

end Sys2Proof.Machine
end

section
/-! PROOFS. Conversions of one element (02_numbers.md, R28, R36, R39): the second part of O36. -/

namespace Sys2Proof.Machine

/-! ### The nearest magnitude of NQ4 (R29, R39) -/

/-- Comparing with a/512 compares the doubled number of 256ths with a. -/
theorem cmp512_eq (m : Nat) (e : Int) (a : Nat) : cmp512 m 1 e a = compare (2 * (256 * m * 2 ^ e) : ℚ) a := by
  unfold cmp512
  split
  case isTrue h =>
    have hexp : (2 : ℚ) ^ e = (2 ^ e.toNat : Nat) := by
      rw [Nat.cast_pow, Nat.cast_ofNat, ← zpow_natCast, Int.toNat_of_nonneg h]
    have hcast : (2 * (256 * m * 2 ^ e) : ℚ) = (m * 2 ^ e.toNat * 512 : Nat) := by
      rw [hexp]
      push_cast
      ring
    rw [hcast, mul_one]
    simp only [compare, compareOfLessAndEq, Nat.cast_lt, Nat.cast_inj]
  case isFalse h =>
    have hexp : (2 : ℚ) ^ e * 2 ^ (-e).toNat = 1 := by
      rw [← zpow_natCast, Int.toNat_of_nonneg (by omega), ← zpow_add₀ two_ne_zero, add_neg_cancel, zpow_zero]
    have hpos : (0 : ℚ) < 2 ^ (-e).toNat := by positivity
    have hcast : ((m * 512 : Nat) : ℚ) = 2 * (256 * m * 2 ^ e) * 2 ^ (-e).toNat := by
      push_cast
      linear_combination -(m * 512 : ℚ) * hexp
    have hlt : m * 512 < a * 1 * 2 ^ (-e).toNat ↔ (2 * (256 * m * 2 ^ e) : ℚ) < a := by
      rw [← Nat.cast_lt (α := ℚ), hcast, mul_one, Nat.cast_mul, Nat.cast_pow, Nat.cast_ofNat, mul_lt_mul_iff_left₀ hpos]
    have heq : m * 512 = a * 1 * 2 ^ (-e).toNat ↔ (2 * (256 * m * 2 ^ e) : ℚ) = a := by
      rw [← Nat.cast_inj (R := ℚ), hcast, mul_one, Nat.cast_mul, Nat.cast_pow, Nat.cast_ofNat, mul_left_inj' hpos.ne']
    simp only [compare, compareOfLessAndEq, hlt, heq]

/-- How far an NQ4 magnitude is from v. -/
def nq4Off (v : ℚ) (i : Nat) : ℚ := |v - nq4Mag i|

/-- Of the indices up to n, acc is the nearest to v, and of two as near the even one. -/
def NearestUpTo (v : ℚ) (n acc : Nat) : Prop :=
  acc ≤ n ∧ ∀ i ≤ n, nq4Off v acc ≤ nq4Off v i ∧ (nq4Off v acc = nq4Off v i → i ≠ acc → acc % 2 = 0)

theorem nq4Mag_lt {i j : Nat} (hij : i < j) (hj : j < 8) : (nq4Mag i : ℚ) < nq4Mag j := by
  rw [Nat.cast_lt]
  revert i
  interval_cases j <;> decide

/-- Below the middle of two neighbours the lower is nearer, above it the upper. -/
theorem nq4Off_lt_succ {v : ℚ} {n : Nat} (hn : n < 7) (h : 2 * v < nq4Mag n + nq4Mag (n + 1)) :
    nq4Off v n < nq4Off v (n + 1) := by
  have hnext := nq4Mag_lt (Nat.lt_succ_self n) (by omega)
  rw [nq4Off, nq4Off, abs_of_neg (a := v - nq4Mag (n + 1)) (by linarith), abs_lt]
  constructor <;> linarith

theorem nq4Off_succ_lt {v : ℚ} {n : Nat} (hn : n < 7) (h : nq4Mag n + nq4Mag (n + 1) < 2 * v) :
    nq4Off v (n + 1) < nq4Off v n := by
  have hnext := nq4Mag_lt (Nat.lt_succ_self n) (by omega)
  rw [nq4Off, nq4Off, abs_of_pos (a := v - nq4Mag n) (by linarith), abs_lt]
  constructor <;> linarith

theorem nq4Off_succ_eq {v : ℚ} {n : Nat} (hn : n < 7) (h : 2 * v = nq4Mag n + nq4Mag (n + 1)) :
    nq4Off v (n + 1) = nq4Off v n := by
  have hnext := nq4Mag_lt (Nat.lt_succ_self n) (by omega)
  rw [nq4Off, nq4Off, abs_of_pos (a := v - nq4Mag n) (by linarith), abs_of_neg (by linarith)]
  linarith

/-- Past a magnitude, those below it are farther. -/
theorem nq4Off_lt_of_lt {v : ℚ} {i n : Nat} (hn : n < 8) (hi : i < n) (h : nq4Mag n < v) : nq4Off v n < nq4Off v i := by
  have hmono := nq4Mag_lt hi hn
  rw [nq4Off, nq4Off, abs_of_pos (by linarith), abs_of_pos (by linarith)]
  linarith

theorem NearestUpTo.step {v : ℚ} {n acc : Nat} (hn : n < 7) (h : NearestUpTo v n acc) :
    NearestUpTo v (n + 1) (match compare (2 * v) ((nq4Mag n + nq4Mag (n + 1) : Nat) : ℚ) with
      | .gt => n + 1
      | .eq => if n % 2 = 0 then n else n + 1
      | .lt => acc) := by
  have hnext := nq4Mag_lt (Nat.lt_succ_self n) (by omega)
  rw [Nat.cast_add]
  obtain ⟨hacc, hnear⟩ := h
  obtain hlt | heq | hgt := lt_trichotomy (2 * v) (nq4Mag n + nq4Mag (n + 1))
  case inl =>
    rw [compare_lt_iff_lt.2 hlt]
    refine ⟨hacc.trans (Nat.le_succ n), fun i hi => ?_⟩
    obtain hi | rfl := Nat.le_succ_iff.1 hi
    · exact hnear i hi
    · have := (hnear n le_rfl).1.trans_lt (nq4Off_lt_succ hn hlt)
      exact ⟨this.le, fun h => absurd h this.ne⟩
  case inr.inl =>
    rw [compare_eq_iff_eq.2 heq]
    have hsame := nq4Off_succ_eq hn heq
    have hfar (i : Nat) (hi : i < n) : nq4Off v n < nq4Off v i := nq4Off_lt_of_lt (by omega) hi (by linarith)
    have hmin (i : Nat) (hi : i ≤ n + 1) : nq4Off v n ≤ nq4Off v i ∧ (nq4Off v n = nq4Off v i → n ≤ i) := by
      obtain hi' | rfl | rfl : i < n ∨ i = n ∨ i = n + 1 := by omega
      · exact ⟨(hfar i hi').le, fun h => absurd h (hfar i hi').ne⟩
      · exact ⟨le_rfl, fun _ => le_rfl⟩
      · exact ⟨hsame.ge, fun _ => Nat.le_succ n⟩
    dsimp only
    split
    case isTrue heven => exact ⟨Nat.le_succ n, fun i hi => ⟨(hmin i hi).1, fun _ _ => heven⟩⟩
    case isFalse hodd => exact ⟨le_rfl, fun i hi => ⟨hsame ▸ (hmin i hi).1, fun _ _ => by omega⟩⟩
  case inr.inr =>
    rw [compare_gt_iff_gt.2 hgt]
    refine ⟨le_rfl, fun i hi => ?_⟩
    obtain hi | rfl := Nat.le_succ_iff.1 hi
    · have hle : nq4Off v n ≤ nq4Off v i := by
        obtain hi | rfl := hi.lt_or_eq
        · exact (nq4Off_lt_of_lt (by omega) hi (by linarith)).le
        · exact le_rfl
      have := (nq4Off_succ_lt hn hgt).trans_le hle
      exact ⟨this.le, fun h => absurd h this.ne⟩
    · exact ⟨le_rfl, fun _ h => absurd rfl h⟩

/-- The search for the magnitude of `nq4Code`. -/
def nq4Index (m : Nat) (e : Int) (n : Nat) : Nat :=
  (List.range n).foldl (fun acc k =>
    match cmp512 m 1 e (nq4Mag k + nq4Mag (k + 1)) with
    | .gt => k + 1
    | .eq => if k % 2 = 0 then k else k + 1
    | .lt => acc) 0

theorem nearestUpTo_nq4Index (m : Nat) (e : Int) {n : Nat} (hn : n ≤ 7) :
    NearestUpTo (256 * m * 2 ^ e) n (nq4Index m e n) := by
  induction n with
  | zero => exact ⟨le_rfl, fun i hi => by rw [Nat.le_zero.1 hi]; exact ⟨le_rfl, fun _ h => absurd rfl h⟩⟩
  | succ n ih =>
    have h := (ih (by omega)).step (by omega)
    rw [← cmp512_eq] at h
    rw [nq4Index, List.range_succ, List.foldl_append]
    exact h

/-- R39: the code that a value takes is below 16, and is the nearest. -/
theorem nq4Nearest_nq4Code (v : FVal) : nq4Code v.exact < 16 ∧ Nq4Nearest v (nq4Code v.exact) := by
  match v with
  | .nan => exact ⟨by decide, rfl⟩
  | .inf n => cases n <;> exact ⟨by decide, rfl⟩
  | .fin n m e =>
    obtain ⟨hle, hnear⟩ := nearestUpTo_nq4Index m e le_rfl
    have hcode : nq4Code (FVal.fin n m e).exact = if n then nq4Index m e 7 + 8 else nq4Index m e 7 := rfl
    generalize nq4Index m e 7 = i at hle hnear hcode
    have hmod : nq4Code (FVal.fin n m e).exact % 8 = i := by rw [hcode]; split <;> omega
    have hdiv : nq4Code (FVal.fin n m e).exact / 8 = num n := by rw [hcode]; cases n <;> simp [num] <;> omega
    refine ⟨by rw [hcode]; split <;> omega, hdiv, fun j hj => ?_⟩
    rw [hmod]
    obtain ⟨hoff, htie⟩ := hnear j (by omega)
    exact ⟨hoff, fun h hne => by have := htie h hne; omega⟩

end Sys2Proof.Machine
end

section
/-! PROOFS. Conversions between formats (02_numbers.md, R28, R36, R39): the second part of O36, and what `vp.fimm` needs. A
conversion to an integer rounds a quotient; a BF16 pattern keeps its bits in FP32, whose exponents are the same. -/

namespace Sys2Proof.Machine

/-! ### Into an integer format (R28, R36) -/

/-- The integer that a rounding takes: near the value, or the next toward zero. -/
theorem convInt_fin (w : Nat) (rz n : Bool) (m : Nat) (e : Int) :
    let v := (FVal.fin n m e).rat
    ∃ q : Int, convInt w true rz (FVal.fin n m e).exact = max (-2 ^ (w - 1)) (min (2 ^ (w - 1) - 1) q)
      ∧ (rz = false → |v - q| ≤ 1 / 2 ∧ (|v - q| = 1 / 2 → q % 2 = 0))
      ∧ (rz = true → |(q : ℚ)| ≤ |v| ∧ |v| < |(q : ℚ)| + 1 ∧ 0 ≤ q * v) := by
  intro v
  obtain ⟨N, D, hD, hquot, hround⟩ := roundUnits_eq_roundQuot m e 0 one_pos
  have hv : v = (if n then -1 else 1) * (N / D : ℚ) := by
    rw [hquot, Nat.cast_one, div_one, sub_zero, ← mul_assoc]
    rfl
  refine ⟨if n then -(roundQuot rz N D : Int) else roundQuot rz N D, ?_, ?_, ?_⟩
  · rw [← hround rz]
    exact satInt_eq w true _
  · rintro rfl
    have hnear := roundQuot_rne N hD
    cases n
    · rw [hv, if_neg Bool.false_ne_true, if_neg Bool.false_ne_true, one_mul]
      exact ⟨hnear.1, fun h => by exact_mod_cast hnear.2 h⟩
    · rw [hv, if_pos rfl, if_pos rfl, neg_one_mul, Int.cast_neg, Int.cast_natCast, ← neg_sub', abs_neg]
      exact ⟨hnear.1, fun h => by have := hnear.2 h; omega⟩
  · rintro rfl
    have hbelow := roundQuot_rz N D
    have hpos : (0 : ℚ) ≤ N / D := by positivity
    have habs : |v| = N / D := by
      rw [hv]
      cases n <;> simp [abs_of_nonneg hpos]
    have hq : |((if n then -(roundQuot true N D : Int) else roundQuot true N D : Int) : ℚ)| = roundQuot true N D := by
      cases n <;> simp
    rw [habs, hq]
    refine ⟨hbelow.1, hbelow.2, ?_⟩
    rw [hv]
    cases n <;> simp <;> positivity

/-- What a conversion to a signed format gives lies in its range. -/
theorem toInt_convInt {w : Nat} (hw : 0 < w) (rz : Bool) (v : XVal) :
    (BitVec.ofInt w (convInt w true rz v)).toInt = convInt w true rz v := by
  have hpos : (0 : Int) < 2 ^ (w - 1) := by positivity
  have hrange : -2 ^ (w - 1) ≤ convInt w true rz v ∧ convInt w true rz v < 2 ^ (w - 1) := by
    match v with
    | .nan => exact ⟨by rw [convInt]; omega, hpos⟩
    | .inf n =>
      rw [convInt, intMin, intMax]
      push_cast
      split <;> constructor <;> simp
    | .val n num den e =>
      rw [convInt, satInt_eq, if_pos rfl, if_pos rfl]
      omega
  exact BitVec.toInt_ofInt_eq_self hw hrange.1 hrange.2

/-! ### Into a float format (R28, R39) -/

theorem FFmt.signed_lt (f : FFmt) (n : Bool) {mag : Nat} (h : mag < 2 ^ (f.width - 1)) : f.signed n mag < 2 ^ f.width := by
  have hw : 2 ^ f.width = 2 ^ (f.width - 1) * 2 := by cases f <;> rfl
  unfold FFmt.signed
  split <;> omega

theorem FFmt.conv_lt (f : FFmt) (rz : Bool) (v : XVal) : f.conv rz v < 2 ^ f.width := by
  have hmax : f.maxFin < 2 ^ (f.width - 1) := by cases f <;> decide
  match v with
  | .nan =>
    rw [FFmt.conv]
    cases f <;> decide
  | .inf n => exact f.signed_lt n (by cases f <;> decide)
  | .val n num den e =>
    rw [FFmt.conv]
    split
    · exact f.signed_lt n hmax
    · exact f.signed_lt n ((min_le_right ..).trans_lt hmax)

/-- The pattern of an infinity. -/
theorem FFmt.decode_eq_inf {f : FFmt} {x : Nat} {n : Bool} (hx : x < 2 ^ f.width) (h : f.decode x = .inf n) :
    x = f.signed n f.infOrMax := by
  have hmag : n = decide (x / 2 ^ (f.width - 1) % 2 = 1) ∧ x % 2 ^ (f.width - 1) = f.infOrMax := by
    obtain hinf | ⟨hinf, -⟩ := f.first_nonfinite
    all_goals
      simp only [FFmt.decode, hinf] at h
      split at h
    case inl.isTrue hi =>
      cases h
      exact ⟨rfl, by rw [hi, FFmt.infOrMax, hinf, Option.getD_some]⟩
    case inr.isTrue => cases h
    case inl.isFalse =>
      split at h
      · cases h
      · split at h <;> cases h
    case inr.isFalse => split at h <;> cases h
  obtain ⟨rfl, hmag⟩ := hmag
  rw [← hmag, f.signed_mod hx]

theorem log2_mul_two_pow {m : Nat} (hm : m ≠ 0) (k : Nat) : Nat.log2 (m * 2 ^ k) = Nat.log2 m + k := by
  simp only [Nat.log2_eq_log_two]
  induction k with
  | zero => simp
  | succ k ih => rw [pow_succ, ← mul_assoc, Nat.log_mul_base one_lt_two (by positivity), ih, add_assoc]

section
variable {f : FFmt} {mag m k : Nat} {e : Int} (h : f.Canon mag (m * 2 ^ k) (e - k))
include h

theorem FFmt.Canon.roundMag_scaled (rz : Bool) : f.roundMag rz m 1 e = mag := by
  by_cases hm : m = 0
  · rw [← h.roundMag_eq rz, FFmt.roundMag, FFmt.roundMag, if_pos hm, if_pos (by rw [hm, zero_mul])]
  · have hne : m * 2 ^ k ≠ 0 := by positivity
    have hlog : ratLog (m * 2 ^ k) 1 = ratLog m 1 + k := by
      rw [ratLog_one hne, ratLog_one hm, log2_mul_two_pow hm, Nat.cast_add]
    have hunit : max (e + ratLog m 1 - f.frac) f.qmin = e - k := by
      rw [← h.unit_eq hne, hlog]
      congr 1
      omega
    have hround : roundUnits rz m 1 e (e - k) = m * 2 ^ k := by
      rw [roundUnits, if_pos (by omega), roundQuot_one, sub_sub_cancel, Int.toNat_natCast]
    rw [FFmt.roundMag, if_neg hm]
    dsimp only
    rw [hunit, hround, h.mag_eq]

theorem FFmt.Canon.not_above_scaled (hle : mag ≤ f.maxFin) : f.above m 1 e = false := by
  obtain ⟨M, E, hmax, hcanon⟩ := f.decode_maxFin
  obtain ⟨hE, hM⟩ := h.mono hcanon hle
  rw [FFmt.above, hmax]
  dsimp only
  split
  case isTrue he =>
    rw [show (E - (e - k)).toNat = (E - e).toNat + k by omega, pow_add, ← mul_assoc] at hM
    simpa using Nat.le_of_mul_le_mul_right hM (by positivity)
  case isFalse he =>
    have hk : 2 ^ k = 2 ^ (e - E).toNat * 2 ^ (E - (e - k)).toNat := by
      rw [← pow_add]
      congr 1
      omega
    rw [hk, ← mul_assoc] at hM
    simpa using Nat.le_of_mul_le_mul_right hM (by positivity)

end

/-- A value m × 2^e whose form m·2^k × 2^(e − k) is a number of the format converts to that number. -/
theorem FFmt.Canon.conv_scaled {f : FFmt} {mag m k : Nat} {e : Int} (h : f.Canon mag (m * 2 ^ k) (e - k))
    (hle : mag ≤ f.maxFin) (rz n : Bool) : f.conv rz (.val n m 1 e) = f.signed n mag := by
  rw [FFmt.conv, h.not_above_scaled hle, if_neg Bool.false_ne_true, h.roundMag_scaled, min_eq_left hle]

/-- A number of BF16 in FP32: the same exponent, 16 more bits of fraction. -/
theorem FFmt.Canon.bf16_to_fp32 {mag m : Nat} {e : Int} (h : FFmt.bf16.Canon mag m e) :
    FFmt.fp32.Canon (mag * 2 ^ 16) (m * 2 ^ 16) (e - 16) := by
  obtain ⟨hq, hlt, hnormal, hmag⟩ := h
  simp only [FFmt.qmin, FFmt.frac, FFmt.bias] at hq hlt hnormal hmag
  constructor <;> simp only [FFmt.qmin, FFmt.frac, FFmt.bias] <;> omega

theorem bf16Imm_bf16 {q : Nat} (hq : q < 2 ^ 16) :
    bf16Imm .bf16 q = if FFmt.bf16.decode q = .nan then 0x7FC0 else q := by
  rw [bf16Imm]
  match h : FFmt.bf16.decode q with
  | .nan => rfl
  | .inf n => exact (FFmt.decode_eq_inf hq h).symm
  | .fin n m e => rw [← h, (FFmt.round_decode .bf16 false hq h).2, if_neg (by rw [h]; nofun)]

theorem bf16Imm_fp32 {q : Nat} (hq : q < 2 ^ 16) :
    bf16Imm .fp32 q = if FFmt.bf16.decode q = .nan then 0x7FC00000 else q * 2 ^ 16 := by
  have hsigned (n : Bool) (mag : Nat) : FFmt.fp32.signed n (mag * 2 ^ 16) = FFmt.bf16.signed n mag * 2 ^ 16 := by
    cases n
    · rfl
    · exact (Nat.add_mul mag (2 ^ 15) (2 ^ 16)).symm
  rw [bf16Imm]
  match h : FFmt.bf16.decode q with
  | .nan => rfl
  | .inf n => 
    rw [if_neg nofun, FFmt.decode_eq_inf hq h, ← hsigned]
    rfl
  | .fin n m e =>
    obtain ⟨hn, hle, hcanon⟩ := FFmt.decode_eq_fin h
    have hfit : q % 2 ^ 15 * 2 ^ 16 ≤ FFmt.fp32.maxFin := (Nat.mul_le_mul_right _ hle).trans (by decide)
    rw [if_neg nofun, FVal.exact, hcanon.bf16_to_fp32.conv_scaled hfit, hsigned, hn, FFmt.signed_mod .bf16 hq]

/-! ### One element (R36, R183) -/

/-- The float format of a vc code from 3 to 6. -/
def vcFmt (x : BitVec 3) : FFmt := [FFmt.fp8, .fp16, .bf16, .fp32].getD (x.toNat - 3) .fp8

theorem cvtFmt_int {x : BitVec 3} (h : x.toNat < 3) : efmtFloat (cvtFmt x) = none
    ∧ efmtWidth (cvtFmt x) = cvtWidth x ∧ efmtSigned (cvtFmt x) = true := by
  revert x
  decide

theorem cvtFmt_float {x : BitVec 3} (h : 3 ≤ x.toNat) (h7 : x ≠ 7) : efmtFloat (cvtFmt x) = some (vcFmt x) := by
  revert x
  decide

theorem ne_seven {x : BitVec 3} (h : x.toNat < 3) : x ≠ 7 := by
  rintro rfl
  exact absurd h (by decide)

theorem cvtWidth_pos (x : BitVec 3) : 0 < cvtWidth x := by
  revert x
  decide

theorem elemOf_int {x : BitVec 3} (h : x.toNat < 3) (rz : Bool) (v : XVal) :
    elemOf (cvtFmt x) rz v = intBits (cvtWidth x) (convInt (cvtWidth x) true rz v) := by
  obtain ⟨hfloat, hwidth, hsigned⟩ := cvtFmt_int h
  rw [elemOf, hfloat, hwidth, hsigned]

theorem elemOf_float {x : BitVec 3} (h : 3 ≤ x.toNat) (h7 : x ≠ 7) (rz : Bool) (v : XVal) :
    elemOf (cvtFmt x) rz v = (vcFmt x).conv rz v := by
  rw [elemOf, cvtFmt_float h h7]

theorem elemExact_int {y : BitVec 3} (h : y.toNat < 3) (p : Nat) :
    elemExact (cvtFmt y) p = intExact (BitVec.ofNat (cvtWidth y) p).toInt := by
  obtain ⟨hfloat, hwidth, hsigned⟩ := cvtFmt_int h
  rw [elemExact, hfloat, hwidth, hsigned, ← bitsInt_signed]

theorem elemExact_float {y : BitVec 3} (h : 3 ≤ y.toNat) (h7 : y ≠ 7) (p : Nat) :
    elemExact (cvtFmt y) p = ((vcFmt y).decode p).exact := by
  rw [elemExact, cvtFmt_float h h7]

/-- A signed integer converted to a signed integer format is clamped. -/
theorem convInt_intExact (w : Nat) (rz : Bool) (i : Int) :
    convInt w true rz (intExact i) = max (-2 ^ (w - 1)) (min (2 ^ (w - 1) - 1) i) := by
  have hsign : (if decide (i < 0) = true then -((i.natAbs : Nat) : Int) else (i.natAbs : Nat)) = i := by
    simp only [decide_eq_true_eq]
    split <;> omega
  rw [intExact, convInt, roundUnits_self, hsign, satInt_eq, if_pos rfl, if_pos rfl]

section
variable {rz : Bool} {x y : BitVec 3} {p : Nat}

theorem cvtElem_eq (hx : x ≠ 7) (hy : y ≠ 7) :
    cvtElem rz x y p = elemOf (cvtFmt x) rz (elemExact (cvtFmt y) p) := by
  rw [cvtElem, if_neg hy, if_neg hx]

/-- The integer that a conversion to an integer gives. -/
theorem toInt_cvtElem (hx : x.toNat < 3) (hy : y ≠ 7) : (BitVec.ofNat (cvtWidth x) (cvtElem rz x y p)).toInt
    = convInt (cvtWidth x) true rz (elemExact (cvtFmt y) p) := by
  rw [cvtElem_eq (ne_seven hx) hy, elemOf_int hx, ofNat_intBits, toInt_convInt (cvtWidth_pos x)]

theorem cvtElem_float (hx : 3 ≤ x.toNat) (hx7 : x ≠ 7) (hy : y ≠ 7) :
    cvtElem rz x y p = (vcFmt x).conv rz (elemExact (cvtFmt y) p) :=
  (cvtElem_eq hx7 hy).trans (elemOf_float hx hx7 ..)

theorem cvtElem_of_q4 (hx : 3 ≤ x.toNat) (hx7 : x ≠ 7) (hp : p < 16) :
    cvtElem rz x 7 p = (vcFmt x).conv rz (.val (decide (8 ≤ p)) (nq4Mag (p % 8)) 1 (-8)) := by
  have hneg : decide (nq4Int p < 0) = decide (8 ≤ p) ∧ (nq4Int p).natAbs = nq4Mag (p % 8) := by
    revert p
    decide
  rw [cvtElem, if_pos rfl, elemOf_float hx hx7, hneg.1, hneg.2]

theorem cvtElem_to_q4 (hy : 3 ≤ y.toNat) (hy7 : y ≠ 7) : cvtElem rz 7 y p = nq4Code ((vcFmt y).decode p).exact := by
  rw [cvtElem, if_neg hy7, if_pos rfl, elemExact_float hy hy7]

end

end Sys2Proof.Machine
end

section
/-! PROOFS. Convert, permute and reduce words (08_vector.md, R183, R184, R186): O36. The conversions of an element and the folds are
settled before; here they stand in the lanes of a register. -/

namespace Sys2Proof.Machine

theorem wWidth_le (wc : BitVec 2) : wWidth wc ≤ 64 := by
  revert wc
  decide

/-- R184: a number in every lane. -/
theorem fills_of_wv {ins : Instr} {s : State} {d : BitVec 5} {w r : Nat} (hr : r < 2 ^ w)
    (hi : exec ins s = .next (s.wv d (lanesOf w (fun _ => r)))) :
    r < 2 ^ w ∧ ∃ v, GivesV ins s d v ∧ ∀ k, k < 512 / w → (Row.lane w v k).toNat = r :=
  ⟨hr, _, .of_wv hi, fun k hk => by rw [lane_lanesOf _ hk, BitVec.toNat_ofNat, Nat.mod_eq_of_lt hr]⟩

/-- R183: the lanes of a convert that keeps or widens, and of one that narrows. -/
theorem vcCvt_gives (s : State) (i : BitVec 2) (d a : BitVec 5) (r : BitVec 1) (p x y : BitVec 3) :
    let wd := cvtWidth x
    let ws := cvtWidth y
    let lc := 512 / max wd ws
    let cv (k : Nat) : BitVec wd := BitVec.ofNat wd (cvtElem (r == 1) x y (Row.lane ws (s.rv a) k).toNat)
    ∃ w, GivesVLate (.vcCvt i d a r p x y) s d w 3 ∧ ∀ k, k < 512 / wd → Row.lane wd w k =
      if ws ≤ wd then cv (p.toNat * lc + k)
      else if p.toNat * lc ≤ k ∧ k < p.toNat * lc + lc then cv (k - p.toNat * lc) else Row.lane wd (s.rv d) k := by
  intro wd ws lc cv
  have hi : exec (.vcCvt i d a r p x y) s = .next ((s.wv d (if wd < ws then
      lanesOf wd (fun k => if p.toNat * lc ≤ k ∧ k < p.toNat * lc + lc then
          cvtElem (r == 1) x y (Row.lane ws (s.rv a) (k - p.toNat * lc)).toNat else laneN wd (s.rv d) k)
      else lanesOf wd (fun k => cvtElem (r == 1) x y (Row.lane ws (s.rv a) (p.toNat * lc + k)).toNat))).late (.v d) 3) := rfl
  obtain hw | hw := lt_or_ge wd ws
  · rw [if_pos hw] at hi
    refine lanes_of_wv_late hi fun k => ?_
    rw [if_neg (not_le.2 hw), apply_ite (BitVec.ofNat wd), laneN, BitVec.ofNat_toNat, BitVec.setWidth_eq]
  · rw [if_neg (not_lt.2 hw)] at hi
    refine lanes_of_wv_late hi fun k => ?_
    rw [if_pos hw]

section
variable (s : State) (i : BitVec 2) (d a : BitVec 5) (t : BitVec 3)

/-- R39: the immediate of `vp.fimm` in each type. -/
theorem vpFimm_gives :
    let q := (s.rx a).toNat % 2 ^ 16
    let V := FFmt.bf16.decode q
    let fills (w : Nat) (r : Nat) : Prop := r < 2 ^ w ∧ ∃ v, GivesV (.vpFimm i d a t) s d v
      ∧ ∀ k, k < 512 / w → (Row.lane w v k).toNat = r
    (t = 0 → fills 16 (if V = .nan then 0x7FC0 else q)) ∧ (t = 1 → fills 16 (FFmt.fp16.conv false V.exact))
    ∧ (t = 2 → fills 32 (if V = .nan then 0x7FC00000 else q * 2 ^ 16)) ∧ (t = 3 → fills 8 (FFmt.fp8.conv false V.exact))
    ∧ (t = 4 → ∃ r, fills 4 r ∧ Nq4Nearest V r) := by
  intro q V fills
  have hq : q < 2 ^ 16 := Nat.mod_lt _ (by decide)
  refine ⟨?_, ?_, ?_, ?_, ?_⟩ <;> rintro rfl
  · exact bf16Imm_bf16 hq ▸ fills_of_wv (FFmt.conv_lt ..) rfl
  · exact fills_of_wv (FFmt.conv_lt ..) rfl
  · exact bf16Imm_fp32 hq ▸ fills_of_wv (FFmt.conv_lt ..) rfl
  · exact fills_of_wv (FFmt.conv_lt ..) rfl
  · obtain ⟨hlt, hnear⟩ := nq4Nearest_nq4Code V
    exact ⟨nq4Code V.exact, fills_of_wv hlt rfl, hnear⟩

end

/-- Settles O36: the moves lane by lane, one element by its two formats, and the folds by their lists. -/
theorem convertPermuteAndReduceWords : Obligations.ConvertPermuteAndReduceWords := by
  refine ⟨fun s i d a b r p x y wc t n => ?moves, fun rz x y p hp => ?element, fun s i d a t f wc => ?reduce⟩
  case moves =>
    intro wd ws lc S A lanes cv
    have hself (w : Nat) (z : BitVec w) : BitVec.ofNat w z.toNat = z := by rw [BitVec.ofNat_toNat, BitVec.setWidth_eq]
    refine ⟨vcCvt_gives s i d a r p x y, lanes_of_wv rfl fun k => hself ..,
      lanes_of_wv rfl fun k => BitVec.ofNat_toNat .., ?get, lanes_of_wv rfl fun k => ?put, lanes_of_wv rfl fun k => ?sel,
      ?rot, vpFimm_gives s i d a t⟩
    case get =>
      have hsext (z : BitVec S) : sextN S (word z.toNat) = z.signExtend 64 := by
        rw [sextN_eq, word, BitVec.ofNat_toNat, BitVec.setWidth_setWidth_of_le _ (wWidth_le wc), BitVec.setWidth_eq]
      exact hsext _ ▸ .of_wx rfl
    case put => rw [apply_ite (BitVec.ofNat S), BitVec.ofNat_toNat, laneN, hself]
    case sel => rw [apply_ite (BitVec.ofNat S), laneN, laneN, hself, hself]
    case rot =>
      refine ⟨_, .of_wv rfl, fun j hj => ?_⟩
      rw [byte_ofBytes _ hj, bits_low]
      rfl
  case element =>
    intro r wd lo hi out j fmt V
    refine ⟨fun hx hy => ?_, fun hx hy hy7 => ?_, fun hx hx7 hy => ?_, fun hx hx7 hy hy7 => ?_, fun hx hx7 hy => ?_,
      fun hx hy hy7 => ?_⟩
    · rw [← convInt_intExact wd rz j, ← elemExact_int hy p]
      exact toInt_cvtElem hx (ne_seven hy)
    · have hout : out = convInt wd true rz V.exact := elemExact_float hy hy7 p ▸ toInt_cvtElem hx hy7
      rw [hout]
      match V with
      | .nan => rfl
      | .inf n => cases n <;> simp [FVal.exact, convInt, intMin, intMax, lo, hi]
      | .fin n m e => exact convInt_fin wd rz n m e
    · exact (cvtElem_float hx hx7 (ne_seven hy)).trans (congrArg _ (elemExact_int hy p))
    · exact (cvtElem_float hx hx7 hy7).trans (congrArg _ (elemExact_float hy hy7 p))
    · subst hy
      exact cvtElem_of_q4 hx hx7 hp
    · subst hx
      have hr : r = nq4Code V.exact := cvtElem_to_q4 hy hy7
      rw [hr]
      exact nq4Nearest_nq4Code V
  case reduce =>
    intro W val F x P
    refine ⟨?sum, ?min, ?max, .of_wx rfl, ?fmin, ?fmax, ?flags, ?count⟩
    case sum =>
      obtain ⟨z, l, hl, hgives⟩ := GivesX.of_vrOp (ins := .vrSum i d a t) (s := s) (fun u v => u + v) rfl
      have hsum : l.foldl (fun u v => u + v) z = ((List.range (512 / W)).map val).sum := by
        rw [show (List.range (512 / W)).map val = z :: l from hl, List.sum_eq_foldl]
        simp
      exact hsum ▸ hgives
    case min => exact vrOp_pick id min (fun u v => ⟨min_choice u v, min_le_left u v, min_le_right u v⟩) rfl
    case max =>
      exact vrOp_pick OrderDual.toDual max (fun u v => ⟨max_choice u v, le_max_left u v, le_max_right u v⟩) rfl
    case fmin =>
      exact vrPick_gives FVal.place (R := fun u v => u.le v = true) false (fun u v hu hv => (FVal.le_iff_place hu hv).2)
        (fun u v => fPick_min F) rfl
    case fmax =>
      exact vrPick_gives (OrderDual.toDual ∘ FVal.place) (R := fun u v => v.le u = true) true
        (fun u v hu hv => (FVal.le_iff_place hv hu).2) (fun u v => fPick_max F) rfl
    case flags =>
      intro hd
      have hany : (P != 0) = decide (P ≠ 0) := by
        rw [bne, beq_eq_decide, decide_not]
      have hall : (List.range (512 / wWidth wc)).all (fun k => P.getLsbD k)
          = decide (∀ k < 512 / wWidth wc, P.getLsbD k = true) := by
        rw [Bool.eq_iff_iff, List.all_eq_true, decide_eq_true_eq]
        simp only [List.mem_range]
      exact ⟨hany ▸ .of_wc hd rfl, hall ▸ .of_wc hd rfl⟩
    case count => exact popCount_eq P.toNat 128 ▸ .of_wx rfl

end Sys2Proof.Machine
end
